-- ==== Sys2Proof/Word.lean ====
section
/-! DEFINITION. The word types of the model. -/

namespace Sys2Proof

/-- One byte. Bits are numbered from 0 at the least significant bit (R9). -/
abbrev Byte := BitVec 8

/-- One 64-bit register or count. -/
abbrev Word := BitVec 64

/-- A sparse table: pairs of a key and a value, keys strictly rising, no pair that holds the value an
unlisted key reads as. -/
abbrev Tbl (α : Type) := List (Nat × α)

end Sys2Proof
end

