-- ==== Sys2Proof/Syntax.lean ====
section
/-! DEFINITION. The commands: one constructor of Instr for each row of the opcode table, with its operands. -/

namespace Sys2Proof

/-- Whose access a register access is: the physical function's, a virtual function's (R186), or the
register port's, for Rumos and the management core (R15). -/
inductive View where
  | pf
  | vf (n : Fin 64)
  | port
  deriving DecidableEq, Repr

/-- Which part of a register an access touches (R26). -/
inductive Half where
  | both | low | high
  deriving DecidableEq, Repr

/-- An access to a register whose offset is known: a read, or a write of the given data. The data of a 4-byte
access stands in the addressed half. -/
structure RegOp where
  view : View := .pf
  data : Option Word := none
  half : Half := .both
  deriving DecidableEq, Repr

/-- An access to BAR0 by offset, of any size and alignment (R26). -/
structure Access where
  view : View := .pf
  off : BitVec 22 := 0
  size : Nat := 8
  data : Option Word := none
  deriving DecidableEq, Repr

/-- What host software has written into a function's configuration space and MSI-X capability. -/
structure FnCfg where
  fn : Nat := 0
  bme : Bool := true
  d3 : Bool := false
  pasid : Bool := false
  priAlloc : Nat := 0
  atomicEn : Bool := false
  msixEn : Bool := false
  msixMask : Bool := false
  deriving DecidableEq, Repr

/-- What the world outside does before a command reads or writes memory outside the device: bytes stored by
hosts and accelerators at memory keys, ranges (first key, length) whose accesses end in an error, whether an error of
a tray read is ERR POISON (R194), and Inkwell lines
whose bits have been upset, by line key, 1 for an error the code corrects and 2 for one it detects (R320); and the
answers to ATS Translation Requests for pinned memory: function, 4 KiB page, translated page, write access granted (R170); whether the
cipher's two pipelines disagree on the packet at hand (R306); and what host software has written into configuration
space: functions' bits, the number of virtual functions enabled (R185), and Cache_Enable and Mem_Enable of the CXL DVSEC (R187). -/
structure Env where
  stores : List (Nat × Byte) := []
  errs : List (Nat × Nat) := []
  poison : Bool := true
  ecc : List (Nat × Nat) := []
  xlate : List (Nat × Nat × Nat × Bool) := []
  cipherFault : Bool := false
  cfg : List FnCfg := []
  vfs : Option Nat := none
  cxl : Option (Bool × Bool) := none
  deriving DecidableEq, Repr

/-- A fabric packet: the 64-byte header of Table 6.1 and its payload, tag included. -/
structure Packet where
  hdr : BitVec 512 := 0
  payload : List Byte := []
  deriving DecidableEq, Repr

/-- A Tray Link message: the header slot of Table 9.6 and its data. -/
structure TrayMsg where
  hdr : BitVec 128 := 0
  data : List Byte := []
  deriving DecidableEq, Repr

/-- A link unit as received on a fabric port: the flit and its link tag (R220). -/
structure LinkUnit where
  data : BitVec 512 := 0
  tag : Word := 0
  deriving DecidableEq, Repr

/-- What an ATS Translation Completion grants (R175). -/
inductive AtsAnswer where
  /-- an error completion -/
  | error
  /-- no access -/
  | none
  /-- read access, write access, page size and translated address -/
  | grant (read write : Bool) (size : Nat) (addr : Word)
  deriving DecidableEq, Repr

/-- A host access to Inkwell: function, address, write data or the length of a read, and whether the access
writes with poison. -/
structure MemAccess where
  fn : Fin 64 := 0
  addr : Word := 0
  len : Nat := 64
  data : Option (List Byte) := none
  poison : Bool := false
  deriving DecidableEq, Repr

/-- What link training found on the host link (R206). -/
structure HostLink where
  cxlCache : Bool := false
  cxlMem : Bool := false
  flit : Bool := false
  width : BitVec 5 := 16
  rate : BitVec 4 := 0
  deriving DecidableEq, Repr

/-- What SPD reading and training found, per channel: bytes of its DIMM (0 for none), four ranks, trained. -/
structure Dimms where
  chans : List (Nat × Bool × Bool) := []
  deriving DecidableEq, Repr

/-- An access to the BAR4 layout: a doorbell write, or a read; its offset, and the tray port it came from, or a host
function. -/
structure Doorbell where
  read : Bool := false
  off : BitVec 22 := 0
  size : Nat := 8
  tray : Option (Fin 4) := none
  view : View := .pf
  deriving DecidableEq, Repr

/-- Element types (R116). -/
inductive DType where
  | fp32 | bf16 | fp16 | e4m3 | e5m2 | mx4 | mx5 | int32 | int64
  deriving DecidableEq, Repr

/-- Reduction operators (R116). -/
inductive Rop where
  | sum | max | min | and | or | xor
  deriving DecidableEq, Repr

/-- The commands of the block. -/
inductive Instr where
  /-- R15: A write through BAR0 or the register port to a register with no row of its own reaches the target block and acts under its access type -/
  | registerWrite (a : Access) (env : Env)
  /-- R61: A write to an ST field writes its shadow, sets UNSIGNED and moves the Capo state to STAGED, or is ignored in a busy state -/
  | shadowWrite (a : Access)
  /-- R53: An access to RLG_TAB_DATA reads or stages the selected Tablature entry and advances INDEX -/
  | rlgTabDataAccess (r : RegOp)
  /-- R157: An access to SCH_TBL_DATA reads or stages the selected scheduling table entry and advances INDEX -/
  | schTblDataAccess (r : RegOp)
  /-- R235: An access to RTE_TBL_DATA reads or stages the selected route table entry and advances INDEX -/
  | rteTblDataAccess (r : RegOp)
  /-- R253: An access to CHD_DEF_DATA reads or stages a word of a slot record, creating a staged record if needed, and advances WORD -/
  | chdDefDataAccess (r : RegOp)
  /-- R325: An access to INK_LAYOUT_DATA reads or stages a word of an Inkwell region record and advances the word and index -/
  | inkLayoutDataAccess (r : RegOp)
  /-- R338: An access to PTN_LAYOUT_DATA reads or stages a word of a partition record and advances the word and record -/
  | ptnLayoutDataAccess (r : RegOp)
  /-- R17: When the escalation queue has room again, the block posts its held record and a summary record carrying the count -/
  | errorQueueSpace
  /-- R32: A write to RLG_SNAP copies RLG_TIME and RLG_EPOCH from one Ruling edge into the snapshot registers -/
  | rlgSnap
  /-- R44: A write to RLG_SET loads Ruling time and epoch when the device is SOURCE and not yet served, and is otherwise ignored -/
  | rlgSet (time : Word)
  /-- R31: RLG_TIME wraps from all ones to 0 and RLG_EPOCH increments on the same edge -/
  | epochWrap
  /-- R222: At least every 128 ns, or when a replay request or 1,024 acknowledgements fall due, a port sends a link control flit carrying beacon and credit -/
  | lctlSend (port : Fin 16)
  /-- R222: A received link control flit updates credit limits, acknowledges units, requests replay and delivers the neighbour's beacon -/
  | lctl (port : Fin 16) (d : BitVec 512)
  /-- R34: A port that has seen no valid beacon for 200 ns declares Ruling loss, counts it and reports it to the router -/
  | rulingLoss (port : Fin 16)
  /-- R35: Every 1 µs each up fabric port sends a timestamp flit to its neighbour -/
  | timestampFlitSend (port : Fin 16) (fine : BitVec 13)
  /-- R444: A timestamp flit from the parent yields an offset and a servo update, stepping or slewing and moving the lock state -/
  | tstamp (port : Fin 16) (d : BitVec 512) (fine : BitVec 13)
  /-- R38: HOLD_ERR passes HOLDOVER_LIMIT, the device enters STALE and any armed Capo is disarmed -/
  | holdoverLimitExceeded
  /-- R49: A port's current fret changes, which samples the queue histograms and, on the clock port, takes a congestion map record -/
  | fretBoundary (port : Fin 16)
  /-- R153: On a port without a Tablature, every IDLE_PERIOD ns the queues are sampled and a timed congestion map record is taken -/
  | idlePeriodSample (port : Fin 16)
  /-- R154: A read of SCH_HIST_DATA0 snapshots and clears the selected histogram -/
  | histRead (v : View)
  /-- R56: CAPO_CTL LOAD starts reading a Score image from the source into the staging area, or is refused as BUSY, NO_CORE or LENGTH -/
  | load (v : View) (w : Word)
  /-- R56: When the image read ends, the loader checks it in order, reports LOAD_RESULT and on success fills the shadows -/
  | loadDone (env : Env)
  /-- R73: CAPO_CTL LOAD_FW reads and verifies a firmware image into the firmware region and sets FW_STAGED on success -/
  | loadFw (v : View) (env : Env)
  /-- R60: CAPO_CTL CHECK starts evaluating every consistency check against the stage -/
  | check (v : View)
  /-- R60: The check ends, writes CHECK_FAIL, CHECK_RESULT and DRAIN_MASK, and sets the state PASSED or FAILED -/
  | checkDone
  /-- R63: CAPO_CTL ARM arms the stage at CAPO_APPLY_AT when PASSED, in time and with valid Ruling, and reports ARM_RESULT -/
  | arm (v : View)
  /-- R67: CAPO_CTL DISARM before the apply edge returns the state to PASSED and closes the drain window -/
  | disarm (v : View)
  /-- R67: CAPO_CTL DISCARD copies every running value into its shadow and returns the state to IDLE -/
  | discard (v : View)
  /-- R74: CAPO_CTL STORE writes the running signed Score image to flash as the boot Score, or is refused -/
  | store (v : View)
  /-- R68: CAPO_CTL APPLY_NOW applies a PASSED stage on the next edge while Ruling is FREE or unserved SOURCE -/
  | applyNow (v : View)
  /-- R69: At CAPO_APPLY_AT minus the drain window an armed Capo with a nonzero mask enters DRAINING and holds local packets on masked channels -/
  | drainOpen
  /-- R65: At the apply edge every shadow becomes running, alternate sets and DOWN bits are set, run identity is recorded and in-flight work is treated per Table 3.8 -/
  | capoApply
  /-- R73: After the firmware image is copied into the management core's SRAM the core is released -/
  | fwCopyDone
  /-- R341: The recomputation of DET_FINGERPRINT completes and FP_VALID is set -/
  | fingerprintDone
  /-- R82: A write to a ring's doorbell slot from host or tray starts a scan or sets PENDING, and is counted -/
  | doorbell (d : Doorbell)
  /-- R83: The device reads owned units from the ring, checks phase, UNIT and SEQ, and takes whole entries into the prefetch cache -/
  | ringScan (ring : Fin 16384) (env : Env)
  /-- R87: A scan held by the prefetch limit resumes by itself when launches free space -/
  | scanResume (ring : Fin 16384) (env : Env)
  /-- R84: Every 1 µs, up to 16 times, the device re-reads a torn entry and takes it once whole -/
  | tornReread (ring : Fin 16384) (env : Env)
  /-- R88: RING_INVAL with INVAL ends the ring's scan and discards its unlaunched entries, then sets HELD -/
  | inval (v : View) (w : Word)
  /-- R88: RING_INVAL with RESUME clears HELD and starts a scan -/
  | ringResume (v : View) (w : Word)
  /-- R99: The discard of a ring's unlaunched entries completes and RING_PUBLISHED_HEAD, HELD or DISABLED are set -/
  | ringDiscardDone (ring : Fin 16384)
  /-- R99: RING_CTL ENABLE of a work ring starts it from RING_START, or writes ENABLE_RESULT on refusal -/
  | ringEnable (v : View) (w : Word)
  /-- R99: RING_CTL DISABLE of a work ring discards its unlaunched entries and moves it toward DISABLED -/
  | ringDisable (v : View) (w : Word)
  /-- R100: RING_CTL ENABLE of a completion ring sets RING_CQ_TAIL from RING_START, or writes ENABLE_RESULT on refusal -/
  | cqEnable (v : View) (w : Word)
  /-- R100: RING_CTL DISABLE of a completion ring disables it, or is ignored while a bound work ring is not DISABLED -/
  | cqDisable (v : View) (w : Word)
  /-- R93: A write to RING_CTR sets the counter's VALUE and FAILED and re-evaluates every wait on it -/
  | ringCtrWrite (v : View) (w : Word)
  /-- R97: The device's read of the completion head location returns and frees slots, or faults the completion ring -/
  | cqHeadRead (cq : Fin 16384) (env : Env)
  /-- R97: While launches wait for completion slots the device re-reads the head location every 1 µs -/
  | cqHeadReread (cq : Fin 16384) (env : Env)
  /-- R92: A launched entry finishes: data made visible at its scope, record written if due, counter signalled -/
  | entryComplete (ring : Fin 16384) (pos : BitVec 32) (env : Env)
  /-- R104: A NOP entry launches and completes at launch -/
  | nop (ring : Fin 16384)
  /-- R108: A WRITE entry sends its local source as packets to the peer's region, optionally signalling the peer's counter -/
  | write (ring : Fin 16384)
  /-- R133: A READ entry sends a READ_REQ and places the response data in its local destination -/
  | read (ring : Fin 16384)
  /-- R109: A SEND entry sends its local source as a message into the peer's receive pool -/
  | send (ring : Fin 16384)
  /-- R109: A RECV entry adds its buffer to the tail of its pool, waiting at launch if 1,024 buffers are held -/
  | recv (ring : Fin 16384)
  /-- R110: RECV_FLUSH completes every unmatched RECV of its pool with FLUSHED and then completes -/
  | recvFlush (ring : Fin 16384)
  /-- R111: An atomic fetch-and-add on 8 bytes, local or at the peer, returns the old value to the result address -/
  | atomicFadd (ring : Fin 16384) (env : Env)
  /-- R111: An atomic compare-and-swap on 8 bytes, local or at the peer, returns the old value to the result address -/
  | atomicCas (ring : Fin 16384) (env : Env)
  /-- R199: A FENCE entry completes after every earlier entry, making their writes visible at SYSTEM scope when asked -/
  | fence (ring : Fin 16384)
  /-- R112: CTR_ADD adds VALUE to an event counter and re-evaluates its waits -/
  | ctrAdd (ring : Fin 16384)
  /-- R112: CTR_SET writes an event counter's VALUE and FAILED and re-evaluates its waits -/
  | ctrSet (ring : Fin 16384)
  /-- R113: KEY_REGISTER makes a key valid with its region, rights and generation, or completes malformed -/
  | keyRegister (ring : Fin 16384)
  /-- R113: KEY_INVALIDATE invalidates a key and completes once every access already checked against it has finished -/
  | keyInvalidate (ring : Fin 16384)
  /-- R114: COPY moves LENGTH bytes between local regions one destination line at a time -/
  | copy (ring : Fin 16384) (env : Env)
  /-- R307: CIPHER_VERIFY checks a GCM tag over ciphertext in memory using a connection's key and salt -/
  | cipherVerify (ring : Fin 16384) (env : Env)
  /-- R238: A tree reduction whose rounded result is placed at ROOT only -/
  | chdReduce (ring : Fin 16384) (env : Env)
  /-- R238: A tree reduction whose rounded result is placed on every member -/
  | chdAllreduce (ring : Fin 16384) (env : Env)
  /-- R238: ROOT's source rises to TREE_ROOT and descends to every member -/
  | chdBroadcast (ring : Fin 16384) (env : Env)
  /-- R238: A ring reduce-scatter in N − 1 rounds, each member placing its rounded block -/
  | chdReduceScatter (ring : Fin 16384) (env : Env)
  /-- R238: A ring all-gather in N − 1 rounds placing every block in member order -/
  | chdAllgather (ring : Fin 16384) (env : Env)
  /-- R293: A one-round ring shift of COUNT elements to the next or previous member on the Strum engine -/
  | chdShift (ring : Fin 16384) (env : Env)
  /-- R281: A barrier over the slot's tree carried by Pluck flits -/
  | plkBarrier (ring : Fin 16384)
  /-- R282: A reduction of up to four values over the slot's tree carried by Pluck flits, rounded once at TREE_ROOT -/
  | plkScalar (ring : Fin 16384) (env : Env)
  /-- R289: A Strum permutation run in open, data and close phases over exchange e -/
  | stmPermute (ring : Fin 16384) (env : Env)
  /-- R289: A Strum all-to-all exchange run in open, data and close phases with scheduled and spilled portions -/
  | stmAlltoall (ring : Fin 16384) (env : Env)
  /-- R128: A received WRITE packet is classified, checked and placed or held, and acknowledged under the ACK rules -/
  | writePkt (p : Packet) (env : Env)
  /-- R109: A received SEND packet matches or uses a pool buffer and is placed in order, or is answered NAK RNR -/
  | sendPkt (p : Packet) (env : Env)
  /-- R133: A READ_REQ is executed in order at the responder and answered with READ_RESP packets -/
  | readReq (p : Packet) (env : Env)
  /-- R133: A READ_RESP is accepted in sequence at the requester and placed into the READ destination -/
  | readResp (p : Packet) (env : Env)
  /-- R133: An ATOMIC_REQ is executed once in order at the responder, its value kept in ATOMIC_REC and returned -/
  | atomicReq (p : Packet) (env : Env)
  /-- R133: An ATOMIC_RESP delivers the value read to the requester's result address -/
  | atomicResp (p : Packet) (env : Env)
  /-- R305: When the blot is written, the NAK, completion records, RSIG increment and RECV completion follow -/
  | blotDone (conn : BitVec 20)
  /-- R131: A received ACK advances SND_UNA, updates the selective map, completes entries and runs window control -/
  | ack (p : Packet)
  /-- R445: A received NAK retransmits, starts an RNR or busy wait, ends the connection, or is ignored as stale -/
  | nak (p : Packet)
  /-- R131: The connection's timer expires: RETRY_COUNT rises, RTO doubles and unacknowledged packets are resent, or the connection ends -/
  | retransmitTimer (conn : BitVec 20)
  /-- R131: After the NAK_ARG wait the sender counts the RNR and retransmits from NAK_PSN, or ends the connection past its limit -/
  | rnrWaitEnd (conn : BitVec 20)
  /-- R131: After the CONTEXT_BUSY back-off the sender counts it and retransmits from NAK_PSN, or ends past its limit -/
  | busyWaitEnd (conn : BitVec 20)
  /-- R130: ACK_DELAY after the first unacknowledged packet the receiver sends an ACK -/
  | ackDelayExpiry (conn : BitVec 20)
  /-- R123: CONN_CTL ENABLE moves a connection from RESET to ACTIVE and initialises its state, or writes ENABLE_RESULT -/
  | connEnable (v : View) (w : Word)
  /-- R122: CONN_CTL ABORT ends an ACTIVE connection with DEPENDENCY_FAILED -/
  | connAbort (v : View) (w : Word)
  /-- R122: CONN_CTL RESET moves an ended connection to RESET and records RESET_AT -/
  | connReset (v : View) (w : Word)
  /-- R138: A context fetch returns; waiting packets and operations proceed, or the connection ends on poison or fault -/
  | contextFetchDone (conn : BitVec 20) (env : Env)
  /-- R151: Whenever a port may start a packet it chooses by owner, control queue and scheduler order within the fret guard -/
  | portPacketStart (port : Fin 16) (env : Env)
  /-- R163: A key table entry fetch returns and the waiting access proceeds, or poison is treated as invalid and recorded -/
  | keyFetchDone (slot : BitVec 22) (poison : Bool)
  /-- R162: The key range newly assigned at an apply is written invalid and the partition may launch -/
  | keyRangeInitDone (part : Fin 64)
  /-- R170: A change of a function's ATS Enable removes every translation cache entry of the function -/
  | atsEnableChange (fn : Fin 64) (on : Bool)
  /-- R174: A PCIe ATS Invalidation Request removes matching translations and is completed once issued accesses finish -/
  | atsInvalidation (fn : Fin 64) (pasid : Option (BitVec 20)) (addr : Word) (size : BitVec 6)
  /-- R175: An ATS Translation Completion installs the granted access or leads to a Page Request or fault -/
  | atsCompletion (fn : Fin 64) (pasid : BitVec 20) (page : BitVec 52) (a : AtsAnswer)
  /-- R176: A Page Request Group Response decides the miss: retranslate, fault, or stop PRI for the function -/
  | prgResponse (fn : Fin 64) (group : BitVec 9) (code : BitVec 4)
  /-- R176: A page request unanswered within PRI_TIMEOUT ends its miss with TRANSLATION_FAULT -/
  | priTimeout (fn : Fin 64) (group : BitVec 9)
  /-- R183: A write to XLT_INVAL starts removing translation or key cache entries of a slot or partition -/
  | xltInval (v : View) (w : Word)
  /-- R183: The invalidation completes when every access issued with a removed entry has completed, and BUSY returns to 0 -/
  | xltInvalDone
  /-- R188: A host CXL.mem access to Inkwell is ordered at the home and completes per Table 15.5 -/
  | cxlMemAccess (a : MemAccess) (env : Env)
  /-- R317: A host BAR2 access reaches Inkwell through the window and completes per Table 15.5 -/
  | bar2Access (a : MemAccess) (env : Env)
  /-- R201: The flush for SYSTEM scope completes and the delayed record, signal or acknowledgement proceeds -/
  | systemFlushDone (fn : Fin 64)
  /-- R204: PERST#, leaving DL_Active or a hot reset triggers the host-loss sequence of discards, state moves and resets -/
  | hostLoss (cause : BitVec 2)
  /-- R205: The link reaches DL_Active again and HST_STATUS.LOST clears -/
  | hostLinkUp (l : HostLink)
  /-- R334: A function-level reset resets the partition from QUIESCED, or forces a reset otherwise -/
  | functionLevelReset (fn : Fin 64)
  /-- R334: Clearing VF Enable acts as a function-level reset of every enabled virtual function -/
  | vfEnableClear
  /-- R334: The partition reset of Table 16.5 completes and the partition returns to QUIESCED -/
  | partitionResetDone (part : Fin 64)
  /-- R191: A Tray Link flit is CRC-checked, accepted in FSEQ order or discarded with a replay request, and frees acknowledged flits -/
  | trayFlitRx (port : Fin 4) (b : List Byte)
  /-- R191: After 16 unsuccessful replay requests of one flit the port retrains -/
  | trayReplayExhausted (port : Fin 4)
  /-- R192: A read-current request is served by the home without the requester keeping a copy -/
  | rdCur (port : Fin 4) (m : TrayMsg) (env : Env)
  /-- R192: A read-shared request is served and the home grants S or E -/
  | rdShared (port : Fin 4) (m : TrayMsg) (env : Env)
  /-- R192: A read-for-ownership request is served and the home grants E -/
  | rdOwn (port : Fin 4) (m : TrayMsg) (env : Env)
  /-- R192: A whole-line write is applied by the home and answered with CMP -/
  | wrLine (port : Fin 4) (m : TrayMsg)
  /-- R192: A partial-line write is applied and answered with CMP, or taken as a doorbell in the doorbell range -/
  | wrPart (port : Fin 4) (m : TrayMsg) (env : Env)
  /-- R192: A dirty eviction writes back an M line and the requester's copy becomes I -/
  | evictDirty (port : Fin 4) (m : TrayMsg)
  /-- R192: A clean eviction records that the requester dropped an S or E line -/
  | evictClean (port : Fin 4) (m : TrayMsg)
  /-- R192: A fence request is answered with CMP GLOBAL once earlier writes of the requester are globally visible -/
  | fenceReq (port : Fin 4) (m : TrayMsg)
  /-- R192: An invalidating snoop is answered from the current state, returning data if M -/
  | snpInv (port : Fin 4) (m : TrayMsg)
  /-- R192: A data snoop leaves at most S and returns data if M -/
  | snpData (port : Fin 4) (m : TrayMsg)
  /-- R192: A current snoop returns data if M and leaves the state unchanged -/
  | snpCur (port : Fin 4) (m : TrayMsg)
  /-- R192: Read data arrives at the requester and installs the granted state -/
  | data (port : Fin 4) (m : TrayMsg)
  /-- R192: A completion reports a write or fence complete at PATH, GLOBAL or both -/
  | cmp (port : Fin 4) (m : TrayMsg)
  /-- R192: A snoop response arrives at the home, with data if the line was M -/
  | snpRsp (port : Fin 4) (m : TrayMsg)
  /-- R194: A retry response makes the requester reissue the request after DELAY, up to 64 times -/
  | retry (port : Fin 4) (m : TrayMsg)
  /-- R194: After the RETRY delay the device reissues its request unchanged -/
  | retryReissue (port : Fin 4) (tag : BitVec 12)
  /-- R194: An error response completes the device's request with TARGET_UNAVAILABLE, recording poison when named -/
  | err (port : Fin 4) (m : TrayMsg)
  /-- R196: A trained Tray Link port sends its INIT flit once per microsecond -/
  | trayInitSend (port : Fin 4)
  /-- R196: A received INIT takes the peer's credits and tags and brings the port UP, or is refused, or signals a peer restart -/
  | trayInitRx (port : Fin 4) (b : List Byte)
  /-- R195: A tray port's link fails or retraining fails within 10 ms, and the port goes down with its requests, copies and rings -/
  | trayPortDown (port : Fin 4)
  /-- R195: A write of TRAY_PORT_CFG.ENABLE = 0 takes the port down within 1 µs -/
  | trayPortEnableWrite (v : View) (port : Fin 4) (w : Word)
  /-- R213: A packet header arriving at a fabric port is looked up, routed to a port and VC, delivered locally or dropped -/
  | packetLookup (port : Fin 16) (p : Packet)
  /-- R217: An adaptive packet with no qualifying candidate after ESCAPE_NS escapes to its deterministic route -/
  | adaptiveEscape (port : Fin 16)
  /-- R221: A link unit is CRC-checked and sequenced, accepted, discarded as replayed, or triggers a replay request -/
  | linkUnitRx (port : Fin 16) (u : LinkUnit)
  /-- R221: After 16 replay requests for one LSEQ without success the receiver declares the link down -/
  | linkRetryExhausted (port : Fin 16)
  /-- R223: An ABORT unit discards the partial packet, returns its credit and forwards the abort if cut through -/
  | linkAbort (port : Fin 16)
  /-- R224: A REQUEST recovery unit is answered with OFFER or NONE, from hardware when the core is absent -/
  | recoveryRequest (port : Fin 16) (d : BitVec 512)
  /-- R224: An OFFER lets the requesting boot ROM start READs of the offered firmware image -/
  | recoveryOffer (port : Fin 16) (d : BitVec 512)
  /-- R224: A READ recovery unit is answered with DATA units for the requested range -/
  | recoveryRead (port : Fin 16) (d : BitVec 512)
  /-- R224: A DATA recovery unit delivers image bytes; the complete image is digested and verified -/
  | recoveryData (port : Fin 16) (d : BitVec 512)
  /-- R224: A NONE unit makes the boot ROM give up the port and move to the next -/
  | recoveryNone (port : Fin 16)
  /-- R225: A fabric port goes down: queued packets dropped, cut-through packets aborted, alternate set selected -/
  | fabricPortDown (port : Fin 16)
  /-- R225: A receiver without signal lock for 100 ns takes its port down -/
  | signalLockLoss (port : Fin 16)
  /-- R225: A write of RTE_PORT_CFG.ENABLE = 0 takes the port down within 1 µs -/
  | rtePortEnableWrite (v : View) (port : Fin 16) (w : Word)
  /-- R234: A TELEMETRY packet at its destination is written whole to the next slot and counted, or dropped -/
  | telemetry (p : Packet)
  /-- R243: A chord DATA packet is checked for sequence and signature and staged, combined, forwarded or placed -/
  | chordData (port : Fin 16) (p : Packet) (env : Env)
  /-- R240: A chord CREDIT packet raises the segment limit of an edge and lets the sender proceed -/
  | chordCredit (port : Fin 16) (p : Packet) (env : Env)
  /-- R246: A chord ABORT ends the running operation with its status and is passed on, or is recorded as pending -/
  | chordAbort (port : Fin 16) (p : Packet)
  /-- R245: A chord wait reaches its deadline; the member ends with CHORD_ABORTED and issues ABORT TIMEOUT -/
  | chordDeadline (slot : BitVec 12)
  /-- R250: A write to CHD_SLOT_SEQ in IDLE sets NEXT_SEQ and empties the pending-abort list -/
  | chdSlotSeqWrite (v : View) (w : Word)
  /-- R275: RED_TEST_CTL LOAD converts the test input into the test accumulator -/
  | testLoad (v : View) (w : Word)
  /-- R275: RED_TEST_CTL COMBINE converts the test input and combines it into the accumulator under ROP -/
  | testCombine (v : View) (w : Word)
  /-- R275: RED_TEST_CTL ROUND rounds the accumulator into RED_TEST_OUT -/
  | testRound (v : View) (w : Word)
  /-- R281: A BAR_UP flit from a child counts toward the member's barrier up phase -/
  | barUp (port : Fin 16) (d : BitVec 512)
  /-- R281: A BAR_DOWN flit is passed down and completes the member's barrier -/
  | barDown (port : Fin 16) (d : BitVec 512)
  /-- R280: A scalar flit carrying a child's own values is staged for combining -/
  | sclUpRaw (port : Fin 16) (d : BitVec 512)
  /-- R280: A scalar flit carrying a combined exact form is staged for combining -/
  | sclUpExact (port : Fin 16) (d : BitVec 512)
  /-- R282: A scalar result flit is forwarded down and placed, completing the member -/
  | sclDown (port : Fin 16) (d : BitVec 512)
  /-- R289: A Strum open or close flit counts toward that phase's barrier up phase -/
  | stmUp (port : Fin 16) (d : BitVec 512)
  /-- R289: A Strum open or close release starts the data phase or completes the operation -/
  | stmDown (port : Fin 16) (d : BitVec 512)
  /-- R283: A Pluck wait reaches its deadline and the operation ends by abort -/
  | pluckDeadline (slot : BitVec 12)
  /-- R290: A Strum DATA packet is placed in its slice with overflow discarded, or ends the operation as a mismatch -/
  | strumData (p : Packet) (env : Env)
  /-- R289: A Strum END carries a message's TOTAL and completes the message once its bytes are counted -/
  | strumEnd (p : Packet) (env : Env)
  /-- R288: A Strum ABORT ends the exchange operation with the status of Table 11.6 -/
  | strumAbort (p : Packet)
  /-- R291: A data-phase wait on a member reaches its deadline and the exchange ends by abort -/
  | strumDeadline (exch : BitVec 12)
  /-- R294: A write to STM_EXCH_SEQ in IDLE sets NEXT_SEQ and empties the pending-abort list -/
  | stmExchSeqWrite (v : View) (w : Word)
  /-- R297: CPH_KEY_CTL LOAD loads a key into an unused assigned entry and zeroes CPH_KEY_DATA -/
  | cphKeyLoad (v : View) (w : Word)
  /-- R297: CPH_KEY_CTL ERASE zeroes an unused assigned entry and zeroes CPH_KEY_DATA -/
  | cphKeyErase (v : View) (w : Word)
  /-- R312: SPD reading and training end, the reference capacity is chosen and bad channels are fenced -/
  | inkwellTrainingDone (d : Dimms)
  /-- R315: The move of a context, key or staging region to its new placement completes -/
  | regionMoveDone (region : BitVec 7)
  /-- R316: A region's zero-fill completes, the next begins, and FILL clears once all are filled -/
  | zeroFillDone
  /-- R321: The patrol scrubber reads the next line and treats errors as a demand read does -/
  | scrubPass (chan : Fin 12) (off : Word) (ecc : BitVec 2)
  /-- R322: A PHY lock loss, exhausted retries or excess uncorrectable rate fences a channel -/
  | inkAutoFence (chan : Fin 12) (cause : Byte)
  /-- R322: A write of INK_CHAN_CTL.FENCE = 1 fences the channel and discards its queued writes -/
  | channelFence (v : View) (chan : Fin 12) (w : Word)
  /-- R332: PTN_CTL QUIESCE stops the partition's rings, flushes its pools and refuses new messages -/
  | quiesce (v : View) (part : Fin 64) (w : Word)
  /-- R331: PTN_CTL PREEMPT holds launch on every ring of the partition -/
  | preempt (v : View) (part : Fin 64) (w : Word)
  /-- R330: PTN_CTL RESUME releases the launch hold and returns the partition to ACTIVE -/
  | resume (v : View) (part : Fin 64) (w : Word)
  /-- R330: PTN_CTL RELEASE returns a QUIESCED partition to ACTIVE with its rings DISABLED -/
  | release (v : View) (part : Fin 64) (w : Word)
  /-- R347: FOL_CTL START begins capture and writes BEGIN and SEED records -/
  | start (v : View)
  /-- R347: FOL_CTL STOP ends capture or freezes a POST journal -/
  | stop (v : View)
  /-- R347: A Folio trigger writes TRIGGER, records FOL_FREEZE_AT and moves capture to POST -/
  | trigger (v : View)
  /-- R347: After POST_KIB KiB of records the journal becomes FROZEN -/
  | folioPostEnd
  /-- R347: FOL_CTL REARM returns a FROZEN journal to IDLE -/
  | rearm (v : View)
  /-- R348: FOL_CTL MARK writes a MARK record and STATE records of every in-scope resource -/
  | mark (v : View)
  /-- R349: FOL_CTL REPLAY_ENTER puts the device in replay with ports on link control when the conditions hold -/
  | replayEnter (v : View)
  /-- R350: FOL_CTL REPLAY_START checks the journal range, loads state and Ruling and starts injecting records -/
  | replayStart (v : View) (env : Env)
  /-- R350: At a record's TIME the replay injects the input and compares outputs, ending DONE or DIVERGED -/
  | replayInject (env : Env)
  /-- R351: FOL_CTL REPLAY_EXIT stops replay and returns ports and fetch to normal -/
  | replayExit (v : View)
  /-- R353: A write to DET_GEN_COUNTER computes arx10 of the DET_GEN inputs into the output registers -/
  | detGenCounterWrite (v : View) (w : Word)
  /-- R357: A seeking wavelength finds resonance and becomes LOCKED -/
  | lockAcquired (port : Fin 16) (wl : Fin 8)
  /-- R357: A wavelength not locked within 60 ms of SEEK becomes LOST and the port is fenced -/
  | lockSeekTimeout (port : Fin 16) (wl : Fin 8)
  /-- R357: A heater at its range end for 1 ms or tap signal lost for 10 µs makes a wavelength LOST and fences the port -/
  | lockLost (port : Fin 16) (wl : Fin 8)
  /-- R359: A wavelength received below RX_MIN for 1 ms fences the port -/
  | rxPowerLow (port : Fin 16) (wl : Fin 8)
  /-- R359: Laser current at I_MAX with low tap power for 1 s fences the port -/
  | txPowerLow (port : Fin 16)
  /-- R359: At the end of a 1 s window the pre-FEC BER fences the port or posts a warning -/
  | berWindowEnd (port : Fin 16) (bers : List Nat) (corr : Nat) (uncorr : Nat)
  /-- R370: OPT_PORT_CTL FENCE fences the port with cause SOFTWARE -/
  | portFence (v : View) (port : Fin 16)
  /-- R359: OPT_PORT_CTL UNFENCE clears a fence when no cause persists, or is ignored -/
  | portUnfence (v : View) (port : Fin 16)
  /-- R364: Presence of an inserted laser source module starts its certificate and nonce checks -/
  | lsmInsert (bay : Fin 16) (eeprom : List Byte)
  /-- R364: The module's checks complete: it is lit, or refused, kept dark and its port fenced -/
  | lsmCheckDone (bay : Fin 16) (answer : List Byte)
  /-- R367: Loss of presence fences the port, abandoning a pending life write -/
  | lsmRemove (bay : Fin 16)
  /-- R362: Opening the bay interlock drives LSM_EN_N high in hardware and writes LIFE to the EEPROM -/
  | lsmInterlockOpen (bay : Fin 16)
  /-- R362: Closing the interlock lets the module's checks run again -/
  | lsmInterlockClose (bay : Fin 16)
  /-- R370: LSM_CTL RELEASE drives LSM_EN_N high within 10 µs and fences the port as RELEASED -/
  | lsmRelease (v : View) (bay : Fin 16)
  /-- R365: Each second a lit module accrues weighted life, posting warnings at 80, 95 and 100 percent -/
  | lsmLifeTick (bay : Fin 16) (current : BitVec 32)
  /-- R365: Every hour the interface writes LIFE to the module's EEPROM -/
  | lsmEepromLifeWrite (bay : Fin 16)
  /-- R365: Every 24 h the flash life records are written under the hold-up check -/
  | lsmFlashLifeWrite
  /-- R438: A bay overload removes its supplies within 10 µs and fences the port with TX_POWER -/
  | lsmOverload (bay : Fin 16)
  /-- R374: A received Ethernet frame is resolved to a partition and metered, or dropped and counted -/
  | ethFrameRx (port : Fin 2) (f : List Byte)
  /-- R377: An RDMA WRITE packet is sequenced, key-checked and placed, and acknowledged on AckReq or message end -/
  | rdmaWrite (port : Fin 2) (env : Env)
  /-- R375: An RDMA WRITE with Immediate is placed and its immediate value stored in LAST_IMM -/
  | rdmaWriteWithImmediate (port : Fin 2) (env : Env)
  /-- R376: An RDMA READ Request is checked over its length and answered with READ Responses -/
  | rdmaReadRequest (port : Fin 2) (env : Env)
  /-- R378: A received CNP halves the queue pair's READ Response rate, at most once per CNP_INTERVAL -/
  | cnp (port : Fin 2)
  /-- R378: After RATE_PERIOD without a CNP the queue pair's rate rises by RATE_AI -/
  | ratePeriodExpiry (port : Fin 2) (qp : Fin 4096)
  /-- R374: An ARP request for the port's IPv4 address is answered by hardware -/
  | arpRequest (port : Fin 2) (f : List Byte)
  /-- R374: An ICMPv6 Neighbor Solicitation for the port's IPv6 address is answered by hardware -/
  | neighborSolicitation (port : Fin 2) (f : List Byte)
  /-- R386: ETH_QP_CTL ENABLE moves a queue pair from RESET to RTS, or is refused -/
  | qpEnable (v : View) (w : Word)
  /-- R386: ETH_QP_CTL RESET returns a queue pair from RTS or ERROR to RESET -/
  | qpReset (v : View) (w : Word)
  /-- R381: A management frame is stored, truncated or dropped under the receive buffer rules -/
  | msegFrameRx (f : List Byte)
  /-- R380: After a collision back-off of j slot times the management MAC retries its frame -/
  | backoffExpiry
  /-- R380: Under PLCA the MAC sends a queued frame in its transmit opportunity -/
  | plcaTransmitOpportunity
  /-- R382: A PAUSE frame is counted and, unless ignored, stops new frames for quanta × 51.2 µs -/
  | pause (f : List Byte)
  /-- R382: The pause time ends and the MAC may start frames again -/
  | pauseEnd
  /-- R384: A Rumos HELLO is answered with node, fingerprint, identity, START_COUNT and FLOOR -/
  | hello
  /-- R384: A Rumos REG_READ returns up to 200 BAR0 words -/
  | regRead
  /-- R384: A Rumos REG_WRITE applies up to 100 register writes in order through the register port -/
  | regWrite (env : Env)
  /-- R384: A Rumos STAGE_DATA writes up to 1,536 bytes into the staging area -/
  | stageData (env : Env)
  /-- R384: A Rumos TELEM_READ returns and clears a histogram copy, or returns congestion map records -/
  | telemRead
  /-- R384: A Rumos JOURNAL_READ returns up to 1,536 bytes of the journal region -/
  | journalRead (env : Env)
  /-- R383: A Rumos TRIGGER triggers the Folio with cause 0x5 -/
  | rumosTrigger
  /-- R385: A Rumos KEY_SET writes a new rack key to flash under the hold-up check -/
  | keySet
  /-- R385: A physical-function write of MSEG_KEY stores a new rack key in flash -/
  | msegKeyWrite (v : View) (word : Fin 4) (w : Word)
  /-- R395: 54 V held in range for 100 ms starts the device from nothing and releases domains in order -/
  | powerOn
  /-- R388: Input below 46 V for 10 µs darkens lasers, holds all domains in reset and drives ALERT_N -/
  | powerFail
  /-- R430: Input above 59 V for 10 µs is handled as a power-fail -/
  | overVoltage
  /-- R392: MOD_RESET_N asserted for 1 µs resets everything but flash and OTP -/
  | modReset
  /-- R389: A die sensor at 115 °C for 100 µs darkens lasers, drives THERM_N and enters DARK -/
  | thermalTrip
  /-- R396: RST_CTL WARM_RESET resets the data plane per Table 20.4 and releases it in order -/
  | warmReset (v : View)
  /-- R389: RST_CTL SHUTDOWN releases MOD_READY_N, resets the data plane, self-tests, stores calibrations and enters DARK -/
  | shutdown (v : View)
  /-- R395: When a domain reports ready the reset controller releases the next in the order -/
  | domainRelease
  /-- R399: A trim load pass ends; a good CRC sets TRIM_VALID, and eight failures hold the device in reset -/
  | trimLoadPass (crcOk : Bool)
  /-- R397: RST_BLOCK_CTL asks a named block to go idle before its reset -/
  | blockReset (v : View) (w : Word)
  /-- R397: When the block is idle or RST_IDLE_TIMEOUT passes, it is reset and released and the outcome reported -/
  | blockIdle (idle : Bool)
  /-- R398: A write to RST_WDT_KICK restarts the watchdog period -/
  | rstWdtKick (v : View)
  /-- R398: A watchdog period without a kick resets the management core -/
  | watchdogExpiry (intact : Bool)
  /-- R404: The boot ROM verifies the flash firmware image and starts it, or begins recovery -/
  | bootRomStart
  /-- R404: RST_MBOX_CTL GO makes the boot ROM read and verify an image from host memory -/
  | mailboxGo (v : View) (env : Env)
  /-- R404: After 1 s without the host mailbox the boot ROM turns to its neighbours -/
  | mailboxWaitExpiry
  /-- R404: A recovery port silent for 2 s is given up and the next port is asked -/
  | recoveryTimeout
  /-- R405: The firmware checks the calibration record, applies the boot Score, checks LSMs and writes START_COUNT -/
  | firmwareStart (tStart : BitVec 16)
  /-- R402: Before a flash write and every 64th unit the hold-up bank is measured and the unit started or refused -/
  | flashWriteStart (v0 : BitVec 17) (v1 : BitVec 17)
  /-- R401: A flash unit is erased, programmed and read back, and the next unit or the validity unit follows -/
  | flashUnitDone
  /-- R402: A flash write refused by the hold-up check is retried when its retry interval expires -/
  | flashRetry
  /-- R409: LCS_CTL NONCE increments the nonce counter in flash and sets LCS_NONCE -/
  | nonce (v : View)
  /-- R407: LCS_CTL ENTER_DIAG with a valid token moves SECURED to FIELD_DIAG -/
  | enterDiag (v : View) (env : Env)
  /-- R407: LCS_CTL EXIT_DIAG returns FIELD_DIAG to SECURED -/
  | exitDiag (v : View)
  /-- R407: LCS_CTL SECURE moves MANUFACTURE to SECURED once the keys are provisioned -/
  | secure (v : View)
  /-- R407: LCS_CTL RETIRE with a valid token moves to RETIRED and erases the identity and key slots -/
  | retire (v : View) (env : Env)
  /-- R411: LCS_CTL ATTEST writes a signed measurement report to LCS_REQ_ADDR -/
  | attest (v : View) (env : Env)
  /-- R408: LCS_CTL PROVISION in MANUFACTURE writes one key digest item to OTP -/
  | provision (v : View) (env : Env)
  /-- R419: SST_CTL RUN starts an on-demand test on an out-of-service target, or is refused -/
  | sstRun (v : View) (w : Word)
  /-- R419: An on-demand test finishes and writes its results into SST_RESULT -/
  | sstTestDone (r : List (BitVec 2))
  /-- R422: The log engine appends a record from the escalation queue and drives ALERT_N, interrupt and Folio trigger -/
  | errorRecordLogged
  /-- R423: A write to ERR_READ marks records read, clamped to the kept range -/
  | errReadWrite (v : View) (w : Word)
  /-- R427: A read of ERR_LOG_DATA0 snapshots the selected log record -/
  | errLogRead (v : View)
  /-- R176: The host disabling and re-enabling PRI on a function clears XLT_PRI_FN.STOPPED and frees timed-out page request group indices -/
  | priEnableChange (fn : Fin 64) (on : Bool)
  /-- R221: A fabric port's link layer comes up, LSEQ starts at 0, credit limits take their link-up reservations, and beacons and link control begin -/
  | fabricLinkUp (port : Fin 16)
  /-- R196: A Tray Link port finishes training or retraining and begins sending INIT flits, moving from TRAINING to INIT -/
  | trayPortTrained (port : Fin 4)
  /-- R372: A port in the Ethernet personality finishes training after light and lock and ETH_PORT_STATUS.LINK becomes 1 -/
  | ethLinkUp (port : Fin 2)
  /-- R380: A collision detected on the 10BASE-T1S segment starts the back-off of j slot times, or discards the frame at the 16th collision, or defers it to the next PLCA opportunity -/
  | msegCollision
  /-- R187: A host CXL.cache snoop (SnpData, SnpInv, SnpCur) to a host line the device caches is answered from its state, dropping or downgrading the S copy -/
  | h2dSnoop (kind : BitVec 2) (line : Word)
  /-- R348: A connection's STATE record from a MARK is written to the journal and its held packets and launches proceed -/
  | stateRecordWritten (conn : BitVec 20) (env : Env)
  deriving DecidableEq, Repr

end Sys2Proof
end

