-- ==== Sys2Proof/Decode.lean ====
section
/-! DEFINITION. The table gives no command a bit encoding: no word spells a command. -/

namespace Sys2Proof

/-- The command a table word spells. The opcode table gives none of its rows any bits, so no word spells one. -/
def decodeTableWord (_nbits _w : Nat) : Option Instr := none

end Sys2Proof
end

