-- ==== Sys2Proof/Config.lean ====
section
/-! DEFINITION. What the spec leaves open, and the signature scheme it names without giving it: constants without
a body, so that no proof can lean on a value. -/

namespace Sys2Proof

/-- The value of a byte or word the spec leaves open, one for each draw of the state's `free` counter. -/
opaque Config.freeValue : Nat → Word

/-- Falcon-1024 signature verification over a message (R57, R364, R403, R409): public key, message, signature. -/
opaque Config.falconVerify : List Byte → List Byte → List Byte → Bool

/-- The padded Falcon-1024 signature over a message (R411): private key, message. -/
opaque Config.falconSign : List Byte → List Byte → List Byte

/-- The laser source modules' issuing public key (R364): the firmware holds it, and the spec gives only its digest's
place in OTP. -/
opaque Config.lsmIssuingKey : List Byte

/-- Bytes the Folio tap's copy channel and journal write queue hold before copies are discarded (R18); the spec
gives their rates and not their depth. -/
opaque Config.tapDepth : Nat

/-- The set of the translation cache that an entry goes to (R173), by partition, key INDEX, GEN and page: the spec gives the
cache its eight ways and not its index. -/
opaque Config.xltSet : Nat → Nat → Nat → Nat → Nat

/-- CREDITS and TAGS of the device's INIT (Table 9.17): what it grants and accepts, the spec leaves open. -/
opaque Config.trayCredits : BitVec 30
opaque Config.trayTags : BitVec 12

end Sys2Proof
end

