-- ==== Sys2Proof/Machine/State.lean ====
section
/-! DEFINITION. The state of the fabric adapter, its faults and refusals, and the state after reset. Each field's
comment names the rule of the spec that gives it and its width; its default is its value at reset. -/

namespace Sys2Proof.Machine

/-- Reasons the block can stop with a fault. The spec names none: every command it gives completes. -/
inductive Fault where
  /-- raised by no meaning; safe -/
  | none
  deriving DecidableEq, Repr

/-- Reasons a command can have no meaning. -/
inductive Refusal where
  /-- raised by an arm of `exec` whose command has no meaning yet; safe, since nothing can be proved of the command -/
  | notModelled (mnemonic : String)
  deriving DecidableEq, Repr

/-- A value of the reducer: accumulator and flag byte (R255, Table 12.1). -/
structure Acc where
  a : BitVec 320 := 0                   -- R255 [320 bits]: accumulator
  fl : BitVec 8 := 0                    -- R255 [8 bits]: flags of Table 12.1
  deriving DecidableEq, Repr

/-- What rounding one element wrote, and which of RED_COUNTS it adds to (R274). -/
structure Rounded where
  code : Nat := 0
  nan : Bool := false
  inf : Bool := false
  overflow : Bool := false
  underflow : Bool := false
  intSat : Bool := false
  mxSat : Bool := false
  deriving DecidableEq, Repr

/-! ### Ruling (chapter 2) -/

/-- RLG_STATUS.STATE (Table 2.2). -/
inductive Lock where
  | free | acquire | locked | holdover | stale | source
  deriving DecidableEq, Repr

/-- What the first servo update after a parent was taken has to do (R444, Table 2.3). -/
inductive FirstUpdate where
  /-- nothing is owed: ordinary servo updates -/
  | none
  /-- step forward or slew backward, as on entry to ACQUIRE -/
  | correct
  /-- the first update of a relock from HOLDOVER -/
  | relock
  deriving DecidableEq, Repr

/-- The Ruling state of one fabric port. -/
structure RlgPort where
  nbState : BitVec 3 := 0               -- R33 [3 bits]: lock state in the neighbour's last beacon
  nbDepth : BitVec 8 := 0               -- R33 [8 bits]: depth in the neighbour's last beacon
  beaconAt : Option Nat := none         -- R34 [local clock]: instant of the last valid beacon, none before one
  lossDeclared : Bool := false          -- R34 [1 bit]: Ruling loss declared since the last valid beacon
  theta : BitVec 32 := 0                -- R53 [32 bits]: RLG_PORT_OFFSET, the last offset
  txSeq : BitVec 16 := 0                -- R35 [16 bits]: sequence of the next timestamp flit
  sent : List (BitVec 16 × Word × Nat) := [] -- R35 [list]: flits sent: sequence, send time, local instant (kept 4 us)
  lastTx : Word := 0                    -- R35 [64 bits]: TX_TIME of the last timestamp flit received
  lastRx : Word := 0                    -- R35 [64 bits]: arrival time of that flit
  lastSeq : BitVec 16 := 0              -- R35 [16 bits]: sequence of that flit
  fret : Nat × Nat := (0, 0)            -- R49 [pair]: cycle and entry of the fret last seen by the sampler
  deriving DecidableEq, Repr

/-- The Ruling domain. -/
structure Rlg where
  time : Word := 0                      -- R30 [64 bits]: RLG_TIME
  epoch : BitVec 32 := 0                -- R31 [32 bits]: RLG_EPOCH
  snapTime : Word := 0                  -- R32 [64 bits]: RLG_SNAP_TIME
  snapEpoch : BitVec 32 := 0            -- R32 [32 bits]: RLG_SNAP_EPOCH
  lock : Lock := .free                  -- R38 [3 bits]: RLG_STATUS.STATE
  parent : Option (BitVec 4) := none    -- R33 [4 bits and valid]: RLG_STATUS.PARENT and PARENT_VALID
  served : Bool := false                -- R44 [1 bit]: RLG_STATUS.SERVED
  holdBase : Nat := 0                   -- R39 [ps]: HOLD_ERR held before the growth counted by holdTicks
  holdTicks : Nat := 0                  -- R40 [ticks]: free-running ticks since holdBase was set, 1 ps each 62,500
  anchor : Word := 0                    -- R48 [64 bits]: RLG_TAB_ANCHOR
  anchorEpoch : BitVec 32 := 0          -- R48 [32 bits]: RLG_TAB_ANCHOR_EPOCH
  freqAdj : Int := 0                    -- R36 [1/1024 ru per us]: integral term of the servo
  phaseAdj : Int := 0                   -- R36 [1/1024 ru per us]: proportional term of the servo
  phaseTicks : Nat := 0                 -- R36 [ticks]: ticks for which phaseAdj still acts (one microsecond)
  frac : Int := 0                       -- R36 [1/128,000 ru]: fraction of a ru not yet added to the count
  slewBack : Nat := 0                   -- R41 [1/128,000 ru]: backward correction still to be slewed at 500 ppm
  everLocked : Bool := false            -- R38 [1 bit]: the device has been LOCKED since power-on
  first : FirstUpdate := .none          -- R444 [enum]: correction owed at the next servo update
  good : Nat := 0                       -- R38 [count]: consecutive updates inside the bound of the state
  bad : Nat := 0                        -- R38 [count]: consecutive updates with |theta| above 100 ps
  relockMax : Nat := 0                  -- R39 [ps]: largest |theta| of the relock, rounded up
  replayRun : Bool := false             -- R351 [1 bit]: the count runs in FREE under replay
  ports : Tbl RlgPort := []             -- R33 [16 ports]: per-port Ruling state
  deriving DecidableEq, Repr

/-! ### Capo (chapter 3) -/

/-- CAPO_STATUS.STATE (Table 3.6). -/
inductive CapoSt where
  | idle | loading | staged | checking | passed | failed | armed | draining
  deriving DecidableEq, Repr

/-- Identity of a Score image: SCORE_ID, GENERATION and TARGET_NODE. -/
structure ImageId where
  scoreId : Word := 0
  generation : Word := 0
  node : BitVec 32 := 0
  deriving DecidableEq, Repr

/-- A verified management firmware image: VERSION, digest and the bytes that matter to the model. -/
structure FwImage where
  version : Word := 0                   -- R403 [64 bits]: VERSION
  digest : BitVec 256 := 0              -- R403 [256 bits]: SHAKE256 digest of the image
  bytes : List Byte := []               -- R403 [bytes]: the image
  deriving DecidableEq, Repr

structure Capo where
  st : CapoSt := .idle                  -- R60 [4 bits]: CAPO_STATUS.STATE
  loadPrev : CapoSt := .idle            -- R56 [4 bits]: state to return to when a LOAD fails
  armResult : Byte := 0                 -- R63 [8 bits]: CAPO_STATUS.ARM_RESULT
  loadSrc : Word := 0                   -- R56 [64 bits]: CAPO_LOAD_SRC when LOAD was accepted
  loadLen : Nat := 0                    -- R56 [bytes]: CAPO_LOAD_LEN when LOAD was accepted
  loadResult : Byte := 0                -- R56 [8 bits]: CAPO_STATUS.LOAD_RESULT
  isUnsigned : Bool := false            -- R57 [1 bit]: CAPO_STATUS.UNSIGNED
  unsignedRun : Bool := false           -- R57 [1 bit]: CAPO_STATUS.UNSIGNED_RUN
  fwStaged : Bool := false              -- R73 [1 bit]: CAPO_STATUS.FW_STAGED
  checkCode : Byte := 0xFF              -- R60 [8 bits]: CAPO_CHECK_RESULT.CODE
  checkDetail : BitVec 32 := 0          -- R60 [32 bits]: CAPO_CHECK_RESULT.DETAIL
  checkFail : BitVec 32 := 0            -- R60 [30 bits]: CAPO_CHECK_FAIL
  drainMask : BitVec 12 := 0            -- R60 [12 bits]: CAPO_DRAIN_MASK
  applyAt : Nat := 0                    -- R63 [96 bits]: instant latched by ARM, epoch * 2^64 + time
  runId : Word := 0                     -- R65 [64 bits]: CAPO_RUN_ID
  runGen : Word := 0                    -- R65 [64 bits]: CAPO_RUN_GEN
  lastApply : Word := 0                 -- R65 [64 bits]: CAPO_LAST_APPLY
  lastApplyEpoch : BitVec 32 := 0       -- R65 [32 bits]: CAPO_LAST_APPLY_EPOCH
  node : BitVec 32 := 0                 -- R65 [32 bits]: DEV_NODE node address
  nodeSet : Bool := false               -- R75 [1 bit]: DEV_NODE bit 63 is 0
  down : BitVec 16 := 0xFFFF            -- R228 [16 bits]: CAPO_LOCAL.DOWN, set at the release of every router reset
  loaded : Option ImageId := none       -- R57 [id]: identity of the image last loaded into the stage
  origins : List (Nat × Word × Word) := [] -- R60 [list]: section types loaded since the last apply or DISCARD, 0 the header, with SCORE_ID and GENERATION of their image
  secBad : List (Nat × Nat × Nat) := [] -- R60 [list]: what the section loader refused: section type, check code, index
  incomplete : Bool := false            -- R60 [1 bit]: a section move into a shadow bank did not finish
  drainExtra : BitVec 12 := 0           -- R55 [12 bits]: DRAIN_EXTRA of the loaded image
  sections : List Nat := []             -- R48 [list]: section types staged since the last apply or DISCARD
  fresh : Bool := false                 -- R57 [1 bit]: the image last loaded has not been applied
  stageImage : Option (Nat × BitVec 256) := none -- R74 [length, digest]: image last loaded into the stage
  runImage : Option (Nat × BitVec 256) := none -- R74 [length, digest]: image the running Score was loaded from
  fw : Option FwImage := none           -- R73 [image]: staged firmware image
  coreHeld : Bool := false              -- R73 [1 bit]: firmware copy into the core's SRAM in progress
  deriving DecidableEq, Repr

/-! ### Work rings, completion rings, counters (chapters 4 and 5) -/

/-- RING_STATUS.STATE (Table 4.4). -/
inductive RingSt where
  | disabled | enabled | disabling | error | hostLost | quiesced
  deriving DecidableEq, Repr

/-- A whole entry taken into the prefetch cache: its units in order. -/
structure Entry where
  pos : BitVec 32 := 0                  -- R83 [32 bits]: position of the header
  seq : BitVec 16 := 0                  -- R83 [16 bits]: sequence number
  units : List (BitVec 512) := []       -- R80 [1 to 16 units]: the entry's units
  scoreChanged : Bool := false          -- R66 [1 bit]: names a chord slot that an apply has changed since it was posted
  deriving DecidableEq, Repr

structure Ring where
  base : Word := 0                      -- R101 [64 bits]: RING_BASE
  cfg : Word := 0x2006                  -- R101 [64 bits]: RING_CFG, KIND 0
  start : BitVec 48 := 0                -- R99 [48 bits]: RING_START (SEQ, POS)
  head : BitVec 48 := 0                 -- R90 [48 bits]: RING_PUBLISHED_HEAD (SEQ, POS)
  st : RingSt := .disabled              -- R99 [4 bits]: RING_STATUS.STATE
  enableResult : Byte := 0              -- R100 [8 bits]: RING_STATUS.ENABLE_RESULT
  errCode : Byte := 0                   -- R99 [8 bits]: RING_STATUS.ERR_CODE
  held : Bool := false                  -- R88 [1 bit]: RING_STATUS.HELD
  reach : BitVec 5 := 0                 -- R199 [5 bits]: memories the writes of completed entries reached
  torn : Bool := false                  -- R84 [1 bit]: RING_STATUS.TORN
  dbPending : Bool := false             -- R82 [1 bit]: RING_STATUS.PENDING
  scanning : Bool := false              -- R83 [1 bit]: a scan is due or waiting for cache space
  discarding : Bool := false            -- R88 [1 bit]: the discard of RING_INVAL or DISABLE is in progress
  resumeAfter : Bool := false           -- R88 [1 bit]: RESUME follows the discard
  fetchPos : BitVec 32 := 0             -- R83 [32 bits]: fetch_pos
  fetchSeq : BitVec 16 := 0             -- R83 [16 bits]: fetch_seq
  errPos : BitVec 32 := 0               -- R101 [32 bits]: RING_ERR_POS
  doorbells : Word := 0                 -- R82 [64 bits]: RING_DOORBELLS
  tornTries : Nat := 0                  -- R84 [count]: timed re-reads made of the torn entry
  tornAt : Nat := 0                     -- R84 [96 bits]: extended Ruling time of the next timed re-read of the torn entry
  changed : List Nat := []              -- R66 [slots]: chord slots changed by applies since the scan now due or running began
  taken : List Entry := []              -- R87 [prefetch cache]: taken, unlaunched entries in ring order
  deriving DecidableEq, Repr

structure Cq where
  base : Word := 0                      -- R101 [64 bits]: RING_BASE of a completion ring
  cfg : Word := 7                       -- R101 [64 bits]: RING_CFG, KIND 1
  start : BitVec 48 := 0                -- R100 [48 bits]: RING_START
  headAddr : Word := 0                  -- R97 [64 bits]: RING_CQ_HEAD_ADDR
  head : BitVec 32 := 0                 -- R97 [32 bits]: last head read (RING_PUBLISHED_HEAD of KIND 1)
  tail : BitVec 32 := 0                 -- R94 [32 bits]: RING_CQ_TAIL
  st : RingSt := .disabled              -- R100 [4 bits]: RING_STATUS.STATE
  enableResult : Byte := 0              -- R100 [8 bits]: RING_STATUS.ENABLE_RESULT
  errCode : Byte := 0                   -- R100 [8 bits]: RING_STATUS.ERR_CODE
  errPos : BitVec 32 := 0               -- R101 [32 bits]: RING_ERR_POS
  reserved : Nat := 0                   -- R97 [count]: record slots reserved by launched entries
  owed : List (List Byte) := []         -- R85 [records]: records of failed rings that wait for a free slot, phase bit 0
  rereadAt : Option Nat := none         -- R97 [96 bits]: extended Ruling time of the next re-read of the head location while launches wait
  deriving DecidableEq, Repr

/-- An event counter (R91). -/
structure EvCtr where
  value : BitVec 48 := 0                -- R91 [48 bits]: VALUE
  failed : Bool := false                -- R91 [1 bit]: FAILED
  deriving DecidableEq, Repr

/-- How a launched entry has ended. -/
structure Done where
  status : Byte := 0                    -- R11 [8 bits]: completion status
  bytes : Word := 0                     -- R107 [64 bits]: BYTES
  detail : Word := 0                    -- R107 [64 bits]: DETAIL
  deriving DecidableEq, Repr

/-- A launched entry that has not completed. -/
structure Op where
  ring : Nat := 0                       -- R90 [14 bits]: work ring
  entry : Entry := {}                   -- R90 [entry]: the entry launched
  part : Nat := 0                       -- R94 [6 bits]: partition of the ring
  fin : Option Done := none             -- R92 [outcome]: set once the entry's work has ended
  conn : Nat := 0                       -- R108 [20 bits]: connection, for CONN-class entries
  psn : BitVec 32 := 0                  -- R124 [32 bits]: PSN of the entry's first packet
  count : Nat := 0                      -- R119 [count]: packets of the request message
  acked : Bool := false                 -- R108 [1 bit]: last packet acknowledged
  checked : Bool := false               -- R165 [1 bit]: the check of its local operand has passed
  started : Bool := false               -- R178 [1 bit]: some packet of the message has been sent
  respBytes : Nat := 0                  -- R134 [bytes]: response bytes placed
  respDone : Bool := false              -- R134 [1 bit]: response message complete
  respFault : Option (Byte × Word) := none -- R134 [status, detail]: fault met placing response data
  stalled : Bool := false               -- R178 [1 bit]: waits at a translation miss
  offset : Nat := 0                     -- R114 [bytes]: next byte of a local command that runs in pieces
  keys : List (BitVec 32) := []         -- R166 [keys]: keys whose checked ranges the entry holds
  scopeSys : Bool := false              -- R94 [1 bit]: SCOPE of the record
  flushWait : Bool := false             -- R201 [1 bit]: waits for a SYSTEM flush
  flushId : Nat := 0                    -- R201 [count]: the flush it waits for
  reach : BitVec 5 := 0                 -- R199 [5 bits]: memories its writes reached, for a FENCE those it must reach: bit 0 the host's, bit 1 + k tray port k's
  zero : List (BitVec 32 × Nat × Nat) := [] -- R247 [ranges]: key, address and length to be overwritten with zeros before the entry completes
  fenceHost : Bool := false             -- R199 [1 bit]: a FENCE reaches host memory
  fenceTray : BitVec 4 := 0             -- R199 [4 bits]: tray ports a FENCE reaches
  at_ : Word := 0                       -- R153 [Ruling time]: launch time
  order : Nat := 0                      -- R109 [count]: match order of a RECV
  deriving DecidableEq, Repr

/-- A receive buffer posted by a RECV. -/
structure PoolBuf where
  ring : Nat := 0                       -- R109 [14 bits]: ring of the RECV
  pos : BitVec 32 := 0                  -- R109 [32 bits]: position of the RECV
  key : BitVec 32 := 0                  -- R109 [32 bits]: LKEY
  addr : Word := 0                      -- R109 [64 bits]: LADDR
  len : BitVec 32 := 0                  -- R109 [32 bits]: LENGTH
  deriving DecidableEq, Repr

/-! ### Connections (chapters 6 and 7) -/

/-- When a packet reached this device. -/
structure Arrival where
  at_ : Word := 0                       -- R46 [64 bits]: RLG_TIME when the first bit of its header came in
  valid : Bool := false                 -- R46 [1 bit]: the device was then in SOURCE, LOCKED or HOLDOVER
  verified : Bool := false              -- R125 [1 bit]: the packet has passed its integrity check and waits for what follows it
  deriving DecidableEq, Repr

/-- Connection states (Table 6.5). -/
inductive ConnSt where
  | reset | active | error | hostLost | quiesced
  deriving DecidableEq, Repr

/-- What an ACK or NAK says of the packet that prompted it (Table 6.4). -/
structure Echo where
  stamp : BitVec 32 := 0                -- R119 [32 bits]: ECHO_STAMP
  owd : BitVec 24 := 0xFFFFFF           -- R46 [24 bits]: OWD
  retx : Bool := false                  -- R119 [1 bit]: ECHO_RETX
  valid : Bool := false                 -- R119 [1 bit]: ECHO_VALID
  deriving DecidableEq, Repr

/-- An open incoming message (MSG_REC of Table 6.3, with what the device must keep to complete it). -/
structure MsgRec where
  firstPsn : BitVec 32 := 0             -- R128 [32 bits]: FIRST_PSN
  count : BitVec 21 := 0                -- R128 [21 bits]: PKT_COUNT
  ptype : Byte := 0                     -- R135 [8 bits]: type of the message's packets
  rsig : Option (Nat × Nat) := none     -- R108 [partition, counter]: counter to signal at completion
  len : Nat := 0                        -- R107 [bytes]: message length where the first packet gives it
  aux : BitVec 32 := 0                  -- R133 [32 bits]: PSN of the request a response answers
  host : Bool := false                  -- R204 [1 bit]: the target is host memory
  sys : Bool := false                   -- R130 [1 bit]: the message's packets carry SYSTEM
  recv : Option PoolBuf := none         -- R109 [buffer]: receive buffer a SEND message matched
  checked : Bool := false               -- R165 [1 bit]: that buffer's key check has passed
  blot : List (BitVec 32 × Word × Nat) := [] -- R304 [ranges]: key, address and length already placed
  deriving DecidableEq, Repr

/-- Where the payload of an outgoing packet comes from. -/
inductive TxSrc where
  /-- a header-only packet -/
  | empty
  /-- `len` bytes at `addr` of `key` -/
  | mem (key : BitVec 32) (addr : Word)
  /-- bytes the device holds: request bodies and ATOMIC_RESP values -/
  | imm (bytes : List Byte)
  deriving DecidableEq, Repr

/-- A packet of a connection's send direction that is not yet acknowledged. -/
structure TxPkt where
  psn : BitVec 32 := 0                  -- R124 [32 bits]: PSN
  hdr : BitVec 512 := 0                 -- R119 [512 bits]: header with the fields fixed at build time
  src : TxSrc := .empty                 -- R132 [source]: where the payload is read
  sys : Bool := false                   -- R119 [1 bit]: SYSTEM
  sent : Bool := false                  -- R142 [1 bit]: transmitted at least once
  due : Bool := true                    -- R124 [1 bit]: waits to be transmitted (first time or again)
  holeAt : Option Word := none          -- R131 [Ruling time]: last hole retransmission
  acked : Bool := false                 -- R142 [1 bit]: acknowledged once, cumulatively or selectively
  op : Option (Nat × BitVec 32) := none -- R108 [ring, position]: entry whose message this packet carries
  req : Option (BitVec 32) := none      -- R133 [32 bits]: PSN of the request a response packet answers
  at_ : Word := 0                       -- R153 [Ruling time]: when the packet was queued
  deriving DecidableEq, Repr

structure Conn where
  cfg : BitVec 512 := 0                 -- R121 [512 bits]: context words 0-7 but STATE and PARTITION
  st : ConnSt := .reset                 -- R122 [4 bits]: STATE
  errStatus : Byte := 0                 -- R122 [8 bits]: ERR_STATUS
  lastNak : Byte := 0                   -- R140 [8 bits]: CONN_STATUS.LAST_NAK
  enableResult : Byte := 0              -- R140 [8 bits]: CONN_STATUS.ENABLE_RESULT
  sndNxt : BitVec 32 := 0               -- R124 [32 bits]: SND_NXT
  sndUna : BitVec 32 := 0               -- R124 [32 bits]: SND_UNA
  sndHi : BitVec 32 := 0                -- R124 [32 bits]: SND_HI
  rtoDeadline : Word := 0               -- R131 [64 bits]: RTO_DEADLINE
  srtt : BitVec 48 := 0                 -- R131 [48 bits]: SRTT
  rttvar : BitVec 48 := 0               -- R131 [48 bits]: RTTVAR
  rto : BitVec 48 := 0                  -- R131 [48 bits]: RTO
  retryCount : Byte := 0                -- R131 [8 bits]: RETRY_COUNT
  rnrCount : Byte := 0                  -- R131 [8 bits]: RNR_COUNT
  busyCount : Byte := 0                 -- R131 [8 bits]: BUSY_COUNT
  atomicOut : Byte := 0                 -- R134 [8 bits]: ATOMIC_OUT
  sackTx : BitVec 128 := 0              -- R131 [128 bits]: SACK_TX
  rcvNxt : BitVec 32 := 0               -- R124 [32 bits]: RCV_NXT
  rcvHi : BitVec 32 := 0                -- R124 [32 bits]: RCV_HI
  rcvMap : BitVec 128 := 0              -- R124 [128 bits]: RCV_MAP
  ackPending : BitVec 9 := 0            -- R130 [9 bits, 0 to 256]: ACK_PENDING, which shows at most 255
  ecnCount : Byte := 0                  -- R145 [8 bits]: ECN_COUNT
  ackEcho : BitVec 32 := 0              -- R130 [32 bits]: ACK_ECHO
  msgs : List MsgRec := []              -- R128 [16 records]: MSG_REC
  atomics : List (BitVec 32 × Word) := [] -- R134 [8 records]: ATOMIC_REC, by the PSN of the request answered, with the value
  recvBuf : PoolBuf := {}               -- R128 [128 bits]: RECV_BUF
  rnrActive : Bool := false             -- R177 [1 bit]: RNR_ACTIVE
  rnrPsn : BitVec 32 := 0               -- R177 [32 bits]: RNR_PSN
  resetAt : Word := 0                   -- R123 [64 bits]: RESET_AT
  cwnd : BitVec 32 := 0                 -- R143 [32 bits]: CWND
  inflight : BitVec 32 := 0             -- R142 [32 bits]: INFLIGHT
  aiAcc : BitVec 32 := 0                -- R143 [32 bits]: AI_ACC
  alpha : BitVec 16 := 0                -- R143 [16 bits]: ALPHA
  baseOwd : BitVec 24 := 0              -- R143 [24 bits]: BASE_OWD
  lastOwd : BitVec 24 := 0              -- R143 [24 bits]: LAST_OWD
  lastDec : Word := 0                   -- R143 [64 bits]: LAST_DEC
  baseAt : Word := 0                    -- R143 [64 bits]: BASE_AT
  decCount : BitVec 32 := 0             -- R143 [32 bits]: DEC_COUNT
  markCount : BitVec 32 := 0            -- R143 [32 bits]: MARK_COUNT
  tx : List TxPkt := []                 -- R131 [list]: unacknowledged packets in PSN order
  wait : Option (Bool × Nat × BitVec 32) := none -- R131 [busy?, local instant of its end, NAK_PSN]: RNR or CONTEXT_BUSY wait running
  sendHeld : Bool := false              -- R178 [1 bit]: send direction held after a local fault
  rob : List (Packet × Arrival) := []   -- R128 [reorder buffer]: packets held
  ackSince : Option Nat := none         -- R130 [local clock]: arrival of the first packet counted in ACK_PENDING
  reach : BitVec 5 := 0                 -- R199 [5 bits]: memories its placements reached, for the next acknowledgement
  ackHold : List (BitVec 32 × Nat) := [] -- R130 [PSN, flush]: packets whose acknowledgement waits for a SYSTEM flush
  ackOwed : List (BitVec 32) := []      -- R130 [RCV_NXT]: acknowledgements that wait for visibility
  echo : Echo := {}                     -- R119 [58 bits]: what the next ACK echoes
  nakAt : Tbl Word := []                -- R129 [Ruling time per PSN]: last NAK sent for the PSN
  seqRetxAt : Tbl Word := []            -- R129 [Ruling time per PSN]: last retransmission made for NAK SEQ
  fetching : Bool := false              -- R138 [1 bit]: a context fetch is in progress
  holding : List (Packet × Arrival) := [] -- R138 [miss-holding buffer]: packets waiting for a fetch, in arrival order
  blotting : List (BitVec 32 × Word × Nat) := [] -- R304 [ranges]: zero-fill in progress after a tag refusal
  blotEnd : Byte := 0                   -- R304 [8 bits]: NAK code owed at the end of the blot
  blotPsn : BitVec 32 := 0              -- R305 [32 bits]: PSN of the refused packet
  blotEcho : Echo := {}                 -- R119 [58 bits]: what the NAK owed at the end of the blot echoes
  ctxLost : Bool := false               -- R181 [1 bit]: a fetch found the backing context unreadable; until CONN_CTL RESET rewrites it
  rtoDue : Bool := false                -- R138 [1 bit]: a timer expiry waits for the context
  waitDue : Bool := false               -- R138 [1 bit]: the end of a back-off wait waits for the context
  refused : Bool := false               -- R219 [1 bit]: the router refused the last transmission
  readPsn : List (BitVec 32 × Nat × BitVec 32) := [] -- R133 [list]: READ_REQ and ATOMIC_REQ PSNs awaiting a response, with their entry
  deriving DecidableEq, Repr
/-! ### Congestion, scheduling, policing (chapter 7) -/

/-- The leaf of the scheduler tree a packet waits at (Table 7.3). -/
inductive Leaf where
  /-- a work ring's leaf under partition and traffic class -/
  | ring (part tc ring : Nat)
  /-- the RESPONSE leaf of a partition and traffic class -/
  | response (part tc : Nat)
  /-- the TRANSIT leaf of a traffic class and virtual channel -/
  | transit (tc vc : Nat)
  /-- the port's control queue -/
  | control
  deriving DecidableEq, Repr

/-- What the lookup of a packet on an adaptive channel found, under the configuration that was running (R16). -/
structure Looked where
  cands : List Nat := []                -- R217 [ports]: ports of the permitted directions but the arrival port's
  levels : List Nat := []               -- R231 [3 thresholds]: bytes at which a channel's congestion level rises
  det : List Nat := []                  -- R214 [ports]: ports of the class's deterministic direction
  detVc : Nat := 0                      -- R215 [4 bits]: channel of the deterministic route
  drop : Option Nat := none             -- R213 [RTE_DROPS index]: why the entry has no deterministic route
  deriving DecidableEq, Repr

/-- A packet waiting for an output port. -/
structure QPkt where
  port : Nat := 0                       -- R146 [4 bits]: output port
  vc : Nat := 0                         -- R215 [4 bits]: virtual channel on the output link
  leaf : Leaf := .control               -- R147 [leaf]: where it waits
  pkt : Packet := {}                    -- R151 [packet]: the packet
  at_ : Word := 0                       -- R151 [Ruling time]: when it joined
  since : Word := 0                     -- R153 [Ruling time]: launch of its entry, or arrival of its header
  conn : Option Nat := none             -- R147 [20 bits]: connection whose next due packet this stands for
  own : Option Nat := none              -- R346 [20 bits]: connection an ACK or NAK is of
  inPort : Option Nat := none           -- R227 [4 bits]: arrival port of a transit packet
  kind2 : Bool := false                 -- R216 [1 bit]: waits on the adaptive channel for a candidate port
  escapeAt : Nat := 0                   -- R217 [local clock]: when it escapes
  arrVc : Nat := 0                      -- R222 [4 bits]: channel a transit packet arrived on
  arrDir : Nat := 0xF                   -- R215 [4 bits]: direction of the arrival port
  looked : Looked := {}                 -- R16 [record]: what its lookup found, while it waits for a candidate port
  shared : Bool := false                -- R218 [1 bit]: its flits rest in the shared part of the packet buffer
  deriving DecidableEq, Repr

/-- A shaper or meter bucket: bytes in units of 1/125 byte (exact at the 8 ns tick), and its last refill. -/
structure Bucket where
  level : Int := 0                      -- R150 [1/125 byte]: signed level
  at_ : Nat := 0                        -- R150 [local clock]: last refill
  deriving DecidableEq, Repr

structure Sch where
  q : List QPkt := []                   -- R146 [list]: packets waiting for the ports, oldest first
  deficit : Tbl (BitVec 32) := []       -- R149 [32 bits per child]: deficit counters
  fresh : Tbl Bool := []                -- R149 [1 bit per child]: fresh
  cur : Tbl Nat := []                   -- R149 [index per node]: node.cur
  buckets : Tbl Bucket := []            -- R150 [per shaper]: shaper buckets used since they were full
  launchDeficit : Tbl (BitVec 32) := [] -- R152 [32 bits per child]: deficits of the launch tree
  launchFresh : Tbl Bool := []          -- R152 [1 bit per child]: fresh of the launch tree
  launchCur : Tbl Nat := []             -- R152 [index per node]: cur of the launch tree
  hist : Tbl (BitVec 16) := []          -- R153 [16 bits per bin]: BAR0 histograms
  histMgmt : Tbl (BitVec 16) := []      -- R154 [16 bits per bin]: management-plane copies
  snap1 : Word := 0                     -- R154 [64 bits]: SCH_HIST_DATA1 snapshot
  idleAt : Tbl Nat := []                -- R153 [local clock per port]: last idle-period sample
  tc : Tbl Bucket := []                 -- R155 [per meter]: committed token bucket
  tp : Tbl Bucket := []                 -- R155 [per meter]: peak token bucket
  left : Tbl Word := []                 -- R145 [64 bits per port and channel]: packets that left port p on channel v, by 16 p + v
  deriving DecidableEq, Repr

/-! ### Keys and translation (chapter 8) -/

/-- A translation cache entry (R173). -/
structure XltEnt where
  part : Nat := 0                       -- R173 [6 bits]: partition
  index : Nat := 0                      -- R173 [22 bits]: key INDEX
  gen : Byte := 0                       -- R173 [8 bits]: key GEN
  page : Nat := 0                       -- R173 [page base]: region page
  size : Nat := 0                       -- R173 [bytes]: page size
  final : Nat := 0                      -- R173 [address]: final address of the page
  write : Bool := false                 -- R173 [1 bit]: write access granted
  pasid : BitVec 20 := 0                -- R174 [20 bits]: PASID
  sticky : Bool := false                -- R160 [1 bit]: STICKY class
  ask : Option Nat := none              -- R174 [address]: page asked of the host, where ATS translated it
  once : Option Bool := none            -- R160 [0, 1 or none]: no cache entry but the answer an access to an UNCACHED key waits for; whether it writes
  deriving DecidableEq, Repr

/-- How far an on-demand miss has gone. -/
inductive MissSt where
  /-- ATS Translation Request sent -/
  | ats
  /-- waits in the pending list for a page request slot -/
  | pend
  /-- Page Request sent -/
  | pri
  /-- ATS Translation Request sent again after a Success response -/
  | again
  deriving DecidableEq, Repr

/-- A translation miss in progress. -/
structure Miss where
  fn : Nat := 0                         -- R175 [6 bits]: function
  pasid : BitVec 20 := 0                -- R175 [20 bits]: PASID
  page : Nat := 0                       -- R175 [page base]: page
  key : BitVec 32 := 0                  -- R175 [32 bits]: key of the region
  write : Bool := false                 -- R175 [1 bit]: access needed
  who : List Nat := []                  -- R177 [list]: accesses that wait for it
  st : MissSt := .ats                   -- R175 [enum]: progress
  group : Nat := 0                      -- R176 [9 bits]: page request group index
  deadline : Nat := 0                   -- R176 [local clock]: end of PRI_TIMEOUT
  deriving DecidableEq, Repr

structure Xlt where
  keys : Tbl (BitVec 256) := []         -- R161 [4,194,304 entries of 256 bits]: key table
  keyPoison : List Nat := []            -- R163 [list]: slots whose entry returns poison
  keyCached : List Nat := []            -- R163 [131,072 slots]: key cache, least recently used first
  keyFetch : List Nat := []             -- R163 [list]: key fetches in progress
  atsKeys : List Nat := []              -- R170 [list]: slots whose host region was registered while ATS was enabled
  cache : List XltEnt := []             -- R173 [524,288 entries]: translation cache, least recently used first
  misses : List Miss := []              -- R175 [list]: translation misses in progress
  faulted : List (Nat × BitVec 32 × Nat) := [] -- R177 [access, key, page]: misses that ended in a fault, not yet seen by the access that waits
  past : List (BitVec 32 × BitVec 256 × Bool) := [] -- R165 [key, entry, 1 bit]: earlier registrations whose checked ranges are still in use, and whether registered while ATS was enabled
  lateGroups : List (Nat × Nat) := []   -- R176 [function, group]: timed-out groups not reusable yet
  stopped : BitVec 64 := 0              -- R176 [64 bits]: XLT_PRI_FN.STOPPED of each function
  invalBusy : Bool := false             -- R183 [1 bit]: XLT_INVAL_STATUS.BUSY
  rangeInit : List Nat := []            -- R162 [list]: partitions whose key range is being written
  deriving DecidableEq, Repr

/-! ### Host attach and tray attach (chapter 9) -/

/-- Line state of a caching agent (R192). -/
inductive Line where
  | i | s | e | m
  deriving DecidableEq, Repr

/-- The configuration-space bits of one function that the device's behaviour reads. -/
structure Fn where
  bme : Bool := false                   -- R185 [1 bit]: Bus Master Enable
  d3 : Bool := false                    -- R185 [1 bit]: in D3hot
  ats : Bool := false                   -- R170 [1 bit]: ATS Enable
  pri : Bool := false                   -- R176 [1 bit]: PRI Enable
  pasid : Bool := false                 -- R164 [1 bit]: PASID Enable
  priAlloc : Nat := 0                   -- R175 [count]: Outstanding Page Request Allocation
  atomicEn : Bool := false              -- R202 [1 bit]: AtomicOp Requester Enable
  msixEn : Bool := false                -- R98 [1 bit]: MSI-X Enable
  msixMask : Bool := false              -- R98 [1 bit]: MSI-X Function Mask
  deriving DecidableEq, Repr

structure Hst where
  lost : Bool := false                  -- R204 [1 bit]: HST_STATUS.LOST
  dlActive : Bool := false              -- R206 [1 bit]: HST_STATUS.DL_ACTIVE
  cxlCache : Bool := false              -- R206 [1 bit]: HST_STATUS.CXL_CACHE
  cxlMem : Bool := false                -- R206 [1 bit]: HST_STATUS.CXL_MEM
  cacheNeg : Bool := false              -- R187 [1 bit]: CXL.cache negotiated with the link
  memNeg : Bool := false                -- R187 [1 bit]: CXL.mem negotiated with the link
  flit : Bool := false                  -- R206 [1 bit]: HST_STATUS.FLIT
  width : BitVec 5 := 0                 -- R206 [5 bits]: HST_STATUS.WIDTH
  rate : BitVec 4 := 0                  -- R206 [4 bits]: HST_STATUS.RATE
  numVf : BitVec 6 := 0                 -- R206 [6 bits]: HST_STATUS.NUM_VF
  epoch : BitVec 32 := 0                -- R204 [32 bits]: HST_EPOCH
  lossAt : Word := 0                    -- R204 [64 bits]: HST_LOSS_AT
  fns : Tbl Fn := []                    -- R185 [64 functions]: configuration-space bits
  cacheLines : List Nat := []           -- R192 [lines]: host and tray lines the device caches in S
  hostOrder : List Nat := []            -- R187 [262,144 lines]: Inkwell lines the host holds, oldest first
  dir : Tbl Line := []                  -- R192 [per agent and Inkwell line]: snoop filter
  msix : Tbl Word := []                 -- R185 [2,048 x 16 bytes per function]: MSI-X tables
  pba : Tbl Bool := []                  -- R185 [2,048 bits per function]: MSI-X pending bits
  msixAt : Tbl Nat := []                -- R98 [local clock per vector]: last message sent on the vector
  xlate : List (Nat × Nat × Nat × Bool) := [] -- R170 [function, page, page, 1 bit]: translations the host has granted, and whether writes are
  flushDue : List (Nat × Nat × Nat) := [] -- R201 [function, local instant, number]: SYSTEM flushes not yet done
  flushNext : Nat := 0                  -- R201 [count]: number of the next flush
  deriving DecidableEq, Repr

/-- TRAY_PORT_STATUS.STATE. -/
inductive TraySt where
  | down | training | init | up
  deriving DecidableEq, Repr

/-- A request the device has outstanding on a tray port. -/
structure TrayReq where
  tag : BitVec 12 := 0                  -- R192 [12 bits]: TAG
  msg : TrayMsg := {}                   -- R194 [message]: the request as sent
  retries : Nat := 0                    -- R194 [count]: RETRYs in succession
  reissueAt : Option Nat := none        -- R194 [local clock]: reissue after RETRY
  op : Option (Nat × BitVec 32) := none -- R194 [ring, position]: FENCE the request serves, or READ or atomic whose response it places
  who : Nat := 0                        -- R194 [entry or packet]: the access the request serves
  key : BitVec 32 := 0                  -- R194 [32 bits]: key of the access
  sent : Bool := false                  -- R196 [1 bit]: sent; false while the peer's TAGS bars it
  sys : Bool := false                   -- R130 [1 bit]: serves a packet with SYSTEM = 1
  path : Bool := false                  -- R192 [1 bit]: CMP PATH received
  deriving DecidableEq, Repr

structure TrayPort where
  st : TraySt := .down                  -- R195 [8 bits]: STATE
  lanes : BitVec 4 := 0                 -- R206 [4 bits]: LANES
  peerVersion : Byte := 0               -- R196 [8 bits]: PEER_VERSION
  peerTags : Nat := 0                   -- R196 [count]: requests the peer accepts outstanding
  credits : Nat × Nat × Nat := (0, 0, 0) -- R190 [10 bits each]: REQ, SNP and RSP credits the peer granted
  txSeq : BitVec 12 := 0                -- R190 [12 bits]: FSEQ of the next flit
  rxSeq : BitVec 12 := 0                -- R190 [12 bits]: FSEQ expected
  unacked : List (BitVec 12 × List (BitVec 128)) := [] -- R191 [2,048 flits]: flits sent and not acknowledged
  replays : Nat := 0                    -- R191 [count]: replay requests for one flit without success
  gotInit : Bool := false               -- R196 [1 bit]: the peer's INIT was received
  firstFlit : Bool := false             -- R196 [1 bit]: the peer's first ordinary flit was accepted
  badInit : Bool := false               -- R196 [1 bit]: the record for a refused INIT was posted in this attempt
  reqs : List TrayReq := []             -- R192 [list]: requests outstanding
  snoops : List (BitVec 12 × Nat × Nat) := [] -- R192 [tag, line, OPC]: snoops sent and unanswered
  waiting : List TrayMsg := []          -- R192 [list]: requests that wait for a snoop of their line
  txq : List TrayMsg := []              -- R191 [list]: messages not yet sent, for want of credit or of room for unacknowledged flits
  slots : List (BitVec 128) := []       -- R190 [slots]: slots of sent messages not yet in a flit
  partial_ : List (BitVec 128) := []    -- R190 [slots]: slots of a message not yet whole
  deriving DecidableEq, Repr

/-! ### Fabric routing and links (chapter 10) -/

/-- The link layer of one fabric port. -/
structure Link where
  up : Bool := false                    -- R221 [1 bit]: link layer up
  exp : BitVec 16 := 0                  -- R221 [16 bits]: EXP
  lost : Bool := false                  -- R221 [1 bit]: a unit was lost; replay requested from EXP
  requests : Nat := 0                   -- R221 [count]: successive replay requests for one LSEQ
  nextSeq : BitVec 16 := 0              -- R221 [16 bits]: LSEQ of the next sequenced unit
  held : List (BitVec 16 × BitVec 4 × BitVec 512) := [] -- R221 [32,768 units]: unacknowledged units, oldest first
  replayAt : Option (BitVec 16 × Nat) := none -- R221 [LSEQ, local instant]: last replay request acted on
  limit : Tbl (BitVec 16) := []         -- R222 [16 bits x 12]: CREDIT_LIMIT received from the peer
  sent : Tbl (BitVec 16) := []          -- R222 [16 bits x 12]: SENT
  grant : Tbl (BitVec 16) := []         -- R222 [16 bits x 12]: CREDIT_LIMIT this device grants
  rx : Option (BitVec 512 × List Byte × Nat × Bool) := none -- R220 [packet]: packet arriving: header, payload so far, flits due, whether it was looked up
  rxAt : Arrival := {}                  -- R46 [record]: when the header of that packet came in
  cut : Option (Nat × Nat) := none      -- R223 [port, channel]: output by which that packet leaves cut-through
  upAt : Nat := 0                       -- R221 [local clock]: when the link layer last came up
  deriving DecidableEq, Repr

/-- A congestion map record (Table 10.9). -/
structure CmapRec where
  levels : BitVec 384 := 0              -- R232 [384 bits]: LEVELS
  time : Word := 0                      -- R232 [64 bits]: TIME
  seq : BitVec 32 := 0                  -- R232 [32 bits]: SEQ
  entry : BitVec 16 := 0                -- R232 [16 bits]: ENTRY
  flags : Byte := 0                     -- R232 [8 bits]: FLAGS
  deriving DecidableEq, Repr

/-- A firmware recovery exchange on one port (R224), as requester or responder. -/
structure Recov where
  serving : Bool := false               -- R224 [1 bit]: this device answers READs on the port
  total : BitVec 32 := 0                -- R224 [32 bits]: TOTAL_LENGTH of the OFFER
  digest : BitVec 256 := 0              -- R224 [256 bits]: digest of the OFFER
  bytes : List Byte := []               -- R224 [bytes]: image bytes received in order
  asked : Nat := 0                      -- R224 [bytes]: image bytes asked for
  deriving DecidableEq, Repr

structure Rte where
  links : Tbl Link := []                -- R221 [16 ports]: link layers
  cmapNext : BitVec 32 := 0             -- R232 [32 bits]: SEQ of the next congestion map record
  cmap : Tbl CmapRec := []              -- R232 [1,024 records]: record buffer by slot
  cmapMgmt : BitVec 32 := 0             -- R397 [32 bits]: SEQ of the first record the management plane's map copy holds
  cmapGone : List (BitVec 32) := []     -- R18 [list]: SEQs whose copy the tap discarded
  telemFrom : BitVec 32 := 0            -- R233 [32 bits]: SEQ of the first record not yet sent as telemetry
  recov : Tbl Recov := []               -- R224 [16 ports]: recovery exchanges
  local_ : List (Packet × Nat × Arrival) := [] -- R213 [list]: packets for local processing, with their arrival port and time
  deriving DecidableEq, Repr

/-! ### Chords (chapter 11) -/

/-- Progress of a running chord, Pluck or Strum operation on a slot. -/
structure Wait where
  edge : Nat := 0                       -- R245 [index]: edge awaited
  credit : Bool := false                -- R245 [1 bit]: the wait is for credit on the edge, not for data from it
  seg : Nat := 0                        -- R245 [count]: segments used on the edge when the wait began
  step : Nat := 0                       -- R245 [8 bits]: step whose window bounds the wait
  deadline : Nat := 0                   -- R245 [96 bits]: extended Ruling time of the deadline
  deriving DecidableEq, Repr

/-- A segment staged from an edge. -/
structure Seg where
  edge : Nat := 0                       -- R239 [index]: edge it arrives on
  down : Bool := false                  -- R238 [1 bit]: down step
  round : Nat := 0                      -- R238 [16 bits]: ring round
  seg : Nat := 0                        -- R239 [32 bits]: segment index
  npkt : Nat := 0                       -- R241 [16 bits]: packets of the segment
  step : Nat := 0                       -- R241 [8 bits]: STEP
  sig : Word := 0                       -- R244 [64 bits]: SIG of its first packet
  src : BitVec 16 := 0                  -- R241 [16 bits]: SRC_MEMBER of its first packet
  others : List (Word × BitVec 16) := [] -- R244 [list]: SIG and SRC_MEMBER of later packets that do not agree with it
  block : Nat := 0                      -- R241 [16 bits]: BLOCK
  pkts : List (Nat × List Byte) := []   -- R239 [packets]: payloads received, by PKT
  deriving DecidableEq, Repr

/-- A slot's running operation. -/
structure ChdRun where
  ring : Nat := 0                       -- R242 [14 bits]: ring of the command
  pos : BitVec 32 := 0                  -- R242 [32 bits]: position of the command
  opcode : Byte := 0                    -- R238 [8 bits]: opcode
  seq : BitVec 16 := 0                  -- R242 [16 bits]: operation sequence
  sig : Word := 0                       -- R244 [64 bits]: signature
  next : Nat := 0                       -- R239 [count]: next segment of the up phase, or of the ring round
  nextDown : Nat := 0                   -- R239 [count]: next segment of the down phase
  ringUsed : Nat := 0                   -- R239 [count]: segments of all rounds used on a ring's input edge
  segs : Nat := 0                       -- R239 [count]: segments of a block
  written : Nat := 0                    -- R247 [bytes]: destination bytes written from the start
  result : Option (List Byte) := none   -- R178 [bytes or none]: PLK_SCALAR results that wait for their destination's translation
  wrote : List (Nat × Nat) := []        -- R247 [ranges]: destination ranges written
  waits : List Wait := []               -- R245 [list]: waits in progress
  began : Nat := 0                      -- R245 [96 bits]: launch, extended Ruling time
  deriving DecidableEq, Repr

/-- An ABORT recorded for an operation not yet launched (R250). -/
structure Pend where
  seq : BitVec 16 := 0                  -- R250 [16 bits]: operation sequence
  code : BitVec 4 := 0                  -- R250 [4 bits]: CODE
  offender : BitVec 16 := 0             -- R250 [16 bits]: OFFENDER
  step : Byte := 0                      -- R250 [8 bits]: STEP
  deriving DecidableEq, Repr
/-- The state of one chord slot, and of one Strum exchange. -/
structure Slot where
  nextSeq : BitVec 16 := 0              -- R242 [16 bits]: NEXT_SEQ
  run : Option ChdRun := none           -- R242 [operation]: the operation running on the slot
  early : List Seg := []                -- R243 [segments]: segments staged, early arrivals included
  limits : Tbl Nat := []                -- R240 [per edge and step]: SEG_LIMIT granted by this device
  used : Tbl Nat := []                  -- R240 [per edge and step]: segments combined and forwarded or placed
  credit : Tbl Nat := []                -- R240 [per edge and step]: SEG_LIMIT last received for the running or next operation
  pend : List Pend := []                -- R250 [4 records]: pending-abort list, oldest first
  lastSeq : BitVec 16 := 0              -- R253 [16 bits]: CHD_LAST_ABORT.OPSEQ
  lastOff : BitVec 16 := 0              -- R253 [16 bits]: CHD_LAST_ABORT.OFFENDER
  lastStatus : Byte := 0                -- R253 [8 bits]: CHD_LAST_ABORT.STATUS
  lastStep : Byte := 0                  -- R253 [8 bits]: CHD_LAST_ABORT.STEP
  lastCode : BitVec 4 := 0              -- R253 [4 bits]: CHD_LAST_ABORT.CODE
  flits : List (Nat × Nat × Nat × BitVec 256 × Word) := [] -- R280 [edge, PTYPE, FLIT, DATA, SIG]: Pluck staging
  deriving DecidableEq, Repr

/-! ### Reduction test (chapter 12) -/

structure RedTest where
  acc : Acc := {}                       -- R275 [320 + 8 bits]: test accumulator and flag byte
  out : Word := 0                       -- R274 [64 bits]: RED_TEST_OUT
  err : Bool := false                   -- R275 [1 bit]: RED_TEST_STATUS.ERR
  busyUntil : Nat := 0                  -- R275 [local clock]: RED_TEST_STATUS.BUSY until then
  deriving DecidableEq, Repr

/-! ### Strum (chapter 13) -/

/-- One message of a running Strum operation, as receiver. -/
structure StmIn where
  member : Nat := 0                     -- R290 [16 bits]: sending member
  got : Nat := 0                        -- R289 [bytes]: bytes placed and discarded
  placed : Nat := 0                     -- R290 [bytes]: bytes placed
  total : Option Nat := none            -- R289 [bytes]: TOTAL of its END
  began : Nat := 0                      -- R291 [96 bits]: begin of the wait
  deriving DecidableEq, Repr

/-- One message of a running Strum operation, as sender. -/
structure StmOut where
  member : Nat := 0                     -- R286 [16 bits]: destination member
  node : BitVec 32 := 0                 -- R286 [32 bits]: its node address
  off : Nat := 0                        -- R286 [bytes]: SEND_OFF
  len : Nat := 0                        -- R286 [bytes]: SEND_LEN
  next : Nat := 0                       -- R289 [bytes]: next byte to send
  quota : Nat := 0                      -- R292 [bytes]: scheduled portion
  port : Nat := 0                       -- R292 [4 bits]: port of its route
  ended : Bool := false                 -- R289 [1 bit]: END sent
  deriving DecidableEq, Repr

/-- STM_EXCH_STATUS.STATE of a running exchange. -/
inductive StmPhase where
  | open_ | data | close
  deriving DecidableEq, Repr

structure StmRun where
  phase : StmPhase := .open_            -- R289 [3 bits]: phase
  sentUp : Bool := false                -- R289 [1 bit]: this member's STM_UP of the phase was sent
  ins : List StmIn := []                -- R290 [list]: messages expected
  outs : List StmOut := []              -- R289 [list]: messages to send
  slice : Nat := 0                      -- R287 [bytes]: SL
  hdr : Nat := 0                        -- R287 [bytes]: H
  alltoall : Bool := false              -- R286 [1 bit]: STM_ALLTOALL
  rot : Tbl Nat := []                   -- R292 [index per port, at 16 of the spilled packets]: rotation over destinations
  deriving DecidableEq, Repr

structure Stm where
  runs : Tbl StmRun := []               -- R289 [per exchange]: running Strum data phases
  quotas : Tbl Nat := []                -- R294 [per exchange and port]: STM_QUOTA
  deriving DecidableEq, Repr
/-! ### Cipher (chapter 14) -/

structure Cph where
  keys : Tbl (Option (BitVec 256)) := [] -- R296 [65,536 entries of 256 bits]: key table, none is EMPTY
  data : Tbl Word := []                 -- R310 [4 x 64 bits]: CPH_KEY_DATA words written
  result : Tbl Byte := []               -- R297 [8 bits per entry]: CPH_KEY_STATUS.RESULT of the last command
  deriving DecidableEq, Repr

/-! ### Inkwell (chapter 15) -/

/-- One memory channel. -/
structure Chan where
  present : Bool := false               -- R312 [1 bit]: INK_CHAN_STATUS.PRESENT
  ranks4 : Bool := false                -- R325 [1 bit]: RANKS4
  fenced : Bool := false                -- R322 [1 bit]: FENCED
  cause : Byte := 0                     -- R325 [8 bits]: CAUSE
  scrubbing : Bool := false             -- R321 [1 bit]: SCRUBBING
  lastUe : Word := 0                    -- R320 [64 bits]: INK_LAST_UE
  ueTimes : List Nat := []              -- R322 [local clock]: when the uncorrectable lines of the last hour were found
  deriving DecidableEq, Repr

structure Ink where
  reference : Nat := 0                  -- R312 [bytes]: reference capacity of one DIMM, 0 if none
  trained : Bool := false               -- R312 [1 bit]: SPD reading and training have ended
  fitted : Nat := 0                     -- R312 [count]: DIMMs detected
  chans : Tbl Chan := []                -- R322 [12 channels]: channel state
  boot : Bool := true                   -- R443 [1 bit]: the boot placement is in force
  fill : List Nat := []                 -- R316 [records]: regions still to be zero-filled, in record order
  move : List Nat := []                 -- R315 [records]: regions whose contents are being moved
  poison : List Nat := []               -- R318 [lines]: poisoned lines, by channel and offset
  errors : Tbl Nat := []                -- R320 [lines]: latent ECC errors met by the next read, 1 correctable, 2 uncorrectable
  scrubAt : Nat := 0                    -- R321 [local clock]: start of the patrol pass
  scrubPeriod : Nat := 24               -- R325 [hours]: PERIOD in force for the running pass
  deriving DecidableEq, Repr

/-! ### Partitions (chapter 16) -/

/-- PTN_STATUS.STATE (Table 16.3). -/
inductive PtnSt where
  | active | preempting | preempted | quiescing | quiesced | resetting
  deriving DecidableEq, Repr

structure Ptn where
  st : PtnSt := .quiesced               -- R330 [3 bits]: STATE; partition 0 is ACTIVE at power-on (R326)
  quiesceAt : Word := 0                 -- R338 [64 bits]: PTN_QUIESCE_AT
  preemptAt : Word := 0                 -- R338 [64 bits]: PTN_PREEMPT_AT
  reach : BitVec 5 := 0                 -- R199 [5 bits]: memories reached by placements acknowledged
  forced : Bool := false                -- R336 [1 bit]: the running reset is a forced one
  initPending : Bool := false           -- R162 [1 bit]: key range being initialised; nothing launches
  deriving DecidableEq, Repr
/-! ### Determinism and Folio (chapter 17) -/

/-- FOL_STATUS.STATE (Table 17.12). -/
inductive FolSt where
  | idle | capture | post | frozen | replayReady | replaying | replayDone | diverged | unavailable
  deriving DecidableEq, Repr

structure Det where
  fingerprint : Word := 0               -- R341 [64 bits]: DET_FINGERPRINT
  fpValid : Bool := false               -- R341 [1 bit]: DET_STATUS.FP_VALID
  fpPending : Bool := false             -- R341 [1 bit]: a recomputation is running
  replay : Bool := false                -- R351 [1 bit]: DET_STATUS.REPLAY
  trimClass : BitVec 16 := 0            -- R341 [16 bits]: trim class, from OTP
  fwDigest : BitVec 256 := 0            -- R341 [256 bits]: digest of the running firmware image
  scoreDigest : BitVec 256 := 0         -- R341 [256 bits]: digest of the running Score image
  stageDigest : BitVec 256 := 0         -- R341 [256 bits]: digest of the image last loaded
  out0 : Word := 0                      -- R353 [64 bits]: DET_GEN_OUT0
  out1 : Word := 0                      -- R353 [64 bits]: DET_GEN_OUT1
  deriving DecidableEq, Repr

/-- A parsed record of a replay range (R350). -/
structure FolRec where
  kind : Byte := 0                      -- R345 [8 bits]: KIND
  part : Byte := 0                      -- R345 [8 bits]: PARTITION
  seq : BitVec 32 := 0                  -- R345 [32 bits]: SEQ
  time : Word := 0                      -- R345 [64 bits]: TIME
  body : List Byte := []                -- R345 [bytes]: body
  deriving DecidableEq, Repr

structure Fol where
  st : FolSt := .unavailable            -- R347 [4 bits]: STATE; 0x8 without a KIND 5 region
  head : Word := 0                      -- R345 [64 bits]: FOL_HEAD
  seq : Word := 0                       -- R345 [64 bits]: FOL_SEQ
  freezeAt : Word := 0                  -- R347 [64 bits]: FOL_FREEZE_AT
  freezeHead : Word := 0                -- R347 [64 bits]: FOL_FREEZE_HEAD
  postLeft : Nat := 0                   -- R347 [bytes]: record bytes still to be written in POST
  queue : Nat := 0                      -- R18 [bytes]: journal bytes waiting in the copy channel
  gap : Nat := 0                        -- R18 [count]: copies discarded and not yet marked by a GAP record
  markImg : List (Nat × Nat × List Byte) := [] -- R348 [list]: content taken at the MARK
  replayPos : Word := 0                 -- R353 [64 bits]: FOL_REPLAY_POS
  replayResult : Byte := 0              -- R353 [8 bits]: FOL_REPLAY_RESULT
  recs : List FolRec := []              -- R350 [list]: records of the replay range not yet consumed
  produced : List FolRec := []          -- R350 [list]: outputs produced in replay and not yet compared
  deriving DecidableEq, Repr

/-! ### Optics and laser source modules (chapter 18) -/

/-- OPT_WL_STATUS.LOCK (Table 18.3). -/
inductive WlLock where
  | dark | seek | locked | lost
  deriving DecidableEq, Repr

structure Wl where
  lock : WlLock := .dark                -- R357 [4 bits]: LOCK
  rxPower : BitVec 16 := 0x8000         -- R369 [16 bits]: RX_POWER
  heater : BitVec 16 := 0               -- R369 [16 bits]: HEATER
  berExp : BitVec 16 := 0               -- R369 [16 bits]: BER_EXP
  seekFrom : Nat := 0                   -- R357 [local clock]: start of SEEK
  deriving DecidableEq, Repr

structure OptPort where
  fenced : Bool := true                 -- R359 [1 bit]: FENCED
  cause : Byte := 2                     -- R359 [8 bits]: CAUSE, ABSENT at reset
  wls : Tbl Wl := []                    -- R357 [8 wavelengths]: wavelength state
  rxLow : Bool := false                 -- R359 [1 bit]: cause RX_POWER persists
  txLow : Bool := false                 -- R359 [1 bit]: cause TX_POWER persists
  berBad : Bool := false                -- R359 [1 bit]: cause BER persists
  fecCorr : Word := 0                   -- R356 [64 bits]: OPT_FEC_CORR
  fecUncorr : Word := 0                 -- R356 [64 bits]: OPT_FEC_UNCORR
  fences : Word := 0                    -- R369 [64 bits]: OPT_FENCES
  deriving DecidableEq, Repr

structure Bay where
  present : Bool := false               -- R369 [1 bit]: PRESENT
  interlock : Bool := false             -- R369 [1 bit]: INTERLOCK closed
  lit : Bool := false                   -- R369 [1 bit]: LIT
  checked : Bool := false               -- R364 [1 bit]: CHECKED
  refused : Bool := false               -- R364 [1 bit]: REFUSED
  released : Bool := false              -- R370 [1 bit]: RELEASED
  checking : Bool := false              -- R364 [1 bit]: a certificate check is due or running
  enLow : Bool := false                 -- R362 [1 bit]: LSM_EN_N is low
  current : BitVec 32 := 0              -- R369 [32 bits]: CURRENT
  life : Nat := 0                       -- R365 [weighted us]: LSM_LIFE in millionths of a weighted second
  serial : BitVec 128 := 0              -- R363 [128 bits]: SERIAL
  iNom : BitVec 32 := 0                 -- R363 [32 bits]: I_NOM
  iMax : BitVec 32 := 0                 -- R363 [32 bits]: I_MAX
  rated : Word := 0                     -- R363 [64 bits]: RATED_LIFE
  eepromLife : Word := 0                -- R365 [64 bits]: LIFE in the module's EEPROM
  challenge : BitVec 256 := 0           -- R364 [256 bits]: challenge nonce sent
  challenges : BitVec 32 := 0           -- R343 [32 bits]: challenges issued on the bay since the start
  insertions : Word := 0                -- R369 [64 bits]: LSM_INSERTIONS
  overload : Bool := false              -- R438 [1 bit]: bay switched off after an overload
  cert : Option (List Byte) := none     -- R363 [EEPROM record]: the inserted module's record
  deriving DecidableEq, Repr

/-! ### Ethernet and management segment (chapter 19) -/

/-- Queue pair states (Table 19.5). -/
inductive QpSt where
  | reset | rts | error
  deriving DecidableEq, Repr

structure Qp where
  cfg : BitVec 512 := 0                 -- R386 [512 bits]: software fields of Table 19.5
  st : QpSt := .reset                   -- R386 [2 bits]: STATE
  epsn : BitVec 24 := 0                 -- R377 [24 bits]: EPSN
  msn : BitVec 24 := 0                  -- R377 [24 bits]: MSN
  lastImm : BitVec 32 := 0              -- R375 [32 bits]: LAST_IMM
  errCause : Byte := 0                  -- R376 [8 bits]: ERR_CAUSE
  rate : BitVec 32 := 0                 -- R378 [32 bits]: RATE
  openKey : BitVec 32 := 0              -- R376 [32 bits]: R_Key of the open WRITE message
  openAddr : Word := 0                  -- R376 [64 bits]: next address of the open WRITE message
  openMsg : Bool := false               -- R377 [1 bit]: a WRITE message is open
  nakSent : Bool := false               -- R377 [1 bit]: NAK PSN Sequence Error sent for EPSN
  cnpTxAt : Option Nat := none          -- R378 [local clock]: last CNP sent
  cnpRxAt : Option Nat := none          -- R378 [local clock]: last reduction made for a CNP
  periodAt : Nat := 0                   -- R378 [local clock]: start of the running RATE_PERIOD
  sendAt : Nat := 0                     -- R378 [local clock]: when RATE lets the next READ Response start
  resp : List (Word × List Byte) := []  -- R375 [frames]: READ Response frames waiting, with the Ruling time they were queued
  deriving DecidableEq, Repr

structure EthPort where
  link : Bool := false                  -- R386 [1 bit]: LINK
  pcsLock : Bool := false               -- R386 [1 bit]: PCS_LOCK
  ingress : List (List Byte × Bool) := [] -- R156 [4 MiB]: frames admitted and not yet processed, with CE set by the meter
  frames : List (List Byte) := []       -- R147 [list]: control-queue frames waiting
  deriving DecidableEq, Repr

/-- A tracked Rumos source (R383). -/
structure RumosSrc where
  mac : BitVec 48 := 0                  -- R383 [48 bits]: source MAC
  seq : Word := 0                       -- R383 [64 bits]: last accepted SEQ
  reply : List Byte := []               -- R383 [bytes]: cached reply
  deriving DecidableEq, Repr

/-- A Rumos request: the frame's source, its header and its body (Table 19.6). -/
structure Rumos where
  src : List Byte := []                 -- R383 [6 bytes]: source MAC
  type : Nat := 0                       -- R383 [8 bits]: TYPE
  seq : Nat := 0                        -- R383 [64 bits]: SEQ
  target : List Byte := []              -- R383 [4 bytes]: TARGET
  body : List Byte := []                -- R384 [up to 1,968 bytes]: body
  deriving DecidableEq, Repr

structure Mseg where
  mac : BitVec 48 := 0                  -- R380 [48 bits]: MSEG_MAC, from OTP
  keyed : Bool := false                 -- R385 [1 bit]: a rack key is present
  rackKey : BitVec 256 := 0             -- R385 [256 bits]: rack key
  keyWords : Tbl Word := []             -- R386 [4 x 64 bits]: MSEG_KEY words written
  keyPend : Option (BitVec 256) := none -- R385 [256 bits]: rack key whose flash write is running
  keyReq : Option Rumos := none         -- R384 [request]: KEY_SET whose reply waits for the hold-up check
  rx : List (List Byte × Bool) := []    -- R381 [64 KiB buffer]: frames received, with TRUNC
  tx : List (List Byte) := []           -- R380 [list]: frames waiting to be sent
  sending : Nat := 0                    -- R380 [count]: frames that may still be sent in this PLCA transmit opportunity
  collisions : Nat := 0                 -- R380 [count]: collisions of the frame at the head
  attempts : Word := 0                  -- R343 [64 bits]: transmission attempts since power-on
  backoffUntil : Option Nat := none     -- R380 [local clock]: end of the running back-off
  pausedUntil : Option Nat := none      -- R382 [local clock]: end of a honoured PAUSE
  sources : List RumosSrc := []         -- R383 [32 entries]: tracked sources, least recently used first
  floor : Word := 0                     -- R383 [64 bits]: FLOOR
  plcaActive : Bool := false            -- R386 [1 bit]: MSEG_STATUS.PLCA_ACTIVE
  deriving DecidableEq, Repr

/-! ### Power, reset, boot and lifecycle (chapter 20) -/

/-- RST_STATUS.BOOT (Table 20.11). -/
inductive Boot where
  | trim | rom | recovery | firmware | done | dark
  deriving DecidableEq, Repr

/-- The header of a stored calibration record (Table 21.2). -/
structure CalRec where
  magic : BitVec 32 := 0x41584341       -- R415 [32 bits]: MAGIC
  format : BitVec 16 := 1               -- R415 [16 bits]: FORMAT
  stepping : Byte := 0                  -- R415 [8 bits]: STEPPING
  stampValid : Bool := false            -- R415 [1 bit]: FLAGS.STAMP_VALID
  seq : Word := 0                       -- R415 [64 bits]: SEQ
  time : Word := 0                      -- R415 [64 bits]: TIME
  epoch : BitVec 32 := 0                -- R415 [32 bits]: EPOCH
  trimClass : BitVec 16 := 0            -- R415 [16 bits]: TRIM_CLASS
  tRec : BitVec 16 := 0                 -- R415 [16 bits]: T_REC
  idDigest : BitVec 256 := 0            -- R415 [256 bits]: ID_DIGEST
  results : List Word := []             -- R415 [16 x 64 bits]: RESULTS
  deriving DecidableEq, Repr

/-- What a flash write stores. -/
inductive FlashWhat where
  /-- the firmware image, row 1 of Table 20.7 -/
  | firmware (bytes : List Byte)
  /-- the boot Score and its staging base, row 2 -/
  | score (bytes : List Byte) (base : Nat)
  /-- the calibration record, row 3 -/
  | calibration (r : CalRec)
  /-- the laser life records, row 4: SERIAL and LIFE -/
  | life (recs : List (BitVec 128 × Word))
  /-- the rack key, row 5 -/
  | rackKey (key : BitVec 256)
  /-- START_COUNT, row 6 -/
  | startCount (count : Word)
  /-- the nonce counter, row 6 -/
  | nonce (count : Word)
  /-- a change of lifecycle state in OTP, row 6 -/
  | state (code : BitVec 4)
  /-- a digest of PROVISION, row 6 -/
  | provision (item : Nat) (digest : BitVec 256)
  /-- the erase of the validity units of the calibration records (R417) -/
  | eraseCal
  deriving DecidableEq, Repr

/-- A flash write requested of the flash write engine. -/
structure FlashJob where
  what : FlashWhat := .eraseCal         -- R401 [content]: what is written
  left : Nat := 0                       -- R412 [16 bits]: RST_FLASH_STATUS units left, the validity unit included
  done : Nat := 0                       -- R402 [count]: units completed
  running : Bool := false               -- R402 [1 bit]: the unit in progress has been started
  retryAt : Option Nat := none          -- R402 [local clock]: next try after a refusal
  deriving DecidableEq, Repr

/-- Flash and OTP: what power-on and MOD_RESET_N keep. -/
structure Flash where
  fw : Option (List Byte) := none       -- R401 [16 MiB]: firmware image
  score : Option (List Byte × Nat) := none -- R401 [136 MiB]: boot Score image and its staging base
  cal : Option CalRec := none           -- R401 [8 MiB]: newest valid calibration record
  calOld : Option CalRec := none        -- R401 [8 MiB]: calibration record of the other slot
  life : List (BitVec 128 × Word) := [] -- R365 [64 KiB]: newest valid laser life records
  lifeOld : List (BitVec 128 × Word) := [] -- R401 [64 KiB]: laser life records of the other slot
  rack : Option (BitVec 256) := none    -- R385 [4 KiB]: newest valid rack key
  rackOld : Option (BitVec 256) := none -- R401 [4 KiB]: rack key of the other slot
  nonce : Word := 0                     -- R409 [64 bits]: nonce counter
  startCount : Option Word := none      -- R406 [64 bits]: START_COUNT of the newest valid slot
  state : BitVec 4 := 2                 -- R407 [4 bits]: lifecycle state in OTP
  provisioned : BitVec 10 := 0          -- R408 [10 bits]: PROVISION items written
  digests : Tbl (BitVec 256) := []      -- R408 [10 x 256 bits]: digests in OTP, by item
  idPriv : List Byte := []              -- R343 [bytes]: identity private key
  idPub : List Byte := []               -- R411 [1,793 bytes]: identity public key
  serial : Word := 0                    -- R29 [64 bits]: DEV_SERIAL
  trimClass : BitVec 16 := 0            -- R341 [16 bits]: trim class in OTP
  mac : BitVec 48 := 0                  -- R380 [48 bits]: MSEG_MAC in OTP
  stepping : BitVec 4 := 1              -- R29 [4 bits]: DEV_ID.STEPPING, B0
  deriving DecidableEq, Repr

structure Rst where
  cause : Byte := 0x01                  -- R412 [8 bits]: RST_STATUS.CAUSE
  boot : Boot := .trim                  -- R412 [3 bits]: RST_STATUS.BOOT
  ready : Bool := false                 -- R405 [1 bit]: RST_STATUS.READY, MOD_READY_N low
  scoreBooted : Bool := false           -- R405 [1 bit]: RST_STATUS.SCORE_BOOTED
  fwRecovered : Bool := false           -- R404 [1 bit]: RST_STATUS.FW_RECOVERED
  calWarm : Bool := false               -- R416 [1 bit]: RST_STATUS.CAL_WARM
  trimValid : Bool := false             -- R399 [1 bit]: RST_STATUS.TRIM_VALID
  trimFails : Nat := 0                  -- R400 [count]: consecutive trim load passes with a bad CRC
  released : Nat := 0                   -- R395 [0 to 9]: domains released, in the order of R395
  warmAt : Option Nat := none           -- R396 [local clock]: the data plane is held in reset until then
  powerFail : Bool := false             -- R388 [1 bit]: held in reset after a power-fail
  therm : Bool := false                 -- R389 [1 bit]: THERM_N driven low
  coreUp : Bool := false                -- R21 [1 bit]: the management core runs its firmware
  coreImage : Option FwImage := none    -- R398 [image]: the firmware in the core's SRAM, as last measured
  block : Option (Byte × BitVec 2 × Nat) := none -- R397 [code, ARG, local deadline]: block reset in progress
  blockForced : Bool := false           -- R397 [1 bit]: RST_BLOCK_STATUS.FORCED
  kickAt : Nat := 0                     -- R398 [local clock]: start of the watchdog period
  holdup : BitVec 24 := 0               -- R402 [24 bits]: last E in mJ
  holdupAt : Nat := 0                   -- R412 [local clock]: when E was measured
  jobs : List FlashJob := []            -- R401 [list]: flash writes requested, the first one served
  recoveryPort : Nat := 0               -- R404 [4 bits]: port asked in recovery
  recoveryAt : Nat := 0                 -- R404 [local clock]: end of the wait in progress
  recovering : Bool := false            -- R404 [1 bit]: step 2 of R404, neighbours are asked
  bootScore : Nat := 0                  -- R405 [0 to 2]: the firmware's boot Score: none, waiting for its staging area, under way
  started : Bool := false               -- R405 [1 bit]: the firmware has run its start steps
  startCount : Word := 0                -- R406 [64 bits]: START_COUNT in use, C + 1
  startWritten : Bool := false          -- R406 [1 bit]: the write of C + 1 has completed
  shutting : Bool := false              -- R389 [1 bit]: an orderly shutdown is in progress
  deriving DecidableEq, Repr

structure Lcs where
  result : Byte := 0                    -- R412 [8 bits]: LCS_STATUS.RESULT
  cmd : Option Byte := none             -- R412 [8 bits]: LCS command running; BUSY while there is one
  nonce : BitVec 256 := 0               -- R409 [256 bits]: LCS_NONCE
  nonceFresh : Bool := false            -- R409 [1 bit]: LCS_NONCE has not served an attempt
  meas : BitVec 512 := 0                -- R410 [512 bits]: LCS_MEAS
  base : BitVec 512 := 0                -- R410 [512 bits]: BASE
  entries : List (BitVec 512) := []     -- R410 [4,096 x 64 bytes]: kept entries, oldest first
  deriving DecidableEq, Repr

/-! ### Self-test and errors (chapter 21) -/

structure Sst where
  results : Tbl Word := []              -- R427 [16 x 64 bits]: SST_RESULT
  calSeq : Word := 0                    -- R427 [64 bits]: SST_CAL_SEQ
  calTime : Word := 0                   -- R427 [64 bits]: SST_CAL_TIME
  calInfo : Word := 0                   -- R427 [64 bits]: SST_CAL_INFO
  result : Byte := 0                    -- R419 [8 bits]: SST_STATUS.RESULT
  erased : Bool := false                -- R417 [1 bit]: SST_STATUS.CAL_ERASED
  run : Option (Nat × Nat) := none      -- R419 [test, target]: on-demand test in progress
  deriving DecidableEq, Repr

/-- The first-error register of one block (R17). -/
structure FirstErr where
  held : Option (BitVec 256) := none    -- R17 [256 bits]: first record the block could not post
  lost : Nat := 0                       -- R17 [count]: later records it could not post
  deriving DecidableEq, Repr

structure Err where
  queue : List (BitVec 256) := []       -- R17 [64 records]: escalation queue
  first : Tbl FirstErr := []            -- R17 [per block]: first-error registers
  log : Tbl (BitVec 256) := []          -- R423 [4,096 records]: the log, by slot
  head : Word := 0                      -- R423 [64 bits]: ERR_LOG_HEAD
  read : Word := 0                      -- R423 [64 bits]: ERR_READ
  overwrites : Word := 0                -- R423 [64 bits]: ERR_OVERWRITES
  snap : BitVec 256 := 0                -- R427 [256 bits]: snapshot of the selected record
  unreadClasses : List (Word × Nat) := [] -- R424 [list]: number and class of unread records, overwritten ones included
  cipherAt : Tbl Nat := []              -- R425 [local clock per lane]: last cipher fault logged on the lane
  deriving DecidableEq, Repr

/-! ### The machine -/

/-- What the block has sent to the outside, newest last. The field is the model's own: an observer's record. -/
inductive Out where
  /-- a packet that began on a fabric port -/
  | packet (port : Nat) (p : Packet)
  /-- a link unit sent: port, flit and link tag (Table 10.20) -/
  | unit (port : Nat) (data : BitVec 512) (tag : Word)
  /-- an ABORT owed on an output (R223) -/
  | abort (port : Nat)
  /-- an MSI-X message: function and vector -/
  | msix (fn vector : Nat)
  /-- a Tray Link message -/
  | tray (port : Nat) (m : TrayMsg)
  /-- a Tray Link flit of 256 bytes (Tables 9.5, 9.17) -/
  | trayFlit (port : Nat) (flit : List Byte)
  /-- an ATS or PRI message to the host: kind, function, PASID, page, group, and whether it asks for write access -/
  | ats (kind : Nat) (fn : Nat) (pasid : BitVec 20) (page : Nat) (group : Nat) (write : Bool)
  /-- the value a read returned -/
  | value (w : Word)
  /-- bytes a memory read returned -/
  | bytes (b : List Byte)
  /-- a poisoned or unsupported read completion: Table 15.5 outcome -/
  | refusal (code : Nat)
  /-- a back-invalidate of an Inkwell line the host holds -/
  | backInval (line : Nat)
  /-- a snoop response on the CXL.cache interface: line and new state -/
  | snoop (line : Nat) (st : Line)
  /-- an Ethernet frame -/
  | eth (port : Nat) (f : List Byte)
  /-- a management segment frame -/
  | mseg (f : List Byte)
  /-- a challenge nonce sent to a laser source module -/
  | challenge (bay : Nat) (nonce : BitVec 256)
  deriving DecidableEq, Repr

/-- Everything the specification gives the fabric adapter but flash and OTP. -/
structure Dev where
  osc : Nat := 0                        -- R20 [8 ns ticks]: reference oscillator, the device's local clock
  rlg : Rlg := {}                       -- R53 [record]: Ruling domain
  capo : Capo := {}                     -- R75 [record]: Capo engine and Score loader
  run : Tbl Word := []                  -- R54 [per ST cell]: running values of ST fields
  shadow : Tbl Word := []               -- R54 [per ST cell]: shadow values of ST fields
  rw : Tbl Word := []                   -- R10 [per offset]: RW and RWS registers
  cnt : Tbl Word := [(0x030100, 1)]     -- R426 [64 bits per offset]: counts
  rings : Tbl Ring := []                -- R76 [16,384 rings]: work rings
  cqs : Tbl Cq := []                    -- R76 [16,384 rings]: completion rings
  ctrs : Tbl EvCtr := []                -- R91 [1,024 per partition]: event counters
  pools : Tbl (List PoolBuf) := []      -- R109 [64 per partition]: receive pools, oldest first
  ops : List Op := []                   -- R90 [list]: launched entries that have not completed, in launch order
  launches : Word := 0                  -- R341 [64 bits]: launches made, the counter of launch draws
  connBacked : List (Nat × Bool) := []   -- R138 [list]: contexts written to the backing store, in Inkwell or not
  connCache : List Nat := []            -- R138 [65,536 contexts]: contexts in the cache, least recently used first
  conns : Tbl Conn := []                -- R121 [1,048,576 contexts]: connections
  sch : Sch := {}                       -- R157 [record]: queues, scheduler, meters
  xlt : Xlt := {}                       -- R183 [record]: keys and translations
  hst : Hst := {}                       -- R206 [record]: host attach
  tray : Tbl TrayPort := []             -- R206 [4 ports]: tray attach
  rte : Rte := {}                       -- R235 [record]: router and links
  slots : Tbl Slot := []                -- R253 [4,096 slots]: chord slots
  exchs : Tbl Slot := []                -- R294 [4,096 exchanges]: Strum exchanges
  red : RedTest := {}                   -- R275 [record]: reduction test
  stm : Stm := {}                       -- R294 [record]: Strum engine
  cph : Cph := {}                       -- R310 [record]: cipher
  ink : Ink := {}                       -- R325 [record]: Inkwell
  mem : Tbl Byte := []                  -- R193 [bytes]: host memory, tray memory and Inkwell contents
  ptns : Tbl Ptn := []                  -- R338 [64 partitions]: partitions
  det : Det := {}                       -- R353 [record]: determinism
  fol : Fol := {}                       -- R353 [record]: Folio
  opt : Tbl OptPort := []               -- R369 [16 ports]: optical ports
  bays : Tbl Bay := []                  -- R369 [16 bays]: laser source module bays
  lives : List (BitVec 128 × Word) := [] -- R367 [SERIAL, LIFE]: life counts of modules removed since the last flash record
  qps : Tbl Qp := []                    -- R386 [queue pairs]: RoCE v2 queue pairs
  eth : Tbl EthPort := []               -- R386 [2 ports]: Ethernet personality
  mseg : Mseg := {}                     -- R386 [record]: management segment
  rst : Rst := {}                       -- R412 [record]: reset controller and boot
  lcs : Lcs := {}                       -- R412 [record]: lifecycle
  sst : Sst := {}                       -- R427 [record]: self-test
  err : Err := {}                       -- R427 [record]: error escalation and log
  out : List Out := []                  -- (model) [list]: what was sent to the outside
  free : Nat := 0                       -- (model) [count]: free values drawn
  deriving DecidableEq, Repr

/-- The machine: the device, what its flash and OTP keep without power, and the commands waiting. -/
structure State where
  dev : Dev := {}                       -- (model) [record]: the device
  flash : Flash := {}                   -- R401 [record]: flash and OTP contents
  pending : List Instr := []            -- (model) [list]: commands waiting, first in first out
  deriving DecidableEq, Repr

/-- The machine right after power-on, before trim load: every field at the value the spec gives it for reset, and
where the spec gives none, at the value its entry of the assumption log names. -/
def State.reset : State := {}

end Sys2Proof.Machine
end

