-- ==== Sys2Proof/Machine/Bits.lean ====
section
/-! DEFINITION. Bit fields, byte order, checksums, the generator arx10, and sparse tables. -/

namespace Sys2Proof.Machine

/-! ### Fields and bytes -/

/-- Bits `hi` down to `lo` of a word, as a number (R9). -/
def bits {n : Nat} (w : BitVec n) (hi lo : Nat) : Nat := w.toNat >>> lo % 2 ^ (hi + 1 - lo)

/-- Bit `i` of a word. -/
def bit {n : Nat} (w : BitVec n) (i : Nat) : Bool := w.getLsbD i

/-- The word with bits `hi` down to `lo` replaced by `v`. -/
def setBits {n : Nat} (w : BitVec n) (hi lo v : Nat) : BitVec n :=
  let k := hi + 1 - lo
  BitVec.ofNat n (w.toNat - (w.toNat >>> lo % 2 ^ k) <<< lo + (v % 2 ^ k) <<< lo)

/-- A number placed at bit `lo`. -/
def at_ (lo v : Nat) : Nat := v <<< lo

def b2n (b : Bool) : Nat := if b then 1 else 0

/-- A field read as a two's complement number of `w` bits. -/
def sext (w v : Nat) : Int := if v % 2 ^ w < 2 ^ (w - 1) then (v % 2 ^ w : Nat) else ((v % 2 ^ w : Nat) : Int) - 2 ^ w

/-- An integer as a word of `w` bits. -/
def toBits (w : Nat) (i : Int) : Nat := (i % (2 ^ w : Int)).toNat

/-- The `n` low bytes of a number, least significant first (R9). -/
def leBytes : Nat → Nat → List Byte
  | 0, _ => []
  | n + 1, v => BitVec.ofNat 8 v :: leBytes n (v / 256)

/-- The number that bytes spell, least significant first. -/
def ofLe : List Byte → Nat
  | [] => 0
  | b :: bs => b.toNat + 256 * ofLe bs

/-- The number that bytes spell in network order. -/
def ofBe (b : List Byte) : Nat := b.foldl (fun a x => a * 256 + x.toNat) 0

/-- The `n` low bytes of a number in network order. -/
def beBytes (n v : Nat) : List Byte := (leBytes n v).reverse

/-- `n` bytes of `b` from `i` on. -/
def slice (b : List Byte) (i n : Nat) : List Byte := (b.drop i).take n

/-- The little-endian number in `n` bytes of `b` from `i` on. -/
def leAt (b : List Byte) (i n : Nat) : Nat := ofLe (slice b i n)

def beAt (b : List Byte) (i n : Nat) : Nat := ofBe (slice b i n)

def zeros (n : Nat) : List Byte := List.replicate n 0

/-- Division rounding up. -/
def ceilDiv (a b : Nat) : Nat := (a + b - 1) / b

/-- R426: a 64-bit count saturates. -/
def satAdd (w : Word) (n : Nat) : Word := BitVec.ofNat 64 (min (w.toNat + n) (2 ^ 64 - 1))

/-- `a` is before `b` in a space of 2^w values, at most half of it apart (R124). -/
def halfBefore (w a b : Nat) : Bool := a != b && (b + 2 ^ w - a % 2 ^ w) % 2 ^ w < 2 ^ (w - 1)

/-! ### Checksums -/

def crcBit (poly c : Nat) : Nat := c / 2 ^^^ c % 2 * poly

def crcByte (poly c : Nat) (b : Byte) : Nat :=
  let c := c ^^^ b.toNat
  crcBit poly (crcBit poly (crcBit poly (crcBit poly (crcBit poly (crcBit poly (crcBit poly (crcBit poly c)))))))

/-- CRC-32C: reflected, initial value and final exclusive-or all ones. -/
def crc32c (b : List Byte) : Nat := b.foldl (crcByte 0x82F63B78) 0xFFFFFFFF ^^^ 0xFFFFFFFF

/-- CRC-32 of IEEE 802.3. -/
def crc32 (b : List Byte) : Nat := b.foldl (crcByte 0xEDB88320) 0xFFFFFFFF ^^^ 0xFFFFFFFF

def crcBit64 (c : Nat) : Nat :=
  (c * 2) % 2 ^ 64 ^^^ c / 2 ^ 63 % 2 * 0x42F0E1EBA9EA3693

/-- CRC-64 ECMA-182, most significant bit first, initial value 0. -/
def crc64 (b : List Byte) : Nat :=
  b.foldl (fun c x => crcBit64 (crcBit64 (crcBit64 (crcBit64 (crcBit64 (crcBit64 (crcBit64 (crcBit64
    (c ^^^ (x.toNat * 2 ^ 56)))))))))) 0

/-! ### Sparse tables -/

/-- The value of a key: the listed one, else the default. -/
def tget {α : Type} (d : Nat → α) : Tbl α → Nat → α
  | [], k => d k
  | (j, v) :: t, k => if j = k then v else if k < j then d k else tget d t k

/-- The table with the key's entry removed. -/
def terase {α : Type} : Tbl α → Nat → Tbl α
  | [], _ => []
  | (j, v) :: t, k => if j = k then t else if k < j then (j, v) :: t else (j, v) :: terase t k

/-- The table with an entry put in its place. -/
def tput {α : Type} : Tbl α → Nat → α → Tbl α
  | [], k, x => [(k, x)]
  | (j, v) :: t, k, x => if j = k then (k, x) :: t else if k < j then (k, x) :: (j, v) :: t else (j, v) :: tput t k x

/-- The table with the key's value set: an entry that would hold the default is removed. -/
def tset {α : Type} [DecidableEq α] (d : Nat → α) (t : Tbl α) (k : Nat) (x : α) : Tbl α :=
  if x = d k then terase t k else tput t k x

/-- The table with every listed value changed. -/
def tmap {α : Type} [DecidableEq α] (d : Nat → α) (f : Nat → α → α) (t : Tbl α) : Tbl α :=
  t.foldl (fun a p => tset d a p.1 (f p.1 p.2)) t

/-- The canonical form: keys strictly rising, no entry that holds the default of its key. -/
def twf {α : Type} [DecidableEq α] (d : Nat → α) : Tbl α → Bool
  | [] => true
  | (k, x) :: t => x ≠ d k && (match t with | [] => true | (j, _) :: _ => k < j) && twf d t

/-- The value of a sparse list of optional things, none listed for the rest. -/
def tfind {α : Type} (t : Tbl α) (k : Nat) : Option α :=
  match t.find? (fun p => p.1 == k) with
  | some p => some p.2
  | none => none

/-- The first element that satisfies a test, replaced; the list unchanged where there is none. -/
def replaceFirst {α : Type} (p : α → Bool) (f : α → α) : List α → List α
  | [] => []
  | x :: xs => if p x then f x :: xs else x :: replaceFirst p f xs

/-- The list without its first element that satisfies a test. -/
def eraseFirst {α : Type} (p : α → Bool) : List α → List α
  | [] => []
  | x :: xs => if p x then xs else x :: eraseFirst p xs

/-- Apply a function to the state for each number below `n`, in rising order. -/
def forUpto {σ : Type} (n : Nat) (f : σ → Nat → σ) (s : σ) : σ := (List.range n).foldl f s

end Sys2Proof.Machine
end

