-- ==== Sys2Proof/Machine/Crypto.lean ====
section
/-! DEFINITION. The functions the spec takes from published standards or gives in full: SHAKE256, AES-256-GCM,
and the counter-based generator arx10 of R342. -/

namespace Sys2Proof.Machine

/-! ### SHAKE256 -/

/-- The shift register of FIPS 202 that gives the round constants, its bit 0 shown first. -/
def lfsrNext (r : Nat) : Nat := if r < 128 then 2 * r else (2 * r - 256) ^^^ 0x71

/-- A round's constant, from the register at its start: seven shown bits, the j-th at place 2^j - 1. The register after it. -/
def roundConst (r : Nat) : Nat × Word :=
  let (r, w) := (List.range 7).foldl (fun (q : Nat × Nat) j => (lfsrNext q.1, q.2 + at_ (2 ^ j - 1) (q.1 % 2))) (r, 0)
  (r, BitVec.ofNat 64 w)

/-- The constants of the 24 rounds. -/
def keccakRC : List Word :=
  ((List.range 24).foldl (fun (p : Nat × List Word) _ => let (r, w) := roundConst p.1; (r, p.2 ++ [w])) (1, [])).2

/-- The rotation of each lane x + 5 y: the t-th lane of the walk from (1, 0) to (y, 2 x + 3 y) turns by t (t + 1) / 2. -/
def keccakRot : List Nat :=
  ((List.range 24).foldl (fun (p : (Nat × Nat) × List Nat) t =>
    let (x, y) := p.1
    ((y, (2 * x + 3 * y) % 5), p.2.set (x + 5 * y) ((t + 1) * (t + 2) / 2 % 64))) ((1, 0), List.replicate 25 0)).2

/-- The exclusive-or of the lanes of a column. -/
def column (a : List Word) (x : Nat) : Word := (List.range 5).foldl (fun w y => w ^^^ a.getD (x + 5 * y) 0) 0

/-- One round on 25 lanes, lane x + 5 y: every lane of the result combines three lanes of one row of the mixed and turned
state, whose lane (x, y) comes from lane (x + 3 y, x). -/
def keccakRound (a : List Word) (rc : Word) : List Word :=
  let cols := (List.range 5).map (column a)
  let mixed := (List.range 25).map fun i =>
    (a.getD i 0 ^^^ cols.getD ((i + 4) % 5) 0 ^^^ (cols.getD ((i + 1) % 5) 0).rotateLeft 1).rotateLeft (keccakRot.getD i 0)
  let moved := (List.range 25).map fun i => mixed.getD ((i % 5 + 3 * (i / 5)) % 5 + 5 * (i % 5)) 0
  (List.range 25).map fun i =>
    let row := fun (k : Nat) => moved.getD ((i + k) % 5 + i / 5 * 5) 0
    row 0 ^^^ (~~~ row 1 &&& row 2) ^^^ (if i = 0 then rc else 0)

def keccakF (a : List Word) : List Word := keccakRC.foldl keccakRound a

/-- The bytes of a message with SHAKE's padding, in blocks of 136 bytes. -/
def shakePad (m : List Byte) : List Byte :=
  let k := 136 - m.length % 136
  if k == 1 then m ++ [0x9F] else m ++ [0x1F] ++ zeros (k - 2) ++ [0x80]

def shakeAbsorb : Nat → List Byte → List Word → List Word
  | 0, _, a => a
  | n + 1, m, a =>
    let blk := m.take 136
    let a' := (List.range 25).map fun i => if i < 17 then a.getD i 0 ^^^ BitVec.ofNat 64 (leAt blk (8 * i) 8) else a.getD i 0
    shakeAbsorb n (m.drop 136) (keccakF a')

/-- The first `n` bytes (at most 136) of SHAKE256 of a message. -/
def shake256 (n : Nat) (m : List Byte) : List Byte :=
  let p := shakePad m
  ((shakeAbsorb (p.length / 136) p (List.replicate 25 0)).flatMap fun w => leBytes 8 w.toNat).take n

/-- The 32-byte SHAKE256 digest, as a number read least significant byte first. -/
def digest256 (m : List Byte) : BitVec 256 := BitVec.ofNat 256 (ofLe (shake256 32 m))

/-! ### AES-256-GCM -/

/-- Multiplication by x in GF(2^8) with the AES polynomial. -/
def gf8Double (a : Nat) : Nat := (a * 2) % 256 ^^^ a / 128 * 0x1B

/-- Multiplication in GF(2^8): the bits of `b` choose among the doublings of `a`. -/
def gf8 (a b : Nat) : Nat :=
  let a1 := gf8Double a
  let a2 := gf8Double a1
  let a3 := gf8Double a2
  let a4 := gf8Double a3
  let a5 := gf8Double a4
  let a6 := gf8Double a5
  let a7 := gf8Double a6
  (b % 2 * a) ^^^ (b / 2 % 2 * a1) ^^^ (b / 4 % 2 * a2) ^^^ (b / 8 % 2 * a3) ^^^ (b / 16 % 2 * a4) ^^^ (b / 32 % 2 * a5)
    ^^^ (b / 64 % 2 * a6) ^^^ (b / 128 % 2 * a7)

/-- The AES S-box: inversion (the 254th power) and the affine map. -/
def aesS (x : Nat) : Nat :=
  let x2 := gf8 x x
  let x4 := gf8 x2 x2
  let x8 := gf8 x4 x4
  let x16 := gf8 x8 x8
  let x32 := gf8 x16 x16
  let x64 := gf8 x32 x32
  let x128 := gf8 x64 x64
  let i := gf8 (gf8 (gf8 x2 x4) (gf8 x8 x16)) (gf8 (gf8 x32 x64) x128)
  let r := fun k => (i <<< k % 256) ||| (i >>> (8 - k))
  (i ^^^ r 1 ^^^ r 2 ^^^ r 3 ^^^ r 4) ^^^ 0x63

/-- The AES-256 key schedule: 60 words of four bytes each. -/
def aesExpand (key : List Nat) : List (List Nat) :=
  let w0 := (List.range 8).map fun i => (key.drop (4 * i)).take 4
  (List.range 52).foldl (fun (w : List (List Nat)) j =>
    let i := j + 8
    let t := w.getD (i - 1) []
    let t := if i % 8 == 0 then
        let r := (t.drop 1 ++ t.take 1).map aesS
        match r with | [] => [] | h :: q => (h ^^^ (2 ^ (i / 8 - 1))) :: q
      else if i % 8 == 4 then t.map aesS else t
    w ++ [List.zipWith (· ^^^ ·) (w.getD (i - 8) []) t]) w0

def aesShift (s : List Nat) : List Nat := (List.range 16).map fun i => s.getD ((i + 4 * (i % 4)) % 16) 0

def aesMix (s : List Nat) : List Nat :=
  (List.range 16).map fun i =>
    let c := i / 4 * 4
    let g := fun k => s.getD (c + (i + k) % 4) 0
    gf8 (g 0) 2 ^^^ gf8 (g 1) 3 ^^^ g 2 ^^^ g 3

/-- AES-256 encryption of one 16-byte block under an expanded key. -/
def aesBlock (w : List (List Nat)) (b : List Nat) : List Nat :=
  let rk := fun r => ((w.drop (4 * r)).take 4).flatten
  let s := List.zipWith (· ^^^ ·) b (rk 0)
  let s := (List.range 13).foldl (fun s r => List.zipWith (· ^^^ ·) (aesMix (aesShift (s.map aesS))) (rk (r + 1))) s
  List.zipWith (· ^^^ ·) (aesShift (s.map aesS)) (rk 14)

/-- Multiplication in GF(2^128) of GHASH; numbers are read most significant byte first. -/
def ghashMul (x y : Nat) : Nat :=
  ((List.range 128).foldl (fun (p : Nat × Nat) i =>
    (p.1 ^^^ (x / 2 ^ (127 - i) % 2 * p.2), p.2 / 2 ^^^ (p.2 % 2 * (0xE1 * 2 ^ 120)))) (0, y)).1

def ghashPad (b : List Byte) : List Byte := b ++ zeros ((16 - b.length % 16) % 16)

def ghash (h : Nat) (b : List Byte) : Nat :=
  (List.range (b.length / 16)).foldl (fun y i => ghashMul (y ^^^ ofBe (slice b (16 * i) 16)) h) 0

/-- The keystream of GCM: block i is the encryption of the counter block i + 2. -/
def gcmStream (w : List (List Nat)) (iv : List Byte) (n : Nat) : List Byte :=
  ((List.range (ceilDiv n 16)).flatMap fun i =>
    (aesBlock w ((iv.map (·.toNat)) ++ ((beBytes 4 (i + 2)).map (·.toNat)))).map (BitVec.ofNat 8)).take n

/-- The 16-byte tag of GCM over additional data and ciphertext. -/
def gcmTag (w : List (List Nat)) (iv : List Byte) (aad ct : List Byte) : List Byte :=
  let h := ofBe ((aesBlock w (List.replicate 16 0)).map (BitVec.ofNat 8))
  let t := ghash h (ghashPad aad ++ ghashPad ct ++ beBytes 8 (8 * aad.length) ++ beBytes 8 (8 * ct.length))
  let e := ofBe ((aesBlock w ((iv.map (·.toNat)) ++ [0, 0, 0, 1])).map (BitVec.ofNat 8))
  beBytes 16 (t ^^^ e)

/-- AES-256-GCM under a key whose bytes are little-endian in the number: ciphertext and tag. -/
def gcmEncrypt (key : BitVec 256) (iv aad pt : List Byte) : List Byte × List Byte :=
  let w := aesExpand ((leBytes 32 key.toNat).map (·.toNat))
  let ct := List.zipWith (· ^^^ ·) pt (gcmStream w iv pt.length)
  (ct, gcmTag w iv aad ct)

/-- Decryption: plaintext, and whether the tag agrees. -/
def gcmDecrypt (key : BitVec 256) (iv aad ct tag : List Byte) : List Byte × Bool :=
  let w := aesExpand ((leBytes 32 key.toNat).map (·.toNat))
  (List.zipWith (· ^^^ ·) ct (gcmStream w iv ct.length), decide (gcmTag w iv aad ct = tag))

/-! ### The generator (R342) -/

def arxRa : List Nat := [16, 12, 57, 23, 40, 35, 9, 27, 51, 30]
def arxRb : List Nat := [42, 31, 7, 48, 5, 19, 60, 44, 14, 38]

/-- R342: arx10 of a key, a stream and a counter. -/
def arx10 (key : BitVec 128) (stream ctr : Word) : BitVec 128 :=
  let k0 : Word := key.setWidth 64
  let k1 : Word := (key >>> 64).setWidth 64
  let k2 : Word := k0 ^^^ k1 ^^^ 0x6C2E93D5A17408BF
  let k := fun (i : Nat) => if i % 3 == 0 then k0 else if i % 3 == 1 then k1 else k2
  let r := (List.range 10).foldl (fun (v : Word × Word × Word × Word × Nat) r =>
    let (x0, x1, x2, x3, s) := v
    let x0 := x0 + x1
    let x1 := x1.rotateLeft (arxRa.getD r 0) ^^^ x0
    let x2 := x2 + x3
    let x3 := x3.rotateLeft (arxRb.getD r 0) ^^^ x2
    let (x1, x3) := (x3, x1)
    if r == 3 || r == 7 || r == 9 then
      let s := s + 1
      (x0 + k s, x1 + k (s + 1), x2 + k (s + 2), x3 + BitVec.ofNat 64 s, s)
    else (x0, x1, x2, x3, s)) (ctr + k0, stream + k1, k2, 0x3D8AF0615C972E14, 0)
  let (x0, x1, x2, x3, _) := r
  (x2 ^^^ x1) ++ (x0 ^^^ x3)

end Sys2Proof.Machine
end

