-- ==== Sys2Proof/Machine/RegMap.lean ====
section
/-! DEFINITION. The register map: the BAR0 offset of every register (Table 1.10 and the register tables of the
chapters), and the fields of those that hold what is written to them. -/

namespace Sys2Proof.Machine

/-- Table 1.11: RO. -/
def Reg.devId : Nat := 0x000000
/-- Table 1.11: RO. -/
def Reg.devSerial : Nat := 0x000008
/-- Table 1.11: RO. -/
def Reg.devStatus : Nat := 0x000010
/-- Table 1.11: RO. -/
def Reg.devFwVersion : Nat := 0x000018
/-- Table 2.7: RO. -/
def Reg.rlgTime : Nat := 0x020000
/-- Table 2.7: RO, bits [31:0]. -/
def Reg.rlgEpoch : Nat := 0x020008
/-- Table 2.7: WO. -/
def Reg.rlgSnap : Nat := 0x020010
/-- Table 2.7: RO. -/
def Reg.rlgSnapTime : Nat := 0x020018
/-- Table 2.7: RO, bits [31:0]. -/
def Reg.rlgSnapEpoch : Nat := 0x020020
/-- Table 2.7: RO. -/
def Reg.rlgStatus : Nat := 0x020028
/-- Table 2.7: ST. -/
def Reg.rlgCfg : Nat := 0x020030
/-- Table 2.7: WO. -/
def Reg.rlgSet : Nat := 0x020038
/-- Table 2.7: RW, bits [31:0]. -/
def Reg.rlgSetEpoch : Nat := 0x020040
/-- Table 2.7: ST, bits [28:0], units of 8 ns. -/
def Reg.rlgTabPeriod : Nat := 0x020048
/-- Table 2.7: ST, bits [7:0], ns, reset 4. -/
def Reg.rlgTabGuard : Nat := 0x020050
/-- Table 2.7: RO. -/
def Reg.rlgTabAnchor : Nat := 0x020058
/-- Table 2.7: RO, bits [31:0]. -/
def Reg.rlgTabAnchorEpoch : Nat := 0x020060
/-- Table 2.7: RW. -/
def Reg.rlgTabAccess : Nat := 0x020068
/-- Table 2.7: ST when SHADOW = 1. -/
def Reg.rlgTabData : Nat := 0x020070
/-- Table 2.7: ST, signed ru, bits [31:0]. -/
def Reg.rlgPortAsym (p : Nat) : Nat := 0x020100 + 8 * p
/-- Table 2.7: RO, last θ in signed ru, bits [31:0]. -/
def Reg.rlgPortOffset (p : Nat) : Nat := 0x020180 + 8 * p
/-- Table 2.7: ST, COUNT in bits [12:0], 0–4,096. -/
def Reg.rlgPortTab (p : Nat) : Nat := 0x020200 + 8 * p
/-- Table 2.7: RO. -/
def Reg.rlgTabPos (p : Nat) : Nat := 0x020280 + 8 * p
/-- Table 2.7: RO, 64-bit count. -/
def Reg.rlgPortBeaconLoss (p : Nat) : Nat := 0x020300 + 8 * p
/-- Table 3.10: WO. -/
def Reg.capoCtl : Nat := 0x010000
/-- Table 3.10: RO. -/
def Reg.capoStatus : Nat := 0x010008
/-- Table 3.10: RW. -/
def Reg.capoApplyAt : Nat := 0x010010
/-- Table 3.10: RW, bits [31:0]. -/
def Reg.capoApplyAtEpoch : Nat := 0x010018
/-- Table 3.10: RO. -/
def Reg.capoCheckResult : Nat := 0x010020
/-- Table 3.10: RO, bit n for code n, bits [30:1]. -/
def Reg.capoCheckFail : Nat := 0x010028
/-- Table 3.10: RW, ns, bits [19:0], reset 20,000. -/
def Reg.capoDrainWindow : Nat := 0x010030
/-- Table 3.10: RO, bits [11:0]. -/
def Reg.capoDrainMask : Nat := 0x010038
/-- Table 3.10: RO, 64-bit count. -/
def Reg.capoDrainDrops : Nat := 0x010040
/-- Table 3.10: RO. -/
def Reg.capoRunId : Nat := 0x010048
/-- Table 3.10: RO. -/
def Reg.capoRunGen : Nat := 0x010050
/-- Table 3.10: RO. -/
def Reg.capoLastApply : Nat := 0x010058
/-- Table 3.10: RO, bits [31:0]. -/
def Reg.capoLastApplyEpoch : Nat := 0x010060
/-- Table 3.10: RW. -/
def Reg.capoLoadSrc : Nat := 0x010068
/-- Table 3.10: RW, bytes. -/
def Reg.capoLoadLen : Nat := 0x010070
/-- Table 3.10: RW, bits [63:16]. -/
def Reg.capoStagingBase : Nat := 0x010078
/-- Table 3.10: RW, SHADOW in bit 0. -/
def Reg.capoView : Nat := 0x010080
/-- Table 3.10: RO. -/
def Reg.capoLocal : Nat := 0x010088
/-- Table 3.10: RO, 64-bit count. -/
def Reg.capoLocalCount : Nat := 0x010090
/-- Table 3.10: RO. -/
def Reg.devNode : Nat := 0x010098
/-- Table 4.10: RW. -/
def Reg.ringSel : Nat := 0x080000
/-- Table 4.10: RW in DISABLED. -/
def Reg.ringBase : Nat := 0x080008
/-- Table 4.10: RW in DISABLED. -/
def Reg.ringCfg : Nat := 0x080010
/-- Table 4.10: WO. -/
def Reg.ringCtl : Nat := 0x080018
/-- Table 4.10: RO. -/
def Reg.ringStatus : Nat := 0x080020
/-- Table 4.10: RO. -/
def Reg.ringPublishedHead : Nat := 0x080028
/-- Table 4.10: RW in DISABLED. -/
def Reg.ringStart : Nat := 0x080030
/-- Table 4.10: RO. -/
def Reg.ringErrPos : Nat := 0x080038
/-- Table 4.10: WO. -/
def Reg.ringInval : Nat := 0x080040
/-- Table 4.10: RO, 64-bit count. -/
def Reg.ringDoorbells : Nat := 0x080048
/-- Table 4.10: RW in DISABLED. -/
def Reg.ringCqHeadAddr : Nat := 0x080050
/-- Table 4.10: RO. -/
def Reg.ringCqTail : Nat := 0x080058
/-- Table 4.10: RW. -/
def Reg.ringCtrSel : Nat := 0x080060
/-- Table 4.10: RW. -/
def Reg.ringCtr : Nat := 0x080068
/-- Table 4.10: RO. -/
def Reg.ringErrmap (w : Nat) : Nat := 0x090000 + 8 * w
/-- Table 4.10: RO. -/
def Reg.ringCqErrmap (w : Nat) : Nat := 0x090800 + 8 * w
/-- Table 6.12: RW. -/
def Reg.connSel : Nat := 0x0C0000
/-- Table 6.12: WO. -/
def Reg.connCtl : Nat := 0x0C0008
/-- Table 6.12: RO. -/
def Reg.connStatus : Nat := 0x0C0010
/-- Table 6.12: RW. -/
def Reg.connCfg : Nat := 0x0C0018
/-- Table 6.12: RO. -/
def Reg.connCache : Nat := 0x0C0020
/-- Table 6.12: RO. -/
def Reg.connHoldPeak : Nat := 0x0C0028
/-- Table 6.12: RO. -/
def Reg.connDrops (k : Nat) : Nat := 0x0C0040 + 8 * k
/-- Table 6.12: RO. -/
def Reg.connRetx : Nat := 0x0C0100
/-- Table 6.12: RO. -/
def Reg.connDup : Nat := 0x0C0108
/-- Table 6.12: RO. -/
def Reg.connNakTx : Nat := 0x0C0110
/-- Table 6.12: RO. -/
def Reg.connBusyTx : Nat := 0x0C0118
/-- Table 6.12: RO. -/
def Reg.connMisses : Nat := 0x0C0120
/-- Table 6.12: Word w of the selected context, bits [64w + 63:64w] of Table 6.3. -/
def Reg.connCtx (w : Nat) : Nat := 0x0C0200 + 8 * w
/-- Table 6.12: RW. -/
def Reg.connHostBacking (p : Nat) : Nat := 0x0C1000 + 8 * p
/-- Table 7.7: RW. -/
def Reg.schTblAccess : Nat := 0x0E0000
/-- Table 7.7: ST when SHADOW = 1. -/
def Reg.schTblData : Nat := 0x0E0008
/-- Table 7.7: RW. -/
def Reg.schHistSel : Nat := 0x0E0010
/-- Table 7.7: RO, cleared on read (R154). -/
def Reg.schHistData0 : Nat := 0x0E0018
/-- Table 7.7: RO. -/
def Reg.schHistData1 : Nat := 0x0E0020
/-- Table 7.7: ST. -/
def Reg.schHistCfg : Nat := 0x0E0028
/-- Table 7.7: ST. -/
def Reg.schEcnCfg (v : Nat) : Nat := 0x0E0100 + 8 * v
/-- Table 7.7: ST. -/
def Reg.schPortCfg (p : Nat) : Nat := 0x0E0200 + 8 * p
/-- Table 7.7: ST. -/
def Reg.schPortCtrl (p : Nat) : Nat := 0x0E0280 + 8 * p
/-- Table 7.7: RO, count. -/
def Reg.schEcnMarks (p : Nat) : Nat := 0x0E0300 + 8 * p
/-- Table 7.7: ST. -/
def Reg.schCcCfg0 (c : Nat) : Nat := 0x0E0400 + 16 * c
/-- Table 7.7: ST. -/
def Reg.schCcCfg1 (c : Nat) : Nat := 0x0E0408 + 16 * c
/-- Table 7.7: ST. -/
def Reg.polMeterCfg0 (m : Nat) : Nat := 0x0E8000 + 16 * m
/-- Table 7.7: ST. -/
def Reg.polMeterCfg1 (m : Nat) : Nat := 0x0E8008 + 16 * m
/-- Table 7.7: ST. -/
def Reg.polIngressCfg (i : Nat) : Nat := 0x0E9000 + 8 * i
/-- Table 7.7: POL counts of meter m. -/
def Reg.polGreen (m : Nat) : Nat := 0x0EA000 + 32 * m
/-- Table 7.7: POL counts of meter m. -/
def Reg.polYellow (m : Nat) : Nat := 0x0EA008 + 32 * m
/-- Table 7.7: POL counts of meter m. -/
def Reg.polRed (m : Nat) : Nat := 0x0EA010 + 32 * m
/-- Table 7.7: POL counts of meter m. -/
def Reg.polDropped (m : Nat) : Nat := 0x0EA018 + 32 * m
/-- Table 8.13: RW. -/
def Reg.keySel : Nat := 0x0D0000
/-- Table 8.13: RO. -/
def Reg.keyEntry (w : Nat) : Nat := 0x0D0008 + 8 * w
/-- Table 8.13: RO. -/
def Reg.keyCache : Nat := 0x0D0040
/-- Table 8.13: RO. -/
def Reg.keyMisses : Nat := 0x0D0048
/-- Table 8.13: RO. -/
def Reg.keyFails (k : Nat) : Nat := 0x0D0080 + 8 * k
/-- Table 8.13: RW. -/
def Reg.keyHostBacking (p : Nat) : Nat := 0x0D1000 + 8 * p
/-- Table 8.13: RW. -/
def Reg.xltCfg : Nat := 0x0D8000
/-- Table 8.13: WO. -/
def Reg.xltInval : Nat := 0x0D8008
/-- Table 8.13: RO. -/
def Reg.xltInvalStatus : Nat := 0x0D8010
/-- Table 8.13: RO. -/
def Reg.xltCache : Nat := 0x0D8018
/-- Table 8.13: RO. -/
def Reg.xltPriStatus : Nat := 0x0D8020
/-- Table 8.13: RO. -/
def Reg.xltMisses : Nat := 0x0D8040
/-- Table 8.13: RO. -/
def Reg.xltWalks : Nat := 0x0D8048
/-- Table 8.13: RO. -/
def Reg.xltAtsReqs : Nat := 0x0D8050
/-- Table 8.13: RO. -/
def Reg.xltAtsInvals : Nat := 0x0D8058
/-- Table 8.13: RO. -/
def Reg.xltPriReqs : Nat := 0x0D8060
/-- Table 8.13: RO. -/
def Reg.xltFaults : Nat := 0x0D8068
/-- Table 8.13: RO. -/
def Reg.xltPriFn (f : Nat) : Nat := 0x0D9000 + 8 * f
/-- Table 9.12: RO. -/
def Reg.hstStatus : Nat := 0x050000
/-- Table 9.12: RO, bits [31:0]. -/
def Reg.hstEpoch : Nat := 0x050008
/-- Table 9.12: RW. -/
def Reg.hstCfg : Nat := 0x050010
/-- Table 9.12: RO, Ruling time. -/
def Reg.hstLossAt : Nat := 0x050018
/-- Table 9.12: RO, count. -/
def Reg.hstDiscards : Nat := 0x050020
/-- Table 9.12: RO, count. -/
def Reg.hstLostLines : Nat := 0x050028
/-- Table 9.12: RO, SYSTEM flushes issued. -/
def Reg.hstFlushes : Nat := 0x050030
/-- Table 9.12: RO, back-invalidates sent. -/
def Reg.hstBackInval : Nat := 0x050038
/-- Table 9.12: RO. -/
def Reg.trayPortStatus (k : Nat) : Nat := 0x060000 + 4096 * k
/-- Table 9.12: RW. -/
def Reg.trayPortCfg (k : Nat) : Nat := 0x060008 + 4096 * k
/-- Table 9.12: ST. -/
def Reg.trayPortPtn (k : Nat) : Nat := 0x060010 + 4096 * k
/-- Table 9.12: RO, count. -/
def Reg.trayPortDowns (k : Nat) : Nat := 0x060018 + 4096 * k
/-- Table 9.12: RO, RETRY messages sent. -/
def Reg.trayRetryTx (k : Nat) : Nat := 0x060020 + 4096 * k
/-- Table 9.12: RO, flits replayed. -/
def Reg.trayFlitReplays (k : Nat) : Nat := 0x060028 + 4096 * k
/-- Table 9.12: RO, ERR messages sent. -/
def Reg.trayErrTx (k : Nat) : Nat := 0x060030 + 4096 * k
/-- Table 9.12: RO, count. -/
def Reg.trayLostLines (k : Nat) : Nat := 0x060038 + 4096 * k
/-- Table 9.12: RO, doorbells discarded. -/
def Reg.trayBadDb (k : Nat) : Nat := 0x060040 + 4096 * k
/-- Table 9.12: RO, reserved OPC received. -/
def Reg.trayBadMsg (k : Nat) : Nat := 0x060048 + 4096 * k
/-- Table 10.10: ST. -/
def Reg.rteCfg : Nat := 0x0F0000
/-- Table 10.10: ST. -/
def Reg.rteCfg1 : Nat := 0x0F0008
/-- Table 10.10: RO. -/
def Reg.rteStatus : Nat := 0x0F0010
/-- Table 10.10: RW. -/
def Reg.rteTblAccess : Nat := 0x0F0018
/-- Table 10.10: ST when SHADOW = 1. -/
def Reg.rteTblData : Nat := 0x0F0020
/-- Table 10.10: ST. -/
def Reg.rteCmapCfg : Nat := 0x0F0028
/-- Table 10.10: RO. -/
def Reg.rteCmapHead : Nat := 0x0F0030
/-- Table 10.10: RW. -/
def Reg.rteCmapSel : Nat := 0x0F0038
/-- Table 10.10: RO. -/
def Reg.rteCmapData (w : Nat) : Nat := 0x0F0040 + 8 * w
/-- Table 10.10: ST. -/
def Reg.rteTelemCfg : Nat := 0x0F0080
/-- Table 10.10: RW. -/
def Reg.rteTelemRx : Nat := 0x0F0088
/-- Table 10.10: RO, count. -/
def Reg.rteTelemRxCount : Nat := 0x0F0090
/-- Table 10.10: RO, count. -/
def Reg.rteTelemTxCount : Nat := 0x0F0098
/-- Table 10.10: ST, except ENABLE. -/
def Reg.rtePortCfg (p : Nat) : Nat := 0x0F0100 + 8 * p
/-- Table 10.10: RO. -/
def Reg.rtePortStatus (p : Nat) : Nat := 0x0F0180 + 8 * p
/-- Table 10.10: RO. -/
def Reg.rteDrops (k : Nat) : Nat := 0x0F0200 + 8 * k
/-- Table 10.10: RO, count. -/
def Reg.rteEscapes : Nat := 0x0F0240
/-- Table 10.10: RO, count. -/
def Reg.rteAdaptHops : Nat := 0x0F0248
/-- Table 11.10: ST. -/
def Reg.chdCfg : Nat := 0x100000
/-- Table 11.10: RW. -/
def Reg.chdSlotSel : Nat := 0x100008
/-- Table 11.10: RO. -/
def Reg.chdSlotStatus : Nat := 0x100010
/-- Table 11.10: RW. -/
def Reg.chdSlotSeq : Nat := 0x100018
/-- Table 11.10: RO. -/
def Reg.chdLastAbort : Nat := 0x100020
/-- Table 11.10: RW. -/
def Reg.chdDefAccess : Nat := 0x100028
/-- Table 11.10: ST when SHADOW = 1. -/
def Reg.chdDefData : Nat := 0x100030
/-- Table 11.10: RO. -/
def Reg.chdStaging : Nat := 0x100038
/-- Table 11.10: RO. -/
def Reg.chdCounts (k : Nat) : Nat := 0x100100 + 8 * k
/-- Table 12.11: WO. -/
def Reg.redTestCtl : Nat := 0x110000
/-- Table 12.11: RW. -/
def Reg.redTestIn : Nat := 0x110008
/-- Table 12.11: RW. -/
def Reg.redTestScale : Nat := 0x110010
/-- Table 12.11: RW. -/
def Reg.redTestR : Nat := 0x110018
/-- Table 12.11: RO. -/
def Reg.redTestStatus : Nat := 0x110020
/-- Table 12.11: RO. -/
def Reg.redTestOut : Nat := 0x110028
/-- Table 12.11: RO. -/
def Reg.redTestAcc (w : Nat) : Nat := 0x110040 + 8 * w
/-- Table 12.11: RO. -/
def Reg.redCounts (k : Nat) : Nat := 0x110100 + 8 * k
/-- Table 13.9: RO. -/
def Reg.plkStatus : Nat := 0x120000
/-- Table 13.9: RO. -/
def Reg.plkCounts (k : Nat) : Nat := 0x120100 + 8 * k
/-- Table 13.9: RW. -/
def Reg.stmExchSel : Nat := 0x128000
/-- Table 13.9: RO. -/
def Reg.stmExchStatus : Nat := 0x128008
/-- Table 13.9: RW. -/
def Reg.stmExchSeq : Nat := 0x128010
/-- Table 13.9: RO. -/
def Reg.stmLastAbort : Nat := 0x128018
/-- Table 13.9: RO. -/
def Reg.stmQuota (p : Nat) : Nat := 0x128020 + 8 * p
/-- Table 13.9: RO. -/
def Reg.stmCounts (k : Nat) : Nat := 0x128100 + 8 * k
/-- Table 14.5: RW. -/
def Reg.cphKeySel : Nat := 0x130000
/-- Table 14.5: WO. -/
def Reg.cphKeyCtl : Nat := 0x130008
/-- Table 14.5: RO. -/
def Reg.cphKeyStatus : Nat := 0x130010
/-- Table 14.5: WO. -/
def Reg.cphKeyData (w : Nat) : Nat := 0x130020 + 8 * w
/-- Table 14.5: RO. -/
def Reg.cphCounts (k : Nat) : Nat := 0x130100 + 8 * k
/-- Table 15.7: RO. -/
def Reg.inkStatus : Nat := 0x140000
/-- Table 15.7: RW. -/
def Reg.inkWindowBase : Nat := 0x140008
/-- Table 15.7: RW. -/
def Reg.inkScrubCfg : Nat := 0x140010
/-- Table 15.7: RW. -/
def Reg.inkLayoutAccess : Nat := 0x140018
/-- Table 15.7: ST when SHADOW = 1. -/
def Reg.inkLayoutData : Nat := 0x140020
/-- Table 15.7: RO, count. -/
def Reg.inkUnmapped : Nat := 0x140028
/-- Table 15.7: RO, count. -/
def Reg.inkPoisonWrites : Nat := 0x140030
/-- Table 15.7: RO. -/
def Reg.inkChanStatus (c : Nat) : Nat := 0x140100 + 64 * c
/-- Table 15.7: W1S. -/
def Reg.inkChanCtl (c : Nat) : Nat := 0x140108 + 64 * c
/-- Table 15.7: RO, count. -/
def Reg.inkCe (c : Nat) : Nat := 0x140110 + 64 * c
/-- Table 15.7: RO, count. -/
def Reg.inkUe (c : Nat) : Nat := 0x140118 + 64 * c
/-- Table 15.7: RO, count. -/
def Reg.inkFenceDiscards (c : Nat) : Nat := 0x140120 + 64 * c
/-- Table 15.7: RO. -/
def Reg.inkLastUe (c : Nat) : Nat := 0x140128 + 64 * c
/-- Table 16.7: RW. -/
def Reg.ptnLayoutAccess : Nat := 0x150000
/-- Table 16.7: ST when SHADOW = 1. -/
def Reg.ptnLayoutData : Nat := 0x150008
/-- Table 16.7: WO. -/
def Reg.ptnCtl (p : Nat) : Nat := 0x151000 + 32 * p
/-- Table 16.7: RO. -/
def Reg.ptnStatus (p : Nat) : Nat := 0x151008 + 32 * p
/-- Table 16.7: RO. -/
def Reg.ptnQuiesceAt (p : Nat) : Nat := 0x151010 + 32 * p
/-- Table 16.7: RO, count. -/
def Reg.ptnForcedCount (p : Nat) : Nat := 0x151018 + 32 * p
/-- Table 16.7: RO. -/
def Reg.ptnPreemptAt (p : Nat) : Nat := 0x151800 + 8 * p
/-- Table 17.10: RO. -/
def Reg.detFingerprint : Nat := 0x160000
/-- Table 17.10: RO. -/
def Reg.detStatus : Nat := 0x160008
/-- Table 17.10: RO. -/
def Reg.detParts : Nat := 0x160010
/-- Table 17.10: RW. -/
def Reg.detGenKey0 : Nat := 0x160040
/-- Table 17.10: RW. -/
def Reg.detGenKey1 : Nat := 0x160048
/-- Table 17.10: RW. -/
def Reg.detGenStream : Nat := 0x160050
/-- Table 17.10: RW. -/
def Reg.detGenCounter : Nat := 0x160058
/-- Table 17.10: RO. -/
def Reg.detGenOut0 : Nat := 0x160060
/-- Table 17.10: RO. -/
def Reg.detGenOut1 : Nat := 0x160068
/-- Table 17.10: WO. -/
def Reg.folCtl : Nat := 0x168000
/-- Table 17.10: RO. -/
def Reg.folStatus : Nat := 0x168008
/-- Table 17.10: RW. -/
def Reg.folCfg : Nat := 0x168010
/-- Table 17.10: RW. -/
def Reg.folTrigStatus : Nat := 0x168018
/-- Table 17.10: RW. -/
def Reg.folTrigErr : Nat := 0x168020
/-- Table 17.10: RO. -/
def Reg.folHead : Nat := 0x168028
/-- Table 17.10: RO. -/
def Reg.folSeq : Nat := 0x168030
/-- Table 17.10: RO. -/
def Reg.folFreezeAt : Nat := 0x168038
/-- Table 17.10: RO. -/
def Reg.folFreezeHead : Nat := 0x168040
/-- Table 17.10: RO, copies discarded. -/
def Reg.folGaps : Nat := 0x168048
/-- Table 17.10: RO, count. -/
def Reg.folWraps : Nat := 0x168050
/-- Table 17.10: RO, count. -/
def Reg.folTrigLost : Nat := 0x168058
/-- Table 17.10: RW. -/
def Reg.folReplaySrc : Nat := 0x168060
/-- Table 17.10: RW, bytes. -/
def Reg.folReplayLen : Nat := 0x168068
/-- Table 17.10: RO. -/
def Reg.folReplayPos : Nat := 0x168070
/-- Table 17.10: RO. -/
def Reg.folReplayResult : Nat := 0x168078
/-- Table 17.10: RW. -/
def Reg.folScope (s : Nat) : Nat := 0x168100 + 8 * s
/-- Table 18.7: RW. -/
def Reg.optPortSel : Nat := 0x170000
/-- Table 18.7: RO. -/
def Reg.optPortStatus : Nat := 0x170008
/-- Table 18.7: WO. -/
def Reg.optPortCtl : Nat := 0x170010
/-- Table 18.7: RW. -/
def Reg.optThresh : Nat := 0x170018
/-- Table 18.7: RO. -/
def Reg.optWlStatus (w : Nat) : Nat := 0x170040 + 8 * w
/-- Table 18.7: RO. -/
def Reg.optFecCorr : Nat := 0x170080
/-- Table 18.7: RO. -/
def Reg.optFecUncorr : Nat := 0x170088
/-- Table 18.7: RO. -/
def Reg.optFences : Nat := 0x170090
/-- Table 18.7: RW. -/
def Reg.lsmBaySel : Nat := 0x180000
/-- Table 18.7: RO. -/
def Reg.lsmBayStatus : Nat := 0x180008
/-- Table 18.7: WO. -/
def Reg.lsmCtl : Nat := 0x180010
/-- Table 18.7: RO. -/
def Reg.lsmLife : Nat := 0x180018
/-- Table 18.7: RO. -/
def Reg.lsmRated : Nat := 0x180020
/-- Table 18.7: RO. -/
def Reg.lsmSerial0 : Nat := 0x180028
/-- Table 18.7: RO. -/
def Reg.lsmSerial1 : Nat := 0x180030
/-- Table 18.7: RO, count. -/
def Reg.lsmInsertions : Nat := 0x180038
/-- Table 19.8: RO. -/
def Reg.ethPortStatus (i : Nat) : Nat := 0x190000 + 256 * i
/-- Table 19.8: ST. -/
def Reg.ethPortRec (i : Nat) (w : Nat) : Nat := 0x190008 + 256 * i + 8 * w
/-- Table 19.8: RO. -/
def Reg.ethCounts (i : Nat) (k : Nat) : Nat := 0x190048 + 256 * i + 8 * k
/-- Table 19.8: RW. -/
def Reg.ethQpSel : Nat := 0x191000
/-- Table 19.8: WO. -/
def Reg.ethQpCtl : Nat := 0x191008
/-- Table 19.8: Word w of Table 19.5. -/
def Reg.ethQpEntry (w : Nat) : Nat := 0x191040 + 8 * w
/-- Table 19.8: RWS. -/
def Reg.msegCfg : Nat := 0x1A0000
/-- Table 19.8: RO. -/
def Reg.msegStatus : Nat := 0x1A0008
/-- Table 19.8: RO. -/
def Reg.msegMac : Nat := 0x1A0010
/-- Table 19.8: WO. -/
def Reg.msegKey (w : Nat) : Nat := 0x1A0018 + 8 * w
/-- Table 19.8: RO. -/
def Reg.msegCounts (k : Nat) : Nat := 0x1A0040 + 8 * k
/-- Table 20.10: WO. -/
def Reg.rstCtl : Nat := 0x030000
/-- Table 20.10: RO. -/
def Reg.rstStatus : Nat := 0x030008
/-- Table 20.10: RW. -/
def Reg.rstIdleTimeout : Nat := 0x030010
/-- Table 20.10: WO. -/
def Reg.rstBlockCtl : Nat := 0x030018
/-- Table 20.10: RO. -/
def Reg.rstBlockStatus : Nat := 0x030020
/-- Table 20.10: RWS. -/
def Reg.rstWdtCfg : Nat := 0x030028
/-- Table 20.10: WO. -/
def Reg.rstWdtKick : Nat := 0x030030
/-- Table 20.10: RO. -/
def Reg.rstHoldup : Nat := 0x030038
/-- Table 20.10: RO. -/
def Reg.rstFlashStatus : Nat := 0x030040
/-- Table 20.10: RW. -/
def Reg.rstAlertMask : Nat := 0x030048
/-- Table 20.10: RW. -/
def Reg.rstMboxAddr : Nat := 0x030050
/-- Table 20.10: RW. -/
def Reg.rstMboxLen : Nat := 0x030058
/-- Table 20.10: RW. -/
def Reg.rstMboxCtl : Nat := 0x030060
/-- Table 20.10: RO. -/
def Reg.rstCounts (k : Nat) : Nat := 0x030100 + 8 * k
/-- Table 20.10: RO. -/
def Reg.lcsStatus : Nat := 0x038000
/-- Table 20.10: WO. -/
def Reg.lcsCtl : Nat := 0x038008
/-- Table 20.10: RW. -/
def Reg.lcsReqAddr : Nat := 0x038010
/-- Table 20.10: RW. -/
def Reg.lcsReqLen : Nat := 0x038018
/-- Table 20.10: RO. -/
def Reg.lcsNonce (w : Nat) : Nat := 0x038020 + 8 * w
/-- Table 20.10: RO. -/
def Reg.lcsMeas (w : Nat) : Nat := 0x038040 + 8 * w
/-- Table 20.10: RW. -/
def Reg.lcsAttestNonce (w : Nat) : Nat := 0x038080 + 8 * w
/-- Table 20.10: RO. -/
def Reg.lcsIdDigest (w : Nat) : Nat := 0x0380A0 + 8 * w
/-- Table 21.8: RW. -/
def Reg.errCfg : Nat := 0x040000
/-- Table 21.8: RW. -/
def Reg.errIntMask : Nat := 0x040008
/-- Table 21.8: RO, count. -/
def Reg.errLogHead : Nat := 0x040010
/-- Table 21.8: RW. -/
def Reg.errRead : Nat := 0x040018
/-- Table 21.8: RW. -/
def Reg.errLogSel : Nat := 0x040020
/-- Table 21.8: RO, count. -/
def Reg.errOverwrites : Nat := 0x040028
/-- Table 21.8: RO. -/
def Reg.errStatus : Nat := 0x040030
/-- Table 21.8: RO. -/
def Reg.errLogData (w : Nat) : Nat := 0x040040 + 8 * w
/-- Table 21.8: RO, count. -/
def Reg.errClassCount (n : Nat) : Nat := 0x040100 + 8 * n
/-- Table 21.8: WO. -/
def Reg.sstCtl : Nat := 0x1B0000
/-- Table 21.8: RO. -/
def Reg.sstStatus : Nat := 0x1B0008
/-- Table 21.8: RO. -/
def Reg.sstCalSeq : Nat := 0x1B0010
/-- Table 21.8: RO. -/
def Reg.sstCalTime : Nat := 0x1B0018
/-- Table 21.8: RO. -/
def Reg.sstCalInfo : Nat := 0x1B0020
/-- Table 21.8: RO. -/
def Reg.sstResult (i : Nat) : Nat := 0x1B0100 + 8 * i

/-- The access type of a stored field (Table 0.6). -/
inductive RegKind where
  | rw | rws | st
  deriving DecidableEq, Repr

/-- A register that holds what is written to it, or a run of `count` such registers `stride` apart: its fields, as
top bit, bottom bit and reset value. -/
structure RegRow where
  base : Nat
  stride : Nat
  count : Nat
  kind : RegKind
  fields : List (Nat × Nat × Nat)
  deriving DecidableEq, Repr

def regRows1 : List RegRow := [
  ⟨0x010010, 8, 1, .rw, [(63, 0, 0)]⟩,
  ⟨0x010018, 8, 1, .rw, [(31, 0, 0)]⟩,
  ⟨0x010030, 8, 1, .rw, [(19, 0, 20000)]⟩,
  ⟨0x010068, 8, 1, .rw, [(63, 6, 0), (0, 0, 0)]⟩,
  ⟨0x010070, 8, 1, .rw, [(63, 0, 0)]⟩,
  ⟨0x010078, 8, 1, .rw, [(63, 16, 0)]⟩,
  ⟨0x010080, 8, 1, .rw, [(0, 0, 0)]⟩,
  ⟨0x020030, 8, 1, .st, [(63, 48, 2000), (39, 32, 0), (24, 20, 0), (19, 15, 0), (14, 10, 0), (9, 5, 0), (0, 0, 0)]⟩,
  ⟨0x020040, 8, 1, .rw, [(31, 0, 0)]⟩,
  ⟨0x020048, 8, 1, .st, [(28, 0, 0)]⟩,
  ⟨0x020050, 8, 1, .st, [(7, 0, 4)]⟩,
  ⟨0x020068, 8, 1, .rw, [(17, 17, 0), (16, 13, 0), (11, 0, 0)]⟩,
  ⟨0x020100, 8, 16, .st, [(31, 0, 0)]⟩,
  ⟨0x020200, 8, 16, .st, [(12, 0, 0)]⟩,
  ⟨0x030010, 8, 1, .rw, [(15, 0, 100)]⟩,
  ⟨0x030028, 8, 1, .rws, [(16, 16, 1), (15, 0, 2000)]⟩,
  ⟨0x030048, 8, 1, .rw, [(63, 0, 0)]⟩,
  ⟨0x030050, 8, 1, .rw, [(63, 0, 0)]⟩,
  ⟨0x030058, 8, 1, .rw, [(63, 0, 0)]⟩,
  ⟨0x030060, 8, 1, .rw, [(2, 2, 0), (1, 1, 0), (0, 0, 0)]⟩]

def regRows2 : List RegRow := [
  ⟨0x038010, 8, 1, .rw, [(63, 6, 0), (0, 0, 0)]⟩,
  ⟨0x038018, 8, 1, .rw, [(63, 0, 0)]⟩,
  ⟨0x038080, 8, 4, .rw, [(63, 0, 0)]⟩,
  ⟨0x040000, 8, 1, .rw, [(16, 16, 0), (10, 0, 0)]⟩,
  ⟨0x040008, 8, 1, .rw, [(63, 0, 0)]⟩,
  ⟨0x040020, 8, 1, .rw, [(63, 0, 0)]⟩,
  ⟨0x050010, 8, 1, .rw, [(31, 16, 500), (1, 1, 1), (0, 0, 1)]⟩,
  ⟨0x060008, 4096, 4, .rw, [(31, 16, 32), (0, 0, 1)]⟩,
  ⟨0x060010, 4096, 4, .st, [(63, 0, 0)]⟩,
  ⟨0x080000, 8, 1, .rw, [(16, 16, 0), (13, 0, 0)]⟩,
  ⟨0x080060, 8, 1, .rw, [(15, 0, 0)]⟩,
  ⟨0x0C0000, 8, 1, .rw, [(19, 0, 0)]⟩,
  ⟨0x0C0018, 8, 1, .rw, [(63, 48, 1000), (47, 32, 1000), (23, 16, 3), (15, 8, 8)]⟩,
  ⟨0x0C1000, 8, 64, .rw, [(63, 12, 0)]⟩,
  ⟨0x0D0000, 8, 1, .rw, [(21, 0, 0)]⟩,
  ⟨0x0D1000, 8, 64, .rw, [(63, 12, 0)]⟩,
  ⟨0x0D8000, 8, 1, .rw, [(63, 48, 10000), (31, 16, 5000)]⟩,
  ⟨0x0E0000, 8, 1, .rw, [(19, 19, 0), (18, 16, 0), (13, 0, 0)]⟩,
  ⟨0x0E0010, 8, 1, .rw, [(16, 16, 0), (13, 0, 0)]⟩,
  ⟨0x0E0028, 8, 1, .st, [(19, 0, 10000)]⟩]

def regRows3 : List RegRow := [
  ⟨0x0E0100, 8, 12, .st, [(63, 48, 8192), (31, 16, 256), (15, 0, 64)]⟩,
  ⟨0x0E0200, 8, 16, .st, [(57, 40, 0), (39, 24, 0), (23, 12, 64), (8, 0, 0)]⟩,
  ⟨0x0E0280, 8, 16, .st, [(33, 18, 1024), (17, 0, 4000)]⟩,
  ⟨0x0E0400, 16, 8, .st, [(63, 48, 128), (47, 32, 1500), (31, 16, 64), (15, 0, 65)]⟩,
  ⟨0x0E0408, 16, 8, .st, [(32, 32, 1), (31, 24, 10), (16, 0, 65536)]⟩,
  ⟨0x0E8000, 16, 128, .st, [(37, 20, 0), (17, 0, 0)]⟩,
  ⟨0x0E8008, 16, 128, .st, [(57, 57, 0), (56, 56, 0), (47, 24, 65536), (23, 0, 65536)]⟩,
  ⟨0x0E9000, 8, 1, .st, [(15, 0, 4096)]⟩,
  ⟨0x0E9008, 8, 1, .st, [(15, 0, 2048)]⟩,
  ⟨0x0E9010, 8, 1, .st, [(15, 0, 2048)]⟩,
  ⟨0x0F0000, 8, 1, .st, [(63, 56, 0), (47, 32, 100), (31, 24, 0), (23, 16, 0), (15, 8, 0), (7, 0, 0)]⟩,
  ⟨0x0F0008, 8, 1, .st, [(31, 24, 0), (23, 16, 0), (15, 8, 0), (7, 0, 0)]⟩,
  ⟨0x0F0018, 8, 1, .rw, [(19, 19, 0), (18, 16, 0), (15, 0, 0)]⟩,
  ⟨0x0F0028, 8, 1, .st, [(51, 48, 0), (47, 32, 256), (31, 16, 64), (15, 0, 16)]⟩,
  ⟨0x0F0038, 8, 1, .rw, [(9, 0, 0)]⟩,
  ⟨0x0F0080, 8, 1, .st, [(63, 32, 0), (14, 12, 0), (7, 7, 0), (6, 0, 64)]⟩,
  ⟨0x0F0088, 8, 1, .rw, [(63, 16, 0), (9, 9, 0), (8, 8, 0), (4, 0, 0)]⟩,
  ⟨0x0F0100, 8, 16, .rw, [(5, 5, 1)]⟩,
  ⟨0x0F0100, 8, 16, .st, [(4, 4, 0), (3, 0, 15)]⟩,
  ⟨0x100000, 8, 1, .st, [(31, 0, 2000)]⟩]

def regRows4 : List RegRow := [
  ⟨0x100008, 8, 1, .rw, [(11, 0, 0)]⟩,
  ⟨0x100028, 8, 1, .rw, [(28, 28, 0), (27, 16, 0), (9, 0, 0)]⟩,
  ⟨0x110008, 8, 1, .rw, [(63, 0, 0)]⟩,
  ⟨0x110010, 8, 1, .rw, [(7, 0, 0)]⟩,
  ⟨0x110018, 8, 1, .rw, [(31, 0, 0)]⟩,
  ⟨0x128000, 8, 1, .rw, [(11, 0, 0)]⟩,
  ⟨0x130000, 8, 1, .rw, [(15, 0, 0)]⟩,
  ⟨0x140008, 8, 1, .rw, [(41, 16, 0)]⟩,
  ⟨0x140010, 8, 1, .rw, [(31, 16, 64), (7, 0, 24)]⟩,
  ⟨0x140018, 8, 1, .rw, [(19, 19, 0), (9, 8, 0), (6, 0, 0)]⟩,
  ⟨0x150000, 8, 1, .rw, [(19, 19, 0), (10, 8, 0), (5, 0, 0)]⟩,
  ⟨0x160040, 8, 1, .rw, [(63, 0, 0)]⟩,
  ⟨0x160048, 8, 1, .rw, [(63, 0, 0)]⟩,
  ⟨0x160050, 8, 1, .rw, [(63, 0, 0)]⟩,
  ⟨0x160058, 8, 1, .rw, [(63, 0, 0)]⟩,
  ⟨0x168010, 8, 1, .rw, [(63, 32, 65536), (0, 0, 0)]⟩,
  ⟨0x168018, 8, 1, .rw, [(63, 0, 0)]⟩,
  ⟨0x168020, 8, 1, .rw, [(63, 0, 0)]⟩,
  ⟨0x168060, 8, 1, .rw, [(63, 6, 0), (0, 0, 0)]⟩,
  ⟨0x168068, 8, 1, .rw, [(63, 0, 0)]⟩]

def regRows5 : List RegRow := [
  ⟨0x168100, 8, 64, .rw, [(63, 63, 0), (62, 62, 0), (61, 60, 0), (19, 0, 0)]⟩,
  ⟨0x170000, 8, 1, .rw, [(3, 0, 0)]⟩,
  ⟨0x170018, 8, 1, .rw, [(47, 32, 64786), (31, 16, 400), (15, 0, 500)]⟩,
  ⟨0x180000, 8, 1, .rw, [(3, 0, 0)]⟩,
  ⟨0x190008, 8, 8, .st, [(63, 0, 0)]⟩,
  ⟨0x190108, 8, 8, .st, [(63, 0, 0)]⟩,
  ⟨0x191000, 8, 1, .rw, [(11, 0, 0)]⟩,
  ⟨0x1A0000, 8, 1, .rws, [(39, 32, 0), (31, 24, 32), (23, 16, 8), (15, 8, 255), (1, 1, 0), (0, 0, 1)]⟩]

/-- Every register that holds what is written to it. -/
def regRows : List RegRow := regRows1 ++ regRows2 ++ regRows3 ++ regRows4 ++ regRows5

end Sys2Proof.Machine
end

