-- ==== Sys2Proof/Machine/Ops.lean ====
section
/-! DEFINITION. The named operations over the device's state: registers, counts, tables, time, error records,
memory, Inkwell's address map, and the fields of partition records. -/

namespace Sys2Proof

/-- The function an access comes through, for the DETAIL of a host-access record. -/
def View.fn : View → Nat
  | .vf n => n.val
  | _ => 0

/-- The partition a view is confined to (R186). -/
def View.part : View → Option Nat
  | .vf n => some n.val
  | _ => none

/-- Whether an access to `n` bytes under keys from `k` on meets an error outside. -/
def Env.fails (e : Env) (k n : Nat) : Bool := e.errs.any fun r => k < r.1 + r.2 && r.1 < k + n

/-! Fields of Tray Link messages (Tables 9.6, 9.7). -/

def TrayMsg.f (m : TrayMsg) (hi lo : Nat) : Nat := m.hdr.toNat >>> lo % 2 ^ (hi + 1 - lo)
def TrayMsg.opc (m : TrayMsg) : Nat := m.f 127 120
def TrayMsg.tag (m : TrayMsg) : BitVec 12 := BitVec.ofNat 12 (m.f 119 108)
def TrayMsg.lines (m : TrayMsg) : Nat := m.f 107 106 + 1
def TrayMsg.arg (m : TrayMsg) : Nat := m.f 105 102
def TrayMsg.start (m : TrayMsg) : Nat := m.f 101 96
def TrayMsg.cnt (m : TrayMsg) : Nat := if m.f 95 90 == 0 then 64 else m.f 95 90
/-- The address of the first line. -/
def TrayMsg.laddr (m : TrayMsg) : Nat := m.f 89 42 * 64
def TrayMsg.delay (m : TrayMsg) : Nat := m.f 41 26

/-- Whether a message carries data slots, and how many lines of them (Table 9.7). -/
def TrayMsg.dataLines (m : TrayMsg) : Nat :=
  match m.opc with
  | 0x04 | 0x20 => m.lines
  | 0x05 | 0x06 => 1
  | 0x22 => m.arg % 2
  | _ => 0

def TrayMsg.slots (m : TrayMsg) : Nat := 1 + 4 * m.dataLines

/-- The slots of a message: its header and four for each line it carries (R190). -/
def TrayMsg.slotList (m : TrayMsg) : List (BitVec 128) :=
  m.hdr :: (List.range (4 * m.dataLines)).map fun i => BitVec.ofNat 128 (Machine.leAt m.data (16 * i) 16)

/-- The message under another tag. -/
def TrayMsg.tagged (m : TrayMsg) (tag : Nat) : TrayMsg := { m with hdr := Machine.setBits m.hdr 119 108 tag }

/-- The class of a message: 0 REQ, 1 SNP, 2 RSP (Table 9.7). -/
def TrayMsg.cls (m : TrayMsg) : Nat := if m.opc < 0x10 then 0 else if m.opc < 0x20 then 1 else 2

end Sys2Proof

namespace Sys2Proof.Machine

/-! ### Commands -/

/-- The outcome of a command whose effect is on the device. -/
def onDev (f : Dev → Dev) (s : State) : Host.Outcome State Fault Refusal := .next { s with dev := f s.dev }

/-- The outcome of a command that also reads flash or OTP. -/
def onDevF (f : Flash → Dev → Dev) (s : State) : Host.Outcome State Fault Refusal := .next { s with dev := f s.flash s.dev }

/-- A command of a register that no virtual function's view holds: nothing happens there (R186, R26). -/
def pfOnly (v : View) (f : Dev → Dev) (s : Dev) : Dev :=
  match v with
  | .vf _ => s
  | _ => f s

/-! ### Registers that hold what is written to them -/

/-- The row of the register map that holds an offset, for an access type. -/
def regRow (st : Bool) (off : Nat) : Option RegRow :=
  regRows.find? fun r =>
    decide ((r.kind = .st) = (st = true)) && r.base ≤ off && (off - r.base) % r.stride == 0 && (off - r.base) / r.stride < r.count

def fieldsReset (f : List (Nat × Nat × Nat)) : Word :=
  BitVec.ofNat 64 (f.foldl (fun a x => a + at_ x.2.1 (x.2.2 % 2 ^ (x.1 + 1 - x.2.1))) 0)

/-- R26: the value a register holds after `v` is written over `old` in the fields that lie in the addressed part. -/
def writeFields (f : List (Nat × Nat × Nat)) (h : Half) (old v : Word) : Word :=
  f.foldl (fun a x =>
    if (match h with | .both => true | .low => decide (x.1 < 32) | .high => decide (32 ≤ x.2.1))
    then setBits a x.1 x.2.1 (bits v x.1 x.2.1) else a) old

/-- The part of a value a read returns (R26): a 4-byte read returns the addressed half. -/
def halfOf (h : Half) (v : Word) : Word :=
  match h with
  | .both => v
  | .low => v &&& 0xFFFFFFFF
  | .high => v &&& 0xFFFFFFFF00000000

/-- The value an RW or RWS register holds at reset (R10). -/
def rwReset (off : Nat) : Word :=
  match regRow false off with
  | some r => fieldsReset r.fields
  | none => 0

/-! ST cells: an ST register by its BAR0 offset, and the words of the staged tables above them. -/

def tabCell (port idx : Nat) : Nat := 0x1000000 + port * 4096 + idx
/-- Table t of SCH_TBL_ACCESS: 0 PTN, 1 TC, 2 RING, 3 XTC. -/
def schCell (t idx : Nat) : Nat := 0x2000000 + t * 0x10000 + idx
def rteCell (idx : Nat) : Nat := 0x3000000 + idx
def altCell (idx : Nat) : Nat := 0x3100000 + idx
def chdCell (slot w : Nat) : Nat := 0x4000000 + slot * 1024 + w
def inkCell (idx w : Nat) : Nat := 0x5000000 + idx * 4 + w
def ptnCell (rec w : Nat) : Nat := 0x6000000 + rec * 8 + w

/-- The value an ST cell holds at reset (R54). -/
def stReset (c : Nat) : Word :=
  if c < 0x1000000 then
    match regRow true c with
    | some r => fieldsReset r.fields
    | none => 0
  else if schCell 1 0 ≤ c && c < schCell 2 0 then 0x0000400000000001
  else if schCell 0 0 ≤ c && c < schCell 4 0 then 1
  else if rteCell 0 ≤ c && c < altCell 0 then 0x9999
  else 0

/-- The running value of an ST cell. -/
def Dev.st (s : Dev) (c : Nat) : Word := tget stReset s.run c

/-- The shadow value of an ST cell. -/
def Dev.sh (s : Dev) (c : Nat) : Word := tget stReset s.shadow c

def Dev.setShadow (s : Dev) (c : Nat) (v : Word) : Dev := { s with shadow := tset stReset s.shadow c v }

/-- An RW or RWS register. -/
def Dev.reg (s : Dev) (off : Nat) : Word := tget rwReset s.rw off

def Dev.setReg (s : Dev) (off : Nat) (v : Word) : Dev := { s with rw := tset rwReset s.rw off v }

/-- A count. -/
def Dev.count (s : Dev) (off : Nat) : Word := tget (fun _ => 0) s.cnt off

/-- R426: a count saturates. -/
def Dev.bumpBy (s : Dev) (off n : Nat) : Dev :=
  { s with cnt := tset (fun _ => 0) s.cnt off (satAdd (s.count off) n) }

def Dev.bump (s : Dev) (off : Nat) : Dev := s.bumpBy off 1

/-! ### Tables of records -/

def Dev.rlgPort (s : Dev) (p : Nat) : RlgPort := tget (fun _ => {}) s.rlg.ports p
def Dev.setRlgPort (s : Dev) (p : Nat) (x : RlgPort) : Dev :=
  { s with rlg := { s.rlg with ports := tset (fun _ => {}) s.rlg.ports p x } }

def Dev.ring (s : Dev) (r : Nat) : Ring := tget (fun _ => {}) s.rings r
def Dev.setRing (s : Dev) (r : Nat) (x : Ring) : Dev := { s with rings := tset (fun _ => {}) s.rings r x }

def Dev.cq (s : Dev) (r : Nat) : Cq := tget (fun _ => {}) s.cqs r
def Dev.setCq (s : Dev) (r : Nat) (x : Cq) : Dev := { s with cqs := tset (fun _ => {}) s.cqs r x }

/-- Event counter i of partition n has the global number n * 1024 + i (R91). -/
def Dev.ctr (s : Dev) (c : Nat) : EvCtr := tget (fun _ => {}) s.ctrs c
def Dev.setCtr (s : Dev) (c : Nat) (x : EvCtr) : Dev := { s with ctrs := tset (fun _ => {}) s.ctrs c x }

def Dev.pool (s : Dev) (p : Nat) : List PoolBuf := tget (fun _ => []) s.pools p
def Dev.setPool (s : Dev) (p : Nat) (x : List PoolBuf) : Dev := { s with pools := tset (fun _ => []) s.pools p x }

def Dev.conn (s : Dev) (c : Nat) : Conn := tget (fun _ => {}) s.conns c
def Dev.setConn (s : Dev) (c : Nat) (x : Conn) : Dev := { s with conns := tset (fun _ => {}) s.conns c x }

def Dev.trayPort (s : Dev) (k : Nat) : TrayPort := tget (fun _ => {}) s.tray k
def Dev.setTray (s : Dev) (k : Nat) (x : TrayPort) : Dev := { s with tray := tset (fun _ => {}) s.tray k x }

def Dev.link (s : Dev) (p : Nat) : Link := tget (fun _ => {}) s.rte.links p
def Dev.setLink (s : Dev) (p : Nat) (x : Link) : Dev :=
  { s with rte := { s.rte with links := tset (fun _ => {}) s.rte.links p x } }

def Dev.slot (s : Dev) (k : Nat) : Slot := tget (fun _ => {}) s.slots k
def Dev.setSlot (s : Dev) (k : Nat) (x : Slot) : Dev := { s with slots := tset (fun _ => {}) s.slots k x }
def Dev.exch (s : Dev) (k : Nat) : Slot := tget (fun _ => {}) s.exchs k
def Dev.setExch (s : Dev) (k : Nat) (x : Slot) : Dev := { s with exchs := tset (fun _ => {}) s.exchs k x }

def Dev.chan (s : Dev) (c : Nat) : Chan := tget (fun _ => {}) s.ink.chans c
def Dev.setChan (s : Dev) (c : Nat) (x : Chan) : Dev :=
  { s with ink := { s.ink with chans := tset (fun _ => {}) s.ink.chans c x } }

/-- R326: at power-on partition 0 is ACTIVE and the others are QUIESCED. -/
def ptnReset (n : Nat) : Ptn := if n = 0 then { st := .active } else {}
def Dev.ptn (s : Dev) (n : Nat) : Ptn := tget ptnReset s.ptns n
def Dev.setPtn (s : Dev) (n : Nat) (x : Ptn) : Dev := { s with ptns := tset ptnReset s.ptns n x }

def Dev.optPort (s : Dev) (p : Nat) : OptPort := tget (fun _ => {}) s.opt p
def Dev.setOpt (s : Dev) (p : Nat) (x : OptPort) : Dev := { s with opt := tset (fun _ => {}) s.opt p x }
def OptPort.wl (o : OptPort) (w : Nat) : Wl := tget (fun _ => {}) o.wls w
def OptPort.setWl (o : OptPort) (w : Nat) (x : Wl) : OptPort := { o with wls := tset (fun _ => {}) o.wls w x }

def Dev.bay (s : Dev) (b : Nat) : Bay := tget (fun _ => {}) s.bays b
def Dev.setBay (s : Dev) (b : Nat) (x : Bay) : Dev := { s with bays := tset (fun _ => {}) s.bays b x }

/-- The partition and the Ethernet port of a queue pair (R377). -/
def Qp.part (q : Qp) : Nat := bits q.cfg 37 32
def Qp.port (q : Qp) : Nat := bits q.cfg 8 8

def Dev.qp (s : Dev) (q : Nat) : Qp := tget (fun _ => {}) s.qps q
def Dev.setQp (s : Dev) (q : Nat) (x : Qp) : Dev := { s with qps := tset (fun _ => {}) s.qps q x }

def Dev.ethPort (s : Dev) (i : Nat) : EthPort := tget (fun _ => {}) s.eth i
def Dev.setEth (s : Dev) (i : Nat) (x : EthPort) : Dev := { s with eth := tset (fun _ => {}) s.eth i x }

def Dev.fn (s : Dev) (f : Nat) : Fn := tget (fun _ => {}) s.hst.fns f
def Dev.setFn (s : Dev) (f : Nat) (x : Fn) : Dev := { s with hst := { s.hst with fns := tset (fun _ => {}) s.hst.fns f x } }

/-- R138: the context is in the cache. -/
def Dev.ctxCached (s : Dev) (c : Nat) : Bool := s.connCache.contains c

/-! ### Time -/

/-- Ticks of the local clock (8 ns) in a time in ns, rounded up. -/
def nsTicks (n : Nat) : Nat := ceilDiv n 8
def usTicks (n : Nat) : Nat := 125 * n
def msTicks (n : Nat) : Nat := 125000 * n
def secTicks (n : Nat) : Nat := 125000000 * n

/-- R31: the 96-bit extended Ruling time. -/
def Dev.now (s : Dev) : Nat := s.rlg.epoch.toNat * 2 ^ 64 + s.rlg.time.toNat

/-- The lock states in which a stamp is valid (R45). -/
def Lock.stampOk : Lock → Bool
  | .source | .locked | .holdover => true
  | _ => false

/-- R42: the lock states in which a port carries packets. -/
def Lock.carries : Lock → Bool
  | .source | .locked | .holdover | .stale => true
  | _ => false

/-- Table 2.2. -/
def Lock.code : Lock → Nat
  | .free => 0 | .acquire => 1 | .locked => 2 | .holdover => 3 | .stale => 4 | .source => 5

/-! ### Output and free values -/

def Dev.emit (s : Dev) (o : Out) : Dev := { s with out := s.out ++ [o] }

/-- A value the spec leaves open, fresh at each draw. -/
def Dev.draw (s : Dev) : Dev × Word := ({ s with free := s.free + 1 }, Config.freeValue s.free)

/-! ### Error records (R17, R420) -/

/-- The record of Table 21.5. -/
def Dev.errRecord (s : Dev) (blk cls code detail sev : Nat) (part : Option Nat) (summary : Bool) (count : Nat) : BitVec 256 :=
  BitVec.ofNat 256 (cls % 64 + at_ 16 (blk % 256) + at_ 24 (code % 256) + at_ 37 (sev % 4) + at_ 39 (b2n summary)
    + at_ 40 (b2n s.rlg.lock.stampOk) + at_ 41 (b2n part.isSome) + at_ 42 (part.getD 0 % 64) + at_ 48 (min count 0xFFFF)
    + at_ 64 s.rlg.time.toNat + at_ 128 (detail % 2 ^ 128))

def Dev.firstErr (s : Dev) (blk : Nat) : FirstErr := tget (fun _ => {}) s.err.first blk

/-- R17: a record goes to the escalation queue; where it is full, or the block still holds a record, the block
keeps the first and counts the later ones. -/
def Dev.post (s : Dev) (blk : Nat) (r : BitVec 256) : Dev :=
  match (s.firstErr blk).held with
  | some _ =>
    let f := s.firstErr blk
    { s with err := { s.err with first := tset (fun _ => {}) s.err.first blk { f with lost := f.lost + 1 } } }
  | none =>
    if s.err.queue.length < 64 then { s with err := { s.err with queue := s.err.queue ++ [r] } }
    else { s with err := { s.err with first := tset (fun _ => {}) s.err.first blk { held := some r, lost := 0 } } }

/-- An error record of a class (Table 21.6), posted by the block whose registers lie at `off`. -/
def Dev.postErr (s : Dev) (off cls code detail sev : Nat) (part : Option Nat := none) : Dev :=
  s.post (off / 2 ^ 16) (s.errRecord (off / 2 ^ 16) cls code detail sev part false 0)

/-- A record among others in the order of their blocks, after those of its own block. -/
def insertRec (r : BitVec 256) : List (BitVec 256) → List (BitVec 256)
  | [] => [r]
  | q :: l => if bits r 23 16 < bits q 23 16 then r :: q :: l else q :: insertRec r l

/-- R422: what `t` has posted since `s`, all of it on one clock, reaches the queue with the lower BLOCK first. -/
def Dev.oneClock (s t : Dev) : Dev :=
  let n := s.err.queue.length
  { t with err := { t.err with queue := t.err.queue.take n ++ (t.err.queue.drop n).foldl (fun l r => insertRec r l) [] } }

/-- An error record of the host-access class (Table 21.6). -/
def Dev.hostErr (s : Dev) (v : View) (off code : Nat) (value : Word) : Dev :=
  s.postErr off 0x01 code (off + at_ 24 (View.fn v) + at_ 64 value.toNat) 0 (View.part v)

/-! ### Tray Link messages and flits (R190 to R192, R196) -/

def trayHdr (opc tag lines arg laddr : Nat) (start : Nat := 0) (cnt : Nat := 0) : BitVec 128 :=
  BitVec.ofNat 128 (at_ 120 (opc % 256) + at_ 108 (tag % 4096) + at_ 106 ((lines - 1) % 4) + at_ 102 (arg % 16)
    + at_ 96 (start % 64) + at_ 90 (cnt % 64) + at_ 42 (laddr / 64 % 2 ^ 48))

def creditOf (c : Nat × Nat × Nat) (k : Nat) : Nat := if k == 0 then c.1 else if k == 1 then c.2.1 else c.2.2
def takeCredit (c : Nat × Nat × Nat) (k n : Nat) : Nat × Nat × Nat :=
  if k == 0 then (c.1 - n, c.2.1, c.2.2) else if k == 1 then (c.1, c.2.1 - n, c.2.2) else (c.1, c.2.1, c.2.2 - n)

/-- A flit of Table 9.5, its CRC appended. -/
def trayFlitBytes (seq ack credits : Nat) (replay : Bool) (slots : List (BitVec 128)) : List Byte :=
  let b := leBytes 2 seq ++ leBytes 2 (ack + at_ 15 (b2n replay)) ++ leBytes 4 credits
    ++ (List.range 15).flatMap fun i => leBytes 16 (slots.getD i 0).toNat
  b ++ leBytes 8 (crc64 b)

/-- A flit on its way out, with the FSEQ it has and the ACKSEQ of now. -/
def TrayPort.flit (x : TrayPort) (seq : BitVec 12) (slots : List (BitVec 128)) : List Byte :=
  trayFlitBytes seq.toNat (x.rxSeq - 1).toNat 0 false slots

/-- The first waiting message whose class has credit, each class in its order. -/
def TrayPort.sendable (x : TrayPort) : Option TrayMsg :=
  [0, 1, 2].findSome? fun k => match x.txq.find? (fun m => m.cls == k) with
    | some m => if m.slots ≤ creditOf x.credits k then some m else none
    | none => none

/-- A waiting message enters the slots of the next flits. -/
def TrayPort.load (x : TrayPort) (m : TrayMsg) : TrayPort :=
  { x with
    txq := eraseFirst (· == m) x.txq, credits := takeCredit x.credits m.cls m.slots, slots := x.slots ++ m.slotList }

/-- A flit of up to 15 slots is sent, and kept until it is acknowledged. -/
def TrayPort.sendFlit (x : TrayPort) : TrayPort :=
  { x with slots := x.slots.drop 15, unacked := x.unacked ++ [(x.txSeq, x.slots.take 15)], txSeq := x.txSeq + 1 }

/-- R190, R191: waiting messages leave, in flits of 15 slots, while credit and room for unacknowledged flits last. A flit that no
message is left to fill leaves with idle slots. `fuel` counts the messages and flits. -/
def Dev.trayPump : Nat → Dev → Nat → Dev
  | 0, s, _ => s
  | fuel + 1, s, k =>
    let x := s.trayPort k
    if decide (x.st ≠ .up) || 2048 ≤ x.unacked.length then s
    else match if x.slots.length < 15 then x.sendable else none with
      | some m => Dev.trayPump fuel ((s.setTray k (x.load m)).emit (.tray k m)) k
      | none =>
        if x.slots.isEmpty then s
        else Dev.trayPump fuel ((s.setTray k x.sendFlit).emit (.trayFlit k (x.flit x.txSeq (x.slots.take 15)))) k

/-- What waits on a port leaves, as far as it may. -/
def Dev.trayFlush (s : Dev) (k : Nat) : Dev :=
  let x := s.trayPort k
  s.trayPump (3 * x.txq.length + x.slots.length + 1) k

/-- A message to a tray port. -/
def Dev.traySend (s : Dev) (k : Nat) (m : TrayMsg) : Dev :=
  let x := s.trayPort k
  (s.setTray k { x with txq := x.txq ++ [m] }).trayFlush k

/-! ### Requests of the device on a tray port (R194, R196) -/

/-- Requests are sent, each with the lowest tag not in use, while the peer's TAGS allows. `fuel` counts them. -/
def Dev.trayIssue : Nat → Dev → Nat → Dev
  | 0, s, _ => s
  | fuel + 1, s, k =>
    let x := s.trayPort k
    let out := x.reqs.filter (·.sent)
    match if out.length < x.peerTags then x.reqs.find? (fun r => !r.sent) else none with
    | none => s
    | some r =>
      let tag := ((List.range 4096).find? fun t => !out.any fun r => r.tag.toNat == t).getD 0
      let r := { r with sent := true, tag := BitVec.ofNat 12 tag, msg := r.msg.tagged tag }
      let s := s.setTray k { x with reqs := replaceFirst (fun r => !r.sent) (fun _ => r) x.reqs }
      Dev.trayIssue fuel (s.traySend k r.msg) k

/-- A request of the device is outstanding from here on; it is sent once the peer's TAGS allows. -/
def Dev.trayRequest (s : Dev) (k : Nat) (r : TrayReq) : Dev :=
  let x := s.trayPort k
  Dev.trayIssue 1 (s.setTray k { x with reqs := x.reqs ++ [r] }) k

/-- A request that was sent ends: the next one that waited for the peer's TAGS leaves. -/
def Dev.trayRequestEnd (s : Dev) (k : Nat) (tag : BitVec 12) : Dev :=
  let x := s.trayPort k
  Dev.trayIssue 1 (s.setTray k { x with reqs := eraseFirst (fun r => r.sent && r.tag == tag) x.reqs }) k

/-- Runs of at most four consecutive lines: first address and number of lines. -/
def lineRuns : List Nat → List (Nat × Nat)
  | [] => []
  | a :: l => match lineRuns l with
    | [] => [(a, 1)]
    | (b, n) :: r => if b == a + 64 && n < 4 then (a, n + 1) :: r else (a, 1) :: (b, n) :: r

/-- The messages that write `n` bytes from `a`: WR_PART of a line, WR_LINE of up to four whole lines. -/
def trayStores (a : Nat) (b : List Byte) : List TrayMsg :=
  let part := fun (a : Nat) (c : List Byte) =>
    let start := a % 64
    ({ hdr := trayHdr 0x05 0 1 0 (a / 64 * 64) start c.length, data := zeros start ++ c ++ zeros (64 - start - c.length) } : TrayMsg)
  let lead := if a % 64 == 0 then 0 else min b.length (64 - a % 64)
  let whole := (b.length - lead) / 64
  let rest := b.drop (lead + 64 * whole)
  (if lead == 0 then [] else [part a (b.take lead)])
    ++ ((List.range ((whole + 3) / 4)).map fun i =>
      let n := min 4 (whole - 4 * i)
      ({ hdr := trayHdr 0x04 0 n 0 (a + lead + 256 * i), data := slice b (lead + 256 * i) (64 * n) } : TrayMsg))
    ++ (if rest.isEmpty then [] else [part (a + lead + 64 * whole) rest])

/-! ### Coherence (R187, R188, R192) -/

/-- The snoop filter's key of Inkwell line `a` for an agent: 0 the host, k + 1 the accelerator on tray port k. -/
def dirKey (g a : Nat) : Nat := g * 2 ^ 60 + a / 64

/-- The state in which an agent may hold an Inkwell line. -/
def Dev.dirLine (s : Dev) (g a : Nat) : Line := tget (fun _ => .i) s.hst.dir (dirKey g a)

def Dev.setDir (s : Dev) (g a : Nat) (l : Line) : Dev := { s with hst := { s.hst with
  dir := tset (fun _ => .i) s.hst.dir (dirKey g a) l
  hostOrder := if g = 0 then s.hst.hostOrder.filter (· != a / 64) ++ (if l = .i then [] else [a / 64]) else s.hst.hostOrder } }

/-- A snoop of a line sent to the accelerator on tray port k, under the home's lowest free tag. -/
def Dev.snoopSend (s : Dev) (k opc a : Nat) : Dev :=
  let x := s.trayPort k
  let tag := ((List.range 4096).find? fun t => !x.snoops.any fun p => p.1.toNat == t).getD 0
  let s := s.setTray k { x with snoops := x.snoops ++ [(BitVec.ofNat 12 tag, a / 64, opc)] }
  s.traySend k { hdr := trayHdr opc tag 1 0 a }

/-- A back-invalidate of a line the host holds. -/
def Dev.backInval (s : Dev) (a : Nat) : Dev := (s.bump Reg.hstBackInval).emit (.backInval (a / 64))

/-- R188: before agent g writes line `a`, other agents' copies are invalidated; before it reads, their current data is
asked for. Agent 5 is the device itself. What a copy held changed is the outside's doing before the command (the command's
`Env.stores`), so a copy that is invalidated is gone here, and what crosses the snoop is older. -/
def Dev.recall (s : Dev) (g a : Nat) (write : Bool) : Dev :=
  if s.hst.dir.isEmpty then s
  else forUpto 5 (fun s h =>
    let l := s.dirLine h a
    if h = g || l = .i || (l = .s && !write) then s
    else
      let s := if write then s.setDir h a .i else s
      if h = 0 then s.backInval a else s.snoopSend (h - 1) (if write then 0x10 else 0x12) a) s

/-- The list without its first `n` host lines. -/
def dropHost : List Nat → Nat → List Nat
  | [], _ => []
  | x :: l, n => if n = 0 then x :: l else if x < 2 ^ 58 then dropHost l (n - 1) else x :: dropHost l n

/-- R187, R192: lines of host and tray memory that the device has read from rings, head locations and translation tables
stay in its cache in S, host lines only over CXL.cache with CACHE_EN and 32,768 of them. -/
def Dev.cacheTouch (s : Dev) (key n : Nat) : Dev :=
  let may := if key < 2 ^ 64 then s.hst.cxlCache && bit (s.reg Reg.hstCfg) 0 else key < 5 * 2 ^ 64
  if !may || n = 0 then s
  else
    let new := (List.range ((key + n - 1) / 64 - key / 64 + 1)).map fun i => key / 64 + i
    let l := s.hst.cacheLines.filter (fun x => !new.contains x) ++ new
    { s with hst := { s.hst with cacheLines := dropHost l (l.countP (· < 2 ^ 58) - 32768) } }

/-! ### Memory -/

/-- Memories a byte can lie in: host memory, the memory of a tray port's accelerators, an Inkwell channel. -/
inductive Tgt where
  | host
  | tray (k : Nat)
  | ink
  deriving DecidableEq, Repr

def hostKey (a : Nat) : Nat := a % 2 ^ 64
def trayKey (k a : Nat) : Nat := (1 + k % 4) * 2 ^ 64 + a % 2 ^ 64
/-- A byte of an Inkwell channel, by channel offset. -/
def chanKey (c off : Nat) : Nat := (5 + c) * 2 ^ 64 + off

/-- What a byte nothing has written reads as. DESIGN CHOICE: 0 (the spec gives memory no contents at power-on). -/
def memReset (_ : Nat) : Byte := 0

def Dev.byteAt (s : Dev) (k : Nat) : Byte := tget memReset s.mem k
def Dev.setByte (s : Dev) (k : Nat) (b : Byte) : Dev := { s with mem := tset memReset s.mem k b }

/-- The bytes of memory under `n` successive keys. -/
def Dev.keyBytes (s : Dev) (k n : Nat) : List Byte := (List.range n).map fun i => s.byteAt (k + i)

/-- Bytes stored under successive keys. -/
def Dev.setKeyBytes (s : Dev) (k : Nat) (b : List Byte) : Dev :=
  { s with mem := (b.foldl (fun (p : Tbl Byte × Nat) x => (tset memReset p.1 p.2 x, p.2 + 1)) (s.mem, k)).1 }

/-- DET_STATUS.FP_VALID (R341): also 0 while the running configuration is one staged directly. -/
def Dev.fpOk (s : Dev) : Bool := s.det.fpValid && !s.capo.unsignedRun

/-- The form memory keeps: keys rising, nothing listed that an unlisted byte reads as. -/
def Memory.wf (m : Tbl Byte) : Bool := twf memReset m

/-- How an access to memory ends. -/
inductive MemOut where
  | ok
  /-- an Inkwell address in no region -/
  | unmapped
  /-- a fenced Inkwell stripe, a region under fill, or a tray port that is down -/
  | unavailable
  /-- a poisoned Inkwell line -/
  | poison
  /-- the host or the accelerator ended the access in an error -/
  | error
  deriving DecidableEq, Repr

/-! #### Inkwell (R313, R316, R317, R320, R443) -/

/-- A region record of Table 15.2, in bytes. -/
structure Region where
  idx : Nat := 0
  kind : Nat := 0
  part : Nat := 0
  base : Nat := 0
  chanOff : Nat := 0
  chanLen : Nat := 0
  mask : Nat := 0
  deriving DecidableEq, Repr

def maskChans (m : Nat) : List Nat := (List.range 12).filter fun c => m >>> c % 2 == 1

def Region.size (r : Region) : Nat := (maskChans r.mask).length * r.chanLen

/-- The record of 256 bits in four words. -/
def regionOf (idx : Nat) (w0 w1 w2 w3 : Word) : Region :=
  let w := w0.toNat + at_ 64 w1.toNat + at_ 128 w2.toNat + at_ 192 w3.toNat
  let f := fun hi lo => w >>> lo % 2 ^ (hi + 1 - lo)
  { idx := idx, kind := f 2 0, part := f 13 8, base := f 84 64 * 2 ^ 21, chanOff := f 131 112 * 2 ^ 21,
    chanLen := f 171 152 * 2 ^ 21, mask := f 203 192 }

/-- The region records of a bank of ST cells, used ones only. -/
def regionsOf (cell : Nat → Word) : List Region :=
  ((List.range 80).map fun i =>
    regionOf i (cell (inkCell i 0)) (cell (inkCell i 1)) (cell (inkCell i 2)) (cell (inkCell i 3))).filter
      fun r => r.kind != 0

def Dev.regions (s : Dev) : List Region := regionsOf s.st

/-- The region of a kind in a list. -/
def regionKind (l : List Region) (k : Nat) : Option Region := l.find? fun r => r.kind == k

/-- R315: the contents of the region of a kind are being moved. -/
def Dev.inkMoving (s : Dev) (k : Nat) : Bool := s.ink.move.any fun i => s.regions.any fun r => r.idx == i && r.kind == k

/-- R312: the populated capacity in bytes. -/
def Ink.populated (i : Ink) : Nat := 12 * i.reference

/-- The channel and offset of address `a` of a region (R313). -/
def Region.place (r : Region) (a : Nat) : Nat × Nat :=
  let cs := maskChans r.mask
  let t := (a - r.base) / 4096
  (cs.getD (t % cs.length) 0, r.chanOff + t / cs.length * 4096 + a % 4096)

/-- R313: where an Inkwell address lies: the region's record index, channel and offset; none if unmapped. -/
def Dev.inkPlace (s : Dev) (a : Nat) : Option (Nat × Nat × Nat) :=
  match s.regions.find? (fun r => r.base ≤ a && a < r.base + r.size) with
  | some r => some (r.idx, r.place a)
  | none => none

/-- R443: the boot placement. -/
def Dev.bootPlace (s : Dev) (a : Nat) : Option (Nat × Nat × Nat) :=
  if a < s.ink.populated then some (80, a / 4096 % 12, a / 4096 / 12 * 4096 + a % 4096) else none

/-- Where an address lies for a path: the Capo engine, the loader and the firmware's copy reach Inkwell through the
boot placement while it is in force, and every other path finds nothing then (R443). -/
def Dev.inkFind (s : Dev) (boot : Bool) (a : Nat) : Option (Nat × Nat × Nat) :=
  if s.ink.boot then (if boot then s.bootPlace a else none) else s.inkPlace a

/-- The key of a line in the lists of poisoned and upset lines. -/
def lineKey (c off : Nat) : Nat := chanKey c off / 64

/-- R320: a demand read of a line whose bits were upset: corrected and counted, or poisoned, counted and posted. -/
def Dev.eccRead (s : Dev) (c off : Nat) : Dev :=
  match tget (fun _ => 0) s.ink.errors (lineKey c off) with
  | 0 => s
  | 1 => ({ s with ink := { s.ink with errors := terase s.ink.errors (lineKey c off) } }).bump (Reg.inkCe c)
  | _ =>
    let ch := s.chan c
    let s := { s with ink := { s.ink with
      errors := terase s.ink.errors (lineKey c off), poison := lineKey c off :: s.ink.poison } }
    let s := s.setChan c { ch with
      lastUe := BitVec.ofNat 64 (off / 64 * 64)
      ueTimes := s.osc :: ch.ueTimes.filter fun t => s.osc < t + secTicks 3600 }
    (s.bump (Reg.inkUe c)).postErr Reg.inkStatus 0x0C 0x10 (c + at_ 8 (off / 64 * 64)) 2

/-- The outcome for one line, before the bytes move (Table 15.5). -/
def Dev.lineOut (s : Dev) (boot : Bool) (a : Nat) : MemOut :=
  match s.inkFind boot a with
  | none => .unmapped
  | some (r, c, off) =>
    if (s.chan c).fenced || s.ink.fill.contains r then .unavailable
    else if s.ink.poison.contains (lineKey c off) then .poison
    else .ok

/-- The line addresses that `n` bytes from `a` touch. -/
def linesOf (a n : Nat) : List Nat :=
  if n = 0 then [] else (List.range ((a + n - 1) / 64 - a / 64 + 1)).map fun i => (a / 64 + i) * 64

/-- The first outcome that is not ok. -/
def firstOut : List MemOut → MemOut
  | [] => .ok
  | .ok :: l => firstOut l
  | o :: _ => o

/-- R320 over every line of a range. -/
def Dev.eccRange (s : Dev) (boot : Bool) (a n : Nat) : Dev :=
  (linesOf a n).foldl (fun s l => match s.inkFind boot l with
    | some (r, c, off) => if (s.chan c).fenced || s.ink.fill.contains r then s else s.eccRead c off
    | none => s) s

/-- The 64 bytes of an Inkwell line, zeros where it is unmapped. -/
def Dev.inkLine (s : Dev) (boot : Bool) (l : Nat) : List Byte :=
  match s.inkFind boot l with
  | some (_, c, off) => s.keyBytes (chanKey c off) 64
  | none => zeros 64

/-- A read of Inkwell: the state after it, the outcome, and the bytes. Lines in no region are counted (R317). -/
def Dev.inkRead (s : Dev) (boot : Bool) (a n : Nat) : Dev × MemOut × List Byte :=
  let s := (linesOf a n).foldl (fun s l => s.recall 5 l false) s
  let s := s.eccRange boot a n
  let outs := (linesOf a n).map (s.lineOut boot)
  (s.bumpBy Reg.inkUnmapped (outs.countP fun o => decide (o = .unmapped)), firstOut outs,
    (((linesOf a n).flatMap (s.inkLine boot)).drop (a % 64)).take n)

/-- One line's part of a write: a whole line clears poison, part of a poisoned line is refused (R318); a write to a
fenced stripe or an unmapped address is discarded and counted. -/
def Dev.inkWriteLine (s : Dev) (boot : Bool) (l : Nat) (part : List (Nat × Byte)) : Dev × MemOut :=
  match s.inkFind boot l with
  | none => (s.bump Reg.inkUnmapped, .unmapped)
  | some (r, c, off) =>
    if (s.chan c).fenced || s.ink.fill.contains r then (s.bump (Reg.inkFenceDiscards c), .unavailable)
    else
      let s := if part.length == 64 then
          { s with ink := { s.ink with poison := s.ink.poison.filter (· != lineKey c off),
                                       errors := terase s.ink.errors (lineKey c off) } }
        else s.eccRead c off
      if s.ink.poison.contains (lineKey c off) then (s, .poison)
      else (part.foldl (fun s p => s.setByte (chanKey c off + (p.1 - l)) p.2) s, .ok)

/-- A write of Inkwell, line by line in rising order. -/
def Dev.inkWrite (s : Dev) (boot : Bool) (a : Nat) (b : List Byte) : Dev × MemOut :=
  let cells := (List.range b.length).zip b |>.map fun p => (a + p.1, p.2)
  (linesOf a b.length).foldl (fun (q : Dev × MemOut) l =>
    let (s, o) := (q.1.recall 5 l true).inkWriteLine boot l (cells.filter fun p => p.1 / 64 * 64 == l)
    (s, firstOut [q.2, o])) (s, .ok)

/-! #### Memory outside the device -/

/-- Configuration space as host software wrote it, while the link is up (R185). -/
def Dev.hostCfg (s : Dev) (e : Env) : Dev :=
  if !s.hst.dlActive then s
  else
    let s := e.cfg.foldl (fun s c => if c.fn < 64 then s.setFn c.fn { s.fn c.fn with
      bme := c.bme, d3 := c.d3, pasid := c.pasid, priAlloc := c.priAlloc, atomicEn := c.atomicEn, msixEn := c.msixEn,
      msixMask := c.msixMask } else s) s
    let s : Dev := match e.vfs with
      | some n => if s.hst.numVf = 0 then { s with hst := { s.hst with numVf := BitVec.ofNat 6 (min n 63) } } else s
      | none => s
    match e.cxl with
    | some (c, m) => { s with hst := { s.hst with
        cxlCache := s.hst.cacheNeg && c, cxlMem := s.hst.memNeg && m
        cacheLines := if c then s.hst.cacheLines else s.hst.cacheLines.filter fun l => 2 ^ 58 ≤ l } }
    | none => s

/-- What the world outside did first: its stores, the upsets of Inkwell lines, configuration space, and the translations of
pinned memory that the host grants. -/
def Dev.enter (s : Dev) (e : Env) : Dev :=
  let s := s.hostCfg e
  { s with hst := { s.hst with xlate := e.xlate ++ s.hst.xlate.filter fun x => !e.xlate.any fun y => y.1 == x.1 && y.2.1 == x.2.1 },
           mem := e.stores.foldl (fun m p => tset memReset m p.1 p.2) s.mem,
           ink := { s.ink with errors := e.ecc.foldl (fun m p => tset (fun _ => 0) m p.1 p.2) s.ink.errors } }

def Tgt.key (t : Tgt) (a : Nat) : Nat :=
  match t with
  | .host => hostKey a
  | .tray k => trayKey k a
  | .ink => chanKey 0 a

/-- R185, R195: whether a memory outside the device can be reached for a function. -/
def Dev.reach (s : Dev) (fn : Nat) (t : Tgt) : Bool :=
  match t with
  | .host => !s.hst.lost && s.hst.dlActive && (s.fn fn).bme && !(s.fn fn).d3
  | .tray k => decide ((s.trayPort k).st = .up)
  | .ink => true

/-- R194: ERR POISON to a request of the device is posted, with the first line it concerns. -/
def Dev.trayPoison (s : Dev) (e : Env) (t : Tgt) (a n : Nat) : Dev :=
  match t with
  | .tray k =>
    if !e.poison then s
    else
      let line := fun (i : Nat) => (a / 64 + i) * 64
      let first := ((List.range (n / 64 + 2)).find? fun i => e.fails (t.key (line i)) 64).getD 0
      s.postErr (Reg.trayPortStatus 0) 0x08 0x02 (k % 4 + line first) 1
  | _ => s

/-- The requests of a read of tray memory, for the lines the device does not cache; RD_OWN is for every line. -/
def Dev.trayReads (s : Dev) (k a n opc who : Nat) (key : BitVec 32) : Dev :=
  let lines := (linesOf a n).filter fun l => opc == 0x03 || !s.hst.cacheLines.contains (trayKey k l / 64)
  (lineRuns lines).foldl (fun s r => s.trayRequest k { msg := { hdr := trayHdr opc 0 r.2 0 r.1 }, who := who, key := key }) s

/-- The requests of a write of tray memory; the device keeps no copy of the lines (Table 9.7). The line of an atomic is written
back whole by EVICT_DIRTY (R202). -/
def Dev.trayWrites (s : Dev) (k a : Nat) (b : List Byte) (who : Nat) (key : BitVec 32) (evict : Bool) : Dev :=
  let mine := (linesOf a b.length).map fun l => trayKey k l / 64
  let s : Dev := { s with hst := { s.hst with cacheLines := s.hst.cacheLines.filter fun l => !mine.contains l } }
  let line := a / 64 * 64
  let held := s.keyBytes (trayKey k line) (a % 64) ++ b ++ s.keyBytes (trayKey k (a + b.length)) (64 - a % 64 - b.length)
  let l := if evict then [{ hdr := trayHdr 0x06 0 1 0 line, data := held }] else trayStores a b
  l.foldl (fun s m => s.trayRequest k { msg := m, who := who, key := key }) s

/-- A read of memory for a function: the state after it, the outcome and the bytes. `opc` is the request that a tray port
carries, `who` and `key` the access it serves. -/
def Dev.readT (s : Dev) (e : Env) (fn : Nat) (t : Tgt) (a n : Nat) (opc : Nat := 0x01) (who : Nat := 0) (key : BitVec 32 := 0) :
    Dev × MemOut × List Byte :=
  match t with
  | .ink => s.inkRead false a n
  | .host =>
    if !s.reach fn t then (s, .unavailable, zeros n)
    else if e.fails (t.key a) n then (s, .error, zeros n)
    else (s, .ok, s.keyBytes (t.key a) n)
  | .tray k =>
    if !s.reach fn t then (s, .unavailable, zeros n)
    else if e.fails (t.key a) n then (s.trayPoison e t a n, .error, zeros n)
    else (s.trayReads k a n opc who key, .ok, s.keyBytes (t.key a) n)

/-- A write of memory for a function. -/
def Dev.writeT (s : Dev) (e : Env) (fn : Nat) (t : Tgt) (a : Nat) (b : List Byte) (who : Nat := 0) (key : BitVec 32 := 0)
    (evict : Bool := false) : Dev × MemOut :=
  match t with
  | .ink => s.inkWrite false a b
  | .host =>
    if !s.reach fn t then (s, .unavailable)
    else if e.fails (t.key a) b.length then (s, .error)
    else (s.setKeyBytes (t.key a) b, .ok)
  | .tray k =>
    if !s.reach fn t then (s, .unavailable)
    else if e.fails (t.key a) b.length then (s.trayPoison e t a b.length, .error)
    else ((s.trayWrites k a b who key evict).setKeyBytes (t.key a) b, .ok)

/-! ### Partition records (Table 16.1) -/

/-- The 512-bit record at position i of a bank of ST cells. -/
def ptnAt (cell : Nat → Word) (i : Nat) : BitVec 512 :=
  BitVec.ofNat 512 ((List.range 8).foldl (fun a w => a + at_ (64 * w) (cell (ptnCell i w)).toNat) 0)

/-- R328: the record that names partition n, all zeros where none does; an all-zero record is no record. -/
def ptnRecOf (cell : Nat → Word) (n : Nat) : BitVec 512 :=
  match (List.range 64).find? fun i => (cell (ptnCell i 0)).toNat % 64 == n && ptnAt cell i != 0 with
  | some i => ptnAt cell i
  | none => 0

def Dev.ptnRec (s : Dev) (n : Nat) : BitVec 512 := ptnRecOf s.st n

def recRings (r : BitVec 512) : Nat := bits r 31 16
def recCqs (r : BitVec 512) : Nat := bits r 47 32
def recCtrs (r : BitVec 512) : Nat := bits r 63 48
def recConnFirst (r : BitVec 512) : Nat := bits r 95 64
def recConnCount (r : BitVec 512) : Nat := bits r 127 96
def recKeyFirst (r : BitVec 512) : Nat := bits r 159 128
def recKeyCount (r : BitVec 512) : Nat := bits r 191 160
def recCphFirst (r : BitVec 512) : Nat := bits r 207 192
def recCphCount (r : BitVec 512) : Nat := bits r 239 208
def recPools (r : BitVec 512) : Nat := bits r 247 240
def recSeed (r : BitVec 512) : BitVec 128 := BitVec.ofNat 128 (bits r 383 256)

/-- The partition that holds a connection; none if no record does. -/
def Dev.connPart (s : Dev) (c : Nat) : Option Nat :=
  (List.range 64).find? fun n =>
    let r := s.ptnRec n
    recConnFirst r ≤ c && c < recConnFirst r + recConnCount r

def Dev.keyPart (s : Dev) (i : Nat) : Option Nat :=
  (List.range 64).find? fun n =>
    let r := s.ptnRec n
    recKeyFirst r ≤ i && i < recKeyFirst r + recKeyCount r

def Dev.cphPart (s : Dev) (i : Nat) : Option Nat :=
  (List.range 64).find? fun n =>
    let r := s.ptnRec n
    recCphFirst r ≤ i && i < recCphFirst r + recCphCount r

/-- R28: the partition of a global ring number, and whether its record holds the ring. -/
def ringPart (r : Nat) : Nat := r / 256 % 64
def Dev.ringHeld (s : Dev) (r : Nat) : Bool := r % 256 < recRings (s.ptnRec (ringPart r))
def Dev.cqHeld (s : Dev) (r : Nat) : Bool := r % 256 < recCqs (s.ptnRec (ringPart r))

/-- R344: the seed of a partition. -/
def Dev.ptnSeed (s : Dev) (n : Nat) : BitVec 128 := recSeed (s.ptnRec n)

/-- Table 16.3: whether a partition refuses new messages. -/
def PtnSt.refuses : PtnSt → Bool
  | .quiescing | .quiesced | .resetting => true
  | _ => false

def PtnSt.code : PtnSt → Nat
  | .active => 0 | .preempting => 1 | .preempted => 2 | .quiescing => 3 | .quiesced => 4 | .resetting => 5

/-- Whether the data-plane block at BAR0 offset `off` is held in reset (R15, R395, R396): its domain has not been
released since power-on, or a warm reset holds it. -/
def Dev.inReset (s : Dev) (off : Nat) : Bool :=
  let need :=
    match off / 2 ^ 16 with
    | 0x02 => 3
    | 0x14 => 5
    | 0x0F => 6
    | 0x05 => 8
    | 0x06 => 9
    | 0x08 | 0x09 | 0x0A | 0x0B | 0x0C | 0x0D | 0x0E | 0x10 | 0x11 | 0x12 | 0x13 | 0x15 | 0x17 | 0x19 => 7
    | 0x16 => if off % 2 ^ 16 < 0x8000 then 7 else 0
    | _ => 0
  s.rst.released < need

/-- R396: an access to a register of a block in reset has no effect and posts a record. -/
def Dev.gated (s : Dev) (v : View) (off : Nat) (w : Word) (f : Dev → Dev) : Dev :=
  if s.inReset off then s.hostErr v off 0x06 w else f s

end Sys2Proof.Machine
end

