-- ==== Sys2Proof/Machine/Packet.lean ====
section
/-! DEFINITION. The packet header (Tables 6.1, 6.2, 6.4, 11.5, 13.1, 13.6): field access, checksums, building. -/

namespace Sys2Proof

/-- A field of a packet's header, by bit positions. -/
def Packet.f (p : Packet) (hi lo : Nat) : Nat := p.hdr.toNat >>> lo % 2 ^ (hi + 1 - lo)

def Packet.dst (p : Packet) : Nat := p.f 31 0
def Packet.src (p : Packet) : Nat := p.f 63 32
def Packet.ptype (p : Packet) : Nat := p.f 71 64
def Packet.vc (p : Packet) : Nat := p.f 75 72
def Packet.tc (p : Packet) : Nat := p.f 78 76
def Packet.ecn (p : Packet) : Bool := p.f 79 79 == 1
def Packet.stamp (p : Packet) : Nat := p.f 111 80
def Packet.stampValid (p : Packet) : Bool := p.f 112 112 == 1
def Packet.first (p : Packet) : Bool := p.f 113 113 == 1
def Packet.last (p : Packet) : Bool := p.f 114 114 == 1
def Packet.enc (p : Packet) : Bool := p.f 115 115 == 1
def Packet.rsigEn (p : Packet) : Bool := p.f 116 116 == 1
def Packet.sys (p : Packet) : Bool := p.f 117 117 == 1
def Packet.ackreq (p : Packet) : Bool := p.f 118 118 == 1
def Packet.retx (p : Packet) : Bool := p.f 119 119 == 1
def Packet.plen (p : Packet) : Nat := p.f 132 120
def Packet.dconn (p : Packet) : Nat := p.f 155 136
def Packet.psn (p : Packet) : Nat := p.f 191 160
def Packet.pktIdx (p : Packet) : Nat := p.f 211 192
def Packet.sconn (p : Packet) : Nat := p.f 231 212
def Packet.pktCount (p : Packet) : Nat := p.f 252 232
def Packet.rkey (p : Packet) : Nat := p.f 287 256
def Packet.raddr (p : Packet) : Nat := p.f 351 288
def Packet.aux (p : Packet) : Nat := p.f 383 352
def Packet.icrc (p : Packet) : Nat := p.f 415 384
def Packet.tag (p : Packet) : Nat := p.f 511 384

end Sys2Proof

namespace Sys2Proof.Machine

def setHdr (h : BitVec 512) (hi lo v : Nat) : BitVec 512 := setBits h hi lo v

/-- A header from its fields, each a bottom bit and a value that fits. -/
def mkHdr (fs : List (Nat × Nat)) : BitVec 512 := BitVec.ofNat 512 (fs.foldl (fun a x => a + at_ x.1 x.2) 0)

def hdrBytes (h : BitVec 512) : List Byte := leBytes 64 h.toNat

/-- The header with the fields transit changes taken as 0: STAMP, STAMP_VALID, ECN and VC. -/
def hdrStill (h : BitVec 512) : BitVec 512 := setHdr (setHdr h 112 79 0) 75 72 0

/-- R119: ICRC of a connection packet, over header bytes 0 to 47 and the payload. -/
def icrcConn (p : Packet) : Nat := crc32c ((hdrBytes (hdrStill p.hdr)).take 48 ++ p.payload)

/-- R241, R288: ICRC of a chord or Strum packet, over the whole header with its own field 0, and the payload. -/
def icrcChord (p : Packet) : Nat := crc32c (hdrBytes (setHdr (hdrStill p.hdr) 415 384 0) ++ p.payload)

def isChord (p : Packet) : Bool := 0x10 ≤ p.ptype && p.ptype ≤ 0x1F
def isPluck (p : Packet) : Bool := 0x20 ≤ p.ptype && p.ptype ≤ 0x27
def isStrum (p : Packet) : Bool := 0x28 ≤ p.ptype && p.ptype ≤ 0x2F
def isConn (p : Packet) : Bool := 1 ≤ p.ptype && p.ptype ≤ 8

/-- Table 6.2: PTYPEs that are assigned. -/
def ptypeOk (t : Nat) : Bool :=
  (1 ≤ t && t ≤ 8) || (0x10 ≤ t && t ≤ 0x12) || (0x20 ≤ t && t ≤ 0x26) || (0x28 ≤ t && t ≤ 0x2A) || t == 0x30

/-- The packet with its integrity field filled: ICRC of a connection packet without encryption, of a chord or Strum
packet; Pluck flits carry none (R276). -/
def sealIcrc (p : Packet) : Packet :=
  if isChord p || isStrum p then { p with hdr := setHdr p.hdr 415 384 (icrcChord p) }
  else if isPluck p || (p.enc && isConn p) then p
  else { p with hdr := setHdr p.hdr 415 384 (icrcConn p) }

/-- Whether a packet's integrity field agrees. An encrypted packet's tag is checked by the cipher. -/
def icrcOk (p : Packet) : Bool :=
  if isChord p || isStrum p then p.icrc == icrcChord p
  else if isPluck p || (p.enc && isConn p) then true
  else p.icrc == icrcConn p

/-! ### Link units (R220, R221) -/

/-- The link tag of a unit (Table 10.20). -/
def linkTag (kind : Nat) (seq : BitVec 16) (d : BitVec 512) : Word :=
  let low := seq.toNat + at_ 16 (kind % 16)
  BitVec.ofNat 64 (low + at_ 32 (crc32c (leBytes 64 d.toNat ++ leBytes 4 low)))

/-- A unit leaves on a link, with its tag. -/
def Dev.emitUnit (s : Dev) (port kind : Nat) (seq : BitVec 16) (d : BitVec 512) : Dev := s.emit (.unit port d (linkTag kind seq d))

/-- A sequenced unit sent on a link, kept until it is acknowledged. -/
def Dev.sendUnit (s : Dev) (port kind : Nat) (d : BitVec 512) : Dev :=
  let l := s.link port
  (s.setLink port { l with held := l.held ++ [(l.nextSeq, BitVec.ofNat 4 kind, d)], nextSeq := l.nextSeq + 1 }).emitUnit port kind l.nextSeq d

/-- A recovery unit sent (R224). -/
def Dev.sendRecovery (s : Dev) (port : Nat) (d : BitVec 512) : Dev := s.sendUnit port 6 d

end Sys2Proof.Machine

namespace Sys2Proof

/-! The fields of a unit received, and whether its CRC agrees (R220). -/

def LinkUnit.kind (u : LinkUnit) : BitVec 4 := BitVec.ofNat 4 (u.tag.toNat >>> 16)
def LinkUnit.seq (u : LinkUnit) : BitVec 16 := BitVec.ofNat 16 u.tag.toNat
def LinkUnit.crcOk (u : LinkUnit) : Bool :=
  u.tag.toNat >>> 32 == Machine.crc32c (Machine.leBytes 64 u.data.toNat ++ Machine.leBytes 4 u.tag.toNat)

end Sys2Proof
end

