-- ==== Sys2Proof/Machine/Ruling.lean ====
section
/-! DEFINITION. Ruling time, the time tree, frets and the Tablature (chapter 2): what the other chapters read. -/

namespace Sys2Proof.Machine

/-! ### The count -/

/-- Whether the count runs: everywhere but in FREE, and in FREE while replay runs it (Table 2.2, R351). -/
def Dev.rlgRuns (s : Dev) : Bool := decide (s.rlg.lock ≠ .free) || s.rlg.replayRun

/-- The count moved forward by `d` ru; a wrap carries into the epoch (R31). -/
def Rlg.advance (r : Rlg) (d : Nat) : Rlg :=
  let t := r.time.toNat + d
  { r with time := BitVec.ofNat 64 t, epoch := r.epoch + BitVec.ofNat 32 (t / 2 ^ 64) }

/-- The steering in force, in 1/1,024 ru per microsecond, clamped to ±10 ru per microsecond (R36). -/
def Rlg.steer (r : Rlg) : Int := max (-10240) (min 10240 (r.freqAdj + (if r.phaseTicks = 0 then 0 else r.phaseAdj)))

/-- One 8 ns tick of the Ruling domain while it runs (R30, R36, R41). In units of 1/128,000 ru a tick is
1,048,576,000, steering adds its clamped rate, and a backward correction takes 500 ppm away until it closes. -/
def Rlg.tick (r : Rlg) : Rlg :=
  let back := min r.slewBack 524288
  let f := r.frac + (if r.lock = .source then 0 else r.steer) - back
  let whole := f / 128000
  let r := r.advance (8192 + whole).toNat
  { r with frac := f - whole * 128000, slewBack := r.slewBack - back, phaseTicks := r.phaseTicks - 1 }

/-- One 8 ns tick of the reference oscillator: the local clock advances, the Ruling count moves while it runs, the
error held in HOLDOVER and STALE grows (R40), and the tap's copy channel takes 256 bytes (DESIGN CHOICE). -/
def Dev.tick (s : Dev) : Dev :=
  { s with
    osc := s.osc + 1
    rlg := if s.rlgRuns then
        let r := s.rlg.tick
        match s.rlg.lock with
        | .holdover | .stale => { r with holdTicks := r.holdTicks + 1 }
        | _ => r
      else s.rlg
    fol := { s.fol with queue := s.fol.queue - 256 } }

/-- R38: HOLD_ERR in ps. It grows 2 ns per second from its base, and holds the largest |theta| of a relock (R39). -/
def Rlg.holdErr (r : Rlg) : Nat :=
  match r.lock with
  | .holdover | .stale =>
    if r.lock = .holdover && r.parent.isSome && decide (r.first ≠ .relock) then min r.relockMax 0xFFFF
    else min (r.holdBase + r.holdTicks / 62500) 0xFFFF
  | _ => 0

/-- A time in ru is at most `n` ps. -/
def withinPs (theta : Int) (n : Nat) : Bool := theta.natAbs * 1000 ≤ n * 1024

/-! ### Configuration fields (Table 2.9) -/

def Dev.rlgDepth (s : Dev) : Nat := bits (s.st Reg.rlgCfg) 39 32
def Dev.holdoverLimit (s : Dev) : Nat := bits (s.st Reg.rlgCfg) 63 48

/-- The candidate parents in order of preference: CAND0 to CAND3 where valid. -/
def Dev.candidates (s : Dev) : List Nat :=
  (List.range 4).filterMap fun k =>
    let c := bits (s.st Reg.rlgCfg) (9 + 5 * k) (5 + 5 * k)
    if c / 16 == 1 then some (c % 16) else none

/-- R42: whether port p is in the Ethernet personality: ports 14 and 15 whose record says so (Table 19.1). -/
def Dev.isEth (s : Dev) (p : Nat) : Bool := 14 ≤ p && p < 16 && bit (s.st (Reg.ethPortRec (p - 14) 0)) 8

/-- Whether port p is up for link control: its link is up and it is no Ethernet port. -/
def Dev.portUp (s : Dev) (p : Nat) : Bool := (s.link p).up && !s.isEth p

/-- The lock state a device reports in beacons: FREE while in replay (R351). -/
def Dev.beaconState (s : Dev) : Nat := if s.det.replay then 0 else s.rlg.lock.code

/-- R33: a neighbour qualifies as parent. -/
def Dev.qualifies (s : Dev) (p : Nat) : Bool :=
  let q := s.rlgPort p
  s.portUp p && q.beaconAt.isSome && !q.lossDeclared &&
  (q.nbState == 5 || q.nbState == 2 || q.nbState == 3) && q.nbDepth.toNat < s.rlgDepth

/-- R33: the first candidate that qualifies. -/
def Dev.firstCandidate (s : Dev) : Option Nat := s.candidates.find? s.qualifies

/-- R42: the port may carry packets: both ends are in SOURCE, LOCKED, HOLDOVER or STALE. -/
def Dev.portCarries (s : Dev) (p : Nat) : Bool :=
  let n := (s.rlgPort p).nbState
  s.portUp p && !s.det.replay && s.rlg.lock.carries && (n == 5 || n == 2 || n == 3 || n == 4)

/-! ### Lock state (R38) -/

/-- A change of lock state, which posts a record of the Ruling class. It carries the parent port and HOLD_ERR as they are
after the change, and port 0 where there is no parent (DESIGN CHOICE). -/
def Dev.setLock0 (s : Dev) (l : Lock) : Dev :=
  if s.rlg.lock = l then s
  else
    let old := s.rlg.lock
    let s := { s with rlg := { s.rlg with lock := l } }
    s.postErr Reg.rlgTime 0x02 l.code
      (old.code + at_ 4 ((s.rlg.parent.getD 0).toNat) + at_ 8 s.rlg.holdErr)
      (match l with | .holdover | .stale | .free => 1 | _ => 0)

/-! ### Frets (R47 to R50) -/

def Dev.tabCount (s : Dev) (p : Nat) : Nat := bits (s.st (Reg.rlgPortTab p)) 12 0
def Dev.tabEntry (s : Dev) (p i : Nat) : Word := s.st (tabCell p i)
def tabLen (w : Word) : Nat := bits w 16 0
def tabKind (w : Word) : Nat := bits w 18 17
def tabFill (w : Word) : Bool := bit w 19
def tabStep (w : Word) : Nat := bits w 31 24
def tabOwner (w : Word) : Nat := bits w 43 32
def Dev.tabPeriod (s : Dev) : Nat := bits (s.st Reg.rlgTabPeriod) 28 0 * 8192
def Dev.tabAnchor (s : Dev) : Nat := s.rlg.anchorEpoch.toNat * 2 ^ 64 + s.rlg.anchor.toNat

/-- The search of R49: the entry that holds `pos`, and its start in the cycle. -/
def fretSearch (len : Nat → Nat) : Nat → Nat → Nat → Nat → Option (Nat × Nat)
  | 0, _, _, _ => none
  | k + 1, i, start, pos =>
    if pos < start + len i * 8192 then some (i, start) else fretSearch len k (i + 1) (start + len i * 8192) pos

/-- R49: the current fret of a port at extended time t: cycle, entry and the extended time it began; none where the
port has no Tablature or the time lies before the anchor. -/
def Dev.fretAt (s : Dev) (p t : Nat) : Option (Nat × Nat × Nat) :=
  if s.tabCount p = 0 || s.tabPeriod = 0 || t < s.tabAnchor then none
  else
    let e := t - s.tabAnchor
    match fretSearch (fun i => tabLen (s.tabEntry p i)) (s.tabCount p) 0 0 (e % s.tabPeriod) with
    | some (i, start) => some (e / s.tabPeriod, i, s.tabAnchor + e / s.tabPeriod * s.tabPeriod + start)
    | none => none

/-- R43, R49: whether every fret of the port counts as open. -/
def Dev.allOpen (s : Dev) (p t : Nat) : Bool := decide (s.rlg.lock = .stale) || (s.fretAt p t).isNone

/-- RLG_TAB_POS (Table 2.11): the cycle of the device's period, and the port's entry, 0 where it has no Tablature. -/
def Dev.tabPos (s : Dev) (p : Nat) : Word :=
  if s.tabPeriod = 0 || s.now < s.tabAnchor then 0
  else
    let i := match s.fretAt p s.now with | some (_, i, _) => i | none => 0
    BitVec.ofNat 64 (at_ 48 ((s.now - s.tabAnchor) / s.tabPeriod % 0x10000) + i)

/-- RLG_STATUS (Table 2.8). -/
def Dev.rlgStatus (s : Dev) : Word :=
  BitVec.ofNat 64 (s.rlg.lock.code + at_ 3 ((s.rlg.parent.getD 0).toNat) + at_ 7 (b2n s.rlg.parent.isSome)
    + at_ 8 s.rlgDepth + at_ 16 (b2n s.rlg.served) + at_ 48 s.rlg.holdErr)

/-! ### One-way delay (R46) -/

/-- R46: owd of a packet, in ns. -/
def Arrival.owd (a : Arrival) (p : Packet) : Nat := (a.at_.toNat / 1024 % 2 ^ 32 + 2 ^ 32 - p.stamp) % 2 ^ 32

/-- R46: whether owd is valid. -/
def Arrival.owdOk (a : Arrival) (p : Packet) : Bool := p.stampValid && a.valid && a.owd p < 0x80000000

/-- The delay of a packet in the field that carries it, and whether it is valid. -/
def Arrival.oneWay (a : Arrival) (p : Packet) : BitVec 24 × Bool := (BitVec.ofNat 24 (min (a.owd p) 0xFFFFFF), a.owdOk p)

end Sys2Proof.Machine
end

