-- ==== Sys2Proof/Machine/Folio.lean ====
section
/-! DEFINITION. The Folio journal (R345 to R348): writing records, scope, and the tap. -/

namespace Sys2Proof.Machine

/-- Table 17.12. -/
def FolSt.code : FolSt → Nat
  | .idle => 0 | .capture => 1 | .post => 2 | .frozen => 3 | .replayReady => 4 | .replaying => 5
  | .replayDone => 6 | .diverged => 7 | .unavailable => 8

/-- The KIND 5 region of the running layout. -/
def Dev.folRegion (s : Dev) : Option Region := if s.ink.boot then none else regionKind s.regions 5

/-- Whether records are written: in CAPTURE, and in POST until POST_KIB KiB of records have been written (R347). -/
def Dev.folOpen (s : Dev) : Bool := decide (s.fol.st = .capture) || (decide (s.fol.st = .post) && 0 < s.fol.postLeft)

/-- The bytes of a record: the header of Table 17.5 and the body, padded to a multiple of 16. -/
def folBytes (kind part units : Nat) (seq time : Nat) (body : List Byte) : List Byte :=
  (leBytes 1 kind ++ leBytes 1 part ++ leBytes 2 units ++ leBytes 4 seq ++ leBytes 8 time ++ body
    ++ zeros (16 * units)).take (16 * units)

/-- One record appended at FOL_HEAD, which the caller has made room for. -/
def Dev.folAppend (s : Dev) (r : Region) (kind part : Nat) (time : Word) (body : List Byte) (units : Nat) : Dev :=
  let s := (s.inkWrite false (r.base + s.fol.head.toNat) (folBytes kind part units s.fol.seq.toNat time.toNat body)).1
  { s with fol := { s.fol with
    head := BitVec.ofNat 64 ((s.fol.head.toNat + 16 * units) % r.size), seq := s.fol.seq + 1,
    postLeft := s.fol.postLeft - 16 * units } }

/-- R345: a record is written at FOL_HEAD; one that would straddle the region end is preceded by a PAD record. -/
def Dev.folWrite (s : Dev) (kind part : Nat) (time : Word) (body : List Byte) : Dev :=
  match s.folRegion with
  | none => s
  | some r =>
    let units := 1 + ceilDiv body.length 16
    let left := r.size - s.fol.head.toNat
    let s :=
      if left < 16 * units then
        let s := s.folAppend r 0x10 0x3F time [] (left / 16)
        { s.bump Reg.folWraps with fol := { s.fol with head := 0 } }
      else s
    s.folAppend r kind part time body units

/-- A record written while records are. -/
def Dev.folPut (s : Dev) (kind part : Nat) (time : Word) (body : List Byte) : Dev :=
  if s.folOpen then s.folWrite kind part time body else s

/-- FOL_SCOPE entries in use: kind, identifier and FULL. -/
def Dev.folScopes (s : Dev) : List (Nat × Nat × Bool) :=
  (List.range 64).filterMap fun k =>
    let w := s.reg (Reg.folScope k)
    if bit w 63 then some (bits w 61 60, bits w 19 0, bit w 62) else none

/-- R346: whether an event with these attributes (kind, identifier) is in scope, and whether with FULL. -/
def Dev.folMatch (s : Dev) (attrs : List (Nat × Nat)) : Option Bool :=
  let m := s.folScopes.filter fun e => attrs.contains (e.1, e.2.1)
  if m.isEmpty then none else some (m.any fun e => e.2.2)

/-- R18: GAP, written before the first record after copies were discarded, and before writing ends. -/
def Dev.folGap (s : Dev) : Dev :=
  if s.fol.gap = 0 then s
  else
    let s := s.folWrite 0x0F 0x3F s.rlg.time (leBytes 8 s.fol.gap ++ zeros 8)
    { s with fol := { s.fol with gap := 0 } }

/-- R18: the copy channel has room for a copy of `n` bytes. -/
def Dev.tapFits (s : Dev) (n : Nat) : Bool := s.fol.queue + n ≤ Config.tapDepth

/-- A copy of `n` bytes takes its place in the channel, or is discarded and counted. -/
def Dev.tapTake (s : Dev) (n : Nat) : Dev :=
  let ok := s.tapFits n
  { s with
    fol := { s.fol with
      queue := if ok then s.fol.queue + n else s.fol.queue
      gap := if ok || !s.folOpen then s.fol.gap else s.fol.gap + 1 }
    cnt := if ok then s.cnt else (s.bump Reg.folGaps).cnt }

/-- A copy made by the tap of an event in scope: written, or discarded and counted where it does not fit (R18). In
replay the device's outputs are kept for comparison instead (R350). -/
def Dev.folTap (s : Dev) (kind part : Nat) (body : List Byte) : Dev :=
  if decide (s.fol.st = .replaying) then
    { s with fol := { s.fol with produced := s.fol.produced ++
      [{ kind := BitVec.ofNat 8 kind, part := BitVec.ofNat 8 part, time := s.rlg.time, body := body }] } }
  else if !s.folOpen then s
  else if s.tapFits (16 + body.length) then (s.folGap.tapTake (16 + body.length)).folPut kind part s.rlg.time body
  else s.tapTake (16 + body.length)

/-- An event in scope by its attributes, tapped with the body given. -/
def Dev.folEvent (s : Dev) (kind part : Nat) (attrs : List (Nat × Nat)) (body : List Byte) : Dev :=
  match s.folMatch attrs with
  | some _ => s.folTap kind part body
  | none => s

/-- PKT_RX and PKT_TX bodies (Table 17.6), and PAYLOAD after a PKT_RX in a FULL scope. -/
def Dev.folPkt (s : Dev) (tx : Bool) (part port : Nat) (attrs : List (Nat × Nat)) (p : Packet) : Dev :=
  match s.folMatch attrs with
  | none => s
  | some full =>
    let s := s.folTap (if tx then 0x06 else 0x05) part
      (hdrBytes p.hdr ++ leBytes 8 (crc64 p.payload) ++ leBytes 1 port ++ zeros 7)
    if full && !tx && 0 < p.payload.length then s.folTap 0x07 part p.payload else s

/-- MEM_DIGEST of bytes read (Table 17.6). -/
def Dev.folMem (s : Dev) (part : Nat) (attrs : List (Nat × Nat)) (key addr : Nat) (b : List Byte) : Dev :=
  s.folEvent 0x0C part attrs (leBytes 4 key ++ zeros 4 ++ leBytes 8 addr ++ leBytes 4 b.length ++ zeros 4 ++ leBytes 8 (crc64 b))

/-- R347: a trigger. Cause and detail as the TRIGGER record has them. -/
def Dev.folTrigger (s : Dev) (cause detail : Nat) : Dev :=
  match s.fol.st with
  | .capture =>
    let s := s.folGap
    let s := s.folPut 0x0E 0x3F s.rlg.time (leBytes 1 cause ++ leBytes 1 detail ++ zeros 14)
    let post := bits (s.reg Reg.folCfg) 63 32 * 1024
    { s with fol := { s.fol with
        st := if post = 0 then .frozen else .post, freezeAt := s.rlg.time,
        postLeft := post, freezeHead := if post = 0 then s.fol.head else s.fol.freezeHead } }
  | .post | .frozen => s.bump Reg.folTrigLost
  | _ => s

/-- FROZEN: the offset of the next record is kept (R347). -/
def Dev.folFreeze (s : Dev) : Dev :=
  let s := s.folGap
  { s with fol := { s.fol with st := .frozen, freezeHead := s.fol.head } }

/-- The SEED record of a partition (which 0) or of a chord slot (which 1), Table 17.6, with the partition it concerns. -/
def Dev.folSeed (s : Dev) (part which id : Nat) (seed : BitVec 128) : Dev :=
  s.folPut 0x09 part s.rlg.time
    (leBytes 1 which ++ zeros 1 ++ leBytes 2 id ++ zeros 12 ++ leBytes 16 seed.toNat)

/-- R348: a connection whose STATE record is still to be written waits. -/
def Dev.markHeld (s : Dev) (c : Nat) : Bool := s.fol.markImg.any fun m => m.1 == 2 && m.2.1 == c

/-- R350: the record of the replay range that fixes an event's outcome: the first of a kind whose body begins so. -/
def Dev.replayFix (s : Dev) (kind : Nat) (key : List Byte) : Option FolRec :=
  if s.fol.st = .replaying then s.fol.recs.find? fun r => r.kind.toNat == kind && r.body.take key.length == key else none

/-! ### Register writes (R346) -/

/-- HOST_WRITE of a BAR0 write: of a virtual function in its partition's scope, of the physical function with HOST_PF. An
access through the register port is no host's. -/
def Dev.tapWrite (s : Dev) (v : View) (off size : Nat) (w : Word) : Dev :=
  let body := leBytes 2 (View.fn v) ++ [0, BitVec.ofNat 8 size] ++ leBytes 4 off ++ leBytes 8 w.toNat
  if s.det.replay then s
  else match v with
    | .pf => if bit (s.reg Reg.folCfg) 0 then s.folTap 0x04 0x3F body else s
    | .vf n => s.folEvent 0x04 n.val [(0, n.val)] body
    | .port => s

/-- A write of part of the register at `off`. -/
def Dev.tapPart (s : Dev) (v : View) (off : Nat) (h : Half) (w : Word) : Dev :=
  match h with
  | .both => s.tapWrite v off 8 w
  | .low => s.tapWrite v off 4 (w &&& 0xFFFFFFFF)
  | .high => s.tapWrite v (off + 4) 4 (w >>> 32)

def Dev.tapOp (s : Dev) (off : Nat) (r : RegOp) : Dev :=
  match r.data with
  | some w => s.tapPart r.view off r.half w
  | none => s

/-- The offset in a view's BAR0 of a register that both views hold (Table 9.2). -/
def viewOff (v : View) (off : Nat) : Nat :=
  match v with
  | .vf _ => if off / 2 ^ 16 = 0x0C then off - 0x0A0000 else if off / 2 ^ 18 = 2 then off - 0x080000 else off
  | _ => off

/-- The outcome of a command that is an 8-byte write of a register. -/
def onWrite (v : View) (off : Nat) (w : Word) (f : Dev → Dev) (s : State) : Host.Outcome State Fault Refusal :=
  onDev (fun d => f (d.tapWrite v (viewOff v off) 8 w)) s

/-- The outcome of such a command that also reads flash or OTP. -/
def onWriteF (v : View) (off : Nat) (w : Word) (f : Flash → Dev → Dev) (s : State) : Host.Outcome State Fault Refusal :=
  onDevF (fun fl d => f fl (d.tapWrite v (viewOff v off) 8 w)) s

end Sys2Proof.Machine
end

