-- ==== Sys2Proof/Machine/Lock.lean ====
section
/-! DEFINITION. The lock state of Ruling (Table 2.3): choosing and losing a parent, the servo, and the flits that carry
time (R33 to R44, R444). -/

namespace Sys2Proof.Machine

/-! ### Changes of state -/

/-- A disarm by TIME_LOST (R64): any drain window closes with it. -/
def Dev.timeLost (s : Dev) : Dev :=
  if decide (s.capo.st = .armed) || decide (s.capo.st = .draining) then
    ({ s with capo := { s.capo with st := .passed, armResult := 0x05 } } : Dev).postErr Reg.capoCtl 0x03 0x05 s.capo.runGen.toNat 1
  else s

/-- A change of lock state (R38); STALE and FREE disarm an armed Capo (R64). -/
def Dev.setLock (s : Dev) (l : Lock) : Dev :=
  let t := s.setLock0 l
  match l with
  | .stale | .free => s.oneClock t.timeLost
  | .locked => { t with rlg := { t.rlg with everLocked := true } }
  | _ => t

/-- A parent is taken; `f` is what its first servo update has to do (R444). -/
def Dev.takeParent (s : Dev) (p : Nat) (f : FirstUpdate) : Dev :=
  { s with rlg := { s.rlg with parent := some (BitVec.ofNat 4 p), first := f, good := 0, bad := 0 } }

/-- Entry to ACQUIRE with a new parent, to be corrected at its first update. -/
def Dev.acquire (s : Dev) (p : Nat) : Dev := (s.takeParent p .correct).setLock .acquire

/-- Free running with HOLD_ERR from `base` ps (R38, R39). -/
def Rlg.freeRun (r : Rlg) (base : Nat) : Rlg :=
  { r with parent := none, first := .none, good := 0, bad := 0, holdBase := base, holdTicks := 0, phaseTicks := 0 }

/-- Table 2.3: a device without a parent takes the first candidate that qualifies. -/
def Dev.seekParent (s : Dev) : Dev :=
  if s.rlg.parent.isSome || s.det.replay || s.rlg.replayRun then s
  else match s.firstCandidate with
    | none => s
    | some p =>
      match s.rlg.lock with
      | .free | .stale => s.acquire p
      | .holdover => s.takeParent p .relock
      | _ => s

/-- HOLD_ERR in force when a relock ends without a parent: what the relock held, or what had grown (R39). -/
def Rlg.relockBase (r : Rlg) : Nat := if r.first = .relock then r.holdBase + r.holdTicks / 62500 else r.relockMax

/-- Table 2.3: the parent is lost. -/
def Dev.parentLost (s : Dev) : Dev :=
  match s.rlg.lock with
  | .locked =>
    (match s.firstCandidate with
    | some p => s.takeParent p .none
    | none => ({ s with rlg := s.rlg.freeRun 0 } : Dev).setLock .holdover)
  | .holdover => ({ s with rlg := s.rlg.freeRun s.rlg.relockBase } : Dev).seekParent
  | .acquire =>
    (match s.firstCandidate with
    | some p => s.takeParent p .correct
    | none =>
      let r := { s.rlg.freeRun 0 with slewBack := 0 }
      ({ s with rlg := r } : Dev).setLock (if s.rlg.everLocked then .stale else .free))
  | _ => s

/-- Whether port p's neighbour is the parent. -/
def Dev.isParent (s : Dev) (p : Nat) : Bool := s.rlg.parent == some (BitVec.ofNat 4 p)

/-- R33: a parent whose beacon no longer qualifies is lost; without one, a candidate may be taken. -/
def Dev.afterBeacon (s : Dev) (p : Nat) : Dev :=
  (if s.isParent p && !s.qualifies p then s.parentLost else s).seekParent

/-- R38: HOLD_ERR passes HOLDOVER_LIMIT. During a relock the parent is dropped as well, and one is sought at once from STALE
(DESIGN CHOICE: R38 does not state what becomes of the relock). -/
def Dev.holdoverLimitHit (s : Dev) : Dev :=
  if decide (s.rlg.lock = .holdover) && s.holdoverLimit < s.rlg.holdErr then
    let base := if s.rlg.parent.isSome then s.rlg.relockBase else s.rlg.holdBase + s.rlg.holdTicks / 62500
    (({ s with rlg := s.rlg.freeRun base } : Dev).setLock .stale).seekParent
  else s

/-! ### The servo (R35, R36, R444) -/

/-- A correction as on entry to ACQUIRE: a step forward by −theta, or a slew backward at 500 ppm (R41). -/
def Rlg.correct (r : Rlg) (theta : Int) : Rlg :=
  if theta < 0 then { r.advance (-theta).toNat with slewBack := 0 } else { r with slewBack := theta.toNat * 128000 }

/-- servo_update. -/
def Rlg.servo (r : Rlg) (theta : Int) : Rlg :=
  { r with freqAdj := r.freqAdj - theta, phaseAdj := -64 * theta, phaseTicks := 125 }

/-- |theta| in ps, rounded up. -/
def psUp (theta : Int) : Nat := ceilDiv (theta.natAbs * 1000) 1024

/-- One servo update on a timestamp flit from the parent (Table 2.3, R39, R444). -/
def Dev.update (s : Dev) (theta : Int) : Dev :=
  let r := s.rlg
  let in20 := withinPs theta 20
  match r.lock with
  | .acquire =>
    let r := if r.first = .correct then { r.correct theta with first := .none } else r
    let r := { r with good := if in20 then r.good + 1 else 0 }
    if 1024 ≤ r.good then ({ s with rlg := { r with good := 0, bad := 0 } } : Dev).setLock .locked
    else { s with rlg := r }
  | .locked =>
    let bad := if withinPs theta 100 then 0 else r.bad + 1
    if 16 ≤ bad then
      let s := ({ s with rlg := { r with bad := 0, good := 0, first := .none } } : Dev).setLock .acquire
      { s with rlg := s.rlg.correct theta }
    else { s with rlg := { r.servo theta with bad := bad, first := .none } }
  | .holdover =>
    if !withinPs theta 250 then
      let s := ({ s with rlg := { r with good := 0, bad := 0, first := .none } } : Dev).setLock .acquire
      { s with rlg := s.rlg.correct theta }
    else
      let r := { r.servo theta with
        relockMax := if r.first = .relock then psUp theta else max r.relockMax (psUp theta)
        good := if in20 then r.good + 1 else 0
        first := .none }
      let s : Dev := { s with rlg := r }
      if 16 ≤ r.good then ({ s with rlg := { r with good := 0, bad := 0 } } : Dev).setLock .locked else s
  | _ => s

/-- theta of the servo: t1, t2, t3, t4 and the asymmetry in ru. -/
def thetaOf (t1 t2 t3 t4 : Word) (asym : Int) : Int :=
  (sext 64 (t2 - t1).toNat - sext 64 (t4 - t3).toNat - asym) / 2

/-- A signed ru count in 32 bits, held at the ends of the range. -/
def clamp32 (i : Int) : BitVec 32 := BitVec.ofInt 32 (max (-2147483648) (min 2147483647 i))

/-- R44: a neighbour reports `st` and `depth`. One of a greater depth in ACQUIRE has entered it against this device where this
device may be a parent (R33). -/
def Dev.noteServed (s : Dev) (st depth : Nat) : Dev :=
  let b := s.beaconState
  if st == 1 && s.rlgDepth < depth && (b == 5 || b == 2 || b == 3) then { s with rlg := { s.rlg with served := true } } else s

/-- The count `fine` ru after the last tick; while it is held, the value held. -/
def Dev.fineNow (s : Dev) (fine : Nat) : Nat := if s.rlgRuns then s.now + fine else s.now

/-- A timestamp flit received on a port `fine` ru after the last tick (R35): what it echoes is kept, its STATE and DEPTH
count as the neighbour's (DEDUCED: file 95 has BEACON_RX within TSTAMP), and from the parent it makes a servo update. -/
def Dev.tstamp (s : Dev) (p : Nat) (d : BitVec 512) (fine : Nat) : Dev :=
  if !s.portUp p then s
  else
    let x := s.rlgPort p
    let t2 : Word := BitVec.ofNat 64 (s.fineNow fine)
    let t1 : Word := BitVec.ofNat 64 (bits d 63 0)
    let st := bits d 98 96
    let y : RlgPort := { x with
      lastTx := t1, lastRx := t2, lastSeq := BitVec.ofNat 16 (bits d 127 112),
      nbState := BitVec.ofNat 3 st, nbDepth := BitVec.ofNat 8 (bits d 111 104) }
    let got := (s.setRlgPort p y).noteServed st y.nbDepth.toNat
    if !s.isParent p || !got.qualifies p then got.afterBeacon p
    else match x.sent.find? (fun q => q.1.toNat == bits d 271 256 && s.osc ≤ q.2.2 + 500) with
    | none => got
    | some q =>
      let theta := thetaOf t1 t2 q.2.1 (BitVec.ofNat 64 (bits d 255 192)) (sext 32 (bits (s.st (Reg.rlgPortAsym p)) 31 0))
      (got.setRlgPort p { y with theta := clamp32 theta }).update theta

/-- The port sends its timestamp flit, with the fields of Table 2.1. -/
def Dev.tstampSend (s : Dev) (p fine : Nat) : Dev :=
  if !s.portUp p then s
  else
    let x := s.rlgPort p
    let t := s.fineNow fine
    let d : BitVec 512 := BitVec.ofNat 512 (t % 2 ^ 96 + at_ 96 s.beaconState + at_ 104 (s.rlgDepth % 256) + at_ 112 x.txSeq.toNat
      + at_ 128 x.lastTx.toNat + at_ 192 x.lastRx.toNat + at_ 256 x.lastSeq.toNat)
    (s.setRlgPort p { x with
      txSeq := x.txSeq + 1
      sent := (x.sent.filter fun q => s.osc ≤ q.2.2 + 500) ++ [(x.txSeq, BitVec.ofNat 64 t, s.osc)] }).emitUnit p 4 (s.link p).nextSeq d

/-! ### Capo apply (Table 2.3) -/

/-- RLG_CFG.SOURCE. -/
def rlgSource (w : Word) : Bool := bit w 0

/-- What an apply does to the lock state, `old` being RLG_CFG before it. Where it changes DEPTH, a parent whose last beacon
no longer qualifies is lost at once, without waiting for its next beacon (DESIGN CHOICE: R33 names no instant). -/
def Dev.rlgApplied (s : Dev) (old : Word) : Dev :=
  match rlgSource old, rlgSource (s.st Reg.rlgCfg) with
  | false, true =>
    let r := { s.rlg.freeRun 0 with freqAdj := 0, phaseAdj := 0, slewBack := 0 }
    ({ s with rlg := r } : Dev).setLock .source
  | true, false =>
    (match s.firstCandidate with
    | some p => s.acquire p
    | none => ({ s with rlg := s.rlg.freeRun 0 } : Dev).setLock .holdover)
  | _, _ => (match s.rlg.parent with
    | some p => if s.qualifies p.toNat then s else s.parentLost
    | none => s).seekParent

/-! ### Registers of time (R31, R32, R44) -/

def Dev.rlgSnap (s : Dev) : Dev := { s with rlg := { s.rlg with snapTime := s.rlg.time, snapEpoch := s.rlg.epoch } }

/-- R44: RLG_SET. -/
def Dev.rlgSet (s : Dev) (t : Word) : Dev :=
  if decide (s.rlg.lock = .source) && !s.rlg.served then
    { s with rlg := { s.rlg with time := t, epoch := BitVec.ofNat 32 (bits (s.reg Reg.rlgSetEpoch) 31 0) } }
  else s.hostErr .pf Reg.rlgSet 0x02 t

/-- R346: EPOCH is recorded when the epoch has changed since `e`. -/
def Dev.epochRecord (s : Dev) (e : BitVec 32) : Dev :=
  if s.rlg.epoch = e then s else s.folPut 0x11 0x3F s.rlg.time (leBytes 4 s.rlg.epoch.toNat ++ zeros 12)

/-- One tick, with the record of a wrap. -/
def Dev.passTick (s : Dev) : Dev := s.tick.epochRecord s.rlg.epoch

/-- EPOCH_WRAP (R31): the count, within one tick of its end, wraps. -/
def Dev.epochWrap (s : Dev) : Dev :=
  let left := 2 ^ 64 - s.rlg.time.toNat
  if s.rlgRuns && left ≤ 8192 then ({ s with rlg := s.rlg.advance left } : Dev).epochRecord s.rlg.epoch else s

/-! ### The commands -/

def execRlgSnap (s : State) : Host.Outcome State Fault Refusal := onDev Dev.rlgSnap s
def execRlgSet (time : Word) (s : State) : Host.Outcome State Fault Refusal := onDev (fun s => s.rlgSet time) s
def execEpochWrap (s : State) : Host.Outcome State Fault Refusal := onDev Dev.epochWrap s
def execTimestampFlitSend (port : Fin 16) (fine : BitVec 13) (s : State) : Host.Outcome State Fault Refusal :=
  onDev (fun s => s.tstampSend port fine.toNat) s
def execHoldoverLimitExceeded (s : State) : Host.Outcome State Fault Refusal := onDev Dev.holdoverLimitHit s

end Sys2Proof.Machine
end

