-- ==== Sys2Proof/Machine/Keys.lean ====
section
/-! DEFINITION. Memory keys, key checks, translation of host addresses, and access to keyed regions (chapter 8). -/

namespace Sys2Proof.Machine

/-! Completion status codes (Table 0.7). -/
def stOk : Nat := 0x00
def stFlushed : Nat := 0x01
def stKeyInvalid : Nat := 0x02
def stKeyBounds : Nat := 0x03
def stKeyRights : Nat := 0x04
def stTranslation : Nat := 0x05
def stRetry : Nat := 0x06
def stPeer : Nat := 0x07
def stAuth : Nat := 0x08
def stMismatch : Nat := 0x09
def stTimeout : Nat := 0x0A
def stAborted : Nat := 0x0B
def stHostLost : Nat := 0x0C
def stQuiesced : Nat := 0x0D
def stMalformed : Nat := 0x0E
def stDependency : Nat := 0x0F
def stRnr : Nat := 0x10
def stPoison : Nat := 0x11
def stScore : Nat := 0x12
def stTarget : Nat := 0x13
def stCipher : Nat := 0x14
def stBusy : Nat := 0x15

/-! ### Key table entries (Table 8.3) -/

def keyXlt (e : BitVec 256) : Nat := bits e 255 192
def keyBase (e : BitVec 256) : Nat := bits e 191 128
def keyLast (e : BitVec 256) : Nat := bits e 127 80
def keyPasid (e : BitVec 256) : Nat := bits e 79 60
def keyPtn (e : BitVec 256) : Nat := bits e 59 54
def keyValid (e : BitVec 256) : Bool := bit e 53
def keyClass (e : BitVec 256) : Nat := bits e 52 51
def keyGen (e : BitVec 256) : Nat := bits e 50 43
def keyOnDemand (e : BitVec 256) : Bool := bit e 42
def keyTarget (e : BitVec 256) : Nat := bits e 41 40
def keyTray (e : BitVec 256) : Nat := bits e 39 38
def keyRights (e : BitVec 256) : Nat := bits e 37 33

def keyIndex (k : BitVec 32) : Nat := bits k 21 0

/-! ### Pinned host memory (R170) -/

/-- What the host answers to a Translation Request for a page of unregistered or pinned memory of a function: the address, and
whether it grants writes. It is the answer given with the command or an earlier one. -/
def Dev.hostGrant (s : Dev) (e : Env) (fn a : Nat) : Option (Nat × Bool) :=
  ((e.xlate ++ s.hst.xlate).find? fun x => x.1 == fn && x.2.1 == a / 4096 * 4096).map fun x => (x.2.2.1 + a % 4096, x.2.2.2)

/-- R170: the translation of pinned memory of a function: itself while ATS is off, the host's answer while it is on; none where
the access is not granted. -/
def Dev.pinnedAddr (s : Dev) (e : Env) (fn a : Nat) (write : Bool := false) : Option Nat :=
  if (s.fn fn).ats then
    match s.hostGrant e fn a with
    | some (q, w) => if write && !w then none else some q
    | none => none
  else some a

/-- An access to pinned memory sends a Translation Request while ATS is on: it has no key, so it takes no translation cache
entry (R173; DEDUCED). -/
def Dev.pinnedAsk (s : Dev) (fn : Nat) : Dev := if (s.fn fn).ats then s.bump Reg.xltAtsReqs else s

/-! ### The key table in memory (R161) -/

def Dev.keyEntry (s : Dev) (i : Nat) : BitVec 256 := tget (fun _ => 0) s.xlt.keys i

/-- The place of a slot's entry in Inkwell, where the running layout holds a KIND 4 region. -/
def Dev.keyInk (s : Dev) (i : Nat) : Option Nat :=
  if s.ink.boot then none else (regionKind s.regions 4).map fun r => r.base + i * 32

/-- The place of a slot's entry in host memory of partition 0 otherwise. -/
def Dev.keyHost (s : Dev) (i : Nat) : Nat :=
  let n := (s.keyPart i).getD 0
  bits (s.reg (Reg.keyHostBacking n)) 63 12 * 4096 + (i - recKeyFirst (s.ptnRec n)) * 32

/-- A poisoned line of the table is written good again for one of its two entries; the other returns poison still. -/
def Dev.keyMend (s : Dev) (i a : Nat) : Dev :=
  let s := s.eccRange false a 32
  match s.inkFind false (a / 64 * 64) with
  | some (_, c, off) =>
    if !s.ink.poison.contains (lineKey c off) then s
    else { s with
      ink := { s.ink with poison := s.ink.poison.filter (· != lineKey c off) }
      xlt := { s.xlt with keyPoison := s.xlt.keyPoison.filter (· != (i ^^^ 1)) ++ [i ^^^ 1] } }
  | none => s

/-- The device writes a slot's entry: in its table, and in the memory that backs the table. -/
def Dev.setKeyEntry (s : Dev) (i : Nat) (e : BitVec 256) : Dev :=
  let s : Dev := { s with xlt := { s.xlt with keys := tset (fun _ => 0) s.xlt.keys i e } }
  match s.keyInk i with
  | some a => ((s.keyMend i a).inkWrite false a (leBytes 32 e.toNat)).1
  | none =>
    let t := s.pinnedAsk 0
    match s.pinnedAddr {} 0 (s.keyHost i) true with
    | some q => if s.reach 0 .host then t.setKeyBytes (hostKey q) (leBytes 32 e.toNat) else s
    | none => if s.reach 0 .host then t else s

/-- R163: the entry of a slot was found poisoned, or could not be fetched. -/
def Dev.keyBad (s : Dev) (i : Nat) : Bool := s.xlt.keyPoison.contains i || !s.xlt.keyCached.contains i

/-- What the fetch of a slot's entry finds. -/
inductive KeyFetch where
  | ok
  | poison
  /-- host memory of partition 0 gives nothing -/
  | none_
  deriving DecidableEq, Repr

/-- What reading the memory behind a slot gives: poison where its Inkwell line is fenced or poisoned (Table 15.5). -/
def Dev.keyFetchOut (s : Dev) (i : Nat) : KeyFetch :=
  match s.keyInk i with
  | some a => match s.lineOut false (a / 64 * 64) with
    | .unavailable | .poison => .poison
    | _ => if s.xlt.keyPoison.contains i then .poison else .ok
  | none =>
    if !s.reach 0 .host || (s.pinnedAddr {} 0 (s.keyHost i)).isNone then .none_
    else if s.xlt.keyPoison.contains i then .poison else .ok

/-! #### The key cache (R160, R163) -/

/-- The slot at the most recently used end of the key cache, or where its class puts it; the oldest entry that may
go makes room: 131,072 entries, 65,536 of them STICKY. -/
def Dev.keyTouch (s : Dev) (i : Nat) : Dev :=
  let others := s.xlt.keyCached.filter (· != i)
  let sticky := fun j => keyClass (s.keyEntry j) == 1
  let mine := sticky i
  let evict : List Nat → List Nat := fun l =>
    if mine && 65536 ≤ (l.filter sticky).length then eraseFirst sticky l
    else if 131072 ≤ l.length then (if l.any (fun j => !sticky j) then eraseFirst (fun j => !sticky j) l else l.drop 1)
    else l
  let l := evict others
  { s with xlt := { s.xlt with keyCached := if keyClass (s.keyEntry i) == 2 then i :: l else l ++ [i] } }

/-- R163: a fetch of a key entry that is not cached, counted; poison is treated as invalid, counted and posted. An entry that
host memory does not give is not cached, and is invalid for the access (DESIGN CHOICE: R163 states no outcome). -/
def Dev.keyLoad (s : Dev) (i : Nat) : Dev :=
  if s.xlt.keyCached.contains i then s.keyTouch i
  else
    let s := s.bump Reg.keyMisses
    let s := match s.keyInk i with
      | some a => s.eccRange false a 32
      | none => if s.reach 0 .host then s.pinnedAsk 0 else s
    match s.keyFetchOut i with
    | .ok => s.keyTouch i
    | .none_ => s
    | .poison =>
      let s : Dev := { s with xlt := { s.xlt with keyPoison := s.xlt.keyPoison.filter (· != i) ++ [i] } }
      (((s.bump (Reg.keyFails 5)).postErr Reg.keySel 0x06 0x01 i 2)).keyTouch i

/-- Rights masks (Table 8.7). -/
def rR : Nat := 1
def rW : Nat := 2
def rAT : Nat := 4
def rRM : Nat := 8
def rCH : Nat := 16

/-- Table 8.5, steps 1 to 5, on an entry: the status of the first failing step and the KEY_FAILS index, none where all
pass. `n` is the access length, `part` the partition of the access (R169), `need` its rights. -/
def keyFail (e : BitVec 256) (bad : Bool) (k : BitVec 32) (part a n need : Nat) : Option (Nat × Nat) :=
  if !keyValid e || bad then some (stKeyInvalid, 0)
  else if keyGen e != bits k 31 24 || keyClass e != bits k 23 22 then some (stKeyInvalid, 1)
  else if keyPtn e != part then some (stKeyInvalid, 2)
  else if a < keyBase e || keyBase e + keyLast e + 1 < a + n then some (stKeyBounds, 3)
  else if keyRights e &&& need != need then some (stKeyRights, 4)
  else none

/-- R167: the check of an operand. The state after it, and the failing status. -/
def Dev.keyCheck (s : Dev) (k : BitVec 32) (part a n need : Nat) : Dev × Option Nat :=
  let i := keyIndex k
  let s := s.keyLoad i
  match keyFail (s.keyEntry i) (s.keyBad i) k part a n need with
  | none => (s, none)
  | some (st, c) => (s.bump (Reg.keyFails c), some st)

/-- R165: the registration a checked key was checked against, and whether ATS was enabled then: the slot's, or an earlier one
whose range is still in use. -/
def Dev.registration (s : Dev) (k : BitVec 32) : BitVec 256 × Bool :=
  let x := s.keyEntry (keyIndex k)
  let now := (x, s.xlt.atsKeys.contains (keyIndex k))
  if keyGen x == bits k 31 24 && keyClass x == bits k 23 22 then now
  else match s.xlt.past.find? fun p => p.1 == k with
    | some p => p.2
    | none => now

/-- R166: whether a command or packet holds a checked range of a key. -/
def Dev.keyUsed (s : Dev) (ops : List Op) (k : BitVec 32) : Bool :=
  ops.any (fun p => p.keys.contains k) ||
  s.conns.any fun c =>
    c.2.tx.any (fun t => t.req.isSome && !t.sent && (match t.src with | .mem q _ => q == k | _ => false)) ||
    c.2.rob.any fun q => q.1.ptype == 1 && q.1.rkey == k.toNat

/-- The table entry of a checked key. -/
def Dev.region (s : Dev) (k : BitVec 32) : BitVec 256 := (s.registration k).1

/-- Step 6 of Table 8.5 for a region: the target can be reached, every line of an Inkwell range populated and not fenced. -/
def Dev.keyReach (s : Dev) (e : BitVec 256) (a n : Nat) : Option Nat :=
  match keyTarget e with
  | 0 => if s.hst.lost then some stHostLost else if s.reach (keyPtn e) .host then none else some stTarget
  | 1 => if s.reach 0 (.tray (keyTray e)) then none else some stTarget
  | _ =>
    if (linesOf a n).any fun l => decide (s.lineOut false l = .unmapped) || decide (s.lineOut false l = .unavailable) then some stTarget
    else none

/-! ### Translation of host addresses (R170 to R179) -/

/-- What translating one page gives. -/
inductive Xlated where
  | addr (a : Nat)
  | fault
  /-- an on-demand miss is in progress (R177, R178) -/
  | wait
  deriving DecidableEq, Repr

/-- Page sizes of Table 8.9. -/
def pageSize (p : Nat) : Nat := if p == 0 then 2 ^ 12 else if p == 1 then 2 ^ 16 else if p == 2 then 2 ^ 21 else 2 ^ 30

def XltEnt.hit (x : XltEnt) (part i gen a : Nat) (write : Bool) : Bool :=
  x.part == part && x.index == i && x.gen.toNat == gen && x.page ≤ a && a < x.page + x.size && (!write || x.write)

/-- A cache entry that may go for another. -/
def XltEnt.loose (y : XltEnt) : Bool := !y.sticky && y.once.isNone

/-- How many entries of the list are in the translation cache. -/
def xltCount (l : List XltEnt) : Nat := (l.filter fun y => y.once.isNone).length

/-- The set of 65,536 that an entry belongs to (R173). -/
def XltEnt.set (y : XltEnt) : Nat := Config.xltSet y.part y.index y.gen.toNat y.page % 65536

/-- R160, R173: the cache with room made for an entry, where its class and its set let it in. A STICKY entry beyond the limit of
262,144 displaces the least recently used STICKY one; a full set gives up its least recently used entry that is not STICKY. -/
def Dev.xltRoom (s : Dev) (cls : Nat) (x : XltEnt) : Option (List XltEnt) :=
  let l := s.xlt.cache.filter fun y => !(y.part == x.part && y.index == x.index && y.page == x.page)
  let stuck := fun (y : XltEnt) => y.sticky && y.once.isNone
  let l := if x.sticky && 262144 ≤ (l.filter stuck).length then eraseFirst stuck l else l
  let mate := fun (y : XltEnt) => y.once.isNone && y.set == x.set
  if cls == 3 then none
  else if 8 ≤ l.length && 8 ≤ (l.filter mate).length then
    let out := fun y => mate y && y.loose
    if l.any out then some (eraseFirst out l) else none
  else some l

/-- An entry put into the translation cache; a STREAM one at the least recently used end. -/
def Dev.xltInsert (s : Dev) (cls : Nat) (x : XltEnt) : Dev :=
  match s.xltRoom cls x with
  | some l => { s with xlt := { s.xlt with cache := if cls == 2 then x :: l else l ++ [x] } }
  | none => s

/-- An answer that an access waits for and that takes no cache entry, held for it. -/
def Dev.xltHold (s : Dev) (x : XltEnt) (write : Bool) : Dev :=
  { s with xlt := { s.xlt with cache := s.xlt.cache ++ [{ x with once := some write }] } }

/-- A hit makes an entry the most recently used one; a STREAM entry stays where it is. -/
def Dev.xltTouch (s : Dev) (cls : Nat) (y : XltEnt) : Dev :=
  if cls == 2 || y.once.isSome then s else { s with xlt := { s.xlt with cache := eraseFirst (· == y) s.xlt.cache ++ [y] } }

/-- Whether an answer held for an access to an UNCACHED key lies in a range of it. -/
def XltEnt.held (y : XltEnt) (k : BitVec 32) (a n : Nat) : Bool :=
  y.once.isSome && y.index == keyIndex k && y.page < a + n && a < y.page + y.size

/-- An access to a range has been made: the answers held for it are used up (Table 8.2, UNCACHED). -/
def Dev.xltUsed (s : Dev) (k : BitVec 32) (a n : Nat) (write : Bool) : Dev :=
  { s with xlt := { s.xlt with cache := s.xlt.cache.filter fun y => !(y.held k a n && y.once == some write) } }

/-- The answers held in `t` for a range that is still to be accessed, held in `s` as well. -/
def Dev.xltKeep (s t : Dev) (k : BitVec 32) (a n : Nat) : Dev :=
  { s with xlt := { s.xlt with cache := s.xlt.cache ++ t.xlt.cache.filter fun y => y.held k a n && !s.xlt.cache.contains y } }

/-- R171: the walk of a translation table: the entries it reads, by memory key, none for one that is not translated, and what it
gives: the page address and whether it may be written, none where it faults. -/
def Dev.tableWalk (s : Dev) (e : Env) (fn : Nat) (x : BitVec 256) (a : Nat) : List (Option Nat) × Option (Nat × Bool) :=
  let r := BitVec.ofNat 64 (keyXlt x)
  let ps := pageSize (bits r 11 10)
  let i := (a - keyBase x / ps * ps) / ps
  let at_ := fun (t : Nat) => (s.pinnedAddr e fn t).map hostKey
  let val := fun (q : Option Nat) => match q with
    | some q => if e.fails q 8 then none else some (BitVec.ofNat 64 (ofLe (s.keyBytes q 8)))
    | none => none
  let leaf := fun (d : Option Word) => match d with
    | some d => if bit d 0 && bits d 63 12 * 4096 % ps == 0 then some (bits d 63 12 * 4096, bit d 1) else none
    | none => none
  let top := bits r 63 12 * 4096
  if bits r 9 8 == 1 then ([at_ (top + 8 * i)], leaf (val (at_ (top + 8 * i))))
  else
    let q := at_ (top + 8 * (i / 512))
    match val q with
    | some d =>
      if bit d 0 then
        let p := at_ (bits d 63 12 * 4096 + 8 * (i % 512))
        ([q, p], leaf (val p))
      else ([q], none)
    | none => ([q], none)

/-- What a walk's reads leave: Translation Requests, and lines the device may keep. -/
def Dev.walked (s : Dev) (fn : Nat) (l : List (Option Nat)) : Dev :=
  l.foldl (fun s q => match q with
    | some q => (s.pinnedAsk fn).cacheTouch q 8
    | none => s.pinnedAsk fn) (s.bump Reg.xltWalks)

/-- The limit on page requests outstanding and the pending list (R175). -/
def priCapacity : Nat := 512
def priPending : Nat := 4096

def Dev.missOf (s : Dev) (fn : Nat) (pasid : BitVec 20) (page : Nat) : Option Miss :=
  s.xlt.misses.find? fun m => m.fn == fn && m.pasid == pasid && m.page == page

/-! Who makes an access, so that a miss that ends in a fault is delivered to the accesses that waited for it (R177): a launched
entry, or a packet of a connection. 0 is nobody in particular. -/
def opWho (ring : Nat) (pos : BitVec 32) : Nat := 2 * (ring * 2 ^ 32 + pos.toNat) + 2
def pktWho (c psn : Nat) : Nat := 2 * (c * 2 ^ 32 + psn % 2 ^ 32) + 1

/-- The partition of an access. -/
def Dev.whoPart (s : Dev) (w : Nat) : Option Nat :=
  if w = 0 then none else if w % 2 = 0 then some (ringPart ((w - 2) / 2 ^ 33)) else s.connPart (w / 2 ^ 33)

/-- What no longer waits for a translation, or for the answer to a request on a tray port. -/
def Dev.unwait (s : Dev) (f : Nat → Bool) : Dev :=
  { s with
    xlt := { s.xlt with
      misses := s.xlt.misses.map fun m => { m with who := m.who.filter fun w => !f w }
      faulted := s.xlt.faulted.filter fun x => !f x.1 }
    tray := tmap (fun _ => {}) (fun _ (x : TrayPort) =>
      { x with reqs := x.reqs.map fun r => if f r.who then { r with who := 0 } else r }) s.tray }

/-- Whether the access a request serves waits for more of an answer: CMP PATH is enough for a write that need not be visible at
SYSTEM scope (R192, R200). -/
def TrayReq.owes (r : TrayReq) (sys : Bool) : Bool := sys || !r.path

/-- Whether some request of an entry on a tray port is unanswered. -/
def Dev.trayOwes (s : Dev) (ring : Nat) (pos : BitVec 32) (sys : Bool) : Bool :=
  s.tray.any fun p => p.2.reqs.any fun r => (r.op == some (ring, pos) || r.who == opWho ring pos) && r.owes sys

/-- R175, R178: an access to an on-demand page that is not translated. The first access sends the Translation Request, and
others wait with it; a miss that ended in a fault is delivered to each access that waited, once. -/
def Dev.demandMiss (s : Dev) (k : BitVec 32) (x : BitVec 256) (a : Nat) (write : Bool) (who : Nat) : Dev × Xlated :=
  let fn := keyPtn x
  let page := a / 4096 * 4096
  let pasid := BitVec.ofNat 20 (keyPasid x)
  if s.xlt.faulted.contains (who, k, page) then
    ({ s.bump Reg.xltFaults with xlt := { s.xlt with faulted := s.xlt.faulted.filter (· != (who, k, page)) } }, .fault)
  else if !(s.fn fn).ats then (s.bump Reg.xltFaults, .fault)
  else if bit s.xlt.stopped fn then (s.bump Reg.xltFaults, .fault)
  else if (s.missOf fn pasid page).isSome then
    ({ s with xlt := { s.xlt with misses := s.xlt.misses.map fun m =>
      if m.fn == fn && m.pasid == pasid && m.page == page && !m.who.contains who then { m with who := m.who ++ [who] } else m } }, .wait)
  else
    let s := (s.bump Reg.xltMisses).bump Reg.xltAtsReqs
    let m : Miss := { fn := fn, pasid := pasid, page := page, key := k, write := write, who := [who] }
    let s : Dev := { s with xlt := { s.xlt with misses := s.xlt.misses ++ [m] } }
    (s.emit (.ats 0 fn pasid page 0 write), .wait)

/-- Table 8.8: an access to a pinned region that the translation cache does not hold. -/
def Dev.pinnedMiss (s : Dev) (e : Env) (x : BitVec 256) (ats : Bool) (ent : XltEnt) (a : Nat) (write : Bool) : Dev × Xlated :=
  let fn := keyPtn x
  let (reads, walk) := if keyXlt x == 0 then ([], some (a / 4096 * 4096, true)) else s.tableWalk e fn x a
  let sz := if keyXlt x == 0 then 4096 else pageSize (bits (BitVec.ofNat 64 (keyXlt x)) 11 10)
  let s := s.bump Reg.xltMisses
  let s := if keyXlt x == 0 then s else s.walked fn reads
  match walk with
  | none => (s.bump Reg.xltFaults, .fault)
  | some (p, w) =>
    if write && !w then (s.bump Reg.xltFaults, .fault)
    else if ats then
      let s := s.bump Reg.xltAtsReqs
      match s.hostGrant e fn (p + a % sz) with
      | none => (s.bump Reg.xltFaults, .fault)
      | some (q, g) =>
        if write && !g then (s.bump Reg.xltFaults, .fault)
        else
          let y : XltEnt := { ent with
            page := a / 4096 * 4096, size := 4096, final := q / 4096 * 4096, write := w && g, ask := some ((p + a % sz) / 4096 * 4096) }
          (s.xltInsert (keyClass x) y, .addr q)
    else
      let y : XltEnt := { ent with page := a / sz * sz, size := sz, final := p, write := w }
      (s.xltInsert (keyClass x) y, .addr (p + a % sz))

/-- Table 8.8: the final address of one page's access to a host region. -/
def Dev.translate (s : Dev) (e : Env) (k : BitVec 32) (a : Nat) (write : Bool) (who : Nat := 0) : Dev × Xlated :=
  let (x, ats) := s.registration k
  let i := keyIndex k
  let ent : XltEnt := { part := keyPtn x, index := i, gen := BitVec.ofNat 8 (keyGen x), sticky := keyClass x == 1 }
  match s.xlt.cache.find? (fun y => y.hit (keyPtn x) i (keyGen x) a write) with
  | some y => (s.xltTouch (keyClass x) y, .addr (y.final + (a - y.page)))
  | none =>
    if keyOnDemand x then s.demandMiss k x a write who
    else if keyXlt x == 0 && !ats then (s, .addr a)
    else if ats && !(s.fn (keyPtn x)).ats then (s.bump Reg.xltFaults, .fault)
    else s.pinnedMiss e x ats ent a write

/-! ### Access to a keyed region -/

/-- How an access to a region ends. -/
inductive Got where
  | ok (b : List Byte)
  | wait
  | fault (status : Nat)
  deriving DecidableEq, Repr

/-- The 4 KiB pages of a range: start and length of each part. -/
def pagesOf (a n : Nat) : List (Nat × Nat) :=
  if n = 0 then []
  else (List.range ((a + n - 1) / 4096 - a / 4096 + 1)).map fun i =>
    let lo := max a ((a / 4096 + i) * 4096)
    (lo, min (a + n) ((a / 4096 + i + 1) * 4096) - lo)

/-- R179: every page of the range is translated first: the final pieces, or the first that waits or faults. -/
def Dev.pieces (s : Dev) (e : Env) (k : BitVec 32) (a n : Nat) (write : Bool) (who : Nat := 0) :
    Dev × Except Xlated (List (Nat × Nat)) :=
  (pagesOf a n).foldl (fun q p =>
    match q.2 with
    | .error _ => q
    | .ok l =>
      match q.1.translate e k p.1 write who with
      | (s, .addr f) => (s, .ok (l ++ [(f, p.2)]))
      | (s, r) => (s, .error r)) (s, .ok [])

def gotOf (r : Xlated) : Got := match r with | .wait => .wait | _ => .fault stTranslation

def memStatus (t : Nat) (o : MemOut) : Option Nat :=
  match o with
  | .ok => none
  | .poison => some stPoison
  | .error => some (if t == 0 then stTranslation else stTarget)
  | _ => some stTarget

/-- Steps 6 to 8 of Table 8.5 for a read of `n` bytes at `a` of a key whose checks have passed; `opc` is the request on a tray
port. -/
def Dev.regionRead (s : Dev) (e : Env) (k : BitVec 32) (a n : Nat) (who : Nat := 0) (opc : Nat := 0x01) : Dev × Got :=
  let x := s.region k
  match s.keyReach x a n with
  | some st => (s, .fault st)
  | none =>
    match keyTarget x with
    | 0 =>
      match s.pieces e k a n false who with
      | (s, .error r) => (s, gotOf r)
      | (s, .ok l) =>
        let s := s.xltUsed k a n false
        if l.any (fun p => e.fails (hostKey p.1) p.2) then (s.bump Reg.xltFaults, .fault stTranslation)
        else (s, .ok (l.flatMap fun p => s.keyBytes (hostKey p.1) p.2))
    | 1 =>
      match s.readT e 0 (.tray (keyTray x)) a n opc who k with
      | (s, o, b) => match memStatus 1 o with | some st => (s, .fault st) | none => (s, .ok b)
    | _ =>
      match s.inkRead false a n with
      | (s, o, b) => match memStatus 2 o with | some st => (s, .fault st) | none => (s, .ok b)

/-- The memory a write of `n` bytes under a key reaches, for R199: bit 0 the host's, bit 1 + k that of tray port k. -/
def Dev.keyMemory (s : Dev) (k : BitVec 32) (n : Nat) : BitVec 5 :=
  let x := s.region k
  if n = 0 then 0
  else match keyTarget x with
    | 0 => 1
    | 1 => BitVec.ofNat 5 (2 ^ (1 + keyTray x))
    | _ => 0

/-- Steps 6 to 8 of Table 8.5 for a write. Writes of host memory are posted: what the host discards, the device does not see
(R170). -/
def Dev.regionWrite (s : Dev) (e : Env) (k : BitVec 32) (a : Nat) (b : List Byte) (who : Nat := 0) (evict : Bool := false) :
    Dev × Got :=
  let x := s.region k
  let n := b.length
  match s.keyReach x a n with
  | some st => (s, .fault st)
  | none =>
    match keyTarget x with
    | 0 =>
      match s.pieces e k a n true who with
      | (s, .error r) => (s, gotOf r)
      | (s, .ok l) =>
        let s := s.xltUsed k a n true
        let s := (l.foldl (fun (q : Dev × List Byte) p =>
          (if e.fails (hostKey p.1) p.2 then q.1 else q.1.setKeyBytes (hostKey p.1) (q.2.take p.2), q.2.drop p.2)) (s, b)).1
        (s, .ok [])
    | 1 =>
      match s.writeT e 0 (.tray (keyTray x)) a b who k evict with
      | (s, o) => match memStatus 1 o with
        | some st => (s, .fault st)
        | none => (s, .ok [])
    | _ =>
      match s.inkWrite false a b with
      | (s, o) => match memStatus 2 o with | some st => (s, .fault st) | none => (s, .ok [])

/-- R173: every translation cache entry of one registration of a slot removed. -/
def Dev.dropKeyXlat (s : Dev) (k : BitVec 32) : Dev :=
  { s with xlt := { s.xlt with cache := s.xlt.cache.filter fun y => !(y.index == keyIndex k && y.gen.toNat == bits k 31 24) } }

/-- R173: every translation cache entry of a slot removed. -/
def Dev.dropXlat (s : Dev) (i : Nat) : Dev :=
  { s with xlt := { s.xlt with cache := s.xlt.cache.filter fun y => y.index != i } }

/-- The slot made invalid, its generation kept, as KEY_INVALIDATE does (R113, R162). -/
def Dev.keyDrop (s : Dev) (i : Nat) : Dev :=
  (s.setKeyEntry i (setBits (s.keyEntry i) 53 53 0)).dropXlat i

/-- The share of a partition: its KIND 1 region of the running layout. -/
def Dev.share (s : Dev) (part : Nat) : Option Region :=
  if s.ink.boot then none else s.regions.find? fun r => r.kind == 1 && r.part == part

/-- A range lies in the partition's Inkwell share, on a module that has DIMMs (R113). -/
def Dev.inShare (s : Dev) (part a n : Nat) : Bool :=
  0 < s.ink.populated &&
  match s.share part with
  | some r => r.base ≤ a && a + n ≤ r.base + r.size
  | none => false

end Sys2Proof.Machine
end

