-- ==== Sys2Proof/Machine/Route.lean ====
section
/-! DEFINITION. Routing (chapter 10): route tables, ports of a bundle, virtual channels, adaptive choice, and the
queues packets join. -/

namespace Sys2Proof.Machine

/-! ### Addresses and configuration (R208, R209, R215) -/

def coord (a d : Nat) : Nat := a >>> (8 * d) % 256
def Dev.radix (s : Dev) (d : Nat) : Nat := bits (s.st Reg.rteCfg) (8 * d + 7) (8 * d) + 1
def Dev.dateLine (s : Dev) (d : Nat) : Nat := bits (s.st Reg.rteCfg1) (8 * d + 7) (8 * d)

/-- R208. -/
def Dev.nodeIndex (s : Dev) (a : Nat) : Nat :=
  coord a 0 + s.radix 0 * (coord a 1 + s.radix 1 * (coord a 2 + s.radix 2 * coord a 3))

def Dev.node (s : Dev) : Nat := s.capo.node.toNat

def Dev.portDir (s : Dev) (p : Nat) : Nat := bits (s.st (Reg.rtePortCfg p)) 3 0
def Dev.portAlt (s : Dev) (p : Nat) : Bool := bit (s.st (Reg.rtePortCfg p)) 4
def Dev.portEnabled (s : Dev) (p : Nat) : Bool := bit (s.reg (Reg.rtePortCfg p)) 5
def Dev.portDown (s : Dev) (p : Nat) : Bool := bit s.capo.down p

/-- R350: a range is being replayed. Ports then take what the device produces, for comparison, and send nothing. -/
def Dev.replaying (s : Dev) : Bool := decide (s.fol.st = .replaying)

/-- R209: a usable port. -/
def Dev.usable (s : Dev) (p : Nat) : Bool := s.portEnabled p && (s.replaying || (!s.portDown p && s.portCarries p))

/-- The ports of a direction's bundle, in ascending order. -/
def Dev.dirPorts (s : Dev) (dir : Nat) : List Nat := (List.range 16).filter fun p => s.portDir p == dir

/-- The usable ones among them. -/
def Dev.bundle (s : Dev) (dir : Nat) : List Nat := (s.dirPorts dir).filter s.usable

/-! ### Message classes and entries (R210, R212, R226) -/

/-- The message class of a PTYPE: 0 request, 1 response, 2 chord, 3 Pluck; none for a reserved code (Table 6.2). -/
def ptypeClass (t : Nat) : Option Nat :=
  match t with
  | 1 | 2 | 3 | 5 => some 0
  | 4 | 6 | 7 | 8 | 0x30 => some 1
  | _ =>
    if (0x10 ≤ t && t ≤ 0x1F) || (0x28 ≤ t && t ≤ 0x2F) then some 2
    else if 0x20 ≤ t && t ≤ 0x27 then some 3 else none

def detDir (e : Word) (cls : Nat) : Nat := bits e (4 * cls + 3) (4 * cls)
def adaptDirs (e : Word) : Nat := bits e 23 16

/-- The alternate entry of port p's set for a node index. -/
def Dev.altEntry (s : Dev) (p idx : Nat) : Option Word :=
  (s.run.find? fun x => altCell 0 ≤ x.1 && x.1 < altCell 0x10000 && bit x.2 63 && bits x.2 55 52 == p && bits x.2 47 32 == idx).map (·.2)

/-- R226: the alternate entry that applies to a node index, where one does. -/
def Dev.altApplies (s : Dev) (idx : Nat) : Option Word :=
  (List.range 16).findSome? fun p => if s.portDown p && s.portAlt p then s.altEntry p idx else none

/-- R226: the entry a lookup uses. -/
def Dev.routeEntry (s : Dev) (idx : Nat) : Word := (s.altApplies idx).getD (s.st (rteCell idx))

/-- R251, R277, R288: packets that never follow an alternate entry: chord DATA and CREDIT, Pluck flits, Strum DATA
and END. -/
def onPrimaryOnly (p : Packet) : Bool := (isChord p && p.ptype != 0x12) || isPluck p || (isStrum p && p.ptype != 0x2A)

/-! ### Ports and channels (R214, R215, R217) -/

/-- R214: the flow value. -/
def flowOf (p : Packet) : Nat :=
  let c := if isConn p then p.sconn ^^^ p.dconn else 0
  let x := p.src ^^^ p.dst ^^^ c
  (x % 65536) ^^^ (x / 65536)

/-- R214: the port of a bundle by which a deterministic packet leaves; none where none is usable. -/
def Dev.flowPort (s : Dev) (ports : List Nat) (p : Packet) : Option Nat :=
  let u := ports.filter s.usable
  if u.isEmpty then none else u[flowOf p % u.length]?

/-- R215: the kind a packet leaves with on a deterministic channel, 0 BEFORE and 1 AFTER. `arr` is the arrival port's
direction and the kind it arrived with, none for a local packet. -/
def Dev.outKind (s : Dev) (arr : Option (Nat × Nat)) (dir : Nat) : Nat :=
  let d := dir / 2
  let k := match arr with
    | some (ad, ak) => if ak != 2 && ad / 2 == d then ak else 0
    | none => 0
  let c := coord s.node d
  if (dir % 2 == 0 && c == s.dateLine d) || (dir % 2 == 1 && c == (s.dateLine d + 1) % s.radix d) then 1 else k

/-- Flits of a packet (R218). -/
def flitsOf (p : Packet) : Nat := 1 + ceilDiv p.plen 64

/-- R222: credit for n flits on a channel of a port: SENT + n does not pass the limit received. -/
def Link.credit (l : Link) (vc n : Nat) : Bool :=
  let d := (tget (fun _ => 0) l.limit vc - tget (fun _ => 0) l.sent vc).toNat
  d < 0x8000 && n ≤ d

/-! ### The lookup (R213) -/

/-- What a lookup gives. -/
inductive Routed where
  /-- DST is this device -/
  | here
  /-- dropped, with the RTE_DROPS index -/
  | drop (k : Nat)
  /-- a port and a channel -/
  | det (port vc : Nat)
  /-- an adaptive packet: what its entry permits, and its class -/
  | adaptive (l : Looked) (cls : Nat)
  deriving DecidableEq, Repr

/-- Steps 5 to 8 of Table 10.5 for a deterministic channel. -/
def Dev.routeDet (s : Dev) (arr : Option (Nat × Nat)) (e : Word) (cls : Nat) (p : Packet) : Routed :=
  let dir := detDir e cls
  if 8 ≤ dir then .drop 0
  else if arr.any (fun a => a.1 == dir) then .drop 3
  else match s.flowPort (s.dirPorts dir) p with
    | none => .drop 0
    | some q => .det q (3 * cls + s.outKind arr dir)

/-- R231: the thresholds in ascending order, in bytes. -/
def Dev.cmapLevels (s : Dev) : List Nat :=
  let w := s.st Reg.rteCmapCfg
  let a := bits w 15 0
  let b := bits w 31 16
  let c := bits w 47 32
  [min a (min b c), max (min a b) (min (max a b) c), max a (max b c)].map (· * 1024)

/-- R16, R217: what the entry of an adaptive packet permits it, candidate ports and the route of its escape. -/
def Dev.looked (s : Dev) (arr : Option (Nat × Nat)) (e : Word) (cls : Nat) : Looked :=
  let dir := detDir e cls
  let from_ := (arr.map (·.1)).getD 0xF
  { cands := (List.range 16).filter fun p => s.portDir p < 8 && adaptDirs e >>> s.portDir p % 2 == 1 && s.portDir p != from_
    levels := s.cmapLevels
    det := s.dirPorts dir
    detVc := 3 * cls + s.outKind (arr.map fun a => (a.1, 2)) dir
    drop := if 8 ≤ dir then some 0 else if dir == from_ then some 3 else none }

/-- R215, R217: an entry by which an adaptive packet may leave on an adaptive channel. Packets routed by an alternate entry
always leave on deterministic ones. -/
def Dev.adaptEntry (s : Dev) (p : Packet) : Bool :=
  let i := s.nodeIndex p.dst
  (s.altApplies i).isNone && adaptDirs (s.routeEntry i) != 0

/-- RTE_CFG.ESCAPE_NS. -/
def Dev.escapeNs (s : Dev) : Nat := bits (s.st Reg.rteCfg) 47 32

/-- Table 10.5. `arr` as in R215; `adaptive` where the packet is on an adaptive channel or starts on one. -/
def Dev.route (s : Dev) (arr : Option (Nat × Nat)) (p : Packet) (adaptive : Bool) : Routed :=
  if s.capo.nodeSet && p.dst == s.node then .here
  else if (List.range 4).any (fun d => s.radix d ≤ coord p.dst d) then .drop 1
  else
    let vcBad := match arr with
      | some _ => 12 ≤ p.vc || (match ptypeClass p.ptype with | some c => p.vc / 3 != c | none => false)
      | none => false
    if vcBad then .drop 2
    else
      let cls := match arr with | some _ => p.vc / 3 | none => (ptypeClass p.ptype).getD 0
      let e := s.routeEntry (s.nodeIndex p.dst)
      if onPrimaryOnly p && (s.altApplies (s.nodeIndex p.dst)).isSome then .drop 0
      else if adaptive && s.adaptEntry p && s.escapeNs != 0 then .adaptive (s.looked arr e cls) cls
      else s.routeDet arr e cls p

/-- R217: an adaptive packet escapes at once where ADAPT is 0 or ESCAPE_NS is 0. A local packet whose entry's ADAPT is 0
starts deterministic (R216) and does not escape, and one under an alternate entry follows that (R215). -/
def Dev.escapesNow (s : Dev) (arr : Option (Nat × Nat)) (p : Packet) (adaptive : Bool) : Bool :=
  let i := s.nodeIndex p.dst
  adaptive && (s.altApplies i).isNone &&
    (if adaptDirs (s.routeEntry i) == 0 then arr.isSome else s.escapeNs == 0)

/-- The port and channel a local deterministic packet leaves by, where it has one. -/
def Dev.place (s : Dev) (p : Packet) : Option (Nat × Nat) :=
  match s.route none p false with
  | .det q vc => some (q, vc)
  | _ => none

/-! ### Congestion levels and the adaptive choice (R217, R231) -/

/-- R231: the level of a port on a channel with `n` bytes queued. -/
def Dev.levelOf (s : Dev) (levels : List Nat) (p n : Nat) : Nat :=
  if s.portDir p == 0xF || !s.usable p then 3 else (levels.filter fun t => t ≤ n).length

/-- R217: the port an adaptive packet takes, none where no candidate holds credit for its flits; `bytes` are those queued
for a port on its channel. -/
def Dev.adaptPort (s : Dev) (bytes : Nat → Nat) (l : Looked) (vc flits : Nat) : Option Nat :=
  let cand := l.cands.filter fun p => s.usable p && (s.link p).credit vc flits
  let key := fun p => (s.levelOf l.levels p (bytes p) * 2 ^ 40 + bytes p) * 16 + p
  cand.foldl (fun best p => match best with
    | none => some p
    | some b => if key p < key b then some p else some b) none

/-- R217: the deterministic route a packet escapes by. -/
def Dev.escapeRoute (s : Dev) (l : Looked) (p : Packet) : Routed :=
  match l.drop, s.flowPort l.det p with
  | some k, _ => .drop k
  | none, none => .drop 0
  | none, some q => .det q l.detVc

/-- R216: a locally originated packet of the request or response class starts adaptive. -/
def Dev.startsAdaptive (s : Dev) (p : Packet) : Bool := isConn p && bit (s.st Reg.rteCfg) (56 + p.tc)

/-- Bytes that packets in the queues hold for a port and channel. -/
def Dev.queueBytes (s : Dev) (p vc : Nat) : Nat :=
  ((s.sch.q.filter fun x => x.port == p && x.vc == vc).map fun x => 64 + x.pkt.plen).sum

/-- Where a connection's packet that waits to be sent stands. -/
structure ConnPlace where
  conn : Nat
  psn : BitVec 32
  port : Nat
  vc : Nat
  /-- by the deterministic route of an adaptive packet -/
  escape : Bool
  len : Nat
  deriving DecidableEq, Repr

def placeBytes (l : List ConnPlace) (p vc : Nat) : Nat := ((l.filter fun x => x.port == p && x.vc == vc).map (·.len)).sum

/-- R216, R217: where a connection's packet would go now, and whether it escapes; `bytes` as queued by port and channel. -/
def Dev.placeTx (s : Dev) (bytes : Nat → Nat → Nat) (t : TxPkt) : Routed × Bool :=
  let p : Packet := { hdr := t.hdr }
  match s.route none p (s.startsAdaptive p) with
  | .adaptive l cls =>
    let vc := 3 * cls + 2
    match s.adaptPort (fun q => bytes q vc) l vc (flitsOf p) with
    | some q => (.det q vc, false)
    | none => if s.escapeNs * 1024 ≤ (s.rlg.time - t.at_).toNat then (s.escapeRoute l p, true) else (.adaptive l cls, false)
  | r => (r, s.escapesNow none p (s.startsAdaptive p))

/-- The packets of connections that wait to be sent. -/
def Dev.waitingTx (s : Dev) : List (Nat × TxPkt) := s.conns.flatMap fun c => (c.2.tx.filter (·.due)).map fun t => (c.1, t)

/-- Where each of them stands, placed one after another: each adaptive one sees those placed before it (DESIGN CHOICE). -/
def Dev.connPlaces (s : Dev) : List ConnPlace :=
  s.waitingTx.foldl (fun l x => match s.placeTx (fun p vc => s.queueBytes p vc + placeBytes l p vc) x.2 with
    | (.det q vc, e) => l ++ [{ conn := x.1, psn := x.2.psn, port := q, vc := vc, escape := e, len := 64 + bits x.2.hdr 132 120 }]
    | _ => l) []

/-- Bytes queued for a port and channel: packets in the queues, and packets of connections that wait to be sent. -/
def Dev.queuedBytes (s : Dev) (p vc : Nat) : Nat := s.queueBytes p vc + placeBytes s.connPlaces p vc

/-- R231: the congestion level of a port and channel. -/
def Dev.level (s : Dev) (p vc : Nat) : Nat := s.levelOf s.cmapLevels p (s.queuedBytes p vc)

/-! ### The packet buffer (R218, R222) -/

/-- R222: credit for flits of an input that have left the buffer. -/
def Dev.returnCredit (s : Dev) (port vc n : Nat) : Dev :=
  let l := s.link port
  s.setLink port { l with grant := tset (fun _ => 0) l.grant vc (tget (fun _ => 0) l.grant vc + BitVec.ofNat 16 n) }

/-- Flits of a packet that have come in by a port so far. -/
def Dev.arrived (s : Dev) (port : Nat) (k : Packet) : Nat :=
  match (s.link port).rx with
  | some (h, got, _ + 1, _) => if hdrStill h == hdrStill k.hdr then 1 + got.length / 64 else flitsOf k
  | _ => flitsOf k

/-- R22: the packet has come in whole. -/
def Dev.whole (s : Dev) (port : Nat) (k : Packet) : Bool := s.arrived port k == flitsOf k

/-- Flits of the shared part of the buffer that packets of input `port` hold, or of every input. -/
def Dev.sharedHeld (s : Dev) (port : Option Nat) : Nat :=
  ((s.sch.q.filter fun x => x.shared && (port.isNone || x.inPort == port)).map fun x => flitsOf x.pkt).sum

/-- R218: the shared part has room for `n` flits of an input: 8 MiB an input port, 142 MiB in all. -/
def Dev.sharedRoom (s : Dev) (port n : Nat) : Bool :=
  s.sharedHeld (some port) + n ≤ 131072 && s.sharedHeld none + n ≤ 2326528

/-! ### Joining a queue (R147, R217) -/

def Dev.enqueue (s : Dev) (q : QPkt) : Dev := { s with sch := { s.sch with q := s.sch.q ++ [q] } }

/-- A packet rests in the buffer. One that came in by a link rests in the shared part while that has room, and the credit
of what it held is granted again (R218, DESIGN CHOICE). -/
def Dev.rest (s : Dev) (x : QPkt) : Dev :=
  match x.inPort with
  | some p =>
    if x.arrVc < 9 && s.sharedRoom p (flitsOf x.pkt) then
      (s.returnCredit p x.arrVc (s.arrived p x.pkt)).enqueue { x with shared := true }
    else s.enqueue x
  | none => s.enqueue x

/-- The room of a packet that leaves the buffer: its credit, unless it rested in the shared part. -/
def Dev.freeRoom (s : Dev) (x : QPkt) : Dev :=
  match x.inPort with
  | some p => if x.shared then s else s.returnCredit p x.arrVc (s.arrived p x.pkt)
  | none => s

/-- The packet on its way out of a port, with its channel. -/
def QPkt.toward (x : QPkt) (port vc : Nat) : QPkt :=
  { x with port := port, vc := vc, kind2 := false, pkt := { x.pkt with hdr := setHdr x.pkt.hdr 75 72 vc } }

/-- What is known of a packet on its arrival for local processing: by its link, where it is the packet in arrival there. -/
def Dev.arrival (s : Dev) (port : Nat) (p : Packet) : Arrival :=
  match (s.link port).rx with
  | some (h, _, _, _) => if hdrStill h == hdrStill p.hdr then (s.link port).rxAt else { at_ := s.rlg.time, valid := s.rlg.lock.stampOk }
  | none => { at_ := s.rlg.time, valid := s.rlg.lock.stampOk }

/-- A packet for this device, from a port or (16) from itself. -/
def Dev.toLocal (s : Dev) (p : Packet) (port : Nat) : Dev :=
  { s with rte := { s.rte with local_ := s.rte.local_ ++ [(p, port, s.arrival port p)] } }

/-- A packet on its way out is routed, or kept until a candidate qualifies, or dropped and counted. The RTE_DROPS index where
it was dropped. -/
def Dev.joinAs (s : Dev) (x : QPkt) (arr : Option (Nat × Nat)) (adaptive : Bool) : Dev × Option Nat :=
  let p := x.pkt
  match s.route arr p adaptive with
  | .here => (s.toLocal p (x.inPort.getD 16), none)
  | .drop k => (s.bump (Reg.rteDrops k), some k)
  | .det q vc =>
    let s := if s.escapesNow arr p adaptive then s.bump Reg.rteEscapes else s
    (s.rest (x.toward q vc), none)
  | .adaptive l cls =>
    let vc := 3 * cls + 2
    match s.adaptPort (s.queuedBytes · vc) l vc (flitsOf p) with
    | some q => ((s.bump Reg.rteAdaptHops).rest (x.toward q vc), none)
    | none => (s.rest { x with port := 16, vc := vc, kind2 := true, escapeAt := s.osc + nsTicks s.escapeNs, looked := l }, none)

/-- A packet joins a leaf on its way out. -/
def Dev.join (s : Dev) (leaf : Leaf) (arr : Option (Nat × Nat)) (inPort : Option Nat) (own : Option Nat) (p : Packet)
    (adaptive : Bool) : Dev × Option Nat :=
  let since := match inPort with | some q => (s.arrival q p).at_ | none => s.rlg.time
  s.joinAs { leaf := leaf, pkt := p, at_ := s.rlg.time, since := since, inPort := inPort, own := own, arrVc := p.vc
             arrDir := (arr.map (·.1)).getD 0xF } arr adaptive

/-- Adaptive packets that wait for a candidate port try again (R217). -/
def Dev.retryAdaptive (s : Dev) : Dev :=
  s.sch.q.foldl (fun s x =>
    if !x.kind2 then s
    else
      match s.adaptPort (s.queuedBytes · x.vc) x.looked x.vc (flitsOf x.pkt) with
      | none => s
      | some q => { s.bump Reg.rteAdaptHops with sch := { s.sch with q := replaceFirst (· == x) (fun _ => x.toward q x.vc) s.sch.q } }) s

/-- R219: a connection's packet was dropped under NO_ROUTE or BAD_DST, its transport engine's refusal; k is the RTE_DROPS
index. -/
def Dev.refuseOwn (s : Dev) (own : Option Nat) (k : Nat) : Dev :=
  match own with
  | some c => if k == 0 || k == 1 then s.setConn c { s.conn c with refused := true } else s
  | none => s

/-- R217: an adaptive packet that has waited ESCAPE_NS takes its deterministic route. The RTE_DROPS index where that drops
it. -/
def Dev.escapeOne (s : Dev) (x : QPkt) : Dev × Option Nat :=
  let s := { s with sch := { s.sch with q := eraseFirst (· == x) s.sch.q } }
  match s.escapeRoute x.looked x.pkt with
  | .drop k => ((((s.bump Reg.rteEscapes).bump (Reg.rteDrops k)).freeRoom x).refuseOwn x.own k, some k)
  | .det q vc => ((s.bump Reg.rteEscapes).enqueue (x.toward q vc), none)
  | _ => (s, none)

/-- A locally generated ACK, NAK or TELEMETRY packet, which waits in the control queue of its port (R147). -/
def Dev.queueControl (s : Dev) (own : Option Nat) (p : Packet) : Dev :=
  match s.join .control none none own (sealIcrc p) (s.startsAdaptive p) with
  | (s, some k) => s.refuseOwn own k
  | (s, none) => s

end Sys2Proof.Machine
end

