-- ==== Sys2Proof/Machine/Ctx.lean ====
section
/-! DEFINITION. The connection context of Table 6.3, for CONN_CTX, for STATE records and for its backing store, and the
context cache (R121, R138). -/

namespace Sys2Proof.Machine

/-! ### Context fields (Table 6.3) -/

def Conn.mode (c : Conn) : Nat := bits c.cfg 5 4
def Conn.enc (c : Conn) : Bool := bit c.cfg 6
def Conn.pin (c : Conn) : Bool := bit c.cfg 7
def Conn.poolOf (c : Conn) : Nat := bits c.cfg 13 8
def Conn.tc (c : Conn) : Nat := bits c.cfg 18 16
def Conn.peerNode (c : Conn) : Nat := bits c.cfg 63 32
def Conn.peerConn (c : Conn) : Nat := bits c.cfg 83 64
def Conn.salt (c : Conn) : Nat := bits c.cfg 127 96
def Conn.cphKey (c : Conn) : Nat := bits c.cfg 143 128
def Conn.initTx (c : Conn) : BitVec 32 := BitVec.ofNat 32 (bits c.cfg 191 160)
def Conn.initRx (c : Conn) : BitVec 32 := BitVec.ofNat 32 (bits c.cfg 223 192)
def Conn.retryLimit (c : Conn) : Nat := bits c.cfg 231 224
def Conn.rnrLimit (c : Conn) : Nat := bits c.cfg 239 232
def Conn.busyLimit (c : Conn) : Nat := bits c.cfg 247 240
def Conn.rtoMin (c : Conn) : Nat := bits c.cfg 303 256
def Conn.rtoMax (c : Conn) : Nat := bits c.cfg 351 304
def Conn.busyBase (c : Conn) : Nat := bits c.cfg 399 352

/-! ### The connection context (Tables 6.3, 7.1) -/

def ConnSt.code : ConnSt → Nat
  | .reset => 0 | .active => 1 | .error => 2 | .hostLost => 3 | .quiesced => 4

def ConnSt.ofCode (n : Nat) : ConnSt :=
  match n with
  | 1 => .active | 2 => .error | 3 => .hostLost | 4 => .quiesced | _ => .reset

/-- The fields of one half of a context as bottom bit and value: the send side and the window. -/
def Conn.sendFields (x : Conn) : List (Nat × Nat) :=
  [(512, x.cwnd.toNat), (544, x.inflight.toNat), (576, x.aiAcc.toNat), (608, x.alpha.toNat), (632, x.baseOwd.toNat),
   (656, x.lastOwd.toNat), (704, x.lastDec.toNat), (768, x.baseAt.toNat), (832, x.decCount.toNat), (864, x.markCount.toNat),
   (1024, x.sndNxt.toNat), (1056, x.sndUna.toNat), (1088, x.sndHi.toNat), (1152, x.rtoDeadline.toNat), (1216, x.srtt.toNat),
   (1264, x.rttvar.toNat), (1312, x.rto.toNat), (1360, x.retryCount.toNat), (1368, x.rnrCount.toNat),
   (1376, x.busyCount.toNat), (1384, x.atomicOut.toNat), (1408, x.sackTx.toNat)]

/-- PSN of the ATOMIC_RESP that answers a request: the one it left with, before that the one it takes if all that waits
before it leaves in order (DEDUCED). -/
def Conn.respPsn (x : Conn) (req : BitVec 32) : BitVec 32 :=
  match x.tx.find? fun t => t.req == some req with
  | some t => if t.sent then t.psn else x.sndNxt + BitVec.ofNat 32 ((x.tx.filter (!·.sent)).takeWhile (· != t)).length
  | none => 0

/-- The receive side and the end of the connection. -/
def Conn.recvFields (x : Conn) : List (Nat × Nat) :=
  [(1536, x.rcvNxt.toNat), (1568, x.rcvHi.toNat), (1600, x.rcvMap.toNat), (1728, min 255 x.ackPending.toNat),
   (1736, x.ecnCount.toNat), (1744, x.ackEcho.toNat)] ++
  ((x.msgs.filter fun m => m.count != 0).take 16).zipIdx.map (fun m => (1792 + 64 * m.2,
    m.1.count.toNat + at_ 21 1 + at_ 32 m.1.firstPsn.toNat)) ++
  (x.atomics.take 8).zipIdx.map (fun a => (2816 + 96 * a.2, a.1.2.toNat + at_ 64 (x.respPsn a.1.1).toNat)) ++
  [(3584, x.recvBuf.key.toNat), (3616, x.recvBuf.addr.toNat), (3680, x.recvBuf.len.toNat), (3712, x.rnrPsn.toNat),
   (3744, b2n x.rnrActive), (3752, x.errStatus.toNat), (3776, x.resetAt.toNat)]

/-- The context of connection c, 4,096 bits. -/
def Dev.ctxBits (s : Dev) (c : Nat) : BitVec 4096 :=
  let x := s.conn c
  let w0 := setBits (setBits x.cfg 3 0 x.st.code) 29 24 ((s.connPart c).getD 0)
  BitVec.ofNat 4096 ((x.sendFields ++ x.recvFields).foldl (fun a f => a + at_ f.1 f.2) w0.toNat)

/-- The fields of a context read back, as far as the context holds them. -/
def ctxConn (w : BitVec 4096) : Conn :=
  let n := fun (k hi lo : Nat) => BitVec.ofNat k (bits w hi lo)
  let msgs := (List.range 16).filterMap fun i =>
    let m := bits w (1792 + 64 * i + 63) (1792 + 64 * i)
    if m.testBit 21 then some { firstPsn := BitVec.ofNat 32 (m / 2 ^ 32), count := BitVec.ofNat 21 m } else none
  let atomics := (List.range 8).filterMap fun i =>
    let a := bits w (2816 + 96 * i + 95) (2816 + 96 * i)
    if a != 0 then some (BitVec.ofNat 32 (a / 2 ^ 64), BitVec.ofNat 64 a) else none
  { cfg := setBits (setBits (n 512 511 0) 3 0 0) 29 24 0
    st := ConnSt.ofCode (bits w 3 0)
    cwnd := n 32 543 512, inflight := n 32 575 544, aiAcc := n 32 607 576, alpha := n 16 623 608
    baseOwd := n 24 655 632, lastOwd := n 24 679 656, lastDec := n 64 767 704, baseAt := n 64 831 768
    decCount := n 32 863 832, markCount := n 32 895 864
    sndNxt := n 32 1055 1024, sndUna := n 32 1087 1056, sndHi := n 32 1119 1088, rtoDeadline := n 64 1215 1152
    srtt := n 48 1263 1216, rttvar := n 48 1311 1264, rto := n 48 1359 1312
    retryCount := n 8 1367 1360, rnrCount := n 8 1375 1368, busyCount := n 8 1383 1376, atomicOut := n 8 1391 1384
    sackTx := n 128 1535 1408, rcvNxt := n 32 1567 1536, rcvHi := n 32 1599 1568, rcvMap := n 128 1727 1600
    ackPending := n 9 1735 1728, ecnCount := n 8 1743 1736, ackEcho := n 32 1775 1744
    msgs := msgs, atomics := atomics
    recvBuf := { key := n 32 3615 3584, addr := n 64 3679 3616, len := n 32 3711 3680 }
    rnrPsn := n 32 3743 3712, rnrActive := bit w 3744, errStatus := n 8 3759 3752, resetAt := n 64 3839 3776 }

/-- R138: a context as its backing store gives it. What Table 6.3 does not hold, and the records of open work, stay as
the device keeps them. -/
def Conn.reload (x : Conn) (w : BitVec 4096) : Conn :=
  { ctxConn w with
    msgs := x.msgs, atomics := x.atomics, recvBuf := x.recvBuf, ackPending := x.ackPending
    lastNak := x.lastNak, enableResult := x.enableResult, tx := x.tx, wait := x.wait, sendHeld := x.sendHeld, rob := x.rob
    ackSince := x.ackSince, reach := x.reach, ackHold := x.ackHold, ackOwed := x.ackOwed, echo := x.echo, nakAt := x.nakAt, seqRetxAt := x.seqRetxAt
    fetching := x.fetching, holding := x.holding, blotting := x.blotting, blotEnd := x.blotEnd, blotPsn := x.blotPsn
    blotEcho := x.blotEcho, ctxLost := x.ctxLost, rtoDue := x.rtoDue, waitDue := x.waitDue, refused := x.refused
    readPsn := x.readPsn }

/-! ### The backing store (R121) and the context cache (R138) -/

/-- The address of a context in Inkwell, where the running layout holds a KIND 3 region. -/
def Dev.ctxInk (s : Dev) (c : Nat) : Option Nat :=
  if s.ink.boot then none else (regionKind s.regions 3).map fun r => r.base + c * 512

/-- The address of a context in host memory otherwise. -/
def Dev.ctxHost (s : Dev) (c : Nat) : Nat :=
  let part := (s.connPart c).getD 0
  bits (s.reg (Reg.connHostBacking part)) 63 12 * 4096 + (c - recConnFirst (s.ptnRec part)) * 512

/-- A context written to its backing store. A write that the store does not take is lost. -/
def Dev.ctxStore (s : Dev) (c : Nat) : Dev :=
  let b := leBytes 512 (s.ctxBits c).toNat
  let s : Dev := { s with connBacked := (c, (s.ctxInk c).isSome) :: s.connBacked.filter (·.1 != c) }
  match s.ctxInk c, s.pinnedAddr {} 0 (s.ctxHost c) true with
  | some a, _ => (s.inkWrite false a b).1
  | none, some q => if s.reach 0 .host then (s.pinnedAsk 0).setKeyBytes (hostKey q) b else s
  | none, none => if s.reach 0 .host then s.pinnedAsk 0 else s

/-- A context read from its backing store, where it was written there. -/
def Dev.ctxLoad (s : Dev) (env : Env) (c : Nat) : Dev :=
  if !s.connBacked.contains (c, (s.ctxInk c).isSome) then s
  else
    let (s, b) : Dev × List Byte := match s.ctxInk c, s.pinnedAddr env 0 (s.ctxHost c) with
      | some a, _ => let (s, _, b) := s.inkRead false a 512; (s, b)
      | none, some q => (s, s.keyBytes (hostKey q) 512)
      | none, none => (s, leBytes 512 (s.ctxBits c).toNat)
    s.setConn c ((s.conn c).reload (BitVec.ofNat 4096 (ofLe b)))

/-- A context whose eviction R138 permits. One that a fetch could not read stays until CONN_CTL RESET (R181). -/
def Dev.ctxEvictable (s : Dev) (c : Nat) : Bool := !(s.conn c).pin && (s.conn c).holding.isEmpty && !(s.conn c).ctxLost

/-- The context in the cache as the most recently used one; the least recently used that may go makes room and is
written back. -/
def Dev.ctxTouch (s : Dev) (c : Nat) : Dev :=
  let l := s.connCache.filter (· != c)
  match (if 65536 ≤ l.length then l.find? s.ctxEvictable else none) with
  | some k => { s.ctxStore k with connCache := l.filter (· != k) ++ [c] }
  | none => { s with connCache := l ++ [c] }

/-- Work on a connection needs its context: where it is not cached, a fetch of it is in progress (R138). -/
def Dev.ctxWant (s : Dev) (c : Nat) : Dev :=
  if s.ctxCached c || (s.conn c).fetching then s
  else (s.bump Reg.connMisses).setConn c { s.conn c with fetching := true }

end Sys2Proof.Machine
end

