-- ==== Sys2Proof/Machine/Drr.lean ====
section
/-! DEFINITION. Deficit round-robin (R149), the choice a node of the scheduling and launch trees makes. -/

namespace Sys2Proof.Machine

/-- The counters of a tree: child c of node k has the key k * 1024 + c. -/
structure Drr where
  deficit : Tbl (BitVec 32) := []
  fresh : Tbl Bool := []
  cur : Tbl Nat := []
  deriving DecidableEq, Repr

/-- What a node needs to know of its children: how many, the length of the packet a child offers (none where it
offers nothing its shaper lets pass), whether a child's queue is empty, and its quantum. -/
structure Children where
  n : Nat
  offer : Nat → Option Nat
  empty : Nat → Bool
  quantum : Nat → Nat

/-- R149: the loop of pick, once some child can offer. -/
def drrLoop (k : Nat) (ch : Children) : Nat → Drr → Option (Nat × Drr)
  | 0, _ => none
  | fuel + 1, d =>
    let c := tget (fun _ => 0) d.cur k % ch.n
    let key := k * 1024 + c
    let sat := fun (v : Nat) => BitVec.ofNat 32 (min v (2 ^ 32 - 1))
    let def0 := tget (fun _ => 0) d.deficit key
    let go : BitVec 32 ⊕ BitVec 32 := match ch.offer c with
      | some len =>
        let def1 := if tget (fun _ => false) d.fresh key then def0 else sat (def0.toNat + ch.quantum c)
        if len ≤ def1.toNat then .inl (def1 - BitVec.ofNat 32 len) else .inr def1
      | none => .inr def0
    match go with
    | .inl left => some (c, { d with
        deficit := tset (fun _ => 0) d.deficit key left
        fresh := tset (fun _ => false) d.fresh key true })
    | .inr left =>
      drrLoop k ch fuel
        { deficit := tset (fun _ => 0) d.deficit key (if ch.empty c then 0 else left)
          fresh := tset (fun _ => false) d.fresh key false
          cur := tset (fun _ => 0) d.cur k ((c + 1) % ch.n) }

/-- The longest packet a child offers. -/
def Children.longest (ch : Children) : Nat := (List.range ch.n).foldl (fun m c => max m ((ch.offer c).getD 0)) 0

/-- R149: the child a node picks, with its counters after; none where no child can offer. Every round of the children adds a
quantum of at least 1 to each, so the search ends within as many rounds as the longest packet has bytes. -/
def drrPick (k : Nat) (ch : Children) (d : Drr) : Option (Nat × Drr) :=
  if (List.range ch.n).any (fun c => (ch.offer c).isSome) then drrLoop k ch ((ch.longest + 2) * ch.n) d else none

/-- The child a node would pick, its counters untouched. -/
def drrPeek (k : Nat) (ch : Children) (d : Drr) : Option Nat := (drrPick k ch d).map (·.1)

end Sys2Proof.Machine
end

