-- ==== Sys2Proof/Machine/Entry.lean ====
section
/-! DEFINITION. Work ring entries: their fields, ordering classes (Tables 4.1, 5.1, 5.4), and the signature of a chord, Pluck
or Strum command (R244). -/

namespace Sys2Proof.Machine

/-! ### Entries (Table 4.1) -/

/-- Bits `hi` to `lo` of an entry, its units one after the other. -/
def Entry.f (e : Entry) (hi lo : Nat) : Nat :=
  (e.units.foldr (fun u a => u.toNat + 2 ^ 512 * a) 0) >>> lo % 2 ^ (hi + 1 - lo)

def Entry.opcode (e : Entry) : Nat := e.f 15 8
def Entry.waitValue (e : Entry) : Nat := e.f 127 80
def Entry.signalIdx (e : Entry) : Nat := e.f 73 64
def Entry.waitIdx (e : Entry) : Nat := e.f 57 48
def Entry.signalEn (e : Entry) : Bool := e.f 21 21 == 1
def Entry.waitEn (e : Entry) : Bool := e.f 20 20 == 1
def Entry.solicit (e : Entry) : Bool := e.f 19 19 == 1
def Entry.scopeSys (e : Entry) : Bool := e.f 18 18 == 1
def Entry.complete (e : Entry) : Bool := e.f 17 17 == 1
def Entry.fence (e : Entry) : Bool := e.f 16 16 == 1
/-- LEN: 0 means 16. -/
def lenOf (n : Nat) : Nat := if n == 0 then 16 else n
def Entry.len (e : Entry) : Nat := lenOf (e.f 7 4)
def Entry.conn (e : Entry) : Nat := e.f 147 128
def Entry.lkey (e : Entry) : BitVec 32 := BitVec.ofNat 32 (e.f 191 160)
def Entry.laddr (e : Entry) : Nat := e.f 255 192
def Entry.rkey (e : Entry) : BitVec 32 := BitVec.ofNat 32 (e.f 287 256)
def Entry.raddr (e : Entry) : Nat := e.f 351 288
def Entry.length (e : Entry) : Nat := e.f 383 352
def Entry.slot (e : Entry) : Nat := e.f 139 128

/-- Ordering classes (Table 5.4). -/
inductive OpClass where
  | launch | conn | match_ | loc | chord | fence
  deriving DecidableEq, Repr

/-- Table 5.1: the class of an opcode (LOCAL atomics aside) and the LEN it accepts; none for a reserved opcode. -/
def opInfo (c : Nat) : Option (OpClass × (Nat → Bool)) :=
  let one := fun n => n == 1
  match c with
  | 0x00 => some (.launch, fun _ => true)
  | 0x10 | 0x11 | 0x12 | 0x18 | 0x19 => some (.conn, one)
  | 0x13 => some (.match_, one)
  | 0x14 | 0x21 | 0x22 | 0x28 => some (.launch, one)
  | 0x20 => some (.fence, one)
  | 0x29 | 0x30 => some (.loc, one)
  | 0x31 => some (.loc, fun n => n == 1 || n == 2)
  | 0x40 | 0x41 | 0x42 | 0x43 | 0x44 | 0x45 | 0x48 | 0x50 | 0x51 => some (.chord, one)
  | 0x49 => some (.chord, fun n => n == 2)
  | _ => none

/-- An atomic on this device's own memory (Table 5.8). -/
def Entry.localAtomic (e : Entry) : Bool := (e.opcode == 0x18 || e.opcode == 0x19) && e.f 159 159 == 1

/-- The ordering class of an entry; LAUNCH for one that a launch-point check refuses. -/
def Entry.cls (e : Entry) : OpClass :=
  match opInfo e.opcode with
  | some (c, _) => if e.localAtomic then .loc else c
  | none => .launch

/-- A Strum exchange, where the opcode names one, else a chord slot. -/
def Entry.isExch (e : Entry) : Bool := 0x50 ≤ e.opcode

/-- The FOL_SCOPE attributes of an entry of a ring (R346). -/
def Entry.attrs (e : Entry) (ring : Nat) : List (Nat × Nat) :=
  [(0, ringPart ring), (1, ring)] ++
    (if e.cls = .chord then [(if e.isExch then 3 else 2, e.slot)] else [])

/-! ### Signatures (R244, Table 11.7) -/

def Entry.rmode (e : Entry) : Nat := e.f 157 156
def Entry.sat (e : Entry) : Bool := e.f 158 158 == 1
def Entry.count (e : Entry) : Nat := e.f 223 192
def Entry.chdRoot (e : Entry) : Nat := e.f 175 160
def Entry.back (e : Entry) : Bool := e.f 176 176 == 1
def Entry.nval (e : Entry) : Nat := e.f 162 160
def Entry.isScalar (e : Entry) : Bool := e.opcode == 0x49

/-- BROADCAST, ALLGATHER and SHIFT move data without arithmetic (R264). -/
def Entry.moves (e : Entry) : Bool := e.opcode == 0x42 || e.opcode == 0x44 || e.opcode == 0x45
/-- Operations on the ring. -/
def Entry.onRing (e : Entry) : Bool := e.opcode == 0x43 || e.opcode == 0x44 || e.opcode == 0x45

/-- R244: the first 8 bytes of SHAKE256 of the string of Table 11.7. -/
def signature (b : List Byte) : Word := BitVec.ofNat 64 (ofLe (shake256 8 b))

/-- R244, Table 11.7. -/
def Entry.chdSig (e : Entry) (seq : Nat) : Word :=
  let arith := if e.moves then 0 else e.f 155 152 + at_ 4 e.rmode + at_ 6 (b2n e.sat)
  let dir := if e.opcode == 0x45 then at_ 7 (b2n e.back) else 0
  signature (leBytes 1 e.opcode ++ leBytes 1 (e.f 151 144) ++ leBytes 1 (e.f 191 184) ++ leBytes 1 (arith + dir) ++ leBytes 4 e.count
    ++ leBytes 2 (if e.opcode == 0x40 || e.opcode == 0x42 then e.chdRoot else 0) ++ leBytes 2 seq ++ leBytes 2 e.slot ++ zeros 2)

/-- R244: the signature of a Pluck command. -/
def Entry.plkSig (e : Entry) (seq : Nat) : Word :=
  let sc := e.isScalar
  signature (leBytes 1 e.opcode ++ leBytes 1 (if sc then e.f 151 144 else 0) ++ zeros 1 ++
    leBytes 1 (if sc then e.f 155 152 + at_ 4 e.rmode + at_ 6 (b2n e.sat) else 0) ++ zeros 6 ++ leBytes 2 seq ++ leBytes 2 e.slot ++
    leBytes 1 (if sc then e.nval else 0) ++ zeros 1)

/-- R285: the signature takes the opcode, the sequence and EXCH alone. -/
def Entry.stmSig (e : Entry) (seq : Nat) : Word :=
  signature (leBytes 1 e.opcode ++ zeros 9 ++ leBytes 2 seq ++ leBytes 2 e.slot ++ zeros 2)

/-- The signature of an entry of class CHORD. -/
def Entry.grpSig (e : Entry) (seq : Nat) : Word :=
  if e.isExch then e.stmSig seq else if 0x48 ≤ e.opcode then e.plkSig seq else e.chdSig seq

end Sys2Proof.Machine
end

