-- ==== Sys2Proof/Machine/Slots.lean ====
section
/-! DEFINITION. Chord slots and Strum exchanges (chapter 11): definitions, counts, packets, aborts, and staging credit. In
every function `ex` tells an exchange from a slot. -/

namespace Sys2Proof.Machine

/-- The FOL_SCOPE attribute of a chord, Pluck or Strum packet: its slot or exchange. -/
def groupAttr (p : Packet) : Nat × Nat :=
  if isPluck p then (if p.ptype == 0x25 || p.ptype == 0x26 then 3 else 2, p.f 251 240)
  else (if isStrum p then 3 else 2, p.f 267 256)

/-! ### Definitions (R236) -/

structure ChdStep where
  inn : Nat := 0
  out : Nat := 0
  winStart : Nat := 0
  winEnd : Nat := 0
  deriving DecidableEq, Repr

/-- A slot record of Tables 11.1 to 11.3, with its edges as pairs of node and member. -/
structure ChdDef where
  slotField : Nat := 0
  part : Nat := 0
  tc : Nat := 0
  notifyEn : Bool := false
  me : Nat := 0
  root : Nat := 0
  members : Nat := 0
  parent : Nat := 0
  prev : Nat := 0
  nxt : Nat := 0
  nup : Nat := 0
  rstep : Nat := 0
  reserve : Nat := 0
  notify : Nat := 0
  slack : Nat := 0
  seed : BitVec 128 := 0
  edges : List (Nat × Nat) := []
  steps : List ChdStep := []
  deriving DecidableEq, Repr

/-- `n` bytes from byte `i` of slot record k, in a bank of ST cells; no field crosses a word. -/
def chdF (cell : Nat → Word) (k i n : Nat) : Nat := bits (cell (chdCell k (i / 8))) (8 * (i % 8) + 8 * n - 1) (8 * (i % 8))

/-- The record of slot k in a bank of ST cells. -/
def chdDef (cell : Nat → Word) (k : Nat) : ChdDef :=
  let f := chdF cell k
  let ne := min 8 (f 12 1)
  let steps := 64 + 16 * ne
  { slotField := f 0 2, part := f 2 1 % 64, tc := f 3 1 % 8, notifyEn := f 3 1 / 128 == 1, me := f 4 2, root := f 6 2,
    members := f 8 4, parent := f 13 1, prev := f 14 1, nxt := f 15 1, nup := f 18 2, rstep := f 20 1, reserve := f 21 1,
    notify := f 22 2 % 1024, slack := f 24 4, seed := BitVec.ofNat 128 (f 32 8 + at_ 64 (f 40 8)),
    edges := (List.range ne).map fun e => (f (64 + 16 * e) 4, f (68 + 16 * e) 2),
    steps := (List.range (min 256 (f 16 2))).map fun i =>
      { inn := f (steps + 16 * i) 1, out := f (steps + 16 * i + 1) 1, winStart := f (steps + 16 * i + 4) 4,
        winEnd := f (steps + 16 * i + 8) 4 } }

/-- R238: a slot with a tree: it has steps, or a single member (DEDUCED). -/
def ChdDef.tree (d : ChdDef) : Bool := !d.steps.isEmpty || d.members == 1
def ChdDef.ring (d : ChdDef) : Bool := d.prev != 0xFF && d.nxt != 0xFF

def ChdDef.node (d : ChdDef) (e : Nat) : Nat := (d.edges.getD e (0, 0)).1
def ChdDef.member (d : ChdDef) (e : Nat) : Nat := (d.edges.getD e (0, 0)).2

/-- Edges to the same node are one: the first of them. -/
def ChdDef.canon (d : ChdDef) (e : Nat) : Nat := (d.edges.findIdx? fun x => x.1 == d.node e).getD e

/-- The edge a packet from node n arrives on. -/
def ChdDef.edgeOf (d : ChdDef) (n : Nat) : Option Nat := d.edges.findIdx? fun x => x.1 == n

def maskHas (m e : Nat) : Bool := m >>> e % 2 == 1

/-- R279: the child edges, and the down edges. -/
def ChdDef.kids (d : ChdDef) : List Nat :=
  (List.range d.edges.length).filter fun e => (d.steps.take d.nup).any fun x => maskHas x.inn e
def ChdDef.downs (d : ChdDef) : List Nat :=
  (List.range d.edges.length).filter fun e => (d.steps.drop d.nup).any fun x => maskHas x.out e

/-- The step in which data arrives from an edge, and in which it leaves to one. -/
def ChdDef.inStep (d : ChdDef) (e : Nat) : Nat := (d.steps.findIdx? fun x => maskHas x.inn e).getD 0
def ChdDef.outStep (d : ChdDef) (e : Nat) : Nat := (d.steps.findIdx? fun x => maskHas x.out e).getD 0

def ChdDef.isRoot (d : ChdDef) : Bool := d.me == d.root

/-- The running definition of a slot or an exchange (R285); none where it is undefined. -/
def Dev.grpDef (s : Dev) (ex : Bool) (k : Nat) : Option ChdDef :=
  let d := chdDef s.st k
  if d.members == 0 || (ex && d.steps.isEmpty) then none else some d

/-- The partition a slot or an exchange belongs to, as a journal record names it (Table 17.5). -/
def Dev.slotPart (s : Dev) (ex : Bool) (k : Nat) : Nat := match s.grpDef ex k with | some d => d.part | none => 0x3F

def Dev.grp (s : Dev) (ex : Bool) (k : Nat) : Slot := if ex then s.exch k else s.slot k
def Dev.setGrp (s : Dev) (ex : Bool) (k : Nat) (x : Slot) : Dev := if ex then s.setExch k x else s.setSlot k x

/-! ### Counts (Tables 11.10, 13.9) -/

/-- What CHD_COUNTS and STM_COUNTS count. -/
inductive GrpCnt where
  | ok | mismatch | timeout | abortTx | abortRx | stale | early | nodef | path | lost
  deriving DecidableEq, Repr

def GrpCnt.chd : GrpCnt → Nat
  | .ok => 0 | .mismatch => 1 | .timeout => 2 | .abortTx => 3 | .abortRx => 4 | .stale => 5 | .early => 6 | .nodef => 7
  | .path => 8 | .lost => 9

/-- The Strum block has no count for early packets, undefined exchanges and displaced records. -/
def GrpCnt.stm : GrpCnt → Option Nat
  | .ok => some 0 | .mismatch => some 4 | .timeout => some 5 | .abortTx => some 6 | .abortRx => some 7 | .stale => some 8
  | .path => some 9
  | .early | .nodef | .lost => none

def Dev.grpBump (s : Dev) (ex : Bool) (c : GrpCnt) : Dev :=
  if ex then (match c.stm with | some k => s.bump (Reg.stmCounts k) | none => s) else s.bump (Reg.chdCounts c.chd)

/-! ### Packets (R241, R246, R251, R288) -/

/-- An ABORT of a slot (Table 11.5) or of an exchange (Table 13.6). -/
def abortPkt (ex : Bool) (src dst tc k seq sig code off step me : Nat) : Packet :=
  { hdr := mkHdr [(0, dst % 2 ^ 32), (32, src % 2 ^ 32), (64, if ex then 0x2A else 0x12), (76, tc), (256, k), (272, seq % 65536),
      (296, if ex then 0 else step % 256), (304, me % 65536), (428, code), (432, off % 65536), (448, sig)] }

/-- R147: where a packet of an operation waits: at the ring of the command it serves, or in the control queue where this
device runs no such operation. -/
def Dev.grpLeaf (s : Dev) (ex : Bool) (k seq : Nat) : Leaf :=
  match s.grpDef ex k, (s.grp ex k).run with
  | some d, some r => if r.seq.toNat == seq then .ring d.part d.tc r.ring else .control
  | _, _ => .control

/-- R251: a packet of an operation is lost on its path: PATH counts it, and both its ends are told. -/
def Dev.pathLost (s : Dev) (p : Packet) : Dev :=
  if !onPrimaryOnly p then s
  else
    let pl := isPluck p
    let ex := isStrum p || p.ptype == 0x25 || p.ptype == 0x26
    let k := (groupAttr p).2
    let seq := if pl then p.f 239 224 else p.f 287 272
    let sig := if pl then p.f 223 160 else p.f 511 448
    let me := match s.grpDef ex k with | some d => d.me | none => 0xFFFF
    let leaf := s.grpLeaf ex k seq
    [p.src, p.dst].foldl (fun s n =>
      (s.join leaf none none none (sealIcrc (abortPkt ex s.node n p.tc k seq sig 4 0xFFFF (if isChord p then p.f 303 296 else 0) me))
        false).1) ((s.grpBump ex .path).postErr (if ex then Reg.stmExchSel else Reg.chdCfg) 0x0A 4
          (k + at_ 12 (b2n ex) + at_ 16 seq + at_ 32 0xFFFF + at_ 48 (if isChord p then p.f 303 296 else 0)) 1)

/-- R153: when the entry of a ring that runs on a packet's slot or exchange was launched; now where none does. -/
def Dev.grpSince (s : Dev) (ring : Nat) (p : Packet) : Word :=
  let g := groupAttr p
  match s.ops.find? fun o => o.ring == ring && decide (o.entry.cls = .chord) && o.entry.slot == g.2 && o.entry.isExch == (g.1 == 3) with
  | some o => o.at_
  | none => s.rlg.time

/-- A packet of a slot or exchange on its way out, from the leaf of the command's ring (R147). -/
def Dev.grpSend (s : Dev) (d : ChdDef) (ring : Nat) (p : Packet) (adaptive : Bool) : Dev :=
  match s.joinAs { leaf := .ring d.part d.tc ring, pkt := sealIcrc p, at_ := s.rlg.time, since := s.grpSince ring p, arrVc := p.vc }
    none adaptive with
  | (s, none) => s
  | (s, some _) => s.pathLost p

/-- R246: ABORT to every edge but one; the issuer posts a record of the chord class. -/
def Dev.sendAborts (s : Dev) (ex : Bool) (k : Nat) (d : ChdDef) (ring seq : Nat) (sig : Word) (code off step : Nat)
    (skip : Option Nat) (issuer : Bool) : Dev :=
  let s := ((List.range d.edges.length).filter fun e => some (d.canon e) != skip).foldl (fun s e =>
    (s.grpSend d ring (abortPkt ex s.node (d.node e) d.tc k seq sig.toNat code off step d.me) false).grpBump ex .abortTx) s
  if issuer then
    s.postErr (if ex then Reg.stmExchSel else Reg.chdCfg) 0x0A code
      (k + at_ 12 (b2n ex) + at_ 16 seq + at_ 32 (off % 65536) + at_ 48 (step % 256)) 1 (some d.part)
  else s

/-! ### Reducer staging and credit (R240) -/

def stagingUnits : Nat := 768

/-- The key of an edge and a step in the tables of credit. -/
def stepKey (e step : Nat) : Nat := e * 256 + step

/-- The units a slot's peers may fill: segments granted and not yet used. -/
def Slot.units (x : Slot) : Nat := (x.limits.map fun p => p.2 - tget (fun _ => 0) x.used p.1).sum

/-- A header-only packet (Table 11.5). -/
def Seg.headerOnly (y : Seg) : Bool := y.npkt == 1 && y.seg == 0 && y.pkts == [(0, [])]

/-- The units that hold a segment, from its first packet on. -/
def Slot.staged (x : Slot) : Nat := x.early.countP fun y => !y.headerOnly

/-- The units reserved by a slot's running definition. -/
def Dev.reserve (s : Dev) (k : Nat) : Nat := if chdF s.st k 8 4 == 0 then 0 else chdF s.st k 21 1

/-- The units reserved for all slots. -/
def Dev.reserved (s : Dev) : Nat :=
  ((s.run.filter fun p => chdCell 0 2 ≤ p.1 && p.1 < chdCell 4096 0 && p.1 % 1024 == 2).map fun p =>
    s.reserve ((p.1 - chdCell 0 2) / 1024)).sum

def Dev.unitsHeld (s : Dev) : Nat := (s.slots.map fun p => p.2.staged).sum

/-- A unit can be granted: from the slot's reserve first, then from the shared remainder. -/
def Dev.unitFree (s : Dev) (k : Nat) : Bool :=
  (s.slot k).units < s.reserve k ||
  (s.slots.map fun p => p.2.units - s.reserve p.1).sum < stagingUnits - s.reserved

/-- Credit for up to `ahead` segments beyond those used on an edge in a step of slot k, `total` at most. -/
def Dev.grantMore (k e ahead total : Nat) : Nat → Dev → Dev
  | 0, s => s
  | fuel + 1, s =>
    let x := s.slot k
    let g := tget (fun _ => 0) x.limits e
    if g < tget (fun _ => 0) x.used e + ahead && g < total && s.unitFree k then
      Dev.grantMore k e ahead total fuel (s.setSlot k { x with limits := tset (fun _ => 0) x.limits e (g + 1) })
    else s

/-- The CREDIT packet of an edge (Table 11.5). -/
def creditPkt (d : ChdDef) (src k e seq step limit : Nat) : Packet :=
  { hdr := mkHdr [(0, d.node e), (32, src), (64, 0x11), (76, d.tc), (256, k), (272, seq), (296, step), (304, d.me), (352, limit % 2 ^ 32)] }

/-- R240: more credit where it can be granted; the limit is sent where it rose, or `again`. -/
def Dev.grant (s : Dev) (k : Nat) (d : ChdDef) (ring e seq step ahead total : Nat) (again : Bool) : Dev :=
  let key := stepKey e step
  let g0 := tget (fun _ => 0) (s.slot k).limits key
  let s := s.grantMore k key ahead total ahead
  let g := tget (fun _ => 0) (s.slot k).limits key
  if g != g0 || (again && 0 < g) then s.grpSend d ring (creditPkt d s.node k e seq step g) false else s

/-- R238: the slot has the shape the opcode runs on (Table 11.4). -/
def Entry.shaped (e : Entry) (d : ChdDef) : Bool := e.isExch || (if e.onRing then d.ring else d.tree)

/-- R240: the first credits for a slot's next operation, one segment on each edge that can bring data up or round
(DESIGN CHOICE). -/
def Dev.firstCredit (s : Dev) (k : Nat) (d : ChdDef) (ring : Nat) : Dev :=
  let s := s.setSlot k { s.slot k with limits := [], used := [] }
  let ins := d.kids.map (fun e => (e, d.inStep e)) ++ (if d.ring then [(d.canon d.prev, d.rstep)] else [])
  ins.foldl (fun s p => s.grant k d ring p.1 (s.slot k).nextSeq.toNat p.2 1 1 false) s

/-- R249: a command on a defined slot or exchange of its partition that fails a check before its launch takes its sequence,
and the member issues ABORT MEMBER. -/
def Dev.memberRefused (s : Dev) (ring : Nat) (e : Entry) (st : Nat) : Dev :=
  let ex := e.isExch
  let k := e.slot
  match if e.cls = .chord then (s.grpDef ex k).filter fun d => d.part == ringPart ring && e.shaped d else none with
  | none => s
  | some d =>
    let x := s.grp ex k
    let seq := x.nextSeq
    let idle := x.run.isNone
    let y : Slot := { x with
      nextSeq := seq + 1
      pend := x.pend.filter fun p => p.seq != seq
      lastSeq := seq
      lastOff := BitVec.ofNat 16 d.me
      lastStatus := BitVec.ofNat 8 st
      lastStep := 0
      lastCode := 3 }
    let y : Slot := if idle then { y with early := [], limits := [], used := [], credit := [], flits := [] } else y
    let s := (s.setGrp ex k y).sendAborts ex k d ring seq.toNat (e.grpSig seq.toNat) 3 d.me 0 none true
    if idle && !ex then s.firstCredit k d ring else s

end Sys2Proof.Machine
end

