-- ==== Sys2Proof/Machine/Rings.lean ====
section
/-! DEFINITION. Work rings, completion rings and event counters (chapter 4): scanning, launch conditions, completion,
ring states. -/

namespace Sys2Proof.Machine

/-! ### Ring memory (R76, R77) -/

def baseTgt (w : Word) : Tgt :=
  match bits w 11 10 with
  | 0 => .host
  | 1 => .tray (bits w 9 8)
  | _ => .ink

def sizeLog2 (cfg : Word) : Nat := bits cfg 4 0
def Ring.size (r : Ring) : Nat := 2 ^ sizeLog2 r.cfg
def Cq.size (q : Cq) : Nat := 2 ^ sizeLog2 q.cfg
def Ring.cq (r : Ring) : Nat := bits r.cfg 29 16
/-- The prefetch limit in units; 0 means 256. -/
def Ring.prefetch (r : Ring) : Nat := if bits r.cfg 15 8 == 0 then 256 else bits r.cfg 15 8

/-- R77: the phase of position p. -/
def phaseAt (log2 p : Nat) : Nat := 1 ^^^ (p >>> log2 % 2)

/-- Ring memory is translated as pinned memory of the partition's function: the address an access uses, none where
the host grants none. -/
def Dev.ringAddr (s : Dev) (e : Env) (part : Nat) (t : Tgt) (a : Nat) (write : Bool := false) : Option Nat :=
  match t with
  | .host => s.pinnedAddr e part a write
  | _ => some a

/-- The status of a failed access to ring memory (R85). -/
def ringFault (t : Tgt) (o : MemOut) : Nat :=
  match o with
  | .poison => stPoison
  | .error => if t = .host then stTranslation else stTarget
  | _ => stTarget

def Dev.ringAsk (s : Dev) (part : Nat) (t : Tgt) : Dev := if t = .host then s.pinnedAsk part else s

/-- A read of ring memory: the bytes, or the status of the fault. Reaching the memory comes before translating (Table 8.5). -/
def Dev.ringRead (s : Dev) (e : Env) (part : Nat) (base : Word) (a n : Nat) : Dev × Except Nat (List Byte) :=
  let t := baseTgt base
  if !s.reach part t then (s, .error (ringFault t .unavailable))
  else
    let s := s.ringAsk part t
    match s.ringAddr e part t a with
    | none => (s.bump Reg.xltFaults, .error stTranslation)
    | some q =>
      match s.readT e part t q n 0x02 with
      | (s, .ok, b) => (s.cacheTouch (t.key q) n, .ok b)
      | (s, o, _) => (if ringFault t o == stTranslation then s.bump Reg.xltFaults else s, .error (ringFault t o))

/-- A write of ring memory; false where it fails. -/
def Dev.ringWrite (s : Dev) (e : Env) (part : Nat) (base : Word) (a : Nat) (b : List Byte) : Dev × Bool :=
  if !s.reach part (baseTgt base) then (s, false)
  else
    let s := s.ringAsk part (baseTgt base)
    match s.ringAddr e part (baseTgt base) a true with
    | none => (s.bump Reg.xltFaults, false)
    | some q =>
      match s.writeT e part (baseTgt base) q b with
      | (s, .ok) => (s, true)
      | (s, _) => (s, false)

/-! ### Interrupts (R98) -/

/-- The two words of MSI-X table entry `v` of a function; the mask bit is 1 at reset. -/
def msixReset (k : Nat) : Word := if k % 2 = 1 then 0x100000000 else 0
def msixKey (fn v w : Nat) : Nat := (fn * 2048 + v) * 2 + w
def Dev.msixWord (s : Dev) (fn v w : Nat) : Word := tget msixReset s.hst.msix (msixKey fn v w)

/-- An interrupt message: sent, merged into one sent within the last microsecond, or left pending while masked. -/
def Dev.interrupt (s : Dev) (fn v : Nat) : Dev :=
  if !s.reach fn .host || !(s.fn fn).msixEn then s
  else if (s.fn fn).msixMask || bit (s.msixWord fn v 1) 32 then
    { s with hst := { s.hst with pba := tset (fun _ => false) s.hst.pba (fn * 2048 + v) true } }
  else
    match tfind s.hst.msixAt (fn * 2048 + v) with
    | some t => if s.osc < t + 125 then s else
        ({ s with hst := { s.hst with msixAt := tput s.hst.msixAt (fn * 2048 + v) s.osc } }).emit (.msix fn v)
    | none => ({ s with hst := { s.hst with msixAt := tput s.hst.msixAt (fn * 2048 + v) s.osc } }).emit (.msix fn v)

/-! ### Ring states (R99, R100) -/

/-- A ring leaves ENABLED: its taken entries are to be discarded. -/
def Dev.ringStop (s : Dev) (r : Nat) (st : RingSt) (err : Byte) : Dev :=
  let x := s.ring r
  s.setRing r { x with st := st, errCode := if err = 0 then x.errCode else err, discarding := true, scanning := false }

/-- Every work ring in ENABLED that reports to completion ring q, stopped. -/
def Dev.stopBound (s : Dev) (q : Nat) (st : RingSt) : Dev :=
  (s.rings.filter fun p => p.2.cq == q && decide (p.2.st = .enabled)).foldl (fun s p => s.ringStop p.1 st 0) s

/-- A work ring whose completion ring is in ERROR (R100), the record at position `p` being the cause. -/
def Dev.cqFaulted (s : Dev) (r : Nat) (p : BitVec 32) : Dev :=
  let s := s.ringStop r .error 0x04
  (s.setRing r { s.ring r with errPos := p }).postErr Reg.ringSel 0x04 0x04 (r + at_ 32 p.toNat) 2 (some (ringPart r))

/-- R100: a completion ring fails. -/
def Dev.cqFail (s : Dev) (q : Nat) (err : Byte) : Dev :=
  let x := s.cq q
  if s.hst.lost && decide (baseTgt x.base = .host) then
    (s.setCq q { x with st := .hostLost }).stopBound q .hostLost
  else
    let s := s.setCq q { x with st := .error, errCode := err, errPos := x.tail }
    let s := s.postErr Reg.ringSel 0x04 err.toNat (q + at_ 16 1 + at_ 32 x.tail.toNat) 2 (some (ringPart q))
    (s.rings.filter fun p => p.2.cq == q && decide (p.2.st = .enabled)).foldl (fun s p => s.cqFaulted p.1 x.tail) s

/-! ### Completion records (R92 to R96, Table 4.3) -/

/-- The 32 bytes of a record. -/
def recordBytes (phase st opcode scope solicit ring seq pos len bytes detail : Nat) : List Byte :=
  leBytes 32 (phase + at_ 8 st + at_ 16 opcode + at_ 24 scope + at_ 25 solicit + at_ 32 ring + at_ 48 seq
    + at_ 64 pos + at_ 104 (len % 16) + at_ 128 bytes + at_ 192 detail)

/-- A record written at the tail of completion ring q: bytes 8 to 31, then bytes 0 to 7 (R95). `body` makes the
record from its phase. -/
def Dev.cqWrite (s : Dev) (e : Env) (q : Nat) (body : Nat → List Byte) (loud : Bool) : Dev :=
  let x := s.cq q
  if x.st ≠ .enabled then s
  else
    let b := body (phaseAt (sizeLog2 x.cfg) x.tail.toNat)
    let a := bits x.base 63 12 * 4096 + x.tail.toNat % x.size * 32
    match s.ringWrite e (ringPart q) x.base (a + 8) (b.drop 8) with
    | (s, false) => s.cqFail q 0x05
    | (s, true) =>
      match s.ringWrite e (ringPart q) x.base a (b.take 8) with
      | (s, false) => s.cqFail q 0x05
      | (s, true) =>
        let s := s.setCq q { x with tail := x.tail + 1 }
        if bit x.cfg 8 && loud then s.interrupt (ringPart q) (bits x.cfg 26 16) else s

/-- A completion slot is free (R97): records that are owed have theirs. -/
def Cq.free (q : Cq) : Bool := decide (q.st = .enabled) && q.reserved + q.owed.length + (q.tail - q.head).toNat < q.size

/-- Whether the record ring may take a record of a failed ring, beside what launched entries have reserved. -/
def Cq.spare (q : Cq) : Bool := q.reserved + (q.tail - q.head).toNat < q.size

/-- R85, R97: records of failed rings that waited for a free slot are written as slots free. `rest` is fuel: how many may be. -/
def Dev.cqOwed (e : Env) (q : Nat) : Nat → Dev → Dev
  | 0, s => s
  | rest + 1, s =>
    let x := s.cq q
    match x.owed with
    | [] => s
    | b :: l =>
      if x.st ≠ .enabled || !x.spare then s
      else Dev.cqOwed e q rest ((s.setCq q { x with owed := l }).cqWrite e q (fun ph => [BitVec.ofNat 8 ph] ++ b.drop 1) true)

/-- The Folio record of a completion. -/
def Dev.folCompletion (s : Dev) (attrs : List (Nat × Nat)) (q : Nat) (pos : Nat) (rec : List Byte) : Dev :=
  s.folEvent 0x08 (ringPart q) attrs (leBytes 2 q ++ zeros 2 ++ leBytes 4 pos ++ zeros 8 ++ rec)

/-- R347: whether a completion with this status triggers. -/
def Dev.folStatus (s : Dev) (attrs : List (Nat × Nat)) (st : Nat) : Dev :=
  if (s.folMatch attrs).isSome && bit (s.reg Reg.folTrigStatus) st then s.folTrigger 0x2 st else s

/-! ### Event counters (R91 to R93) -/

/-- The number of counters, rings and pools partition n holds. -/
def Dev.ctrsOf (s : Dev) (n : Nat) : Nat := recCtrs (s.ptnRec n)

/-- R92: an increment, which sets FAILED where the entry's status is not OK. -/
def Dev.ctrSignal (s : Dev) (part i : Nat) (failed : Bool) : Dev :=
  let c := s.ctr (part * 1024 + i)
  s.setCtr (part * 1024 + i) { value := c.value + 1, failed := c.failed || failed }

/-- R91: the wait on counter c for value w is satisfied. -/
def waitOver (c : EvCtr) (w : Nat) : Bool := (c.value.toNat + 2 ^ 48 - w % 2 ^ 48) % 2 ^ 48 < 2 ^ 47

/-! ### Launched entries -/

def Op.is (o : Op) (ring : Nat) (pos : BitVec 32) : Bool := o.ring == ring && o.entry.pos == pos

def Dev.op? (s : Dev) (ring : Nat) (pos : BitVec 32) : Option Op := s.ops.find? (·.is ring pos)

def Dev.setOp (s : Dev) (ring : Nat) (pos : BitVec 32) (f : Op → Op) : Dev :=
  { s with ops := replaceFirst (·.is ring pos) f s.ops }

/-- The key of the memory an entry writes, where it writes this device's memory. -/
def Entry.writesKey (e : Entry) : Option (BitVec 32) :=
  match e.opcode with
  | 0x11 | 0x13 | 0x18 | 0x19 => some e.lkey
  | 0x30 => some e.rkey
  | 0x40 | 0x41 | 0x42 | 0x43 | 0x44 | 0x45 => some (BitVec.ofNat 32 (e.f 351 320))
  | 0x49 => some (BitVec.ofNat 32 (e.f 223 192))
  | 0x50 | 0x51 => some (BitVec.ofNat 32 (e.f 383 352))
  | _ => none

/-- An entry has written `n` bytes under a key. -/
def Dev.opReached (s : Dev) (ring : Nat) (pos : BitVec 32) (key : BitVec 32) (n : Nat) : Dev :=
  let m := s.keyMemory key n
  s.setOp ring pos fun o => { o with reach := o.reach ||| m }

/-- Whether an entry that asks for SYSTEM scope wrote host memory, and so waits for a flush (R201). -/
def Op.needsFlush (o : Op) : Bool := o.entry.scopeSys && o.entry.opcode != 0x20 && o.reach.getLsbD 0

/-- A flush of a function falls due (R201): it is one with the last that fell due less than FLUSH_MERGE before, which the device
issues at the end of that time. The number of the flush. -/
def Dev.flushStart (s : Dev) (fn : Nat) : Dev × Nat :=
  match s.hst.flushDue.reverse.find? fun p => p.1 == fn && s.osc < p.2.1 with
  | some p => (s, p.2.2)
  | none =>
    let due := s.osc + nsTicks (bits (s.reg Reg.hstCfg) 31 16)
    ({ s with hst := { s.hst with
      flushDue := s.hst.flushDue ++ [(fn, due, s.hst.flushNext)], flushNext := s.hst.flushNext + 1 } }, s.hst.flushNext)

/-- The outcome of an entry whose work has ended well, one of whose accesses may have failed since (R134, R194). -/
def Op.outcome (o : Op) (d : Done) : Done :=
  match o.respFault with
  | some (st, x) => { d with status := st, detail := x }
  | none => d

/-- An entry's work has ended with a status. -/
def Dev.finish (s : Dev) (ring : Nat) (pos : BitVec 32) (d : Done) : Dev :=
  match s.op? ring pos with
  | none => s
  | some o =>
    if o.fin.isSome then s
    else
      let d := if d.status = 0 then o.outcome d else d
      if d.status = 0 && o.needsFlush then
        let (s, id) := s.flushStart o.part
        s.setOp ring pos fun o => { o with fin := some d, flushWait := true, flushId := id, stalled := false }
      else s.setOp ring pos fun o => { o with fin := some d, flushWait := false, stalled := false }

/-- R105: nothing the entry's ordering class puts before it is still to complete. One that a check refused waits for nothing
(R90, R103). -/
def Dev.orderMet (s : Dev) (o : Op) : Bool :=
  let before := s.ops.takeWhile fun p => !p.is o.ring o.entry.pos
  if o.fin.any (fun d => d.status.toNat == stMalformed) then true
  else match o.entry.cls with
  | .launch | .loc => true
  | .fence => !before.any fun p => p.ring == o.ring
  | .conn => !before.any fun p => p.ring == o.ring && decide (p.entry.cls = .conn) && p.entry.conn == o.entry.conn
  | .chord => !before.any fun p => p.ring == o.ring && decide (p.entry.cls = .chord) && p.entry.isExch == o.entry.isExch
      && p.entry.slot == o.entry.slot
  | .match_ => !s.ops.any fun p => p.part == o.part && decide (p.entry.cls = .match_) && p.entry.f 133 128 == o.entry.f 133 128
      && p.order != 0 && p.order < o.order

/-- What a completed entry's writes reached is what a later FENCE of its ring must reach (R199). -/
def Dev.reachMerge (s : Dev) (o : Op) : Dev :=
  if o.entry.opcode == 0x20 || o.reach = 0 then s
  else
    let s := s.setRing o.ring { s.ring o.ring with reach := (s.ring o.ring).reach ||| o.reach }
    let before := s.ops.takeWhile fun p => !p.is o.ring o.entry.pos
    let after := s.ops.drop before.length
    { s with ops := before ++ after.map fun p =>
      if p.ring == o.ring && p.entry.opcode == 0x20 then { p with reach := p.reach ||| o.reach } else p }

/-- A completed entry is gone. -/
def Dev.dropOp (s : Dev) (o : Op) : Dev :=
  { s.unwait (· == opWho o.ring o.entry.pos) with ops := eraseFirst (·.is o.ring o.entry.pos) s.ops }

/-- R92, R96: an entry whose work has ended completes: its record, if one is due, then its signal. -/
def Dev.completeOp (s : Dev) (e : Env) (o : Op) (d : Done) : Dev :=
  let n := o.entry
  let q := (s.ring o.ring).cq
  let x := s.cq q
  let bad := d.status ≠ 0
  let due := n.complete || bad
  if due && decide (x.st = .enabled) && x.size ≤ (x.tail - x.head).toNat then s
  else
    let s := (s.reachMerge o).dropOp o
    let x := { x with reserved := x.reserved - 1 }
    let s := s.setCq q { x with rereadAt := if x.free then none else x.rereadAt }
    let scope := b2n (!bad && (n.scopeSys || o.scopeSys))
    let body := fun ph => recordBytes ph d.status.toNat n.opcode scope (b2n n.solicit) o.ring n.seq.toNat n.pos.toNat
      n.len d.bytes.toNat d.detail.toNat
    let s := if due then
        (s.folCompletion (n.attrs o.ring) q x.tail.toNat (body (phaseAt (sizeLog2 x.cfg) x.tail.toNat))).cqWrite e q body
          (n.solicit || bad)
      else s
    let s := (s.cqOwed e q x.owed.length).folStatus (n.attrs o.ring) d.status.toNat
    if n.signalEn && n.signalIdx < s.ctrsOf o.part then s.ctrSignal o.part n.signalIdx bad else s

/-- An entry that ends at launch completes there (LAUNCH class, and entries a launch-point check refuses). -/
def Dev.completeAt (s : Dev) (e : Env) (ring : Nat) (pos : BitVec 32) : Dev :=
  match s.op? ring pos with
  | some o => match o.fin with
    | some d => if s.orderMet o && !o.flushWait && o.zero.isEmpty && !s.trayOwes ring pos o.entry.scopeSys then s.completeOp e o d
      else s
    | none => s
  | none => s

/-! ### Partitions that wait for work to end (R331, R333) -/

/-- Whether some chord, Pluck or Strum operation of a partition runs. -/
def Dev.chordsRun (s : Dev) (part : Nat) : Nat :=
  let f := fun (t : Tbl Slot) => (t.filter fun p => match p.2.run with
    | some r => ringPart r.ring == part
    | none => false).length
  f s.slots + f s.exchs

def Dev.pageReqs (s : Dev) (part : Nat) : Nat := (s.xlt.misses.filter fun m => m.fn == part).length

/-- An ACTIVE connection of a quiescing partition that has nothing left to do (R333). -/
def Dev.connIdle (s : Dev) (c : Nat) (x : Conn) : Bool :=
  !s.ops.any (fun o => decide (o.entry.cls = .conn) && o.conn == c) && x.msgs.isEmpty &&
  !x.tx.any fun t => t.req.isSome

def ConnSt.ended : ConnSt → Bool
  | .active => false
  | _ => true

/-- R333: connections with nothing left to do move to QUIESCED. -/
def Dev.quiesceConns (s : Dev) (part : Nat) : Dev :=
  { s with conns := s.conns.map fun p =>
    if decide (p.2.st = .active) && s.connPart p.1 == some part && s.connIdle p.1 p.2 then
      (p.1, { p.2 with st := .quiesced })
    else p }

/-- R333: every condition holds. -/
def Dev.quiet (s : Dev) (part : Nat) : Bool :=
  !s.rings.any (fun p => ringPart p.1 == part && (decide (p.2.st = .enabled) || decide (p.2.st = .disabling))) &&
  !s.ops.any (fun o => o.part == part) &&
  !s.conns.any (fun p => !p.2.st.ended && s.connPart p.1 == some part) &&
  s.chordsRun part == 0 && s.pageReqs part == 0

/-- One partition that waits: QUIESCING reaches QUIESCED, PREEMPTING reaches PREEMPTED. -/
def Dev.settlePtn (s : Dev) (part : Nat) : Dev :=
  match (s.ptn part).st with
  | .quiescing =>
    let s := s.quiesceConns part
    if s.quiet part then s.setPtn part { s.ptn part with st := .quiesced, quiesceAt := s.rlg.time } else s
  | .preempting =>
    if s.chordsRun part == 0 then s.setPtn part { s.ptn part with st := .preempted, preemptAt := s.rlg.time } else s
  | _ => s

/-- Every partition that waits. -/
def Dev.settle (s : Dev) : Dev := s.ptns.foldl (fun s p => s.settlePtn p.1) s

/-! ### Launch (R90, R103, R152) -/

/-- The reasons checked at the launch point before any wait: reason and byte offset (R103). -/
def Dev.earlyBad (s : Dev) (part : Nat) (e : Entry) : Option (Nat × Nat) :=
  match opInfo e.opcode with
  | none => some (0x03, 1)
  | some (_, lenOk) =>
    if !lenOk e.len || (e.opcode == 0x31 && e.len != (if e.f 359 352 == 0 then 1 else 2)) then some (0x04, 0)
    else if e.waitEn && s.ctrsOf part ≤ e.waitIdx then some (0x05, 6)
    else if e.signalEn && s.ctrsOf part ≤ e.signalIdx then some (0x05, 8)
    else none

/-- DETAIL of DESCRIPTOR_MALFORMED (Table 5.5). -/
def malformed (reason offset : Nat) : Done :=
  { status := BitVec.ofNat 8 stMalformed, detail := BitVec.ofNat 64 (reason + at_ 16 offset) }

/-- Whether the ring may launch at all: ENABLED, not held or discarding, its partition ACTIVE and its key range
initialised, and the block out of reset. -/
def Dev.ringLaunches (s : Dev) (r : Nat) : Bool :=
  let x := s.ring r
  let p := s.ptn (ringPart r)
  decide (x.st = .enabled) && !x.held && !x.discarding && decide (p.st = .active) && !p.initPending && !s.inReset Reg.ringSel

/-- The limit an opcode's rule sets at launch (R90). -/
def Dev.limitMet (s : Dev) (part : Nat) (e : Entry) : Bool :=
  match e.cls with
  | .match_ =>
    ((List.range 64).map fun p => (s.pool (part * 64 + p)).length).sum < 1024
  | .chord =>
    (if e.isExch then (s.exch e.slot).run.isNone else (s.slot e.slot).run.isNone) &&
    !s.ops.any fun o => !o.zero.isEmpty && o.entry.isExch == e.isExch && o.entry.slot == e.slot
  | .conn =>
    let c := s.conn e.conn
    let mine := s.connPart e.conn == some part
    !mine || (s.ctxCached e.conn && !s.markHeld e.conn && (if e.opcode == 0x18 || e.opcode == 0x19 then c.atomicOut.toNat < 8 else true))
  | _ => true

/-- The entry at a ring's launch point, where every condition of R90 holds but the completion slot and the scheduler's choice. -/
def Dev.waiting (s : Dev) (r : Nat) : Option Entry :=
  match (s.ring r).taken with
  | [] => none
  | e :: _ =>
    let part := ringPart r
    if s.ringLaunches r && (s.earlyBad part e).isNone &&
      (!e.waitEn || waitOver (s.ctr (part * 1024 + e.waitIdx)) e.waitValue) &&
      (!e.fence || !s.ops.any fun o => o.ring == r) &&
      !s.ops.any (fun o => o.ring == r && decide (o.entry.cls = .launch)) && s.limitMet part e
    then some e else none

/-- The entry at a ring's launch point, where every condition of R90 but the scheduler's choice holds. -/
def Dev.ready (s : Dev) (r : Nat) : Option Entry := if (s.cq (s.ring r).cq).free then s.waiting r else none

/-- R97: launches, or records of failed rings, wait for a slot of completion ring q. -/
def Dev.cqWanted (s : Dev) (q : Nat) : Bool :=
  !(s.cq q).owed.isEmpty || s.rings.any fun p => p.2.cq == q && (s.waiting p.1).isSome

/-- R152: the launch tree's choice among the rings whose entries are ready, with its counters after. -/
def Dev.launchPick (s : Dev) : Option (Nat × Drr) :=
  let d : Drr := { deficit := s.sch.launchDeficit, fresh := s.sch.launchFresh, cur := s.sch.launchCur }
  let inPart := fun (p : Nat) => s.rings.filter fun x => ringPart x.1 == p
  let rings := fun (p : Nat) => ({
    n := 256
    offer := fun c => if (s.ready (p * 256 + c)).isSome then some 1 else none
    empty := fun c => (s.ring (p * 256 + c)).taken.isEmpty
    quantum := fun c => bits (s.st (schCell 2 (p * 256 + c))) 11 0 } : Children)
  let parts : Children := {
    n := 64
    offer := fun p => if (inPart p).any (fun x => (s.ready x.1).isSome) then some 1 else none
    empty := fun p => (inPart p).all fun x => x.2.taken.isEmpty
    quantum := fun p => bits (s.st (schCell 0 p)) 11 0 }
  match drrPick 64 parts d with
  | none => none
  | some (p, d) =>
    match drrPick p (rings p) d with
    | none => none
    | some (c, d) => some (p * 256 + c, d)

/-- The entry at the launch point leaves the cache and runs (R90). -/
def Dev.take (s : Dev) (r : Nat) (e : Entry) : Dev :=
  let x := s.ring r
  let q := s.cq x.cq
  let s := s.setRing r { x with
    taken := x.taken.drop 1
    head := BitVec.ofNat 48 ((e.pos + BitVec.ofNat 32 e.units.length).toNat + at_ 32 (e.seq + 1).toNat) }
  let s := s.setCq x.cq { q with reserved := q.reserved + 1 }
  { s with
    ops := s.ops ++ [{ ring := r, entry := e, part := ringPart r, conn := e.conn, at_ := s.rlg.time }]
    launches := s.launches + 1 }

/-- R90: entries at the launch point that fail its checks complete at once. A chord command among them takes its sequence
(R249). -/
def Dev.settleHead : Nat → Dev → Env → Nat → Dev
  | 0, s, _, _ => s
  | fuel + 1, s, env, r =>
    match (s.ring r).taken with
    | [] => s
    | e :: _ =>
      if !s.ringLaunches r || decide ((s.cq (s.ring r).cq).st ≠ .enabled) then s
      else match s.earlyBad (ringPart r) e with
        | none => s
        | some (reason, off) =>
          let s := (s.take r e).finish r e.pos (malformed reason off)
          Dev.settleHead fuel ((s.memberRefused r e stMalformed).completeAt env r e.pos) env r

/-- R90, R103: the launch points of a partition that may launch again are checked. -/
def Dev.settleHeads (s : Dev) (part : Nat) : Dev :=
  s.rings.foldl (fun s p => if ringPart p.1 == part then s.settleHead 256 {} p.1 else s) s

/-- R93: an entry whose wait is satisfied by a FAILED counter. -/
def Dev.depFailed (s : Dev) (r : Nat) (e : Entry) : Bool :=
  e.waitEn && (s.ctr (ringPart r * 1024 + e.waitIdx)).failed

/-- R90: the entry at ring r's launch point launches, where it is of opcode `code`, every condition holds and the
scheduler selects the ring. An entry whose counter has FAILED does not run (R93); an entry that waits only for its
connection's context starts the fetch (R138). `body` is what the entry does. -/
def Dev.launchWith (s : Dev) (env : Env) (r code : Nat) (body : Dev → Nat → Entry → Dev) : Dev :=
  match s.ready r with
  | none =>
    match (s.ring r).taken with
    | e :: _ =>
      if e.opcode == code && decide (e.cls = .conn) && s.connPart e.conn == some (ringPart r) && !s.ctxCached e.conn
        && s.ringLaunches r then
        s.ctxWant e.conn
      else s
    | [] => s
  | some e =>
    if e.opcode != code then s
    else match s.launchPick with
      | none => s
      | some (r', d) =>
        if r' != r then s
        else
          let s := { s with sch := { s.sch with launchDeficit := d.deficit, launchFresh := d.fresh, launchCur := d.cur } }
          let failed := s.depFailed r e
          let s := s.take r e
          let s := if failed && decide (e.cls ≠ .chord) then
              s.finish r e.pos { status := BitVec.ofNat 8 stDependency, detail := BitVec.ofNat 64 e.waitIdx }
            else body s r e
          let refused := match s.op? r e.pos with
            | some o => o.fin.any fun d => d.status.toNat == stMalformed
            | none => false
          let s := if decide (e.cls = .launch) || refused then s.completeAt env r e.pos else s
          (s.settleHead 256 env r).settle

/-! ### Scanning (R83 to R87) -/

/-- Units held in the prefetch cache by all rings. -/
def Dev.cachedUnits (s : Dev) : Nat := (s.rings.map fun p => (p.2.taken.map fun e => e.units.length).sum).sum

def Ring.fetched (x : Ring) : Nat := (x.taken.map fun e => e.units.length).sum

/-- R85: the ring enters ERROR, and one record is written for the failing position once a slot is free for it (R97); what the
entry's header gives is 0 where it could not be read. -/
def Dev.ringError (s : Dev) (env : Env) (r : Nat) (code : Byte) (p : BitVec 32) (h : BitVec 512) (d : Done) : Dev :=
  let x := s.ring r
  let s := s.setRing r { x with st := .error, errCode := code, errPos := p, discarding := true, scanning := false }
  let s := s.postErr Reg.ringSel 0x04 code.toNat (r + at_ 32 p.toNat) 2 (some (ringPart r))
  let len := if h = 0 then 0 else lenOf (bits h 7 4)
  let rcd := recordBytes 0 d.status.toNat (bits h 15 8) 0 (bits h 19 19) r x.fetchSeq.toNat p.toNat len 0 d.detail.toNat
  let q := s.cq x.cq
  if q.st ≠ .enabled then s else (s.setCq x.cq { q with owed := q.owed ++ [rcd] }).cqOwed env x.cq (q.owed.length + 1)

/-- One unit of a ring. -/
def Dev.readUnit (s : Dev) (env : Env) (r : Nat) (p : BitVec 32) : Dev × Except Nat (BitVec 512) :=
  let x := s.ring r
  match s.ringRead env (ringPart r) x.base (bits x.base 63 12 * 4096 + p.toNat % x.size * 64) 64 with
  | (s, .ok b) => (s, .ok (BitVec.ofNat 512 (ofLe b)))
  | (s, .error st) => (s, .error st)

/-- What reading the continuation units of an entry gives. -/
inductive UnitsOut where
  | ok (l : List (BitVec 512))
  | torn
  | mismatch (k : Nat)
  | fault (st : Nat)

/-- R83: the continuation units k to n − 1. -/
def Dev.readRest (s : Dev) (env : Env) (r : Nat) (p : BitVec 32) : Nat → Nat → List (BitVec 512) → Dev × UnitsOut
  | 0, _, acc => (s, .ok acc)
  | left + 1, k, acc =>
    match s.readUnit env r (p + BitVec.ofNat 32 k) with
    | (s, .error st) => (s, .fault st)
    | (s, .ok u) =>
      if bits u 0 0 != phaseAt (sizeLog2 (s.ring r).cfg) (p + BitVec.ofNat 32 k).toNat then (s, .torn)
      else if bits u 4 1 != k then (s, .mismatch k)
      else s.readRest env r p left (k + 1) (acc ++ [u])

/-- R83: the scan of a ring from fetch_pos. It ends at a unit not owned, at a torn entry, in an error, or waits where
the prefetch limit or the shared pool is full. -/
def Dev.scanLoop : Nat → Dev → Env → Nat → Dev
  | 0, s, _, _ => s
  | fuel + 1, s, env, r =>
    let x := s.ring r
    let p := x.fetchPos
    let ended := fun (s : Dev) =>
      let x := s.ring r
      s.setRing r { x with scanning := x.dbPending, dbPending := false, changed := if x.torn then x.changed else [] }
    match s.readUnit env r p with
    | (s, .error st) => s.ringError env r 0x03 p 0 { status := BitVec.ofNat 8 st }
    | (s, .ok h) =>
      if bits h 0 0 != phaseAt (sizeLog2 x.cfg) p.toNat then ended s
      else
        let n := lenOf (bits h 7 4)
        if x.prefetch < x.fetched + n || 65536 < s.cachedUnits + n then s
        else match s.readRest env r p (n - 1) 1 [h] with
          | (s, .torn) =>
            ended (s.setRing r { s.ring r with
              torn := true
              tornTries := if x.torn then x.tornTries else 0
              tornAt := s.now + 1024000 })
          | (s, .mismatch k) =>
            s.ringError env r 0x02 p h (malformed 0x02 (64 * k))
          | (s, .fault st) => s.ringError env r 0x03 p h { status := BitVec.ofNat 8 st }
          | (s, .ok units) =>
            if bits h 47 32 != x.fetchSeq.toNat then s.ringError env r 0x01 p h (malformed 0x01 4)
            else
              let ent : Entry := { pos := p, seq := x.fetchSeq, units := units }
              let ent := { ent with scoreChanged := decide (ent.cls = .chord) && x.changed.contains ent.slot }
              let s := s.setRing r { s.ring r with
                taken := x.taken ++ [ent]
                fetchPos := p + BitVec.ofNat 32 n
                fetchSeq := x.fetchSeq + 1
                torn := false
                tornTries := 0 }
              let s := s.folEvent 0x03 (ringPart r) (ent.attrs r)
                (leBytes 2 r ++ zeros 2 ++ leBytes 4 p.toNat ++ zeros 8 ++ units.flatMap fun u => leBytes 64 u.toNat)
              Dev.scanLoop fuel s env r

/-- A ring that may fetch: ENABLED, not held, no discard, and not in replay. -/
def Dev.mayFetch (s : Dev) (r : Nat) : Bool :=
  let x := s.ring r
  decide (x.st = .enabled) && !x.held && !x.discarding && !s.det.replay && !s.inReset Reg.ringSel &&
  decide ((s.ptn (ringPart r)).st ≠ .resetting)

/-- A scan that is due runs; then the entry at the launch point is checked (R90). -/
def Dev.scan (s : Dev) (env : Env) (r : Nat) : Dev :=
  let s := s.enter env
  if (s.ring r).scanning && s.mayFetch r then ((s.scanLoop 300 env r).settleHead 256 env r).settle else s

/-- R84: the timed re-read of a torn entry. Where the entry is whole the scan goes on, and waits where a limit is met (R87). -/
def Dev.rereadTorn (s : Dev) (env : Env) (r : Nat) : Dev :=
  let s := s.enter env
  let x := s.ring r
  if x.torn && !x.scanning && x.tornTries < 16 && x.tornAt ≤ s.now && s.mayFetch r then
    let s := s.setRing r { x with scanning := true, tornTries := x.tornTries + 1 }
    ((s.scanLoop 300 env r).settleHead 256 env r).settle
  else s

/-! ### Doorbells (R28, R82) -/

/-- One doorbell of ring r. -/
def Dev.ringDoorbell (s : Dev) (r src : Nat) : Dev :=
  let x := s.ring r
  if s.det.replay then s
  else
    let s := s.folEvent 0x02 (ringPart r) [(0, ringPart r), (1, r)] (leBytes 2 r ++ leBytes 1 src ++ zeros 13)
    let x := { x with doorbells := satAdd x.doorbells 1 }
    if x.st ≠ .enabled then s.setRing r x
    else if x.held || x.discarding || x.scanning then s.setRing r { x with dbPending := true }
    else s.setRing r { x with scanning := true }

/-! ### Ring commands (R88, R99, R100, R93) -/

/-- The selection registers of a view: the physical function and the register port share one; each virtual function
has its own (R101, R186). -/
def selKey (v : View) (off : Nat) : Nat :=
  match v with
  | .vf n => off + (n.val + 1) * 2 ^ 24
  | _ => off

def Dev.sel (s : Dev) (v : View) (off : Nat) : Word := s.reg (selKey v off)
def Dev.selRing (s : Dev) (v : View) : Nat := bits (s.sel v Reg.ringSel) 13 0
def Dev.selKind (s : Dev) (v : View) : Bool := bit (s.sel v Reg.ringSel) 16

/-- R186: a virtual function's view reaches its own partition's rings, counters, connections and key slots only; the register
at `off` acts on what the view has selected. -/
def Dev.selOwned (s : Dev) (v : View) (off : Nat) : Bool :=
  match v with
  | .vf n =>
    if off = Reg.ringCtr then bits (s.sel v Reg.ringCtrSel) 15 10 == n.val
    else if off / 2 ^ 18 = 2 then ringPart (s.selRing v) == n.val
    else if off / 2 ^ 16 = 0x0C then s.connPart (bits (s.sel v Reg.connSel) 19 0) == some n.val
    else if off / 2 ^ 16 = 0x0D then s.keyPart (bits (s.sel v Reg.keySel) 21 0) == some n.val
    else true
  | _ => true

/-- A write to a register of what a view has selected, ignored with a record where that is another partition's. -/
def Dev.owned (s : Dev) (v : View) (off : Nat) (w : Word) (f : Dev → Dev) : Dev :=
  s.gated v off w fun s => if s.selOwned v off then f s else s.hostErr v off 0x04 w

/-- R88: the discard of a ring's entries starts. -/
def Dev.ringInval (s : Dev) (r : Nat) (resume : Bool) : Dev :=
  let x := s.ring r
  if x.st ≠ .enabled then s
  else s.setRing r { x with discarding := true, resumeAfter := resume, scanning := false }

/-- R88: RESUME clears HELD, in any state, and starts a scan, which only an ENABLED ring makes. -/
def Dev.ringResumeCmd (s : Dev) (r : Nat) : Dev :=
  let x := s.ring r
  if x.st ≠ .enabled then s.setRing r { x with held := false }
  else if x.discarding then s.setRing r { x with resumeAfter := true }
  else s.setRing r { x with held := false, scanning := true, dbPending := false }

/-- The chord slots changed under commands of the ring that a later scan reads, those of discarded entries among them (R66). -/
def Ring.marked (x : Ring) : List Nat := x.changed ++ ((x.taken.filter (·.scoreChanged)).map Entry.slot)

/-- R88, R99: the discard of a ring's unlaunched entries is complete. -/
def Dev.discardDone (s : Dev) (r : Nat) : Dev :=
  let x := s.ring r
  if !x.discarding then s
  else
    let pos := BitVec.ofNat 32 (bits x.head 31 0)
    let seq := BitVec.ofNat 16 (bits x.head 47 32)
    let x := { x with taken := [], discarding := false, fetchPos := pos, fetchSeq := seq, torn := false, changed := x.marked }
    match x.st with
    | .enabled =>
      if x.resumeAfter then s.setRing r { x with held := false, resumeAfter := false, scanning := true, dbPending := false }
      else s.setRing r { x with held := true }
    | .disabling => (s.setRing r { x with st := .disabled, start := x.head, held := false }).settle
    | _ => (s.setRing r x).settle

/-- Table 4.6: the checks of ENABLE that concern the ring's memory: TARGET, then SIZE. -/
def Dev.ringPlaceBad (s : Dev) (part : Nat) (base cfg : Word) (lo hi unit : Nat) : Option Byte :=
  let k := sizeLog2 cfg
  let a := bits base 63 12 * 4096
  let tgtBad : Bool := match bits base 11 10 with
    | 0 => false
    | 1 => decide ((s.trayPort (bits base 9 8)).st ≠ .up)
    | 2 => !s.inShare part a (2 ^ k * unit)
    | _ => true
  if tgtBad then some 0x03 else if k < lo || hi < k then some 0x04 else none

/-- R99: RING_CTL ENABLE of a work ring. -/
def Dev.enableRing (s : Dev) (r : Nat) : Dev :=
  let x := s.ring r
  let part := ringPart r
  let code : Byte :=
    if x.st ≠ .disabled then 0x01
    else if !s.ringHeld r then 0x02
    else match s.ringPlaceBad part x.base x.cfg 6 20 64 with
      | some c => c
      | none =>
        if ringPart x.cq != part || decide ((s.cq x.cq).st ≠ .enabled) then 0x05
        else if (s.ptn part).st.refuses then 0x06 else 0
  if code ≠ 0 then s.setRing r { x with enableResult := code }
  else s.setRing r { x with
    st := .enabled, enableResult := 0, errCode := 0, held := false, torn := false, dbPending := false,
    scanning := true, discarding := false, resumeAfter := false, head := x.start, taken := [],
    fetchPos := BitVec.ofNat 32 (bits x.start 31 0), fetchSeq := BitVec.ofNat 16 (bits x.start 47 32) }

/-- R99: RING_CTL DISABLE of a work ring. -/
def Dev.disableRing (s : Dev) (r : Nat) : Dev :=
  let x := s.ring r
  match x.st with
  | .enabled => s.setRing r { x with st := .disabling, discarding := true, scanning := false, resumeAfter := false }
  | .error | .hostLost =>
    s.setRing r { x with st := .disabled, start := x.head, taken := [], discarding := false, held := false, torn := false }
  | _ => s

/-- R100: RING_CTL ENABLE of a completion ring. The last head read counts as RING_START.POS then, the ring as empty (DESIGN
CHOICE: R97 states no value before the first read). -/
def Dev.enableCq (s : Dev) (q : Nat) : Dev :=
  let x := s.cq q
  let part := ringPart q
  let code : Byte :=
    if x.st ≠ .disabled then 0x01
    else if !s.cqHeld q then 0x02
    else match s.ringPlaceBad part x.base x.cfg 7 22 32 with
      | some c => c
      | none => if (s.ptn part).st.refuses then 0x06 else 0
  if code ≠ 0 then s.setCq q { x with enableResult := code }
  else
    let t := BitVec.ofNat 32 (bits x.start 31 0)
    s.setCq q { x with
      st := .enabled, enableResult := 0, errCode := 0, tail := t, head := t, reserved := 0, owed := [], rereadAt := none }

/-- R100: RING_CTL DISABLE of a completion ring, ignored while a bound work ring is not DISABLED. -/
def Dev.disableCq (s : Dev) (v : View) (q : Nat) (w : Word) : Dev :=
  if s.rings.any (fun p => p.2.cq == q && decide (p.2.st ≠ .disabled)) then s.hostErr v Reg.ringCtl 0x02 w
  else s.setCq q { s.cq q with st := .disabled }

/-- A write of RING_CTL (R99, R100, R101). -/
def Dev.ringCtl (s : Dev) (v : View) (w : Word) : Dev :=
  match bits w 7 0 with
  | 0x00 => s
  | 0x01 => if s.selKind v then s.enableCq (s.selRing v) else s.enableRing (s.selRing v)
  | 0x02 => if s.selKind v then s.disableCq v (s.selRing v) w else s.disableRing (s.selRing v)
  | _ => s.hostErr v Reg.ringCtl 0x03 w

/-- A write of RING_CTR to the counter that RING_CTR_SEL selects (R93, Table 4.15). -/
def Dev.writeCtr (s : Dev) (v : View) (w : Word) : Dev :=
  s.setCtr (bits (s.sel v Reg.ringCtrSel) 15 0) { value := BitVec.ofNat 48 (bits w 47 0), failed := bit w 63 }

/-! ### The completion head location (R97) -/

/-- The device's read of the head location of completion ring q. -/
def Dev.readHead (s : Dev) (env : Env) (q : Nat) : Dev :=
  let x := s.cq q
  match s.ringRead env (ringPart q) x.base (bits x.headAddr 63 3 * 8) 4 with
  | (s, .error _) => s.cqFail q 0x03
  | (s, .ok b) =>
    let h := BitVec.ofNat 32 (ofLe b)
    let x := s.cq q
    let bad := x.size < (x.tail - h).toNat
    let s := if bad then s.postErr Reg.ringSel 0x04 0x10 (q + at_ 16 1 + at_ 32 h.toNat) 1 (some (ringPart q)) else s
    let x := if bad then x else { x with head := h }
    (s.setCq q { x with rereadAt := if x.free then none else some (s.now + 1024000) }).cqOwed env q x.owed.length

/-- The read is due once reservations reach size − (tail − last head read). -/
def Dev.cqHeadDue (s : Dev) (env : Env) (q : Nat) : Dev :=
  let s := s.enter env
  let x := s.cq q
  if decide (x.st = .enabled) && !x.free && x.rereadAt.isNone then s.readHead env q else s

/-- The re-read, 1 µs of Ruling time after the last read that found too few free slots, while launches wait for one. -/
def Dev.cqHeadAgain (s : Dev) (env : Env) (q : Nat) : Dev :=
  let s := s.enter env
  let x := s.cq q
  match x.rereadAt with
  | some t => if decide (x.st = .enabled) && t ≤ s.now && s.cqWanted q then s.readHead env q else s
  | none => s

end Sys2Proof.Machine
end

