-- ==== Sys2Proof/Machine/Conn.lean ====
section
/-! DEFINITION. Reliable connections: contexts, the sending side, acknowledgements, ending a connection
(chapters 6, 7 and 14). -/

namespace Sys2Proof.Machine

/-- R124: psn_diff. -/
def psnDiff (a b : BitVec 32) : Int := sext 32 (a - b).toNat

/-! CONN_CFG (Table 6.16). -/
def Dev.lifetime (s : Dev) : Nat := bits (s.reg Reg.connCfg) 63 48
def Dev.ackDelay (s : Dev) : Nat := bits (s.reg Reg.connCfg) 47 32
def Dev.reorderThresh (s : Dev) : Nat := min 128 (max 1 (bits (s.reg Reg.connCfg) 23 16))
def Dev.ackCoalesce (s : Dev) : Nat := let n := bits (s.reg Reg.connCfg) 15 8; if n == 0 then 256 else n

/-- CONN_DROPS reasons (Table 6.12). -/
def Dev.dropConn (s : Dev) (k : Nat) : Dev := s.bump (Reg.connDrops k)

/-- The FOL_SCOPE attributes of a connection's packets. -/
def Dev.connAttrs (s : Dev) (c : Nat) : List (Nat × Nat) := match s.connPart c with | some n => [(0, n)] | none => []

/-! ### Sending: queueing a message (R119, R133) -/

/-- The header of a connection packet, PSN and checksum aside. -/
def Dev.connHdr (s : Dev) (c : Nat) (ptype plen : Nat) (flags : List (Nat × Nat)) : BitVec 512 :=
  let x := s.conn c
  mkHdr ([(0, x.peerNode), (32, s.node), (64, ptype), (76, x.tc), (115, b2n x.enc), (120, plen), (136, x.peerConn),
    (212, c)] ++ flags)

/-- The packets of a message of `len` bytes, each with its index, first address and length. -/
def packetsOf (len : Nat) : List (Nat × Nat) :=
  let n := max 1 (ceilDiv len 4096)
  (List.range n).map fun i => (i, min 4096 (len - i * 4096))

/-- A data message queued on a connection's send direction. `aux` is AUX of the first packet, `auxAll` of every one. -/
def Dev.sendData (s : Dev) (c ptype : Nat) (src : BitVec 32 × Word) (len rkey raddr aux auxAll : Nat) (rsig sys : Bool)
    (op : Option (Nat × BitVec 32)) (req : Option (BitVec 32)) : Dev :=
  let x := s.conn c
  let n := max 1 (ceilDiv len 4096)
  let mk := fun (p : Nat × Nat) =>
    let first := p.1 == 0
    let last := p.1 + 1 == n
    ({ hdr := s.connHdr c ptype p.2 [(113, b2n first), (114, b2n last), (116, b2n rsig), (117, b2n sys), (118, b2n last),
         (192, p.1), (232, if first then n else 0), (256, rkey), (288, (raddr + p.1 * 4096) % 2 ^ 64),
         (352, if first then aux else auxAll)]
       src := if p.2 = 0 then .empty else .mem src.1 (src.2 + BitVec.ofNat 64 (p.1 * 4096))
       sys := sys, op := op, req := req, at_ := s.rlg.time } : TxPkt)
  s.setConn c { x with tx := x.tx ++ (packetsOf len).map mk }

/-- A one-packet message whose payload the device holds. -/
def Dev.sendImm (s : Dev) (c ptype : Nat) (body : List Byte) (rkey raddr aux : Nat) (sys : Bool)
    (op : Option (Nat × BitVec 32)) (req : Option (BitVec 32)) : Dev :=
  let x := s.conn c
  let t : TxPkt := {
    hdr := s.connHdr c ptype body.length [(113, 1), (114, 1), (117, b2n sys), (118, 1), (232, 1), (256, rkey),
      (288, raddr % 2 ^ 64), (352, aux)]
    src := .imm body, sys := sys, op := op, req := req, at_ := s.rlg.time }
  s.setConn c { x with tx := x.tx ++ [t] }

/-! ### Acknowledgements (Table 6.4, R126, R129, R130) -/

/-- What a reply to a packet echoes. -/
def Arrival.echo (a : Arrival) (p : Packet) : Echo :=
  { stamp := BitVec.ofNat 32 p.stamp, owd := if (a.oneWay p).2 then (a.oneWay p).1 else 0xFFFFFF, retx := p.retx, valid := p.stampValid }

/-- PSNs of accepted packets whose writes are still to become visible at the scope their SYSTEM bit asks for (R130): on tray
ports, and through flushes of host memory. -/
def Dev.unseen (s : Dev) (c : Nat) : List (BitVec 32) :=
  let placed := fun (r : TrayReq) => 4 ≤ r.msg.opc && r.who % 2 == 1 && r.who / 2 ^ 33 == c && r.owes r.sys
  ((s.conn c).ackHold.map (·.1)) ++ s.tray.flatMap fun p =>
    (p.2.reqs.filter placed).map fun r => BitVec.ofNat 32 (r.who / 2 % 2 ^ 32)

/-- RCV_NXT and RCV_MAP as an ACK may report them (R130): up to the first packet that is not visible yet, and nothing beyond it. -/
def Dev.ackView (s : Dev) (c : Nat) : BitVec 32 × BitVec 128 :=
  let x := s.conn c
  let l := s.unseen c
  let d := l.foldl (fun d p => min d (psnDiff p x.rcvNxt)) 0
  if d < 0 then (x.rcvNxt + BitVec.ofInt 32 d, 0)
  else (x.rcvNxt, l.foldl (fun m p => m &&& ~~~(1#128 <<< ((p - x.rcvNxt).toNat - 1))) x.rcvMap)

/-- The fields that an ACK and a NAK share. -/
def Dev.replyHdr (s : Dev) (c : Nat) (e : Echo) (ptype dst dconn : Nat) (fs : List (Nat × Nat)) : BitVec 512 :=
  let x := s.conn c
  mkHdr ([(0, dst), (32, s.node), (64, ptype), (76, x.tc), (136, dconn), (160, (s.ackView c).1.toNat),
    (192, e.stamp.toNat), (224, min 63 x.ecnCount.toNat), (230, b2n e.valid), (231, b2n e.retx), (232, e.owd.toNat)] ++ fs)

/-- What a connection has placed is acknowledged (R199). -/
def Dev.placesAcked (s : Dev) (c : Nat) : Dev :=
  match s.connPart c with
  | some n => s.setPtn n { s.ptn n with reach := (s.ptn n).reach ||| (s.conn c).reach }
  | none => s

/-- An ACK with RCV_NXT and RCV_MAP as they may be reported. -/
def Dev.ackNow (s : Dev) (c : Nat) : Dev :=
  let x := s.conn c
  let v := s.ackView c
  let h := s.replyHdr c x.echo 0x07 x.peerNode x.peerConn [(256, v.2.toNat)]
  let s := (s.placesAcked c).setConn c { x with
    ackPending := 0, ecnCount := 0, ackSince := none, ackOwed := x.ackOwed.filter fun p => psnDiff v.1 p < 0 }
  s.queueControl (some c) { hdr := h }

/-- An ACK with the current RCV_NXT and RCV_MAP; one that waits for visibility is owed (R130). -/
def Dev.sendAck (s : Dev) (c : Nat) : Dev :=
  let x := s.conn c
  if s.ackView c = (x.rcvNxt, x.rcvMap) then s.ackNow c
  else s.setConn c { x with ackOwed := x.ackOwed.filter (· != x.rcvNxt) ++ [x.rcvNxt] }

/-- A NAK for a packet, at most one per PSN in 1 µs (R129). `e` echoes the packet that prompted it; where none did, it says
so (DESIGN CHOICE). -/
def Dev.sendNak (s : Dev) (c : Nat) (e : Echo) (dst dconn : Nat) (psn : BitVec 32) (code arg : Nat) : Dev :=
  let x := s.conn c
  let again : Bool := match tfind x.nakAt psn.toNat with
    | some t => (s.rlg.time - t).toNat < 1024000
    | none => false
  if again then s
  else
    let keep := x.nakAt.filter fun p => (s.rlg.time - p.2).toNat < 1024000
    let h := s.replyHdr c e 0x08 dst dconn [(256, code), (288, arg % 2 ^ 32), (320, psn.toNat)]
    let s := s.setConn c { x with nakAt := tput keep psn.toNat s.rlg.time }
    (s.bump Reg.connNakTx).queueControl (some c) { hdr := h }

/-! ### Ending a connection (R122, Table 6.6) -/

/-- The entry whose message holds a PSN. -/
def Op.ownsPsn (o : Op) (psn : BitVec 32) : Bool := o.started && (psn - o.psn).toNat < o.count

def connStatusDetail (c : Nat) (psn : BitVec 32) : Nat := c + at_ 20 psn.toNat

/-- A RECV whose buffer an incomplete SEND message matched. -/
def Dev.finishRecv (s : Dev) (b : PoolBuf) (d : Done) : Dev := s.finish b.ring b.pos d

/-- R92, Table 5.5: DETAIL of DEPENDENCY_FAILED. -/
def Entry.depDetail (e : Entry) : Word := BitVec.ofNat 64 (if e.waitEn then e.waitIdx else 0)

/-- R108: the RSIG increment of a message that fails at its receiver. -/
def Dev.rsigFail (s : Dev) (m : MsgRec) : Dev :=
  match m.rsig with
  | some (part, i) => if i < s.ctrsOf part then s.ctrSignal part i true else s
  | none => s

/-- R122: a connection ends in state `st` with a status. `cause` is the PSN named, with the detail of the entry that
owns it. Every launched entry of the connection completes, and so does a RECV its SEND had matched. -/
def Dev.endConn (s : Dev) (c : Nat) (st : ConnSt) (status : Nat) (cause : Option (BitVec 32)) (detail : Nat) : Dev :=
  let x := s.conn c
  let mine := s.ops.filter fun o => decide (o.entry.cls = .conn) && o.conn == c && o.fin.isNone
  let s := mine.foldl (fun s o =>
    let named := cause.any o.ownsPsn || (cause.any fun p => x.readPsn.any fun r => r.1 == p && o.is r.2.1 r.2.2)
    let got := if status == stAuth then 0 else o.respBytes
    if named then
      s.finish o.ring o.entry.pos { status := BitVec.ofNat 8 status, detail := BitVec.ofNat 64 detail, bytes := BitVec.ofNat 64 got }
    else
      s.finish o.ring o.entry.pos { status := BitVec.ofNat 8 stDependency, detail := o.entry.depDetail, bytes := BitVec.ofNat 64 got })
    s
  let s := x.msgs.foldl (fun s m => match m.recv with
    | some b => s.finishRecv b { status := BitVec.ofNat 8 status, detail := BitVec.ofNat 64 detail }
    | none => s) s
  let s := s.postErr Reg.connSel 0x05 status (c + at_ 20 ((cause.getD x.sndUna).toNat)) 2 (s.connPart c)
  (s.unwait fun w => w % 2 == 1 && w / 2 ^ 33 == c).setConn c { x with
    st := st, errStatus := BitVec.ofNat 8 status, tx := [], msgs := [], rob := [], wait := none, rtoDeadline := 0,
    readPsn := [], atomics := [], recvBuf := {}, blotting := [], blotEnd := 0, ackSince := none, ackHold := [], ackOwed := [],
    sendHeld := false, atomicOut := 0, rnrActive := false }

/-- The DETAIL of a connection's own failure (Table 5.5): the connection and its oldest unacknowledged PSN. -/
def Dev.ownDetail (s : Dev) (c : Nat) : Nat := connStatusDetail c (s.conn c).sndUna

/-! ### The window (R142 to R144) -/

def Dev.ccCfg0 (s : Dev) (x : Conn) : Word := s.st (Reg.schCcCfg0 x.tc)
def Dev.ccCfg1 (s : Dev) (x : Conn) : Word := s.st (Reg.schCcCfg1 x.tc)
def Dev.cwndMin (s : Dev) (x : Conn) : Nat := max 1 (bits (s.ccCfg0 x) 15 0) * 64
def Dev.cwndMax (s : Dev) (x : Conn) : Nat := min 65536 (bits (s.ccCfg1 x) 16 0) * 4096
def Dev.ccEn (s : Dev) (x : Conn) : Bool := bit (s.ccCfg1 x) 32

/-- R144: CWND brought within its bounds; the floor wins where they cross. -/
def Dev.clampCwnd (s : Dev) (x : Conn) (w : Nat) : Nat := max (s.cwndMin x) (min w (s.cwndMax x))

/-- R143: on_ack. -/
def Dev.onAck (s : Dev) (x : Conn) (ackedP ackedB ecn owd : Nat) : Conn :=
  let now := s.rlg.time
  let cwnd := s.clampCwnd x x.cwnd.toNat
  let owdOk := owd != 0xFFFFFF
  let window := max 1 (bits (s.ccCfg1 x) 31 24) * 1000000 * 1024
  let fresh := window ≤ (now - x.baseAt).toNat || x.baseOwd == 0xFFFFFF
  let base := if !owdOk then x.baseOwd.toNat else if fresh then owd else min x.baseOwd.toNat owd
  let baseAt := if owdOk && fresh then now else x.baseAt
  let frac := min 0xFFFF (ecn * 65536 / max 1 ackedP)
  let alpha := ((x.alpha.toNat : Int) + Int.tdiv ((frac : Int) - x.alpha.toNat) 16).toNat
  let target := bits (s.ccCfg0 x) 47 32
  let late := owdOk && base + target < owd
  let hot := 0 < ecn || late
  let x := { x with
    inflight := BitVec.ofNat 32 (x.inflight.toNat - ackedB)
    markCount := BitVec.ofNat 32 (min (x.markCount.toNat + ecn) 0xFFFFFFFF)
    baseOwd := BitVec.ofNat 24 base
    baseAt := baseAt
    lastOwd := if owdOk then BitVec.ofNat 24 owd else x.lastOwd
    alpha := BitVec.ofNat 16 alpha
    cwnd := BitVec.ofNat 32 cwnd }
  if hot then
    if x.srtt.toNat ≤ (now - x.lastDec).toNat then
      let fe := if 0 < ecn then alpha / 2 else 0
      let fd := if late then min 0x8000 (0xCCCD * (owd - base - target) / owd) else 0
      let f := max fe fd
      { x with
        cwnd := BitVec.ofNat 32 (max (s.cwndMin x) (cwnd - cwnd * f / 65536))
        lastDec := now
        aiAcc := 0
        decCount := BitVec.ofNat 32 (min (x.decCount.toNat + 1) 0xFFFFFFFF) }
    else x
  else
    let acc := (x.aiAcc.toNat + ackedB) % 2 ^ 32
    if cwnd ≤ acc then
      { x with
        aiAcc := BitVec.ofNat 32 (acc - cwnd)
        cwnd := BitVec.ofNat 32 (max (s.cwndMin x) (min (s.cwndMax x) (cwnd + bits (s.ccCfg0 x) 31 16 * 64))) }
    else { x with aiAcc := BitVec.ofNat 32 acc }

/-- R131: the smoothing of a round-trip sample of `m` ru. -/
def rttSample (x : Conn) (m : Nat) : Conn :=
  let first := x.srtt == 0
  let srtt0 : Int := x.srtt.toNat
  let var0 : Int := x.rttvar.toNat
  let var := if first then (m : Int) / 2 else var0 + Int.tdiv ((((m : Int) - srtt0).natAbs : Int) - var0) 4
  let srtt := if first then (m : Int) else srtt0 + Int.tdiv ((m : Int) - srtt0) 8
  let rto := max (x.rtoMin : Int) (min (x.rtoMax : Int) (srtt + 4 * var))
  { x with srtt := BitVec.ofInt 48 srtt, rttvar := BitVec.ofInt 48 var, rto := BitVec.ofInt 48 rto }

/-! ### Reactions of the sender (Table 6.8) -/

/-- Whether a PSN is set in SACK_TX. -/
def Conn.sacked (x : Conn) (psn : BitVec 32) : Bool :=
  let d := (psn - x.sndUna).toNat
  0 < d && d ≤ 128 && bit x.sackTx (d - 1)

/-- An entry whose request is acknowledged and whose response, where it has one, is complete. -/
def Dev.connOpDone (s : Dev) (o : Op) : Dev :=
  let w := o.entry.opcode == 0x10 || o.entry.opcode == 0x12
  if o.fin.isSome || !o.acked || !(w || o.respDone) then s
  else match o.respFault with
    | some (st, d) => s.finish o.ring o.entry.pos { status := st, detail := d, bytes := BitVec.ofNat 64 o.respBytes }
    | none =>
      let n := if w then o.entry.length else if o.entry.opcode == 0x11 then o.respBytes else 8
      s.finish o.ring o.entry.pos { bytes := BitVec.ofNat 64 n }

/-- The packets an ACK acknowledges cumulatively leave the connection; their entries note it. -/
def Dev.ackedOne (s : Dev) (t : TxPkt) : Dev :=
  match t.op with
  | none => s
  | some (r, pos) =>
    let last := bit t.hdr 114
    let s := s.setOp r pos fun o => { o with
      acked := o.acked || last
      respBytes := if o.entry.opcode == 0x10 || o.entry.opcode == 0x12 then o.respBytes + bits t.hdr 132 120 else o.respBytes }
    match s.op? r pos with
    | some o => s.connOpDone o
    | none => s

/-- A hole with enough later PSNs acknowledged selectively is due again, once per RTO. -/
def Dev.markHoles (s : Dev) (x : Conn) : Conn :=
  let later := fun (psn : BitVec 32) => (x.tx.filter fun t => t.sent && x.sacked t.psn && 0 < psnDiff t.psn psn).length
  { x with tx := x.tx.map fun t =>
      let waited := match t.holeAt with
        | none => true
        | some h => x.rto.toNat ≤ (s.rlg.time - h).toNat
      if t.sent && !t.due && !x.sacked t.psn && s.reorderThresh ≤ later t.psn && waited then
        { t with due := true, holeAt := some s.rlg.time }
      else t }

/-- R131, R445: a received ACK. -/
def Dev.rxAck (s : Dev) (c : Nat) (p : Packet) : Dev :=
  let x := s.conn c
  let a := BitVec.ofNat 32 p.psn
  if psnDiff a x.sndUna < 0 || psnDiff x.sndNxt a < 0 then s.dropConn 8
  else
    let sack := BitVec.ofNat 128 (p.f 383 256)
    let x' := { x with sndUna := a, sackTx := sack }
    let gone := x.tx.filter fun t => t.sent && psnDiff t.psn a < 0
    let fresh := x.tx.filter fun t => t.sent && !t.acked && (psnDiff t.psn a < 0 || x'.sacked t.psn)
    let bytes := (fresh.map fun t => 64 + bits t.hdr 132 120).sum
    let left := x.tx.filter fun t => !(t.sent && psnDiff t.psn a < 0)
    let x1 := { x' with tx := left.map fun t => { t with acked := t.acked || t.sent && x'.sacked t.psn } }
    let ecn := p.f 229 224
    let x2 := if fresh.isEmpty then x1 else s.onAck x1 fresh.length bytes ecn (p.f 255 232)
    let rtt := (s.rlg.time.toNat / 1024 + 2 ^ 32 - p.f 223 192) % 2 ^ 32 * 1024
    let x3 := if !fresh.isEmpty && p.f 230 230 == 1 && p.f 231 231 == 0 then rttSample x2 rtt else x2
    let adv := a != x.sndUna
    let x4 := if adv then { x3 with
        retryCount := 0, rnrCount := 0, busyCount := 0,
        rtoDeadline := if a == x.sndNxt then 0 else s.rlg.time + BitVec.ofNat 64 x3.rto.toNat
        atomics := x3.atomics.filter fun r => !(gone.any fun t => t.req == some r.1 && bits t.hdr 71 64 == 6) } else x3
    let s1 := s.setConn c (s.markHoles x4)
    (gone.foldl (fun s t => s.ackedOne t) s1).settle

/-- The packets to send again, by a test on the PSN. -/
def Conn.resend (x : Conn) (f : BitVec 32 → Bool) : Conn :=
  { x with tx := x.tx.map fun t => if t.sent && f t.psn then { t with due := true } else t }

/-- The status a fatal NAK code stands for (Table 6.7). -/
def nakStatus (code : Nat) : Nat :=
  match code with
  | 0x04 => stKeyInvalid | 0x05 => stKeyBounds | 0x06 => stKeyRights | 0x07 => stTranslation | 0x08 => stPoison
  | 0x09 => stTarget | 0x0A => stAuth | 0x0B => stCipher | 0x0C => stQuiesced | _ => stPeer

/-- The NAK code of a status (Table 6.7). -/
def statusNak (st : Nat) : Nat :=
  if st == stKeyInvalid then 0x04 else if st == stKeyBounds then 0x05 else if st == stKeyRights then 0x06
  else if st == stTranslation then 0x07 else if st == stPoison then 0x08 else if st == stAuth then 0x0A
  else if st == stCipher then 0x0B else 0x09

/-- DETAIL of the entry a fatal NAK names (Table 5.5). -/
def Dev.nakDetail (s : Dev) (c code arg : Nat) (psn : BitVec 32) : Nat :=
  let key := if code == 0x09 then
      match s.ops.find? (fun o => o.conn == c && decide (o.entry.cls = .conn) && o.ownsPsn psn) with
      | some o => if o.entry.opcode == 0x12 then 0 else o.entry.rkey.toNat
      | none => 0
    else arg
  if 0x04 ≤ code && code ≤ 0x09 then key + at_ 32 1 + at_ 33 c
  else if code == 0x0A || code == 0x0B then connStatusDetail c psn
  else s.ownDetail c

/-- R445, Table 6.8: a received NAK. -/
def Dev.rxNak (s : Dev) (c : Nat) (p : Packet) : Dev :=
  let x := s.conn c
  let code := p.f 263 256
  let arg := p.f 319 288
  let psn := BitVec.ofNat 32 (p.f 351 320)
  let open_ := 0 ≤ psnDiff psn x.sndUna && psnDiff psn x.sndNxt < 0
  let req := x.readPsn.any fun r => r.1 == psn
  let s := s.setConn c { x with lastNak := BitVec.ofNat 8 code }
  let x := s.conn c
  if code == 0 || 0x0E ≤ code then s.dropConn 8
  else if !open_ && !(4 ≤ code && code ≤ 0x0C && req) then s.dropConn 8
  else if 4 ≤ code then
    (s.endConn c .error (nakStatus code) (some psn) (s.nakDetail c code arg psn)).settle
  else if code == 1 then
    let ok : Bool := match tfind x.seqRetxAt psn.toNat with
      | some t => x.srtt.toNat ≤ (s.rlg.time - t).toNat
      | none => true
    if ok then
      let x := x.resend (· == psn)
      s.setConn c { x with seqRetxAt := tput (x.seqRetxAt.filter fun r => x.srtt.toNat > (s.rlg.time - r.2).toNat) psn.toNat s.rlg.time }
    else s
  else if x.wait.isSome then s
  else if code == 2 then s.setConn c { x with wait := some (false, s.osc + nsTicks arg, psn) }
  else
    let e := x.sndHi.toNat * 2 ^ 32 + x.sndNxt.toNat
    let ep := e - (x.sndNxt - psn).toNat
    let r := (arx10 (s.ptnSeed ((s.connPart c).getD 0)) (BitVec.ofNat 64 c) (BitVec.ofNat 64 ep)).toNat % 2 ^ 32
    let ru := x.busyBase * 2 ^ min x.busyCount.toNat 6 * (2 ^ 32 + r) / 2 ^ 32
    s.setConn c { x with wait := some (true, s.osc + ceilDiv ru 8192, psn) }

/-- R142, R144: the window at a timer expiry. -/
def Dev.onExpiry (s : Dev) (x : Conn) : Conn :=
  { x with inflight := 0, cwnd := BitVec.ofNat 32 (s.clampCwnd x (s.cwndMin x)), lastDec := s.rlg.time }

/-- R131: a timer expiry. It waits for the connection's context (R138). -/
def Dev.timerExpiry (s : Dev) (c : Nat) : Dev :=
  let x := s.conn c
  if decide (x.st ≠ .active) || x.rtoDeadline == 0 || s.rlg.time.toNat < x.rtoDeadline.toNat then s
  else if !s.ctxCached c then let s := s.ctxWant c; s.setConn c { s.conn c with rtoDue := true }
  else if x.retryCount.toNat == x.retryLimit then
    let s := s.setConn c (s.onExpiry x)
    (s.endConn c .error (if x.refused then stPeer else stRetry) (some x.sndUna) (s.ownDetail c)).settle
  else
    let rto := min (2 * x.rto.toNat) x.rtoMax
    let x := s.onExpiry (x.resend fun psn => !x.sacked psn)
    s.setConn c { x with
      retryCount := x.retryCount + 1
      rto := BitVec.ofNat 48 rto
      rtoDeadline := s.rlg.time + BitVec.ofNat 64 rto }

/-- R131: the end of an RNR or CONTEXT_BUSY wait. It waits for the connection's context (R138). -/
def Dev.waitEnd (s : Dev) (c : Nat) (busy : Bool) : Dev :=
  let x := s.conn c
  match x.wait with
  | none => s
  | some (b, t, psn) =>
    if b != busy || s.osc < t || decide (x.st ≠ .active) then s
    else if !s.ctxCached c then let s := s.ctxWant c; s.setConn c { s.conn c with waitDue := true }
    else
      let n := if busy then x.busyCount.toNat + 1 else x.rnrCount.toNat + 1
      let lim := if busy then x.busyLimit else x.rnrLimit
      if lim != 255 && lim < n then
        (s.endConn c .error (if busy then stBusy else stRnr) (some psn) (s.ownDetail c)).settle
      else
        let x := x.resend fun q => 0 ≤ psnDiff q psn
        let k := BitVec.ofNat 8 (min n 255)
        s.setConn c { x with
          wait := none
          rnrCount := if busy then x.rnrCount else k
          busyCount := if busy then k else x.busyCount }

/-! ### Building a packet (R132, R142, R178, R300, R301) -/

/-- R300: the IV of a packet of a connection, `mine` where this device sends it. -/
def Dev.gcmIv (s : Dev) (c : Nat) (mine : Bool) (epsn : Nat) : List Byte :=
  let x := s.conn c
  let own := s.node * 2 ^ 20 + c
  let peer := x.peerNode * 2 ^ 20 + x.peerConn
  let d := if own < peer then 0 else 1
  let d := if mine then d else 1 - d
  leBytes 4 x.salt ++ leBytes 8 (epsn % 2 ^ 63 + at_ 63 d)

/-- R301: the additional data of a packet. -/
def gcmAad (h : BitVec 512) : List Byte := (hdrBytes (setHdr (hdrStill h) 119 118 0)).take 48

def Dev.cphEntry (s : Dev) (i : Nat) : Option (BitVec 256) := tget (fun _ => none) s.cph.keys i

/-- The packet with its payload encrypted and its tag in place. -/
def Dev.encryptPkt (s : Dev) (c : Nat) (epsn : Nat) (p : Packet) : Packet :=
  match s.cphEntry (s.conn c).cphKey with
  | none => p
  | some k =>
    let (ct, tag) := gcmEncrypt k (s.gcmIv c true epsn) (gcmAad p.hdr) p.payload
    { hdr := setHdr p.hdr 511 384 (ofLe tag), payload := ct }

/-- R142: the connection's window has room. -/
def Dev.windowOpen (s : Dev) (c : Nat) : Bool :=
  let x := s.conn c
  !s.ccEn x || x.inflight.toNat < x.cwnd.toNat || x.inflight == 0

/-- The next packet of a connection that waits at its leaf: a retransmission first, else the next new one; none
where the connection sends nothing now (R124, R131). While a source of its own is missing it still sends responses (R178). -/
def Dev.nextTx (s : Dev) (c : Nat) : Option TxPkt :=
  let x := s.conn c
  let stalled : TxPkt → Bool := fun t => match t.op with | some (r, pos) => (s.op? r pos).any (·.stalled) | none => false
  if decide (x.st ≠ .active) || x.wait.isSome || x.blotEnd != 0 || !s.ctxCached c || s.markHeld c then none
  else match x.tx.find? (fun t => t.sent && t.due) with
    | some t => some t
    | none =>
      if x.sendHeld || 65536 ≤ (x.sndNxt - x.sndUna).toNat then none
      else match x.tx.find? fun t => !t.sent with
        | some t => if stalled t then x.tx.find? fun t => !t.sent && t.req.isSome else some t
        | none => none

/-- What building a packet gives. -/
inductive Built where
  | pkt (p : Packet)
  | wait
  | fault (status : Nat) (key : BitVec 32)

/-- A fault met when the source of an outgoing packet is read (R133, R178). The record names the PSN of that packet (DESIGN
CHOICE: the spec names none). -/
def Dev.sourceFault (s : Dev) (c : Nat) (t : TxPkt) (st : Nat) (key : BitVec 32) : Dev :=
  let x := s.conn c
  let detail := if st == stHostLost then s.hst.epoch.toNat else key.toNat
  match t.req, t.op with
    | some rq, _ =>
      let s := s.sendNak c {} x.peerNode x.peerConn rq (statusNak st) (if statusNak st ≤ 8 then key.toNat else 0)
      (s.endConn c (if st == stHostLost then .hostLost else .error) st none detail).settle
    | none, some (r, pos) =>
      let started := (s.op? r pos).any (·.started)
      let s := s.finish r pos { status := BitVec.ofNat 8 st, detail := BitVec.ofNat 64 detail,
                                bytes := BitVec.ofNat 64 (((s.op? r pos).map (·.respBytes)).getD 0) }
      if started then
        let psn := if t.sent then t.psn else x.sndNxt
        let s := s.postErr Reg.connSel 0x05 st (c + at_ 20 psn.toNat + at_ 52 1) 2 (s.connPart c)
        s.setConn c { s.conn c with sendHeld := true }
      else s.setConn c { s.conn c with tx := x.tx.filter fun u => u.op != some (r, pos) }
    | none, none => s

/-- The check of the source of a WRITE or SEND, at its first access (Table 8.4): the failing status, none where it passes or
has passed. -/
def Dev.sourceCheck (s : Dev) (o : Op) : Dev × Option Nat :=
  if o.checked || !(o.entry.opcode == 0x10 || o.entry.opcode == 0x12) then (s, none)
  else match s.keyCheck o.entry.lkey o.part o.entry.laddr o.entry.length rR with
    | (s, none) => (s.setOp o.ring o.entry.pos fun o => { o with checked := true }, none)
    | r => r

/-- Who reads the source of an outgoing packet: the entry it is of, or the packet it answers. -/
def TxPkt.who (t : TxPkt) (c : Nat) : Nat :=
  match t.op, t.req with
  | some (r, p), _ => opWho r p
  | none, some q => pktWho c q.toNat
  | none, none => 0

/-- The payload of an outgoing packet. -/
def Dev.txPayload (s : Dev) (env : Env) (c : Nat) (t : TxPkt) : Dev × Got :=
  let (s, bad) : Dev × Option Nat := match t.op.bind fun o => s.op? o.1 o.2 with
    | some o => s.sourceCheck o
    | none => (s, none)
  match bad with
  | some st => (s, .fault st)
  | none => match t.src with
    | .empty => (s, .ok [])
    | .imm b => (s, .ok b)
    | .mem key addr => s.regionRead env key addr.toNat (bits t.hdr 132 120) (t.who c)

/-- A record of the cipher class (R306, Table 21.6). Which lane of the pipeline disagreed is open. -/
def Dev.cipherErr (s : Dev) (code c psn key : Nat) (part : Option Nat) : Dev :=
  let (s, w) := s.draw
  s.postErr Reg.cphKeySel 0x0B code (c + at_ 20 psn + at_ 52 key + at_ 68 (bits w 3 0)) 2 part

/-- R306: the two pipelines disagree on a packet to be sent: it is not sent, and the connection ends. -/
def Dev.cipherTxFault (s : Dev) (c : Nat) (t : TxPkt) : Dev :=
  let x := s.conn c
  let psn := if t.sent then t.psn else x.sndNxt
  let s := (s.bump (Reg.cphCounts 3)).cipherErr 0x01 c psn.toNat x.cphKey (s.connPart c)
  (s.endConn c .error stCipher (some psn) (connStatusDetail c psn)).settle

/-- The packet `t` of a connection leaves: its payload is read, and the send state advances. The state after, and
the packet, where there is one to send. -/
def Dev.buildTx (s : Dev) (env : Env) (c : Nat) (t : TxPkt) : Dev × Option Packet :=
  let key := match t.src, t.op.bind fun o => s.op? o.1 o.2 with
    | .mem k _, _ => k
    | _, some o => o.entry.lkey
    | _, none => 0
  match s.txPayload env c t with
  | (s, .wait) => (match t.op with | some (r, p) => s.setOp r p fun o => { o with stalled := true } | none => s, none)
  | (s, .fault st) => (s.sourceFault c t st key, none)
  | (s, .ok body) =>
    if (s.conn c).enc && env.cipherFault then (s.cipherTxFault c t, none) else
    let x := s.conn c
    let psn := if t.sent then t.psn else x.sndNxt
    let hi := if psnDiff psn x.sndNxt < 0 && x.sndNxt.toNat < psn.toNat then x.sndHi - 1 else x.sndHi
    let h := setHdr (setHdr t.hdr 191 160 psn.toNat) 119 119 (b2n t.sent)
    let p : Packet := { hdr := h, payload := body }
    let p := if x.enc then s.encryptPkt c (hi.toNat * 2 ^ 32 + psn.toNat) p else sealIcrc p
    let t' := { t with psn := psn, sent := true, due := false }
    let ptype := bits t.hdr 71 64
    let nxt := x.sndNxt + 1
    let x := { x with
      tx := replaceFirst (fun u => u == t) (fun _ => t') x.tx
      sndNxt := if t.sent then x.sndNxt else nxt
      sndHi := if !t.sent && nxt == 0 then x.sndHi + 1 else x.sndHi
      inflight := BitVec.ofNat 32 (min (x.inflight.toNat + 64 + body.length) 0xFFFFFFFF)
      rtoDeadline := if x.rtoDeadline == 0 then s.rlg.time + BitVec.ofNat 64 x.rto.toNat else x.rtoDeadline
      refused := false
      readPsn := if !t.sent && (ptype == 3 || ptype == 5) then
          match t.op with | some (r, pos) => x.readPsn ++ [(psn, r, pos)] | none => x.readPsn
        else x.readPsn }
    let s := s.setConn c x
    let s := if x.enc then s.bump (Reg.cphCounts 0) else s
    let s := if t.sent then s.bump Reg.connRetx else s
    let s := match t.op with
      | some (r, pos) => s.setOp r pos fun o => { o with
          started := true, stalled := false, psn := if o.started then o.psn else psn }
      | none => s
    let s := match t.src with
      | .mem k a => s.folMem ((s.connPart c).getD 0) (s.connAttrs c ++ (t.op.map fun o => (1, o.1)).toList) k.toNat a.toNat body
      | _ => s
    (s, some p)

end Sys2Proof.Machine
end

