-- ==== Sys2Proof/Machine/ConnRx.lean ====
section
/-! DEFINITION. Receiving connection packets (R125 to R137, R303 to R305), and the commands of connections. -/

namespace Sys2Proof.Machine

/-! ### Fetches and holding (R138, R139, R163) -/

/-- Packets held in the miss-holding buffer. -/
def Dev.heldPackets (s : Dev) : Nat := (s.conns.map fun p => p.2.holding.length).sum
def Dev.heldBytes (s : Dev) : Nat := (s.conns.map fun p => (p.2.holding.map fun q => 64 + q.1.plen).sum).sum

/-- Request and data packets, which a receiver may refuse. -/
def isData (p : Packet) : Bool := 1 ≤ p.ptype && p.ptype ≤ 6
def isResponse (p : Packet) : Bool := p.ptype == 4 || p.ptype == 6

/-- A packet waits for a fetch; a request that finds the buffer full is refused with CONTEXT_BUSY. -/
def Dev.holdPkt (s : Dev) (c : Nat) (p : Packet) (a : Arrival) : Dev :=
  if isData p && !isResponse p && 2016 ≤ s.heldPackets then
    (s.bump Reg.connBusyTx).sendNak c (a.echo p) p.src p.sconn (BitVec.ofNat 32 p.psn) 0x03 0
  else
    let s := s.ctxWant c
    let s := s.setConn c { s.conn c with holding := (s.conn c).holding ++ [(p, a)] }
    let peak := max (s.count Reg.connHoldPeak).toNat s.heldBytes
    { s with cnt := tset (fun _ => 0) s.cnt Reg.connHoldPeak (BitVec.ofNat 64 peak) }

/-- R163: a packet waits for the fetch of a key entry. -/
def Dev.holdForKey (s : Dev) (c : Nat) (p : Packet) (a : Arrival) (slot : Nat) : Dev :=
  let l := s.xlt.keyFetch
  let s : Dev := { s with xlt := { s.xlt with keyFetch := if l.contains slot then l else l ++ [slot] } }
  s.holdPkt c p a

def Dev.keyCachedAt (s : Dev) (k : BitVec 32) : Bool := s.xlt.keyCached.contains (keyIndex k)

/-! ### Message records (R128, R135) -/

/-- The record of the message a packet belongs to. -/
def firstPsnOf (p : Packet) : BitVec 32 := BitVec.ofNat 32 p.psn - BitVec.ofNat 32 p.pktIdx

def Conn.msgOf (x : Conn) (p : Packet) : Option MsgRec := x.msgs.find? fun m => m.firstPsn == firstPsnOf p

def Conn.setMsg (x : Conn) (first : BitVec 32) (f : MsgRec → MsgRec) : Conn :=
  { x with msgs := if x.msgs.any (fun m => m.firstPsn == first) then replaceFirst (fun m => m.firstPsn == first) f x.msgs
                   else x.msgs ++ [f { firstPsn := first }] }

/-- A FIRST packet opens its record: PKT_COUNT, and what its completion raises. -/
def Dev.openMsg (_s : Dev) (x : Conn) (p : Packet) : Conn :=
  x.setMsg (firstPsnOf p) fun m => { m with
    count := BitVec.ofNat 21 (max 1 p.pktCount)
    ptype := BitVec.ofNat 8 p.ptype
    len := p.aux
    aux := BitVec.ofNat 32 p.aux
    sys := p.sys }

/-- R108: the counter that the message of a WRITE packet names, in the partition that owns its key. -/
def Dev.rsigOf (s : Dev) (p : Packet) : Option (Nat × Nat) :=
  if p.ptype == 1 && p.rsigEn then (s.keyPart (p.rkey % 2 ^ 22)).map fun n => (n, p.aux % 1024) else none

/-- The outstanding entry a response packet answers: a FIRST packet names it in AUX, and later packets belong to its message.
One that comes before its FIRST packet answers the oldest request with its destination to which no other message has come. -/
def Dev.respOp (s : Dev) (c : Nat) (p : Packet) : Option (BitVec 32 × Op) :=
  let x := s.conn c
  let opened := x.msgs.filter fun m => m.count != 0 && (m.ptype == 4 || m.ptype == 6)
  let mine := opened.find? fun m => m.firstPsn == firstPsnOf p
  let names := fun (rq : BitVec 32) =>
    if p.first then rq.toNat == p.aux
    else match mine with
      | some m => m.aux == rq
      | none => !opened.any fun m => m.aux == rq
  x.readPsn.findSome? fun r =>
    match s.op? r.2.1 r.2.2 with
    | none => none
    | some o =>
      let len := if p.ptype == 4 then o.entry.length else 8
      if names r.1 && (p.ptype == 4) == (o.entry.opcode == 0x11) && o.entry.lkey.toNat == p.rkey &&
        o.entry.laddr + p.pktIdx * 4096 == p.raddr && p.raddr + p.plen ≤ o.entry.laddr + len then some (r.1, o) else none

/-- What an accepted packet tells of its message: its type, the counter it signals, and whether its target is host memory. -/
def Dev.noteMsg (s : Dev) (c : Nat) (p : Packet) : Dev :=
  let answers := if isResponse p then s.respOp c p else none
  let key : Option (BitVec 32) := if p.ptype == 1 then some (BitVec.ofNat 32 p.rkey) else answers.map (·.2.entry.lkey)
  let host := key.any fun k => keyTarget (s.region k) == 0
  let rsig := s.rsigOf p
  s.setConn c ((s.conn c).setMsg (firstPsnOf p) fun m => { m with
    ptype := BitVec.ofNat 8 p.ptype, host := m.host || host, rsig := if m.rsig.isSome then m.rsig else rsig
    aux := if m.count != 0 then m.aux else (answers.map (·.1)).getD m.aux })

/-! ### Fatal refusals (R129, R305) -/

/-- A fatal refusal of a packet: its NAK, the RSIG increments with FAILED of the messages that fail with it (R108), and the
end of this side. A host loss raises no receive completion (Table 6.6). -/
def Dev.fatal (s : Dev) (c : Nat) (p : Packet) (a : Arrival) (status key : Nat) : Dev :=
  let code := statusNak status
  let s := s.sendNak c (a.echo p) p.src p.sconn (BitVec.ofNat 32 p.psn) code (if code ≤ 0x08 then key else 0)
  let lost := status == stHostLost
  let s := if lost then s else ((s.noteMsg c p).conn c).msgs.foldl (fun s m => s.rsigFail m) s
  (s.endConn c (if lost then .hostLost else .error) status none (if lost then s.hst.epoch.toNat else key)).settle

/-- R304: the ranges to overwrite with zeros, as Table 14.2 states. -/
def Dev.blotRanges (s : Dev) (c : Nat) : List (BitVec 32 × Word × Nat) :=
  let x := s.conn c
  x.msgs.flatMap fun m =>
    if m.ptype.toNat == 1 then m.blot
    else if m.ptype.toNat == 2 then (match m.recv with | some b => [(b.key, b.addr, m.len)] | none => [])
    else if m.ptype.toNat == 4 then
      match x.readPsn.find? (fun r => r.1 == m.aux) with
      | some r => match s.op? r.2.1 r.2.2 with
        | some o => [(o.entry.lkey, BitVec.ofNat 64 o.entry.laddr, o.entry.length)]
        | none => []
      | none => []
    else []

/-- R303, R304, R306: a refused tag or a cipher fault. The blot begins; what follows it waits for its end (R305). -/
def Dev.startBlot (s : Dev) (c : Nat) (p : Packet) (a : Arrival) (status : Nat) : Dev :=
  s.setConn c { s.conn c with
    rob := []
    blotting := s.blotRanges c
    blotEnd := BitVec.ofNat 8 status
    blotPsn := BitVec.ofNat 32 p.psn
    blotEcho := a.echo p }

/-- R22, R295, R303: the integrity check of an accepted packet: the packet to place, with its payload in clear. -/
inductive Checked where
  | good (p : Packet)
  | icrc
  | auth
  | cipher

def Dev.integrity (s : Dev) (env : Env) (c : Nat) (epsn : Nat) (p : Packet) (a : Arrival) : Checked :=
  let x := s.conn c
  if a.verified then .good p
  else if x.enc then
    if !p.enc then .auth
    else match s.cphEntry x.cphKey with
      | none => .auth
      | some k =>
        let (pt, ok) := gcmDecrypt k (s.gcmIv c false epsn) (gcmAad p.hdr) p.payload (leBytes 16 p.tag)
        if !ok then .auth else if env.cipherFault then .cipher else .good { p with payload := pt }
  else if p.enc || p.icrc != icrcConn p then .icrc
  else .good p

/-! ### Completion of messages (R108, R109, R134, R135) -/

/-- What completes when the last packet of a message has passed (R108, R109, R134). An RSIG_IDX at or above the partition's
CTRS signals nothing (DESIGN CHOICE: R108 does not state that case). -/
def Dev.raise (s : Dev) (c : Nat) (m : MsgRec) : Dev :=
  match m.ptype.toNat with
  | 1 => match m.rsig with
    | some (part, i) => if i < s.ctrsOf part then s.ctrSignal part i false else s
    | none => s
  | 2 => match m.recv with
    | some b => (s.setOp b.ring b.pos fun o => { o with scopeSys := m.sys }).finishRecv b { bytes := BitVec.ofNat 64 m.len }
    | none => s
  | 4 | 6 =>
    match (s.conn c).readPsn.find? (fun r => r.1 == m.aux) with
    | none => s
    | some r =>
      let x := s.conn c
      let s := s.setConn c { x with
        readPsn := x.readPsn.filter fun q => q.1 != r.1
        atomicOut := if m.ptype == 6 then x.atomicOut - 1 else x.atomicOut }
      let s := s.setOp r.2.1 r.2.2 fun o => { o with respDone := true }
      match s.op? r.2.1 r.2.2 with
      | some o => s.connOpDone o
      | none => s
  | _ => s

/-- R135: messages that RCV_NXT has passed are complete, oldest first, once all they placed is visible (R201). -/
def Dev.closeMsgs (s : Dev) (c : Nat) : Dev :=
  let x := s.conn c
  let nxt := (s.ackView c).1
  let past := fun (m : MsgRec) => m.count != 0 && psnDiff nxt (m.firstPsn + m.count.setWidth 32 - 1) > 0
  let done := (x.msgs.filter past).mergeSort fun a b => psnDiff a.firstPsn x.rcvNxt ≤ psnDiff b.firstPsn x.rcvNxt
  let s := s.setConn c { x with msgs := x.msgs.filter fun m => !past m }
  done.foldl (fun s m => s.raise c m) s

/-- Something a connection placed has become visible: messages complete, and the ACKs that waited for it leave. -/
def Dev.ackSeen (s : Dev) (c : Nat) : Dev :=
  let s := s.closeMsgs c
  let v := s.ackView c
  if (s.conn c).ackOwed.any fun p => 0 ≤ psnDiff v.1 p then s.ackNow c else s

/-! ### Placement and execution (step 7 of R125) -/

/-- How placing a packet ends. -/
inductive Placed where
  | ok
  /-- refused with NAK RNR: the packet is not accepted -/
  | rnr (arg : Nat)
  /-- a fatal refusal: status and key -/
  | fatal (status key : Nat)
  /-- the entry of a key slot is not cached (R163) -/
  | fetch (slot : Nat)
  /-- the partition takes no new request (R332) -/
  | quiesced
  deriving DecidableEq, Repr

/-- NAK_ARG of an empty pool and of an on-demand miss (Table 8.14). -/
def Dev.rnrNs (s : Dev) : Nat := max 1000 (bits (s.reg Reg.xltCfg) 31 16)

/-- The bytes of a packet stored at a key's address (steps 6 to 8 of Table 8.5). -/
def Dev.placeAt (s : Dev) (env : Env) (key : BitVec 32) (a : Nat) (b : List Byte) (who : Nat) : Dev × Placed :=
  match s.regionWrite env key a b who with
  | (s, .ok _) => (s, .ok)
  | (s, .wait) => (s, .rnr s.rnrNs)
  | (s, .fault st) => (s, .fatal st key.toNat)

/-- A packet's placement of `n` bytes under a key, not yet acknowledged. -/
def Dev.connReached (s : Dev) (c : Nat) (key : BitVec 32) (n : Nat) : Dev :=
  s.setConn c { s.conn c with reach := (s.conn c).reach ||| s.keyMemory key n }

/-- The lowest and highest bytes placed by a WRITE message, as one range per key. -/
def widen (l : List (BitVec 32 × Word × Nat)) (key : BitVec 32) (a n : Nat) : List (BitVec 32 × Word × Nat) :=
  if n = 0 then l
  else match l.find? (fun r => r.1 == key) with
    | none => l ++ [(key, BitVec.ofNat 64 a, n)]
    | some r =>
      let lo := min r.2.1.toNat a
      let hi := max (r.2.1.toNat + r.2.2) (a + n)
      (l.filter fun q => q.1 != key) ++ [(key, BitVec.ofNat 64 lo, hi - lo)]

def Dev.placeWrite (s : Dev) (env : Env) (c : Nat) (p : Packet) : Dev × Placed :=
  let key := BitVec.ofNat 32 p.rkey
  match s.placeAt env key p.raddr p.payload (pktWho c p.psn) with
  | (s, .ok) =>
    let s := s.connReached c key p.payload.length
    (s.setConn c ((s.conn c).setMsg (firstPsnOf p) fun m => { m with blot := widen m.blot key p.raddr p.payload.length }), .ok)
  | r => r

/-- The next match order of a partition's pools. -/
def Dev.nextOrder (s : Dev) : Nat := (s.ops.map (·.order)).foldl max 0 + 1

/-- R109: the buffer at the head of the connection's pool, taken for a message. -/
def Dev.matchRecv (s : Dev) (c : Nat) (p : Packet) : Dev × Option PoolBuf :=
  let x := s.conn c
  let part := (s.connPart c).getD 0
  let l := s.pool (part * 64 + x.poolOf)
  let pick := match s.replayFix 0x0A (leBytes 1 x.poolOf ++ zeros 3 ++ leBytes 4 c ++ leBytes 4 p.psn) with
    | some r => l.find? fun b => b.pos.toNat == leAt r.body 12 4
    | none => l.head?
  match pick with
  | none => (s, none)
  | some b =>
    let s := s.setPool (part * 64 + x.poolOf) (eraseFirst (· == b) l)
    let n := s.nextOrder
    let s := s.setOp b.ring b.pos fun o => { o with order := n }
    let s := s.setConn c (((s.conn c).setMsg (firstPsnOf p) fun m => { m with recv := some b }))
    let s := s.setConn c { s.conn c with recvBuf := b }
    (s.folEvent 0x0A part (s.connAttrs c)
      (leBytes 1 x.poolOf ++ zeros 3 ++ leBytes 4 c ++ leBytes 4 p.psn ++ leBytes 4 b.pos.toNat), some b)

/-- The check of the buffer a SEND message matched, over the message's length (R109, R165): made once, at the first packet. -/
def Dev.recvCheck (s : Dev) (c : Nat) (p : Packet) (b : PoolBuf) : Dev × Placed :=
  let m := (s.conn c).msgOf p
  let len := (m.map (·.len)).getD p.aux
  if !p.first || m.any (·.checked) then (s, .ok)
  else if b.len.toNat < len then (s, .fatal stKeyBounds b.key.toNat)
  else if !s.keyCachedAt b.key then (s, .fetch (keyIndex b.key))
  else match s.keyCheck b.key ((s.connPart c).getD 0) b.addr.toNat len (rW + rRM) with
    | (s, some st) => (s, .fatal st b.key.toNat)
    | (s, none) => (s.setConn c ((s.conn c).setMsg (firstPsnOf p) fun m => { m with checked := true }), .ok)

def Dev.placeSend (s : Dev) (env : Env) (c : Nat) (p : Packet) : Dev × Placed :=
  let (s, buf) := match ((s.conn c).msgOf p).bind (·.recv) with
    | some b => (s, some b)
    | none => if p.first then s.matchRecv c p else (s, none)
  match buf with
  | none => (s, .rnr s.rnrNs)
  | some b =>
    match s.recvCheck c p b with
    | (s, .ok) =>
      let host := keyTarget (s.region b.key) == 0
      (match s.placeAt env b.key (b.addr.toNat + p.pktIdx * 4096) p.payload (pktWho c p.psn) with
      | (s, .ok) =>
        let s := s.connReached c b.key p.payload.length
        (s.setConn c ((s.conn c).setMsg (firstPsnOf p) fun m => { m with host := m.host || host }), .ok)
      | r => r)
    | r => r

/-- R133: a READ_REQ executed. -/
def Dev.runRead (s : Dev) (env : Env) (c : Nat) (p : Packet) : Dev × Placed :=
  let part := (s.connPart c).getD 0
  let key := BitVec.ofNat 32 p.rkey
  let len := p.aux
  match s.keyCheck key part p.raddr len (rR + rRM) with
  | (s, some st) => (s, .fatal st p.rkey)
  | (s, none) =>
    let x := s.region key
    match s.keyReach x p.raddr len with
    | some st => (s, .fatal st p.rkey)
    | none =>
      let (s, w) : Dev × Placed :=
        if keyTarget x == 0 && keyOnDemand x then
          match s.pieces env key p.raddr len false (pktWho c p.psn) with
          | (s, .ok _) => (s, .ok)
          | (s, .error .wait) => (s, .rnr s.rnrNs)
          | (s, .error _) => (s, .fatal stTranslation p.rkey)
        else (s, .ok)
      match w with
      | .ok =>
        (s.sendData c 0x04 (key, BitVec.ofNat 64 p.raddr) len (leAt p.payload 0 4) (leAt p.payload 8 8) p.psn 0 false p.sys
          none (some (BitVec.ofNat 32 p.psn)), .ok)
      | r => (s, r)

/-- R111, R202: one atomic on 8 bytes of a key: the value read, or how it fails. Tray memory is held under RD_OWN and written back
by EVICT_DIRTY. In replay an ATOMIC record that begins with
`fix` gives the value read (R350). -/
def Dev.atomicOn (s : Dev) (env : Env) (who : Nat) (fix : List Byte) (key : BitVec 32) (a : Nat) (cas : Bool) (operand compare : Word) : Dev × Got :=
  let x := s.region key
  if keyTarget x == 0 && !s.hst.lost && !s.hst.cxlCache && !(s.fn (keyPtn x)).atomicEn then (s, .fault stTarget)
  else match s.regionRead env key a 8 who 0x03 with
    | (s, .ok m) =>
      let b := match s.replayFix 0x0B fix with
        | some r => slice r.body 8 8
        | none => m
      let old := BitVec.ofNat 64 (ofLe b)
      let new := if cas then (if old == compare then operand else old) else old + operand
      match s.regionWrite env key a (leBytes 8 new.toNat) who true with
      | (s, .ok _) => (s, .ok b)
      | r => r
    | r => r

/-- R133, R134: an ATOMIC_REQ executed. -/
def Dev.runAtomic (s : Dev) (env : Env) (c : Nat) (p : Packet) : Dev × Placed :=
  let part := (s.connPart c).getD 0
  let key := BitVec.ofNat 32 p.rkey
  if 8 ≤ (s.conn c).atomics.length then (s, .rnr 1000)
  else
    let need := rAT + rRM
    let odd := p.raddr % 8 != 0
    let (s, bad) : Dev × Option Nat := match s.keyCheck key part p.raddr 8 (if odd then 0 else need) with
      | (s, some st) => (s, some st)
      | (s, none) => if odd then (s.bump (Reg.keyFails 3), some stKeyBounds) else (s, none)
    match bad with
    | some st => (s, .fatal st p.rkey)
    | none =>
      match s.atomicOn env (pktWho c p.psn) (leBytes 4 c ++ leBytes 4 p.psn) key p.raddr (p.aux % 2 == 1) (BitVec.ofNat 64 (leAt p.payload 0 8))
          (BitVec.ofNat 64 (leAt p.payload 8 8)) with
      | (s, .wait) => (s, .rnr s.rnrNs)
      | (s, .fault st) => (s, .fatal st p.rkey)
      | (s, .ok old) =>
        let s := s.connReached c key 8
        let s := s.folEvent 0x0B part (s.connAttrs c) (leBytes 4 c ++ leBytes 4 p.psn ++ old)
        let x := s.conn c
        let s := s.setConn c { x with atomics := x.atomics ++ [(BitVec.ofNat 32 p.psn, BitVec.ofNat 64 (ofLe old))] }
        (s.sendImm c 0x06 old (leAt p.payload 16 4) (leAt p.payload 24 8) p.psn p.sys none (some (BitVec.ofNat 32 p.psn)), .ok)

/-- The check of the destination of a READ or atomic, at its first access (Table 8.4): none where it passes or has passed. -/
def Dev.respCheck (s : Dev) (o : Op) : Dev × Option Nat :=
  if o.checked then (s, none)
  else
    let n := if o.entry.opcode == 0x11 then o.entry.length else 8
    match s.keyCheck o.entry.lkey o.part o.entry.laddr n rW with
    | (s, none) => (s.setOp o.ring o.entry.pos fun o => { o with checked := true }, none)
    | r => r

/-- The requests on tray ports that serve an access, changed. -/
def Dev.trayServes (s : Dev) (who : Nat) (f : TrayReq → TrayReq) : Dev :=
  { s with tray := tmap (fun _ => {}) (fun _ (x : TrayPort) =>
    { x with reqs := x.reqs.map fun r => if r.who == who then f r else r }) s.tray }

/-- What is wrong with the destination of a response: nothing more of it is placed (R134). -/
def Dev.respFails (s : Dev) (o : Op) (st key : Nat) : Dev :=
  let d := if st == stHostLost then s.hst.epoch.toNat else key
  s.setOp o.ring o.entry.pos fun o => { o with respFault := some (BitVec.ofNat 8 st, BitVec.ofNat 64 d) }

/-- R133, R134, R177: response data placed at the requester. A fault of its translation is fatal. -/
def Dev.placeResp (s : Dev) (env : Env) (c : Nat) (p : Packet) : Dev × Placed :=
  match s.respOp c p with
  | none => (s.dropConn 8, .ok)
  | some (_, o) =>
    if o.respFault.isSome then (s, .ok)
    else match s.respCheck o with
      | (s, some st) => (s.respFails o st o.entry.lkey.toNat, .ok)
      | (s, none) =>
        match s.placeAt env o.entry.lkey p.raddr p.payload (pktWho c p.psn) with
        | (s, .ok) => (((s.trayServes (pktWho c p.psn) fun r => { r with op := some (o.ring, o.entry.pos) }).opReached o.ring o.entry.pos o.entry.lkey p.payload.length).setOp o.ring o.entry.pos fun o => { o with
            respBytes := if o.entry.opcode == 0x11 then o.respBytes + p.payload.length else o.respBytes }, .ok)
        | (s, .fatal st k) => if st == stTranslation then (s, .fatal st k) else (s.respFails o st k, .ok)
        | r => r

/-- Step 7 by type. A request not yet executed is refused while the partition refuses new work (R332), and waits for the entry
of its key (R163). -/
def Dev.process (s : Dev) (env : Env) (c : Nat) (p : Packet) : Dev × Placed :=
  let request := p.ptype == 3 || p.ptype == 5
  if request && ((s.connPart c).map s.ptn).any (fun q => q.st.refuses) then (s, .quiesced)
  else if request && !s.keyCachedAt (BitVec.ofNat 32 p.rkey) then (s, .fetch (keyIndex (BitVec.ofNat 32 p.rkey)))
  else match p.ptype with
    | 1 => s.placeWrite env c p
    | 2 => s.placeSend env c p
    | 3 => s.runRead env c p
    | 5 => s.runAtomic env c p
    | _ => s.placeResp env c p

/-! ### Acceptance (R124, R128, R130) -/

/-- The packet updates what the next ACK reports. -/
def Dev.noteRx (s : Dev) (c : Nat) (p : Packet) (a : Arrival) : Dev :=
  let x := s.conn c
  s.setConn c { x with
    ackPending := BitVec.ofNat 9 (min 256 (x.ackPending.toNat + 1))
    ecnCount := if p.ecn then BitVec.ofNat 8 (min 255 (x.ecnCount.toNat + 1)) else x.ecnCount
    ackEcho := BitVec.ofNat 32 p.stamp
    echo := a.echo p
    ackSince := if x.ackSince.isSome then x.ackSince else some s.osc }

/-- R130: an ACK is sent when one of its conditions holds. -/
def Dev.ackRule (s : Dev) (c : Nat) (p : Packet) : Dev :=
  let x := s.conn c
  if p.ackreq || x.rcvMap != 0 || s.ackCoalesce ≤ x.ackPending.toNat || s.ackDelay == 0 then s.sendAck c else s

/-- A refusal with NAK RNR. -/
def Dev.refuseRnr (s : Dev) (c : Nat) (p : Packet) (a : Arrival) (arg : Nat) : Dev :=
  let s := s.setConn c { s.conn c with rnrActive := true, rnrPsn := BitVec.ofNat 32 p.psn }
  s.sendNak c (a.echo p) p.src p.sconn (BitVec.ofNat 32 p.psn) 0x02 arg

/-- A packet that could not be placed or executed. -/
def Dev.refusePkt (s : Dev) (c : Nat) (p : Packet) (a : Arrival) (r : Placed) : Dev :=
  match r with
  | .ok => s
  | .rnr arg => s.refuseRnr c p a arg
  | .fatal st k => s.fatal c p a st k
  | .fetch k => s.holdForKey c p a k
  | .quiesced => s.sendNak c (a.echo p) p.src p.sconn (BitVec.ofNat 32 p.psn) 0x0C 0

/-- An accepted packet that is placed: RNR_ACTIVE ends at its PSN. With SYSTEM = 1, its acknowledgement waits for a flush of the
host memory it wrote, and for more than CMP PATH of what it wrote on a tray port (R201). -/
def Dev.acceptOne (s : Dev) (c : Nat) (p : Packet) : Dev :=
  let x := s.conn c
  let s := s.setConn c { x with rnrActive := x.rnrActive && x.rnrPsn.toNat != p.psn }
  if !p.sys then s
  else
    let s := s.trayServes (pktWho c p.psn) fun r => { r with sys := true }
    if (x.msgOf p).any (·.host) then
      let (s, id) := s.flushStart ((s.connPart c).getD 0)
      s.setConn c { s.conn c with ackHold := (s.conn c).ackHold ++ [(BitVec.ofNat 32 p.psn, id)] }
    else s

/-- R124: advance, placing the held packets that have become in order. It stops at a held packet that is refused. -/
def Dev.advance : Nat → Dev → Env → Nat → Dev
  | 0, s, _, _ => s
  | fuel + 1, s, env, c =>
    let x := s.conn c
    let nxt := x.rcvNxt + 1
    let more := bit x.rcvMap 0
    let s := s.setConn c { x with
      rcvNxt := nxt, rcvHi := if nxt == 0 then x.rcvHi + 1 else x.rcvHi, rcvMap := x.rcvMap >>> 1 }
    if !more then s
    else match (s.conn c).rob.find? (fun q => q.1.psn == nxt.toNat) with
      | none => Dev.advance fuel s env c
      | some q =>
        let x := s.conn c
        let s := s.setConn c { x with rob := eraseFirst (fun r => r.1.psn == nxt.toNat) x.rob }
        match s.process env c q.1 with
        | (s, .ok) => Dev.advance fuel (s.acceptOne c q.1) env c
        | (s, r) => s.refusePkt c q.1 q.2 r

/-- Bytes held in the reorder buffer. -/
def Dev.robBytes (s : Dev) : Nat := (s.conns.map fun p => (p.2.rob.map fun q => 64 + q.1.plen).sum).sum

/-- Step 7 of R125 for a packet at distance `d` from RCV_NXT: placed, executed or held (R128). A record that a packet not
accepted has opened is closed again, unless the packet has matched a buffer. -/
def Dev.placeStep (s : Dev) (env : Env) (c d : Nat) (p : Packet) (a : Arrival) : Dev :=
  let x := s.conn c
  let psn := BitVec.ofNat 32 p.psn
  let isNew := p.first && !x.msgs.any fun m => m.firstPsn == firstPsnOf p && m.count != 0
  let strict := x.mode == 0 || p.ptype == 2 || p.ptype == 3 || p.ptype == 5
  if isNew && 16 ≤ (x.msgs.filter fun m => m.count != 0).length then
    (s.dropConn 4).sendNak c (a.echo p) p.src p.sconn psn 0x01 0
  else if strict && 0 < d && 2 ^ 24 < s.robBytes + 64 + p.plen then
    (s.dropConn 7).sendNak c (a.echo p) p.src p.sconn psn 0x01 0
  else
    let s := (s.setConn c (if p.first then s.openMsg x p else x)).noteMsg c p
    if strict && 0 < d then
      let x := s.conn c
      let s := s.setConn c { x with rob := x.rob ++ [(p, a)], rcvMap := x.rcvMap ||| (1 <<< (d - 1)) }
      (s.noteRx c p a).ackRule c p
    else match s.process env c p with
      | (s, .ok) =>
        let s := s.acceptOne c p
        let s := if 0 < d then s.setConn c { s.conn c with rcvMap := (s.conn c).rcvMap ||| (1 <<< (d - 1)) }
          else s.advance 200 env c
        let s := s.noteRx c p a
        let s := if (s.conn c).st = .active then s.ackRule c p else s
        (s.closeMsgs c).settle
      | (s, r) =>
        let keep := ((s.conn c).msgOf p).any fun m => m.recv.isSome
        let s := if isNew && !keep then s.setConn c ((s.conn c).setMsg (firstPsnOf p) fun m => { m with count := 0 }) else s
        s.refusePkt c p a r

/-- Step 6 of R125: the key check of a WRITE packet. -/
def Dev.keyStep (s : Dev) (env : Env) (c d : Nat) (p : Packet) (a : Arrival) : Dev :=
  let key := BitVec.ofNat 32 p.rkey
  if p.ptype != 1 then s.placeStep env c d p a
  else if !s.keyCachedAt key then s.holdForKey c p a (keyIndex key)
  else match s.keyCheck key ((s.connPart c).getD 0) p.raddr p.payload.length (rW + rRM) with
    | (s, some st) => s.fatal c p a st p.rkey
    | (s, none) => s.placeStep env c d p a

/-- Steps 5 to 7 of R125 for a packet at distance `d` from RCV_NXT. -/
def Dev.accept (s : Dev) (env : Env) (c d : Nat) (p : Packet) (a : Arrival) : Dev :=
  let x := s.conn c
  let epsn := x.rcvHi.toNat * 2 ^ 32 + x.rcvNxt.toNat + d
  match s.integrity env c epsn p a with
  | .icrc => s.dropConn 5
  | .auth => (s.bump (Reg.cphCounts 2)).startBlot c p a stAuth
  | .cipher =>
    let s := (s.bump (Reg.cphCounts 4)).cipherErr 0x02 c p.psn x.cphKey (s.connPart c)
    s.startBlot c p a stCipher
  | .good q =>
    let s := if x.enc && !a.verified then s.bump (Reg.cphCounts 1) else s
    s.keyStep env c d q { a with verified := true }

/-- The ACK that a duplicate prompts echoes the duplicate. -/
def Dev.noteDup (s : Dev) (c : Nat) (p : Packet) (a : Arrival) : Dev := s.setConn c { s.conn c with echo := a.echo p }

/-- R127: the packet has been under way for too long. -/
def Dev.stale (s : Dev) (p : Packet) (a : Arrival) : Bool := s.lifetime != 0 && a.owdOk p && s.lifetime * 1000 < a.owd p

/-- A packet of a connection in RESET: dropped as CLOSED; during a forced reset of the partition every one is answered NAK
PARTITION_QUIESCED (R336). -/
def Dev.rxClosed (s : Dev) (c : Nat) (p : Packet) (a : Arrival) : Dev :=
  if ((s.connPart c).map s.ptn).any fun q => decide (q.st = .resetting) && q.forced then
    s.sendNak c (a.echo p) p.src p.sconn (s.conn c).rcvNxt 0x0C 0
  else s.dropConn 0

/-- Steps 2 to 4 of R125 for request and data packets. -/
def Dev.rxData (s : Dev) (env : Env) (c : Nat) (p : Packet) (a : Arrival) : Dev :=
  let x := s.conn c
  let psn := BitVec.ofNat 32 p.psn
  let ptn := (s.connPart c).map s.ptn
  let nak := fun (s : Dev) (code : Nat) => s.sendNak c (a.echo p) p.src p.sconn psn code 0
  match x.st with
  | .reset => s.rxClosed c p a
  | .error => nak s 0x0D
  | .hostLost => nak s 0x09
  | .quiesced => nak s 0x0C
  | .active =>
    if x.blotEnd != 0 then s
    else if s.stale p a then s.dropConn 1
    else
      let d := psnDiff psn x.rcvNxt
      if d < -65536 || 65536 ≤ d then s.dropConn 2
      else if d < 0 || (0 < d && d ≤ 128 && bit x.rcvMap (d.toNat - 1)) then
        (((s.bump Reg.connDup)).noteDup c p a).sendAck c
      else if 128 < d then nak (s.dropConn 3) 0x01
      else if x.rnrActive && 0 < psnDiff psn x.rnrPsn then s.dropConn 10
      else if ptn.any (fun q => q.st.refuses) && ((p.first && !isResponse p) || p.ptype == 3 || p.ptype == 5) then nak s 0x0C
      else s.accept env c d.toNat p a

/-- Steps 2 to 5 of R125 for ACK and NAK packets, which take no PSN. -/
def Dev.rxReply (s : Dev) (c : Nat) (p : Packet) (a : Arrival) : Dev :=
  let x := s.conn c
  if x.st = .reset then s.rxClosed c p a
  else if decide (x.st ≠ .active) || x.blotEnd != 0 then s
  else if s.stale p a then s.dropConn 1
  else if p.icrc != icrcConn p then s.dropConn 5
  else if p.ptype == 7 then s.rxAck c p
  else s.rxNak c p

/-- Step 1 of R125, and the packet's way by type. -/
def Dev.rxConn (s : Dev) (env : Env) (p : Packet) (a : Arrival) : Dev :=
  let c := p.dconn
  if 12 ≤ p.vc || 4096 < p.plen then s.dropConn 6
  else if !s.ctxCached c || s.markHeld c || !(s.conn c).holding.isEmpty then s.holdPkt c p a
  else if isData p then (s.ctxTouch c).rxData env c p a
  else (s.ctxTouch c).rxReply c p a

/-- A packet that has reached this device, its destination, and has come in whole (R22): the Folio records it, and it leaves
the list of packets for local processing. -/
def Dev.receive (s : Dev) (env : Env) (p : Packet) : Dev :=
  let s := s.enter env
  match s.rte.local_.find? fun q => q.1 == p && s.whole q.2.1 p with
  | none => s
  | some q =>
    let s : Dev := { s with rte := { s.rte with local_ := eraseFirst (· == q) s.rte.local_ } }
    (s.folPkt false ((s.connPart p.dconn).getD 0x3F) q.2.1 (s.connAttrs p.dconn) p).rxConn env p q.2.2

/-- Packets that waited for a fetch go on, in arrival order. -/
def Dev.drain (s : Dev) (env : Env) (c : Nat) : Dev :=
  let l := (s.conn c).holding
  let s := s.setConn c { s.conn c with holding := [] }
  l.foldl (fun s q => s.rxConn env q.1 q.2) s

def Dev.drainAll (s : Dev) (env : Env) : Dev :=
  (s.conns.filter fun p => !p.2.holding.isEmpty).foldl (fun s p => s.drain env p.1) s

/-! ### The commands -/

def execWritePkt (p : Packet) (env : Env) (s : State) : Host.Outcome State Fault Refusal :=
  onDev (fun s => if p.ptype == 1 then s.receive env p else s) s
def execSendPkt (p : Packet) (env : Env) (s : State) : Host.Outcome State Fault Refusal :=
  onDev (fun s => if p.ptype == 2 then s.receive env p else s) s
def execReadReq (p : Packet) (env : Env) (s : State) : Host.Outcome State Fault Refusal :=
  onDev (fun s => if p.ptype == 3 then s.receive env p else s) s
def execReadResp (p : Packet) (env : Env) (s : State) : Host.Outcome State Fault Refusal :=
  onDev (fun s => if p.ptype == 4 then s.receive env p else s) s
def execAtomicReq (p : Packet) (env : Env) (s : State) : Host.Outcome State Fault Refusal :=
  onDev (fun s => if p.ptype == 5 then s.receive env p else s) s
def execAtomicResp (p : Packet) (env : Env) (s : State) : Host.Outcome State Fault Refusal :=
  onDev (fun s => if p.ptype == 6 then s.receive env p else s) s
def execAck (p : Packet) (s : State) : Host.Outcome State Fault Refusal :=
  onDev (fun s => if p.ptype == 7 then s.receive {} p else s) s
def execNak (p : Packet) (s : State) : Host.Outcome State Fault Refusal :=
  onDev (fun s => if p.ptype == 8 then s.receive {} p else s) s

/-- BLOT_DONE (R304, R305): the ranges are zero; a range whose target has become unavailable is skipped and counted.
Then the NAK, the completions and the RSIG increments follow. -/
def Dev.blotDone (s : Dev) (c : Nat) : Dev :=
  let x := s.conn c
  if x.blotEnd == 0 then s
  else
    let status := x.blotEnd.toNat
    let s := x.blotting.foldl (fun s r =>
      match s.regionWrite {} r.1 r.2.1.toNat (zeros r.2.2) with
      | (s, .ok _) => s.bumpBy (Reg.cphCounts 5) r.2.2
      | (s, _) => s.bump (Reg.cphCounts 6)) s
    let psn := x.blotPsn
    let s := s.sendNak c x.blotEcho x.peerNode x.peerConn psn (statusNak status) 0
    let s := (s.conn c).msgs.foldl (fun s m => s.rsigFail m) s
    (s.endConn c .error status none (connStatusDetail c psn)).settle

def execBlotDone (conn : BitVec 20) (s : State) : Host.Outcome State Fault Refusal :=
  onDev (fun s => s.blotDone conn.toNat) s

def execRetransmitTimer (conn : BitVec 20) (s : State) : Host.Outcome State Fault Refusal :=
  onDev (fun s => s.timerExpiry conn.toNat) s

def execRnrWaitEnd (conn : BitVec 20) (s : State) : Host.Outcome State Fault Refusal :=
  onDev (fun s => s.waitEnd conn.toNat false) s

def execBusyWaitEnd (conn : BitVec 20) (s : State) : Host.Outcome State Fault Refusal :=
  onDev (fun s => s.waitEnd conn.toNat true) s

/-- ACK_DELAY_EXPIRY (R130). -/
def Dev.ackExpiry (s : Dev) (c : Nat) : Dev :=
  let x := s.conn c
  match x.ackSince with
  | some t => if x.st = .active && x.ackPending != 0 && t + nsTicks s.ackDelay ≤ s.osc then s.sendAck c else s
  | none => s

def execAckDelayExpiry (conn : BitVec 20) (s : State) : Host.Outcome State Fault Refusal :=
  onDev (fun s => s.ackExpiry conn.toNat) s

/-! #### CONN_CTL (R122, R123, R141, R299) -/

def Dev.selConn (s : Dev) (v : View) : Nat := bits (s.sel v Reg.connSel) 19 0

/-- The reserved bits of context words 0 to 7. -/
def cfgReserved : List (Nat × Nat) := [(511, 400), (255, 248), (159, 144), (95, 84), (31, 30), (23, 19), (15, 14)]

/-- FIELD of Table 6.15, and the cases of R299. -/
def Dev.connFieldBad (s : Dev) (c part : Nat) : Bool :=
  let x := s.conn c
  1 < x.mode || x.retryLimit == 0 || x.retryLimit == 255 || x.rtoMin == 0 || x.rtoMax < x.rtoMin ||
  bits (s.ptnRec part) 247 240 ≤ x.poolOf || cfgReserved.any (fun r => bits x.cfg r.1 r.2 != 0) ||
  (x.enc && ((s.cphEntry x.cphKey).isNone || s.cphPart x.cphKey != some part ||
    (x.peerNode == s.node && x.peerConn == c)))

/-- Contexts with PIN = 1 that are not in RESET. -/
def Dev.pinned (s : Dev) : Nat := (s.conns.filter fun p => p.2.pin && decide (p.2.st ≠ .reset)).length

/-- R123, Table 6.15: the lowest code that applies. -/
def Dev.connEnableCode (s : Dev) (c : Nat) : Byte :=
  let x := s.conn c
  if x.st ≠ .reset then 0x01
  else match s.connPart c with
    | none => 0x02
    | some part =>
      if (s.ptn part).st.refuses then 0x03
      else if s.connFieldBad c part then 0x04
      else if (s.ink.boot || (regionKind s.regions 3).isNone) && bits (s.reg (Reg.connHostBacking part)) 63 12 == 0 then 0x05
      else if x.pin && 32768 ≤ s.pinned then 0x06
      else if (s.rlg.time - x.resetAt).toNat < s.lifetime * 1024000 then 0x07
      else 0

/-- R123, R141: a connection becomes ACTIVE. -/
def Dev.connOpen (s : Dev) (c : Nat) : Dev :=
  let x := s.conn c
  let w := bits (s.ccCfg0 x) 63 48
  let y : Conn := {
    cfg := x.cfg, st := .active, lastNak := x.lastNak, sndNxt := x.initTx, sndUna := x.initTx, rcvNxt := x.initRx,
    rto := BitVec.ofNat 48 x.rtoMin, resetAt := x.resetAt,
    cwnd := BitVec.ofNat 32 (if w == 0 then s.cwndMin x else w * 4096),
    baseOwd := 0xFFFFFF, lastOwd := 0xFFFFFF, baseAt := s.rlg.time, lastDec := s.rlg.time }
  (s.setConn c y).ctxTouch c

def Dev.connCmd (s : Dev) (v : View) (w : Word) : Dev :=
  let c := s.selConn v
  let x := s.conn c
  match bits w 7 0 with
  | 0 => s
  | 1 =>
    let code := s.connEnableCode c
    if code = 0 then s.connOpen c else s.setConn c { x with enableResult := code }
  | 2 =>
    if x.st = .active then (s.endConn c .error stDependency none 0).settle else s.hostErr v Reg.connCtl 0x02 w
  | 3 =>
    if x.st = .error || x.st = .hostLost || x.st = .quiesced then
      let s := s.setConn c { x with
        st := .reset, errStatus := 0, resetAt := s.rlg.time, fetching := false, tx := [], holding := [],
        cfg := if x.ctxLost then 0 else x.cfg, ctxLost := false }
      if x.ctxLost then s.ctxStore c else s
    else s.hostErr v Reg.connCtl 0x02 w
  | _ => s.hostErr v Reg.connCtl 0x03 w

def execConnEnable (v : View) (w : Word) (s : State) : Host.Outcome State Fault Refusal :=
  onWrite v Reg.connCtl w (fun s => if bits w 7 0 = 1 then s.owned v Reg.connCtl w fun s => s.connCmd v w else s) s
def execConnAbort (v : View) (w : Word) (s : State) : Host.Outcome State Fault Refusal :=
  onWrite v Reg.connCtl w (fun s => if bits w 7 0 = 2 then s.owned v Reg.connCtl w fun s => s.connCmd v w else s) s
def execConnReset (v : View) (w : Word) (s : State) : Host.Outcome State Fault Refusal :=
  onWrite v Reg.connCtl w (fun s => if bits w 7 0 = 3 then s.owned v Reg.connCtl w fun s => s.connCmd v w else s) s

/-! #### Fetches (R138, R139, R181, R163) -/

/-- What the fetch of a context finds. -/
inductive CtxFetch where
  | ok | poison | fault | lost
  deriving DecidableEq, Repr

/-- What reading a context's backing store gives. -/
def Dev.fetchCtx (s : Dev) (env : Env) (c : Nat) : CtxFetch :=
  match s.ctxInk c with
  | some a =>
    match firstOut ((linesOf a 512).map (s.lineOut false)) with
    | .poison | .unavailable => .poison
    | _ => .ok
  | none =>
    if s.hst.lost then .lost
    else match s.pinnedAddr env 0 (s.ctxHost c) with
      | none => .fault
      | some q => if !s.reach 0 .host || env.fails (hostKey q) 512 then .fault else .ok

/-- The fetch of a context in host memory is translated. -/
def Dev.ctxAsk (s : Dev) (c : Nat) : Dev := if (s.ctxInk c).isNone && s.reach 0 .host then s.pinnedAsk 0 else s

/-- Packets that waited for a context are answered with a NAK. -/
def Dev.nakHeld (s : Dev) (c : Nat) (l : List (Packet × Arrival)) (code : Nat) : Dev :=
  l.foldl (fun s q => if isData q.1 then s.sendNak c (q.2.echo q.1) q.1.src q.1.sconn (BitVec.ofNat 32 q.1.psn) code 0 else s) s

/-- R138, R139, R181: a fetch of a context ends. -/
def Dev.ctxEnd (s : Dev) (env : Env) (c : Nat) (f : CtxFetch) : Dev :=
  let x := s.conn c
  let gone := ((s.setConn c { x with fetching := false, holding := [], ctxLost := decide (f ≠ .lost) }).ctxTouch c)
  match f with
  | .ok =>
    let s := ((((s.setConn c { x with fetching := false, rtoDue := false, waitDue := false }).ctxTouch c).ctxLoad env c).drain env c)
    let s := if x.rtoDue then s.timerExpiry c else s
    if x.waitDue then (s.waitEnd c true).waitEnd c false else s
  | .lost => ((gone.nakHeld c x.holding 0x09).endConn c .hostLost stHostLost none s.hst.epoch.toNat).settle
  | .poison => ((gone.bumpBy (Reg.connDrops 9) x.holding.length).endConn c .error stPoison none 0).settle
  | .fault => ((gone.nakHeld c x.holding 0x0D).endConn c .error stTranslation none 0).settle

/-- CONTEXT_FETCH_DONE (R138, R139, R181). -/
def Dev.ctxFetched (s : Dev) (env : Env) (c : Nat) : Dev :=
  let s := s.enter env
  if !(s.conn c).fetching || s.inkMoving 3 then s else (s.ctxAsk c).ctxEnd env c (s.fetchCtx env c)

def execContextFetchDone (conn : BitVec 20) (env : Env) (s : State) : Host.Outcome State Fault Refusal :=
  onDev (fun s => s.ctxFetched env conn.toNat) s

/-- KEY_FETCH_DONE (R163), once no move of the key table holds fetches (R315): the entry is in the cache, treated as invalid where its line was poisoned; what waited goes on. -/
def Dev.keyFetched (s : Dev) (k : Nat) (poison : Bool) : Dev :=
  if !s.xlt.keyFetch.contains k || s.inkMoving 4 then s
  else
    let s : Dev := { s with xlt := { s.xlt with
      keyFetch := s.xlt.keyFetch.filter (· != k)
      keyPoison := if poison && !s.xlt.keyPoison.contains k then k :: s.xlt.keyPoison else s.xlt.keyPoison } }
    (s.keyLoad k).drainAll {}

def execKeyFetchDone (slot : BitVec 22) (poison : Bool) (s : State) : Host.Outcome State Fault Refusal :=
  onDev (fun s => s.keyFetched slot.toNat poison) s

end Sys2Proof.Machine
end

