-- ==== Sys2Proof/Machine/Launch.lean ====
section
/-! DEFINITION. What the entries of a work ring do when they launch (chapter 5), chord commands aside. -/

namespace Sys2Proof.Machine

/-! ### Operands -/

/-- An entry refused at launch (R103). -/
def Dev.refuse (s : Dev) (r : Nat) (e : Entry) (reason off : Nat) : Dev := s.finish r e.pos (malformed reason off)

/-- An entry that ends with a status and detail, `n` bytes placed. -/
def Dev.endEntry (s : Dev) (r : Nat) (e : Entry) (st detail n : Nat) : Dev :=
  s.finish r e.pos { status := BitVec.ofNat 8 st, detail := BitVec.ofNat 64 detail, bytes := BitVec.ofNat 64 n }

/-- DETAIL of a key failure in this device's memory (Table 5.5). -/
def Dev.localDetail (s : Dev) (st : Nat) (key : BitVec 32) : Nat := if st == stHostLost then s.hst.epoch.toNat else key.toNat

/-- R165: the check of one operand of an entry over its whole range; the entry ends where it fails, and holds the
range where it passes (R166). -/
def Dev.operand (s : Dev) (r : Nat) (e : Entry) (key : BitVec 32) (a n need : Nat) (k : Dev → Dev) : Dev :=
  match s.keyCheck key (ringPart r) a n need with
  | (s, some st) => s.endEntry r e st key.toNat 0
  | (s, none) => k (s.setOp r e.pos fun o => { o with keys := key :: o.keys })

/-- A command holds its local operand's key from its launch (R166). The range is checked at its first access (Table 8.4): when
the first packet of a WRITE or SEND is built, or the first response placed. -/
def Dev.keepKey (s : Dev) (r : Nat) (e : Entry) : Dev := s.setOp r e.pos fun o => { o with keys := e.lkey :: o.keys }

/-! ### Commands over a connection (R108, R109, R133, R134) -/

/-- CONN_RANGE, CONN_STATE and ALIGN of an entry that names a connection. -/
def Dev.connOk (s : Dev) (r : Nat) (e : Entry) (k : Dev → Dev) : Dev :=
  if s.connPart e.conn != some (ringPart r) then s.refuse r e 0x06 16
  else if decide ((s.conn e.conn).st ≠ .active) then s.refuse r e 0x07 16
  else k s

/-- Packets of a message of `n` bytes. -/
def packetCount (n : Nat) : Nat := max 1 (ceilDiv n 4096)

def Dev.opPackets (s : Dev) (r : Nat) (e : Entry) (n : Nat) : Dev := s.setOp r e.pos fun o => { o with count := n }

/-- WRITE: its packets join the connection's send direction. -/
def Dev.launchWrite (s : Dev) (r : Nat) (e : Entry) : Dev :=
  s.connOk r e fun s =>
    let s := s.keepKey r e
    let idx := e.f 393 384
    let rsig := e.f 400 400 == 1
    ((s.opPackets r e (packetCount e.length)).sendData e.conn 0x01 (e.lkey, BitVec.ofNat 64 e.laddr) e.length e.rkey.toNat
      e.raddr (if rsig then idx else 0) (if rsig then idx else 0) rsig e.scopeSys (some (r, e.pos)) none)

/-- SEND: likewise, with MSG_LEN in its first packet. -/
def Dev.launchSend (s : Dev) (r : Nat) (e : Entry) : Dev :=
  s.connOk r e fun s =>
    (((s.keepKey r e).opPackets r e (packetCount e.length)).sendData e.conn 0x02 (e.lkey, BitVec.ofNat 64 e.laddr) e.length 0 0
      e.length 0 false e.scopeSys (some (r, e.pos)) none)

/-- READ: one READ_REQ, whose payload names the destination. -/
def Dev.launchRead (s : Dev) (r : Nat) (e : Entry) : Dev :=
  s.connOk r e fun s =>
    ((s.keepKey r e).opPackets r e 1).sendImm e.conn 0x03 (leBytes 4 e.lkey.toNat ++ zeros 4 ++ leBytes 8 e.laddr) e.rkey.toNat e.raddr
      e.length e.scopeSys (some (r, e.pos)) none

/-- An atomic at the peer: one ATOMIC_REQ. -/
def Dev.launchAtomic (s : Dev) (r : Nat) (e : Entry) (cas : Bool) : Dev :=
  s.connOk r e fun s =>
    if e.laddr % 8 != 0 then s.refuse r e 0x0D 24
    else if e.raddr % 8 != 0 then s.refuse r e 0x0D 36
    else
      let x := s.conn e.conn
      let s := ((s.keepKey r e).opPackets r e 1).setConn e.conn { x with atomicOut := x.atomicOut + 1 }
      s.sendImm e.conn 0x05 (leBytes 8 (e.f 415 352) ++ leBytes 8 (if cas then e.f 479 416 else 0) ++ leBytes 4 e.lkey.toNat ++ zeros 4
        ++ leBytes 8 e.laddr) e.rkey.toNat e.raddr (b2n cas) e.scopeSys (some (r, e.pos)) none

/-! ### Local commands (R111, R114, R115, R202, R307) -/

/-- A local command that meets an on-demand miss waits and goes on where it stopped (R178). -/
def Dev.stall (s : Dev) (r : Nat) (e : Entry) : Dev := s.setOp r e.pos fun o => { o with stalled := true }

/-- The destination of a COPY is checked at its first access, once (Table 8.4). -/
def Dev.copyTarget (s : Dev) (r : Nat) (e : Entry) (k : Dev → Dev) : Dev :=
  if (s.op? r e.pos).any (·.checked) then k s
  else s.operand r e e.rkey e.raddr e.length rW fun s => k (s.setOp r e.pos fun o => { o with checked := true })

/-- R114: one destination line after the other, from byte `off` on. -/
def Dev.copyLines : Nat → Dev → Env → Nat → Entry → Nat → Dev
  | 0, s, _, _, _, _ => s
  | fuel + 1, s, env, r, e, off =>
    if e.length ≤ off then s.endEntry r e 0 0 e.length
    else
      let b := e.raddr + off
      let n := min (e.length - off) (64 - b % 64)
      let s := s.setOp r e.pos fun o => { o with offset := off, respBytes := off }
      match s.regionRead env e.lkey (e.laddr + off) n (opWho r e.pos) with
      | (s, .wait) => s.stall r e
      | (s, .fault st) => s.endEntry r e st (s.localDetail st e.lkey) off
      | (s, .ok bytes) =>
        s.copyTarget r e fun s =>
          let s := s.folMem (ringPart r) (e.attrs r) e.lkey.toNat (e.laddr + off) bytes
          match s.regionWrite env e.rkey b bytes (opWho r e.pos) with
          | (s, .wait) => s.stall r e
          | (s, .fault st) => s.endEntry r e st (s.localDetail st e.rkey) off
          | (s, .ok _) => Dev.copyLines fuel (s.opReached r e.pos e.rkey n) env r e (off + n)

def Dev.launchCopy (s : Dev) (env : Env) (r : Nat) (e : Entry) : Dev :=
  s.operand r e e.lkey e.laddr e.length rR fun s =>
    if e.length = 0 then s.copyTarget r e fun s => s.endEntry r e 0 0 0
    else s.copyLines (e.length / 64 + 3) env r e 0

/-- How the translation of a destination in an on-demand region stands before anything is written to it: it waits, or its fault
ends the access. -/
def Dev.destReady (s : Dev) (env : Env) (key : BitVec 32) (part a n need who : Nat) : Dev × Got :=
  let s := s.keyLoad (keyIndex key)
  let x := s.region key
  if (keyFail x (s.keyBad (keyIndex key)) key part a n need).isNone && keyTarget x == 0 && keyOnDemand x then
    match s.pieces env key a n true who with
    | (s, .error r) => (s, gotOf r)
    | (s, .ok _) => (s, .ok [])
  else (s, .ok [])

/-- R111, R202: an atomic on this device's memory, and its result. The page of the result is translated before the atomic is
executed (DESIGN CHOICE: an atomic that waits for it is to be executed once). -/
def Dev.runLocalAtomic (s : Dev) (env : Env) (r : Nat) (e : Entry) (cas : Bool) : Dev :=
  match s.destReady env e.lkey (ringPart r) e.laddr 8 rW (opWho r e.pos) with
  | (s, .wait) => s.stall r e
  | (s, .fault st) => s.endEntry r e st e.lkey.toNat 0
  | (s, .ok _) =>
    match s.atomicOn env (opWho r e.pos) (leBytes 4 0xFFFFFFFF ++ leBytes 4 e.pos.toNat) e.rkey e.raddr cas (BitVec.ofNat 64 (e.f 415 352)) (BitVec.ofNat 64 (e.f 479 416)) with
    | (s, .wait) => s.stall r e
    | (s, .fault st) => s.endEntry r e st (s.localDetail st e.rkey) 0
    | (u, .ok old) =>
      let s := (u.xltKeep s e.lkey e.laddr 8).opReached r e.pos e.rkey 8
      let s := s.folEvent 0x0B (ringPart r) (e.attrs r) (leBytes 4 0xFFFFFFFF ++ leBytes 4 e.pos.toNat ++ old)
      s.operand r e e.lkey e.laddr 8 rW fun s =>
        match s.regionWrite env e.lkey e.laddr old (opWho r e.pos) with
        | (s, .ok _) => (s.opReached r e.pos e.lkey 8).endEntry r e 0 0 8
        | (s, .wait) => s.endEntry r e stTranslation e.lkey.toNat 0
        | (s, .fault st) => s.endEntry r e st (s.localDetail st e.lkey) 0

def Dev.launchLocalAtomic (s : Dev) (env : Env) (r : Nat) (e : Entry) (cas : Bool) : Dev :=
  if e.laddr % 8 != 0 then s.refuse r e 0x0D 24
  else if e.raddr % 8 != 0 then s.refuse r e 0x0D 36
  else s.operand r e e.rkey e.raddr 8 rAT fun s => s.runLocalAtomic env r e cas

/-- R307: the tag of ciphertext in memory under a connection's key and salt. -/
def Dev.runVerify (s : Dev) (env : Env) (r : Nat) (e : Entry) : Dev :=
  let n := e.f 287 256
  match s.regionRead env e.lkey e.laddr n (opWho r e.pos) with
  | (s, .wait) => s.stall r e
  | (s, .fault st) => s.endEntry r e st (s.localDetail st e.lkey) 0
  | (s, .ok ct) =>
    let s := s.folMem (ringPart r) (e.attrs r) e.lkey.toNat e.laddr ct
    if env.cipherFault then
      let s := (s.bump (Reg.cphCounts 4)).cipherErr 0x02 e.conn (e.f 319 288) (s.conn e.conn).cphKey (some (ringPart r))
      s.endEntry r e stCipher 0 0
    else
      let key := (s.cphEntry (s.conn e.conn).cphKey).getD 0
      let iv := leBytes 4 (s.conn e.conn).salt ++ leBytes 8 (e.f 351 288)
      let aad := (leBytes 32 (e.f 831 576)).take (e.f 359 352)
      let tag := gcmTag (aesExpand ((leBytes 32 key.toNat).map (·.toNat))) iv aad ct
      if tag = leBytes 16 (e.f 511 384) then (s.bump (Reg.cphCounts 7)).endEntry r e 0 0 0
      else (s.bump (Reg.cphCounts 8)).endEntry r e stAuth 0 0

def Dev.launchVerify (s : Dev) (env : Env) (r : Nat) (e : Entry) : Dev :=
  let mine := s.connPart e.conn == some (ringPart r)
  let x := s.conn e.conn
  if mine && (!x.enc || (s.cphEntry x.cphKey).isNone) then s.refuse r e 0x05 16
  else if 32 < e.f 359 352 then s.refuse r e 0x05 44
  else if !mine then s.refuse r e 0x06 16
  else s.operand r e e.lkey e.laddr (e.f 287 256) rR fun s => s.runVerify env r e

/-- Local commands that waited at a translation miss go on (R178). -/
def Dev.resumeStalled (s : Dev) (env : Env) : Dev :=
  (s.ops.filter fun o => o.stalled && o.fin.isNone && decide (o.entry.cls ≠ .chord)).foldl (fun s o =>
    let e := o.entry
    if decide (e.cls = .conn) then s.setOp o.ring e.pos fun o => { o with stalled := false }
    else
      let s := s.setOp o.ring e.pos fun o => { o with stalled := false }
      match e.opcode with
      | 0x30 => s.copyLines (e.length / 64 + 3) env o.ring e o.offset
      | 0x18 => s.runLocalAtomic env o.ring e false
      | 0x19 => s.runLocalAtomic env o.ring e true
      | 0x31 => s.runVerify env o.ring e
      | _ => s) s

/-! ### Receive pools (R109, R110) -/

def Dev.poolCount (s : Dev) (part : Nat) : Nat := recPools (s.ptnRec part)

/-- RECV: its buffer joins the pool (R109). An unmatched RECV counts as a command that uses its key, so that KEY_INVALIDATE
waits for it (DESIGN CHOICE: R113 speaks of accesses already checked, R166 of every command using the key). -/
def Dev.launchRecv (s : Dev) (r : Nat) (e : Entry) : Dev :=
  let part := ringPart r
  let pool := e.f 133 128
  if s.poolCount part ≤ pool then s.refuse r e 0x05 16
  else
    let b : PoolBuf := { ring := r, pos := e.pos, key := e.lkey, addr := BitVec.ofNat 64 e.laddr, len := BitVec.ofNat 32 e.length }
    (s.setOp r e.pos fun o => { o with keys := [e.lkey] }).setPool (part * 64 + pool) (s.pool (part * 64 + pool) ++ [b])

/-- R110: every unmatched RECV of a pool completes with FLUSHED, in the order they were posted. -/
def Dev.flushPool (s : Dev) (part pool : Nat) : Dev :=
  ((s.pool (part * 64 + pool)).foldl (fun s b =>
    (s.finish b.ring b.pos { status := BitVec.ofNat 8 stFlushed, detail := BitVec.ofNat 64 pool }).completeAt {} b.ring b.pos)
    s).setPool (part * 64 + pool) []

def Dev.launchFlush (s : Dev) (r : Nat) (e : Entry) : Dev :=
  let pool := e.f 133 128
  if s.poolCount (ringPart r) ≤ pool then s.refuse r e 0x05 16
  else (s.flushPool (ringPart r) pool).endEntry r e 0 0 0

/-! ### Fences, counters (R112, R199) -/

def Dev.launchFence (s : Dev) (r : Nat) (e : Entry) : Dev :=
  match e.f 129 128 with
  | 0 => s.endEntry r e 0 0 0
  | 1 =>
    let m := (s.ring r).reach ||| (s.ptn (ringPart r)).reach
    s.setOp r e.pos fun o => { o with scopeSys := true, reach := m }
  | _ => s.refuse r e 0x05 16

def Dev.launchCtr (s : Dev) (r : Nat) (e : Entry) (f : EvCtr → EvCtr) : Dev :=
  let part := ringPart r
  let i := e.f 137 128
  if s.ctrsOf part ≤ i then s.refuse r e 0x05 16
  else (s.setCtr (part * 1024 + i) (f (s.ctr (part * 1024 + i)))).endEntry r e 0 0 0

/-! ### Keys (R113, R164) -/

/-- The FIELD cases of KEY_REGISTER (R103, R164): the offset of the field named, lowest first. A GEN of 0 names byte 16, where
KEY begins (DESIGN CHOICE: GEN is the top byte of KEY, at byte 19). -/
def Dev.registerField (s : Dev) (part : Nat) (e : Entry) : Option Nat :=
  let gen := e.f 159 152
  let tgt := e.f 169 168
  let dem := e.f 172 172 == 1
  let len := e.f 319 256
  let base := e.f 255 192
  let xlt := e.f 383 320
  let f := s.fn part
  if gen == 0 then some 16
  else if tgt == 3 || (tgt == 2 && !s.inShare part base len) then some 21
  else if dem && (tgt != 0 || e.f 164 164 == 1 || !f.pasid || !f.ats || !f.pri) then some 21
  else if len == 0 || 2 ^ 48 < len || 2 ^ 64 < base + len then some 32
  else if xlt != 0 && (dem || tgt != 0 || xlt / 256 % 4 == 0 || xlt / 256 % 4 == 3) then some 40
  else none

/-- The entry a KEY_REGISTER writes (Table 8.3). -/
def keyEntryOf (part : Nat) (e : Entry) : BitVec 256 :=
  let tgt := e.f 169 168
  BitVec.ofNat 256 (at_ 192 (if tgt == 0 then e.f 383 320 else 0) + at_ 128 (e.f 255 192) + at_ 80 ((e.f 319 256 - 1) % 2 ^ 48)
    + at_ 60 (if tgt == 0 then e.f 403 384 else 0) + at_ 54 part + at_ 53 1 + at_ 51 (e.f 151 150) + at_ 43 (e.f 159 152)
    + at_ 42 (e.f 172 172) + at_ 40 tgt + at_ 38 (if tgt == 1 then e.f 171 170 else 0) + at_ 33 (e.f 164 160))

/-- R165: a slot is registered anew while ranges checked against its last registration are in use. -/
def Dev.keepPast (s : Dev) (i : Nat) : Dev :=
  let x := s.keyEntry i
  let k : BitVec 32 := BitVec.ofNat 32 (i + at_ 22 (keyClass x) + at_ 24 (keyGen x))
  let l := (k, x, s.xlt.atsKeys.contains i) :: s.xlt.past.filter (·.1 != k)
  { s with xlt := { s.xlt with past := l.filter fun p => s.keyUsed s.ops p.1 } }

def Dev.launchRegister (s : Dev) (r : Nat) (e : Entry) : Dev :=
  let part := ringPart r
  let i := e.f 149 128
  match s.registerField part e with
  | some off => s.refuse r e 0x05 off
  | none =>
    if s.keyPart i != some part then s.refuse r e 0x08 16
    else
      let s := s.keyLoad i
      let x := s.keyEntry i
      let bad := s.keyBad i
      if !bad && (keyValid x || keyGen x == e.f 159 152) then s.refuse r e 0x09 16
      else
        let ats := e.f 169 168 == 0 && (s.fn part).ats
        let s := ((s.keepPast i).setKeyEntry i (keyEntryOf part e)).dropXlat i
        let s : Dev := { s with xlt := { s.xlt with
          keyPoison := s.xlt.keyPoison.filter (· != i)
          atsKeys := if ats then i :: s.xlt.atsKeys.filter (· != i) else s.xlt.atsKeys.filter (· != i) } }
        (s.keyTouch i).endEntry r e 0 0 0

/-- R113: the key is invalid at once; the command ends when no command or packet holds a checked range (R166). -/
def Dev.launchInvalidate (s : Dev) (r : Nat) (e : Entry) : Dev :=
  let part := ringPart r
  let i := e.f 149 128
  if s.keyPart i != some part then s.refuse r e 0x08 16
  else
    let s := s.keyLoad i
    let x := s.keyEntry i
    if !keyValid x || s.keyBad i || keyGen x != e.f 159 152 || keyClass x != e.f 151 150 then
      s.endEntry r e stKeyInvalid (e.f 159 128) 0
    else s.keyDrop i

/-! ### The commands -/

/-- NOP (R104). -/
def execNop (ring : Fin 16384) (s : State) : Host.Outcome State Fault Refusal :=
  onDev (fun s => s.launchWith {} ring 0x00 fun s r e => s.endEntry r e 0 0 0) s
/-- WRITE (R108). -/
def execWrite (ring : Fin 16384) (s : State) : Host.Outcome State Fault Refusal :=
  onDev (fun s => s.launchWith {} ring 0x10 fun s r e => s.launchWrite r e) s
/-- READ (R133). -/
def execRead (ring : Fin 16384) (s : State) : Host.Outcome State Fault Refusal :=
  onDev (fun s => s.launchWith {} ring 0x11 fun s r e => s.launchRead r e) s
/-- SEND (R109). -/
def execSend (ring : Fin 16384) (s : State) : Host.Outcome State Fault Refusal :=
  onDev (fun s => s.launchWith {} ring 0x12 fun s r e => s.launchSend r e) s
/-- RECV (R109). -/
def execRecv (ring : Fin 16384) (s : State) : Host.Outcome State Fault Refusal :=
  onDev (fun s => s.launchWith {} ring 0x13 fun s r e => s.launchRecv r e) s
/-- RECV_FLUSH (R110). -/
def execRecvFlush (ring : Fin 16384) (s : State) : Host.Outcome State Fault Refusal :=
  onDev (fun s => s.launchWith {} ring 0x14 fun s r e => s.launchFlush r e) s
/-- ATOMIC_FADD (R111). -/
def execAtomicFadd (ring : Fin 16384) (env : Env) (s : State) : Host.Outcome State Fault Refusal :=
  onDev (fun s => (s.enter env).launchWith env ring 0x18 fun s r e =>
    if e.localAtomic then s.launchLocalAtomic env r e false else s.launchAtomic r e false) s
/-- ATOMIC_CAS (R111). -/
def execAtomicCas (ring : Fin 16384) (env : Env) (s : State) : Host.Outcome State Fault Refusal :=
  onDev (fun s => (s.enter env).launchWith env ring 0x19 fun s r e =>
    if e.localAtomic then s.launchLocalAtomic env r e true else s.launchAtomic r e true) s
/-- FENCE (R199). -/
def execFence (ring : Fin 16384) (s : State) : Host.Outcome State Fault Refusal :=
  onDev (fun s => s.launchWith {} ring 0x20 fun s r e => s.launchFence r e) s
/-- CTR_ADD (R112). -/
def execCtrAdd (ring : Fin 16384) (s : State) : Host.Outcome State Fault Refusal :=
  onDev (fun s => s.launchWith {} ring 0x21 fun s r e =>
    s.launchCtr r e fun c => { c with value := c.value + BitVec.ofNat 48 (e.f 239 192) }) s
/-- CTR_SET (R112). -/
def execCtrSet (ring : Fin 16384) (s : State) : Host.Outcome State Fault Refusal :=
  onDev (fun s => s.launchWith {} ring 0x22 fun s r e =>
    s.launchCtr r e fun _ => { value := BitVec.ofNat 48 (e.f 239 192), failed := e.f 144 144 == 1 }) s
/-- KEY_REGISTER (R113). -/
def execKeyRegister (ring : Fin 16384) (s : State) : Host.Outcome State Fault Refusal :=
  onDev (fun s => s.launchWith {} ring 0x28 fun s r e => s.launchRegister r e) s
/-- KEY_INVALIDATE (R113, R166). -/
def execKeyInvalidate (ring : Fin 16384) (s : State) : Host.Outcome State Fault Refusal :=
  onDev (fun s => s.launchWith {} ring 0x29 fun s r e => s.launchInvalidate r e) s
/-- COPY (R114). -/
def execCopy (ring : Fin 16384) (env : Env) (s : State) : Host.Outcome State Fault Refusal :=
  onDev (fun s => (s.enter env).launchWith env ring 0x30 fun s r e => s.launchCopy env r e) s
/-- CIPHER_VERIFY (R115, R307). -/
def execCipherVerify (ring : Fin 16384) (env : Env) (s : State) : Host.Outcome State Fault Refusal :=
  onDev (fun s => (s.enter env).launchWith env ring 0x31 fun s r e => s.launchVerify env r e) s

end Sys2Proof.Machine
end

