-- ==== Sys2Proof/Machine/Sched.lean ====
section
/-! DEFINITION. What a fabric port sends next (R50, R145 to R151), queue sampling, congestion map records and
ingress meters (chapters 7 and 10). -/

namespace Sys2Proof.Machine

/-! ### Shapers (R150) -/

/-- A bucket refilled up to now: `rate` in MB/s, `cap` in bytes. -/
def Bucket.refill (b : Bucket) (osc rate cap : Nat) : Bucket :=
  { level := min ((cap * 125 : Nat) : Int) (b.level + ((rate * (osc - b.at_) : Nat) : Int)), at_ := osc }

/-- The bucket of a shaper, refilled; full where it has not been used. -/
def Dev.bucket (s : Dev) (key rate cap : Nat) : Bucket :=
  match tfind s.sch.buckets key with
  | some b => b.refill s.osc rate cap
  | none => { level := ((cap * 125 : Nat) : Int), at_ := s.osc }

def Dev.shaperOk (s : Dev) (key rate cap : Nat) : Bool := rate == 0 || 0 ≤ (s.bucket key rate cap).level

def Dev.charge (s : Dev) (key rate cap n : Nat) : Dev :=
  if rate == 0 then s
  else
    let b := s.bucket key rate cap
    { s with sch := { s.sch with buckets := tput s.sch.buckets key { b with level := b.level - ((n * 125 : Nat) : Int) } } }

/-! Shapers of a port: 0 the port, 1 the control queue, 2 + n a partition, 66 + i a class, 578 + r a ring. -/
def shaperKey (p i : Nat) : Nat := p * 2 ^ 20 + i

/-- Rate and cap of a scheduling table entry (Table 7.9). -/
def entRate (w : Word) : Nat := bits w 45 28
def entCap (w : Word) : Nat := bits w 27 12 * 64

/-! ### What waits at a port (R147, R148) -/

/-- R148: the scheduling length. -/
def Dev.slen (s : Dev) (p len : Nat) : Nat :=
  (max 1 ((len : Int) + sext 9 (bits (s.st (Reg.schPortCfg p)) 8 0))).toNat

def QPkt.len (x : QPkt) : Nat := 64 + x.pkt.plen

/-- The leaf of a connection's packet. -/
def Dev.connLeaf (s : Dev) (c : Nat) (t : TxPkt) : Leaf :=
  let part := (s.connPart c).getD 0
  match t.req, t.op with
  | some _, _ => .response part (s.conn c).tc
  | none, some o => .ring part (s.conn c).tc o.1
  | none, none => .response part (s.conn c).tc

/-- A connection's packet as it stands in a port's tree. -/
def Dev.connPkt (s : Dev) (c : Nat) (t : TxPkt) : Option QPkt :=
  (s.connPlaces.find? fun x => x.conn == c && x.psn == t.psn).map fun x => {
    port := x.port, vc := x.vc, leaf := s.connLeaf c t, pkt := { hdr := setHdr t.hdr 75 72 x.vc }, at_ := t.at_, since := t.at_, conn := some c
    kind2 := x.escape }

/-- The packets the connections offer at a port, one each. -/
def Dev.connOffers (s : Dev) (p : Nat) : List QPkt :=
  s.conns.filterMap fun c => match s.nextTx c.1 with
    | some t => match s.connPkt c.1 t with
      | some x => if x.port == p then some x else none
      | none => none
    | none => none

/-- Every packet of a connection that waits for a port (R153). -/
def Dev.connWaiting (s : Dev) (p : Nat) : List QPkt :=
  s.conns.flatMap fun c => (c.2.tx.filter (·.due)).filterMap fun t => match s.connPkt c.1 t with
    | some x => if x.port == p then some x else none
    | none => none

/-- R278: the Pluck flits that stand in a port's output queue, 256 at most but for transit flits, which always find room. A flit
of this device waits for room behind them. -/
def Dev.pluckQueue (s : Dev) (p : Nat) : List QPkt :=
  (s.sch.q.filter fun x => x.port == p && isPluck x.pkt).foldl (fun l x => if x.inPort.isSome || l.length < 256 then l ++ [x] else l) []

def Dev.queued (s : Dev) (p : Nat) : List QPkt := s.sch.q.filter fun x => x.port == p && !x.kind2

/-- R218, R221: credit for the whole packet and room for its units. -/
def Dev.linkRoom (s : Dev) (p : Nat) (x : QPkt) : Bool :=
  let l := s.link p
  s.replaying || (l.credit x.vc (flitsOf x.pkt) && decide (l.held.length + flitsOf x.pkt ≤ 32768))

/-- A packet that may leave but for the fret: its link has room, its window is open, and no drain holds it (R69). -/
def Dev.unbarred (s : Dev) (p : Nat) (x : QPkt) : Bool :=
  s.linkRoom p x && (match x.conn with | some c => s.windowOpen c | none => true) &&
  !(decide (s.capo.st = .draining) && x.inPort.isNone && bit s.capo.drainMask x.vc)

/-! ### Frets (R50, R51) -/

/-- A packet is an owner of a fret. -/
def fretOwner (w : Word) (p : Packet) : Bool :=
  match tabKind w with
  | 1 => isChord p && p.f 267 256 == tabOwner w && p.f 303 296 == tabStep w
  | 2 => isStrum p && p.f 267 256 == tabOwner w
  | 3 => p.tc == tabOwner w % 8
  | _ => false

/-- A packet may use a fret. -/
def mayUse (w : Word) (ready : Word → Bool) (p : Packet) : Bool :=
  tabKind w == 0 || fretOwner w p || (tabFill w && !ready w)

/-- R50: from the fret `j` that begins at `b`, whether the packet fits before the first one it may not use; `lim` is
t + w + guard in 1/25 ru. -/
def Dev.fretFits (s : Dev) (p : Nat) (ready : Word → Bool) (q : Packet) (lim : Nat) : Nat → Nat → Nat → Bool
  | 0, _, _ => true
  | fuel + 1, j, b =>
    if lim ≤ b * 25 then true
    else if mayUse (s.tabEntry p j) ready q then
      s.fretFits p ready q lim fuel ((j + 1) % s.tabCount p) (b + tabLen (s.tabEntry p j) * 8192)
    else false

/-- t + w + guard of R50 in 1/25 ru, for a packet that starts now. -/
def Dev.fretEnd (s : Dev) (q : Packet) : Nat :=
  s.now * 25 + (64 + q.plen) * 128 + bits (s.st Reg.rlgTabGuard) 7 0 * 25600

/-- R48: the apply instant of an armed Capo that stages a Tablature counts as the start of a fret no packet may use. -/
def Dev.beforeApply (s : Dev) (q : Packet) : Bool :=
  (decide (s.capo.st ≠ .armed) && decide (s.capo.st ≠ .draining)) || !s.capo.sections.contains 3 || s.fretEnd q ≤ s.capo.applyAt * 25

def Dev.fretAdmits (s : Dev) (p : Nat) (ready : Word → Bool) (q : Packet) : Bool :=
  if !s.beforeApply q then false
  else if s.allOpen p s.now then true
  else match s.fretAt p s.now with
    | none => true
    | some (_, i, start) =>
      let w := s.tabEntry p i
      mayUse w ready q && s.fretFits p ready q (s.fretEnd q) (s.tabCount p + 1) ((i + 1) % s.tabCount p) (start + tabLen w * 8192)

/-- The current fret's entry, where a Tablature governs the port. -/
def Dev.curFret (s : Dev) (p : Nat) : Option Word :=
  if s.allOpen p s.now then none else (s.fretAt p s.now).map fun x => s.tabEntry p x.2.1

/-! ### The tree (Table 7.3, R149) -/

/-- The oldest of a list, the first where several are equally old. -/
def oldest (l : List QPkt) : Option QPkt :=
  l.foldl (fun b x => match b with
    | none => some x
    | some y => if x.at_.toNat < y.at_.toNat then some x else some y) none

def leafPart (l : Leaf) : Option Nat :=
  match l with
  | .ring n _ _ | .response n _ => some n
  | _ => none

def Leaf.cls (l : Leaf) : Nat :=
  match l with
  | .ring _ tc _ | .response _ tc | .transit tc _ => tc
  | .control => 0

/-- What a port's tree chooses from: what its leaves offer, the leaves that hold any packet, and which packet may start now. -/
structure Tree where
  all : List QPkt := []
  held : List Leaf := []
  may : QPkt → Bool := fun _ => false
  len : QPkt → Nat := fun _ => 0

/-- A leaf's head, where nothing bars it. -/
def Tree.head (t : Tree) (l : Leaf) : Option QPkt :=
  match oldest (t.all.filter fun x => decide (x.leaf = l)) with
  | some x => if t.may x then some x else none
  | none => none

/-- No packet waits at any of these leaves, those that its connection does not send now among them. -/
def Tree.none_ (t : Tree) (f : Leaf → Bool) : Bool := !t.all.any (fun x => f x.leaf) && !t.held.any f

def nodeKey (p k : Nat) : Nat := p * 1024 + k

/-- A traffic class of a partition: its rings and RESPONSE. -/
def Dev.classKids (s : Dev) (p : Nat) (t : Tree) (n tc : Nat) : Children :=
  { n := 257
    offer := fun c =>
      let l : Leaf := if c = 256 then .response n tc else .ring n tc (n * 256 + c)
      let w := s.st (schCell 2 (n * 256 + c))
      match t.head l with
      | some x => if c = 256 || s.shaperOk (shaperKey p (578 + n * 256 + c)) (entRate w) (entCap w) then some (t.len x) else none
      | none => none
    empty := fun c => t.none_ fun l => decide (l = (if c = 256 then .response n tc else .ring n tc (n * 256 + c)))
    quantum := fun c => 64 * (if c = 256 then bits (s.st (schCell 1 (8 * n + tc))) 57 46 else bits (s.st (schCell 2 (n * 256 + c))) 11 0) }

def Dev.pickClass (s : Dev) (p : Nat) (t : Tree) (n tc : Nat) (d : Drr) : Option (QPkt × Drr) :=
  match drrPick (nodeKey p (100 + 8 * n + tc)) (s.classKids p t n tc) d with
  | some (c, d) => (t.head (if c = 256 then .response n tc else .ring n tc (n * 256 + c))).map fun x => (x, d)
  | none => none

/-- A partition: its traffic classes. -/
def Dev.partKids (s : Dev) (p : Nat) (t : Tree) (n : Nat) (d : Drr) : Children :=
  { n := 8
    offer := fun tc =>
      let w := s.st (schCell 1 (8 * n + tc))
      match s.pickClass p t n tc d with
      | some (x, _) => if s.shaperOk (shaperKey p (66 + 8 * n + tc)) (entRate w) (entCap w) then some (t.len x) else none
      | none => none
    empty := fun tc => t.none_ fun l => leafPart l == some n && l.cls == tc
    quantum := fun tc => 64 * bits (s.st (schCell 1 (8 * n + tc))) 11 0 }

def Dev.pickPart (s : Dev) (p : Nat) (t : Tree) (n : Nat) (d : Drr) : Option (QPkt × Drr) :=
  match drrPick (nodeKey p (1 + n)) (s.partKids p t n d) d with
  | some (tc, d) => s.pickClass p t n tc d
  | none => none

/-- A transit class: its channels in turn, one packet a turn. -/
def Tree.pickTurn (t : Tree) (p tc : Nat) (d : Drr) : Option (QPkt × Drr) :=
  let k := nodeKey p (700 + tc)
  let cur := tget (fun _ => 0) d.cur k
  ((List.range 12).map fun i => (cur + i) % 12).findSome? fun v => match t.head (.transit tc v) with
    | some x => some (x, { d with cur := tset (fun _ => 0) d.cur k ((v + 1) % 12) })
    | none => none

def Dev.transitKids (s : Dev) (p : Nat) (t : Tree) (d : Drr) : Children :=
  { n := 8
    offer := fun tc => (t.pickTurn p tc d).map fun x => t.len x.1
    empty := fun tc => t.none_ fun l => match l with | .transit c _ => c == tc | _ => false
    quantum := fun tc => 64 * bits (s.st (schCell 3 tc)) 11 0 }

def Dev.pickTransit (s : Dev) (p : Nat) (t : Tree) (d : Drr) : Option (QPkt × Drr) :=
  match drrPick (nodeKey p 690) (s.transitKids p t d) d with
  | some (tc, d) => t.pickTurn p tc d
  | none => none

/-- The port root: 64 partitions and TRANSIT. -/
def Dev.rootKids (s : Dev) (p : Nat) (t : Tree) (d : Drr) : Children :=
  { n := 65
    offer := fun n =>
      if n = 64 then (s.pickTransit p t d).map fun x => t.len x.1
      else
        let w := s.st (schCell 0 n)
        match s.pickPart p t n d with
        | some (x, _) => if s.shaperOk (shaperKey p (2 + n)) (entRate w) (entCap w) then some (t.len x) else none
        | none => none
    empty := fun n => t.none_ fun l => if n = 64 then (match l with | .transit _ _ => true | _ => false) else leafPart l == some n
    quantum := fun n => 64 * (if n = 64 then bits (s.st (Reg.schPortCfg p)) 23 12 else bits (s.st (schCell 0 n)) 11 0) }

def portRate (w : Word) : Nat := bits w 57 40
def portCap (w : Word) : Nat := bits w 39 24 * 64

/-- R149: pick(port root), with the counters after. -/
def Dev.pickRoot (s : Dev) (p : Nat) (t : Tree) : Option (QPkt × Drr) :=
  let d : Drr := { deficit := s.sch.deficit, fresh := s.sch.fresh, cur := s.sch.cur }
  let w := s.st (Reg.schPortCfg p)
  if !s.shaperOk (shaperKey p 0) (portRate w) (portCap w) then none
  else match drrPick (nodeKey p 0) (s.rootKids p t d) d with
    | some (n, d) => if n = 64 then s.pickTransit p t d else s.pickPart p t n d
    | none => none

/-- take: every shaper on the packet's path is charged. -/
def Dev.chargePath (s : Dev) (p : Nat) (x : QPkt) (n : Nat) : Dev :=
  let w := s.st (Reg.schPortCfg p)
  let s := s.charge (shaperKey p 0) (portRate w) (portCap w) n
  let up := fun (s : Dev) (part tc : Nat) =>
    let a := s.st (schCell 0 part)
    let b := s.st (schCell 1 (8 * part + tc))
    (s.charge (shaperKey p (2 + part)) (entRate a) (entCap a) n).charge (shaperKey p (66 + 8 * part + tc)) (entRate b) (entCap b) n
  match x.leaf with
  | .ring part tc r =>
    let c := s.st (schCell 2 r)
    (up s part tc).charge (shaperKey p (578 + r)) (entRate c) (entCap c) n
  | .response part tc => up s part tc
  | _ => s

/-! ### A packet leaves (R45, R145, R218 to R222) -/

/-- R145: whether the packet is marked, by the bytes queued behind it and the count of packets before it. -/
def Dev.ecnMark (s : Dev) (p v q n : Nat) : Bool :=
  let w := s.st (Reg.schEcnCfg v)
  let kmin := bits w 15 0 * 4096
  let kmax := bits w 31 16 * 4096
  let r := (arx10 (s.ptnSeed 0) (BitVec.ofNat 64 (2 ^ 63 + 16 * p + v)) (BitVec.ofNat 64 n)).toNat % 65536
  if q < kmin then false
  else if kmax ≤ q || kmax ≤ kmin then true
  else decide (r * (kmax - kmin) < bits w 63 48 * (q - kmin))

/-- The units of a packet: its header flit and its payload flits, the last padded (R220). -/
def packetUnits (p : Packet) : List (BitVec 512) :=
  p.hdr :: (List.range (ceilDiv p.payload.length 64)).map fun i => BitVec.ofNat 512 (leAt p.payload (64 * i) 64)

/-- Flits sent on a channel of a link: SENT counts them (R222). -/
def Dev.sendFlits (s : Dev) (port vc kind : Nat) (us : List (BitVec 512)) : Dev :=
  let l := s.link port
  us.foldl (fun s u => s.sendUnit port kind u)
    (s.setLink port { l with sent := tset (fun _ => 0) l.sent vc (tget (fun _ => 0) l.sent vc + BitVec.ofNat 16 us.length) })

/-- A packet that still comes in is leaving cut-through by the port (R22). -/
def Dev.portBusy (s : Dev) (p : Nat) : Bool :=
  (List.range 16).any fun q => match (s.link q).rx, (s.link q).cut with
    | some (_, _, _ + 1, _), some (o, _) => o == p
    | _, _ => false

/-- The FOL_SCOPE attributes of a packet this device originates (R346), and its partition. -/
def Dev.txAttrs (s : Dev) (x : QPkt) : Nat × List (Nat × Nat) :=
  let ofConn := fun (c : Nat) => ((s.connPart c).getD 0x3F, s.connAttrs c)
  match x.leaf, x.conn, x.own with
  | .ring n _ r, some _, _ => (n, [(0, n), (1, r)])
  | _, some c, _ => ofConn c
  | .ring n _ r, none, _ => (n, [(0, n), (1, r), groupAttr x.pkt])
  | _, none, some c => ofConn c
  | _, none, none => (0x3F, if isChord x.pkt || isStrum x.pkt then [groupAttr x.pkt] else [])

/-- The packet starts on the port: its stamp, its mark, its credit and its units. Of a packet that still comes in, the rest
follows as it comes (R22). -/
def Dev.depart (s : Dev) (p : Nat) (x : QPkt) (k : Packet) : Dev :=
  let v := x.vc
  let h := setHdr k.hdr 75 72 v
  let h := if x.inPort.isSome then h
    else setHdr (setHdr h 111 80 (s.rlg.time.toNat / 1024 % 2 ^ 32)) 112 112 (b2n s.rlg.lock.stampOk)
  let n := (tget (fun _ => 0) s.sch.left (16 * p + v)).toNat
  let mark := !k.ecn && !isPluck k && s.ecnMark p v (s.queuedBytes p v) n
  let k : Packet := { k with hdr := if mark then setHdr h 79 79 1 else h }
  let s := if mark then s.bump (Reg.schEcnMarks p) else s
  let s : Dev := { s with sch := { s.sch with left := tset (fun _ => 0) s.sch.left (16 * p + v) (BitVec.ofNat 64 (n + 1)) } }
  let come := match x.inPort with | some q => s.arrived q x.pkt | none => flitsOf k
  let s := (if s.replaying then s else s.sendFlits p v (if isPluck k then 2 else 1) ((packetUnits k).take come)).freeRoom x
  let s := match x.inPort with
    | some q => if come < flitsOf k then s.setLink q { s.link q with cut := some (p, v) } else s
    | none => s
  let s := if x.inPort.isSome then s
    else
      let a := s.txAttrs x
      s.folPkt true a.1 p a.2 k
  let s := if p == 16 || s.replaying then s else s.emit (.packet p k)
  let s := if isPluck k && x.inPort.isNone then s.bump (Reg.plkCounts 0) else s
  if v % 3 == 2 && x.conn.isSome then s.bump Reg.rteAdaptHops else if x.conn.isSome && x.kind2 then s.bump Reg.rteEscapes else s

/-- The chosen packet leaves its queue. A connection's packet is built now (R132); nothing leaves where its source
waits or faults. -/
def Dev.send (s : Dev) (env : Env) (p : Nat) (x : QPkt) : Dev :=
  match x.conn with
  | some c => match s.nextTx c with
    | some t => match s.buildTx env c t with
      | (s, some k) => s.depart p x k
      | (s, none) => s
    | none => s
  | none => ({ s with sch := { s.sch with q := eraseFirst (· == x) s.sch.q } }).depart p x x.pkt

/-- R219: packets of connections that no route carries are refused, and those addressed to this device are its own. An
adaptive packet is dropped only once it has escaped (R217). -/
def Dev.sendUnrouted (s : Dev) (env : Env) : Dev :=
  s.conns.foldl (fun s c => match s.nextTx c.1 with
    | none => s
    | some t =>
      if !s.windowOpen c.1 then s
      else match s.placeTx s.queuedBytes t with
        | (.drop k, esc) => match s.buildTx env c.1 t with
          | (s, some _) =>
            let s := if esc then s.bump Reg.rteEscapes else s
            (s.setConn c.1 { s.conn c.1 with refused := k == 0 || k == 1 }).bump (Reg.rteDrops k)
          | (s, none) => s
        | (.here, _) => match s.buildTx env c.1 t with
          | (s, some p) => s.toLocal p 16
          | (s, none) => s
        | _ => s) s

/-- R138: packets that wait to be sent need the context of their connection. -/
def Dev.fetchForTx (s : Dev) : Dev :=
  s.conns.foldl (fun s c => if decide ((s.conn c.1).st = .active) && (s.conn c.1).tx.any (·.due) then s.ctxWant c.1 else s) s

/-- Table 7.4, step 1: the Pluck flits whose channels hold credit leave between the flits of any packet (R278). -/
def Dev.insertFlits (s : Dev) (env : Env) (p : Nat) : Dev :=
  (s.pluckQueue p).foldl (fun s x => if s.unbarred p x then s.send env p x else s) s

/-- R151, Table 7.4: the packet a port starts, and whether the tree chose it. Only the head of a leaf may start. -/
def Dev.choose (s : Dev) (p : Nat) : Option (QPkt × Option Drr) :=
  let all := (s.queued p).filter (fun x => !isPluck x.pkt) ++ s.connOffers p
  let heads := all.filter fun x => oldest (all.filter fun y => decide (y.leaf = x.leaf)) == some x
  let ready := fun w => heads.any fun x => fretOwner w x.pkt && s.unbarred p x
  let ok := fun (x : QPkt) => s.unbarred p x && s.fretAdmits p ready x.pkt
  let owner := match s.curFret p with
    | some w => oldest (heads.filter fun x => fretOwner w x.pkt && ok x)
    | none => none
  match owner with
  | some x => some (x, none)
  | none =>
    let cw := s.st (Reg.schPortCtrl p)
    let ctl := match all.find? (fun x => decide (x.leaf = .control)) with
      | some x => if ok x && s.shaperOk (shaperKey p 1) (bits cw 17 0) (bits cw 33 18 * 64) then some x else none
      | none => none
    match ctl with
    | some x => some (x, none)
    | none =>
      let t : Tree := {
        all := all.filter fun x => decide (x.leaf ≠ .control), held := (s.connWaiting p).map (·.leaf), may := ok, len := fun x => s.slen p x.len }
      (s.pickRoot p t).map fun r => (r.1, some r.2)

/-- PORT_PACKET_START on a fabric port. -/
def Dev.portStart (s : Dev) (env : Env) (p : Nat) : Dev :=
  let s := ((s.enter env).fetchForTx.retryAdaptive).sendUnrouted env
  if !s.usable p then s
  else
    let s := s.insertFlits env p
    match if s.portBusy p then none else s.choose p with
    | none => s
    | some (x, some d) =>
      let s : Dev := { s with sch := { s.sch with deficit := d.deficit, fresh := d.fresh, cur := d.cur } }
      (s.chargePath p x (s.slen p x.len)).send env p x
    | some (x, none) =>
      let cw := s.st (Reg.schPortCtrl p)
      let owner := (s.curFret p).any fun w => fretOwner w x.pkt
      let s := if decide (x.leaf = .control) && !owner then
          s.charge (shaperKey p 1) (bits cw 17 0) (bits cw 33 18 * 64) (s.slen p x.len) else s
      s.send env p x

/-! ### Queue sampling (R153, R154) -/

def depthBin (n : Nat) : Nat :=
  if n == 0 then 0 else if n < 4096 then 1 else if n < 16384 then 2 else if n < 65536 then 3 else if n < 262144 then 4
  else if n < 1048576 then 5 else if n < 4194304 then 6 else 7

/-- The bin of a delay in ru. -/
def delayBin (d : Nat) : Nat :=
  let n := d / 1024
  if n < 100 then 1 else if n < 1000 then 2 else if n < 10000 then 3 else if n < 100000 then 4
  else if n < 1000000 then 5 else if n < 10000000 then 6 else 7

/-- A histogram bin of the queue `q` (SCH_HIST_SEL), kind 0 depth and 1 delay. -/
def histKey (q kind bin : Nat) : Nat := (q * 2 + kind) * 8 + bin

def addBin (t : Tbl (BitVec 16)) (k : Nat) : Tbl (BitVec 16) :=
  tset (fun _ => 0) t k (BitVec.ofNat 16 (min (((tget (fun _ => 0) t k).toNat) + 1) 0xFFFF))

/-- Bytes of the copy of a queue's sample in the tap's channel (DESIGN CHOICE). -/
def histCopy : Nat := 8

/-- What a queue of a port holds: the scheduling length and the launch or arrival of each packet. -/
abbrev Waiting := List (Nat × Word)

/-- R153: a queue's depth and delay are counted in its histograms, and in the management plane's copies where the tap's channel
takes the sample (R18). -/
def Dev.sampleQueue (s : Dev) (q : Nat) (l : Waiting) : Dev :=
  let depth := depthBin ((l.map (·.1)).sum)
  let old := l.foldl (fun m x => max m (s.rlg.time - x.2).toNat) 0
  let delay := if l.isEmpty then 0 else delayBin old
  let f := fun (t : Tbl (BitVec 16)) => addBin (addBin t (histKey q 0 depth)) (histKey q 1 delay)
  let ok := s.tapFits histCopy
  { s.tapTake histCopy with sch := { s.sch with hist := f s.sch.hist, histMgmt := if ok then f s.sch.histMgmt else s.sch.histMgmt } }

/-- The packets of `n` bytes that are still to be made, each with a header. -/
def Dev.unsent (s : Dev) (p n : Nat) : List Nat :=
  (List.range (ceilDiv n 4096)).map fun i => s.slen p (64 + min 4096 (n - 4096 * i))

/-- The unsent packets of launched Strum commands (R153), each at the port of its message's deterministic route, its spilled
part included (DESIGN CHOICE: that part has no port before it leaves). -/
def Dev.stmUnsent (s : Dev) (p part tc : Nat) : Waiting :=
  s.stm.runs.flatMap fun x =>
    let d := chdDef s.st x.1
    match (s.exch x.1).run with
    | some r =>
      if d.part != part || d.tc != tc || decide (x.2.phase ≠ .data) then []
      else
        let at_ := ((s.op? r.ring r.pos).map (·.at_)).getD s.rlg.time
        (x.2.outs.filter fun o => o.port == p).flatMap fun o => (s.unsent p (o.len - o.next)).map fun n => (n, at_)
    | none => []

/-- The READ Responses that wait for an Ethernet port (R378). -/
def Dev.respUnsent (s : Dev) (p part tc : Nat) : Waiting :=
  (s.qps.filter fun q => Qp.port q.2 + 14 == p && Qp.part q.2 == part && bits q.2.cfg 130 128 == tc).flatMap fun q =>
    q.2.resp.map fun f => (s.slen p f.2.length, f.1)

/-- Every queue of a port. -/
def Dev.sample (s : Dev) (p : Nat) : Dev :=
  let all := (s.queued p ++ s.connWaiting p).map fun x => (x.leaf, s.slen p x.len, x.since)
  let at_ := fun (f : Leaf → Bool) => (all.filter fun x => f x.1).map (·.2)
  let s := (List.range 512).foldl (fun s i =>
    s.sampleQueue (512 * p + i) (at_ (fun l => leafPart l == some (i / 8) && l.cls == i % 8) ++ s.stmUnsent p (i / 8) (i % 8)
      ++ s.respUnsent p (i / 8) (i % 8))) s
  (List.range 12).foldl (fun s v => s.sampleQueue (8192 + 12 * p + v) (at_ fun l => match l with | .transit _ w => w == v | _ => false)) s

/-! ### Congestion map records and telemetry (R231 to R233) -/

/-- The 64 bytes of a record (Table 10.9). -/
def CmapRec.bytes (r : CmapRec) : List Byte :=
  leBytes 48 r.levels.toNat ++ leBytes 8 r.time.toNat ++ leBytes 4 r.seq.toNat ++ leBytes 2 r.entry.toNat ++ [r.flags, 0]

def Dev.cmapSlot (s : Dev) (k : Nat) : CmapRec := tget (fun _ => {}) s.rte.cmap (k % 1024)

/-- R233: a TELEMETRY packet, once BATCH records are new. -/
def Dev.telemetrySend (s : Dev) : Dev :=
  let w := s.st Reg.rteTelemCfg
  let b := bits w 6 0
  let n := if b == 0 || 64 < b then 64 else b
  if !bit w 7 || (s.rte.cmapNext - s.rte.telemFrom).toNat < n then s
  else
    let from_ := s.rte.telemFrom
    let body := (List.range n).flatMap fun i => (s.cmapSlot (from_.toNat + i)).bytes
    let h := mkHdr [(0, bits w 63 32), (32, s.node), (64, 0x30), (76, bits w 14 12), (120, 64 * n), (160, from_.toNat), (192, n)]
    let s : Dev := { s with rte := { s.rte with telemFrom := from_ + BitVec.ofNat 32 n } }
    ((s.join .control none none none (sealIcrc { hdr := h, payload := body }) false).1).bump Reg.rteTelemTxCount

/-- R232: one record. -/
def Dev.cmapTake (s : Dev) (entry : Nat) : Dev :=
  let lv := (List.range 192).foldl (fun a i => a + at_ (2 * i) (s.level (i / 12) (i % 12))) 0
  let r : CmapRec := {
    levels := BitVec.ofNat 384 lv, time := s.rlg.time, seq := s.rte.cmapNext, entry := BitVec.ofNat 16 entry
    flags := if s.rlg.lock.stampOk then 0 else 1 }
  let on := bit (s.st Reg.rteTelemCfg) 7
  let ok := s.tapFits 64
  let s : Dev := { s.tapTake 64 with rte := { s.rte with
    cmap := tset (fun _ => {}) s.rte.cmap (s.rte.cmapNext.toNat % 1024) r
    cmapGone := s.rte.cmapGone.filter (fun q => (s.rte.cmapNext - q).toNat < 1024) ++ (if ok then [] else [s.rte.cmapNext])
    cmapNext := s.rte.cmapNext + 1
    telemFrom := if on then s.rte.telemFrom else s.rte.cmapNext + 1 } }
  s.telemetrySend

def Dev.clockPort (s : Dev) : Nat := bits (s.st Reg.rteCmapCfg) 51 48

/-- FRET_BOUNDARY (R49, R153, R232). -/
def Dev.fretBoundary (s : Dev) (p : Nat) : Dev :=
  match s.fretAt p s.now with
  | none => s
  | some (c, i, _) =>
    let x := s.rlgPort p
    if x.fret == (c + 1, i) then s
    else
      let s := (s.setRlgPort p { x with fret := (c + 1, i) }).sample p
      if s.clockPort == p then s.cmapTake i else s

def execFretBoundary (port : Fin 16) (s : State) : Host.Outcome State Fault Refusal :=
  onDev (fun s => s.fretBoundary port) s

/-- IDLE_PERIOD_SAMPLE (R153, R232). -/
def Dev.idleSample (s : Dev) (p : Nat) : Dev :=
  let period := bits (s.st Reg.schHistCfg) 19 0
  if s.tabCount p != 0 || period == 0 || s.osc < tget (fun _ => 0) s.sch.idleAt p + nsTicks period then s
  else
    let s : Dev := { s with sch := { s.sch with idleAt := tset (fun _ => 0) s.sch.idleAt p s.osc } }
    let s := s.sample p
    if s.clockPort == p then s.cmapTake 0xFFFF else s

def execIdlePeriodSample (port : Fin 16) (s : State) : Host.Outcome State Fault Refusal :=
  onDev (fun s => s.idleSample port) s

/-- Four bins of a histogram from bin `b`. -/
def histWord (t : Tbl (BitVec 16)) (q kind b : Nat) : Word :=
  BitVec.ofNat 64 ((List.range 4).foldl (fun a i => a + at_ (16 * i) (tget (fun _ => 0) t (histKey q kind (b + i))).toNat) 0)

/-- A histogram emptied. -/
def histClear (t : Tbl (BitVec 16)) (q kind : Nat) : Tbl (BitVec 16) :=
  t.filter fun x => !(histKey q kind 0 ≤ x.1 && x.1 < histKey q kind 8)

/-- HIST_READ (R154): a read of SCH_HIST_DATA0. -/
def Dev.histRead (s : Dev) : Dev :=
  let w := s.reg Reg.schHistSel
  let q := bits w 13 0
  let k := bits w 16 16
  let v := histWord s.sch.hist q k 0
  let s : Dev := { s with sch := { s.sch with snap1 := histWord s.sch.hist q k 4, hist := histClear s.sch.hist q k } }
  s.emit (.value v)

def execHistRead (v : View) (s : State) : Host.Outcome State Fault Refusal :=
  onDev (fun s => match v with
    | .vf _ => s.emit (.value 0)
    | _ => if s.inReset Reg.schHistData0 then (s.hostErr v Reg.schHistData0 0x06 0).emit (.value 0) else s.histRead) s

/-! ### Ingress meters (R155) -/

/-- A meter's colours. -/
inductive Colour where
  | green | yellow | red
  deriving DecidableEq, Repr

/-- R155: the colour of a unit of `b` bytes at meter m; the tokens it takes. -/
def Dev.meter (s : Dev) (m b : Nat) : Dev × Colour :=
  let c0 := s.st (Reg.polMeterCfg0 m)
  let c1 := s.st (Reg.polMeterCfg1 m)
  if !bit c1 57 then (s, .green)
  else
    let cbs := bits c1 23 0
    let pbs := bits c1 47 24
    let full := fun (n : Nat) => ({ level := ((n * 125 : Nat) : Int), at_ := s.osc } : Bucket)
    let tc := match tfind s.sch.tc m with | some x => x.refill s.osc (bits c0 17 0) cbs | none => full cbs
    let tp := match tfind s.sch.tp m with | some x => x.refill s.osc (bits c0 37 20) pbs | none => full pbs
    let n : Int := ((b * 125 : Nat) : Int)
    let put := fun (tc tp : Bucket) => ({ s with sch := { s.sch with tc := tput s.sch.tc m tc, tp := tput s.sch.tp m tp } } : Dev)
    if tp.level < n then (put tc tp, .red)
    else if tc.level < n then (put tc { tp with level := tp.level - n }, .yellow)
    else (put { tc with level := tc.level - n } { tp with level := tp.level - n }, .green)

/-- R156: the bytes of a unit counted under its colour. -/
def Dev.meterCount (s : Dev) (m b : Nat) (c : Colour) : Dev :=
  s.bumpBy (match c with | .green => Reg.polGreen m | .yellow => Reg.polYellow m | .red => Reg.polRed m) b

end Sys2Proof.Machine
end

