-- ==== Sys2Proof/Machine/Group.lean ====
section
/-! DEFINITION. What chord slots and Strum exchanges share (chapter 11): definitions, sequences, signatures, deadlines,
staging credit, aborts, and the launch and end of an operation. In every function `ex` tells an exchange from a slot. -/

namespace Sys2Proof.Machine

/-! ### Deadlines (R245) -/

/-- R245: the deadline of a wait in a step's window. Without a period the window counts from the wait (DESIGN CHOICE). -/
def Dev.deadline (s : Dev) (d : ChdDef) (step start : Nat) : Nat :=
  let x := d.steps.getD step {}
  let ws := x.winStart * 8192
  let we := x.winEnd * 8192
  let per := s.tabPeriod
  let slack := (if d.slack == 0 then bits (s.st Reg.chdCfg) 31 0 else d.slack) * 1024
  if per == 0 then start + we + slack
  else
    let t := (start + 2 ^ 96 - s.tabAnchor) % 2 ^ 96
    let c := if ws < t % per then t / per + 1 else t / per
    (s.tabAnchor + c * per + we + slack) % 2 ^ 96

/-- The waits in progress are those listed, (edge, credit?, segments used, step): one that goes on keeps its deadline,
a new one starts now. -/
def Dev.keepWaits (s : Dev) (d : ChdDef) (old : List Wait) (now : List (Nat × Bool × Nat × Nat)) : List Wait :=
  now.map fun n =>
    match old.find? fun w => w.edge == n.1 && w.credit == n.2.1 && w.seg == n.2.2.1 && w.step == n.2.2.2 with
    | some w => w
    | none => { edge := n.1, credit := n.2.1, seg := n.2.2.1, step := n.2.2.2, deadline := s.deadline d n.2.2.2 s.now }

/-! ### Ending (R246 to R250) -/

/-- The status with which a recorded or received ABORT ends an operation (Table 11.6). -/
def abortStatus (code off me : Nat) : Nat :=
  if code == 1 then stMismatch else if code == 2 && off == me then stTimeout else stAborted

def isG (st : Nat) : Bool := st == stMismatch || st == stTimeout || st == stAborted

/-- DETAIL of an operation that ended (Table 5.5). -/
def Dev.grpDetail (s : Dev) (k seq st off step key : Nat) : Nat :=
  if st == 0 then 0
  else if isG st then k + at_ 12 seq + at_ 28 (off % 65536) + at_ 44 (step % 256)
  else if st == stScore then k + at_ 12 seq
  else s.localDetail st (BitVec.ofNat 32 key)

/-- How an operation of a slot or exchange ended. -/
structure GrpEnd where
  st : Nat := 0
  code : Nat := 0
  off : Nat := 0xFFFF
  step : Nat := 0
  /-- ABORTs are sent, to every edge but `skip` -/
  abort : Bool := false
  skip : Option Nat := none
  /-- this device issues the abort, and posts the record -/
  issuer : Bool := false
  bytes : Nat := 0
  key : Nat := 0
  /-- DETAIL where the entry was refused at launch -/
  refused : Option Nat := none
  /-- the count of an operation that ended well, where it is not OPS_OK -/
  okCnt : Option Nat := none
  deriving DecidableEq, Repr

/-- The operation of sequence `seq` has ended: aborts, counts, CHD_LAST_ABORT, the entry's outcome, and the slot idle
again with credit for its next operation. -/
def Dev.grpDone (s : Dev) (ex : Bool) (k : Nat) (d : ChdDef) (ring : Nat) (pos : BitVec 32) (seq : BitVec 16) (sig : Word)
    (z : GrpEnd) : Dev :=
  let x := s.grp ex k
  let x := if z.code == 0 then x else { x with
    lastSeq := seq
    lastOff := BitVec.ofNat 16 z.off
    lastStatus := BitVec.ofNat 8 z.st
    lastStep := BitVec.ofNat 8 z.step
    lastCode := BitVec.ofNat 4 z.code }
  let s := s.setGrp ex k { x with run := none, early := [], limits := [], used := [], credit := [], flits := [] }
  let s : Dev := if ex then { s with stm := { s.stm with runs := terase s.stm.runs k } } else s
  let s := if z.abort then s.sendAborts ex k d ring seq.toNat sig z.code z.off z.step z.skip z.issuer else s
  let s := if z.st == 0 then (match z.okCnt with | some c => s.bump c | none => s.grpBump ex .ok) else if z.st == stMismatch then s.grpBump ex .mismatch
    else if z.st == stTimeout then s.grpBump ex .timeout else s
  let s := s.finish ring pos {
    status := BitVec.ofNat 8 z.st
    bytes := BitVec.ofNat 64 z.bytes
    detail := BitVec.ofNat 64 (z.refused.getD (s.grpDetail k seq.toNat z.st z.off z.step z.key)) }
  let s := if ex then s else s.firstCredit k d ring
  s.settle

/-- R247: every destination byte the operation has written is to be zero before its entry completes, and every one of a
PLK_SCALAR that ends with a G status (R283). -/
def Dev.zeroFill (s : Dev) (r : ChdRun) (st : Nat) : Dev :=
  s.setOp r.ring r.pos fun o => match o.entry.writesKey with
    | some key => { o with
        zero := (if o.entry.isScalar && isG st then [(o.entry.f 287 224, 8 * o.entry.nval)] else r.wrote).map fun w => (key, w) }
    | none => o

/-- The running operation of a slot or exchange ends. -/
def Dev.grpStop (s : Dev) (ex : Bool) (k : Nat) (d : ChdDef) (z : GrpEnd) : Dev :=
  match (s.grp ex k).run with
  | none => s
  | some r =>
    let s := if z.st == 0 then s else s.zeroFill r z.st
    s.grpDone ex k d r.ring r.pos r.seq r.sig z

/-- The step of the first wait in progress, for an end that names no other. -/
def ChdRun.step (r : ChdRun) : Nat := match r.waits with | w :: _ => w.step | [] => 0

/-- R249: the member ends the running operation for a cause of its own. -/
def Dev.grpOwn (s : Dev) (ex : Bool) (k : Nat) (d : ChdDef) (st key : Nat) : Dev :=
  match (s.grp ex k).run with
  | none => s
  | some r => s.grpStop ex k d { st := st, code := 3, off := d.me, step := r.step, abort := true, issuer := true, key := key }

/-- R245: the first wait of the running operation whose deadline has passed. -/
def Dev.grpLate (s : Dev) (ex : Bool) (k : Nat) (d : ChdDef) : Dev :=
  match (s.grp ex k).run with
  | none => s
  | some r =>
    match r.waits.find? fun w => w.deadline ≤ s.now && r.waits.all fun v => w.deadline ≤ v.deadline with
    | none => s
    | some w => s.grpStop ex k d {
        st := stAborted, code := 2, off := d.member w.edge, step := w.step, abort := true, issuer := true }

/-- R244: signatures disagree. -/
def Dev.grpMismatch (s : Dev) (ex : Bool) (k : Nat) (d : ChdDef) (off step : Nat) : Dev :=
  s.grpStop ex k d { st := stMismatch, code := 1, off := off, step := step, abort := true, issuer := true }

/-! ### Sequences (R243) -/

/-- How a packet's sequence stands to a slot's. -/
inductive SeqCase where
  /-- the running operation's -/
  | cur
  /-- the next, while the slot is idle -/
  | next
  /-- the next, while an operation runs -/
  | nextBusy
  | ahead
  | stale
  deriving DecidableEq, Repr

def Slot.seqCase (x : Slot) (n : Nat) : SeqCase :=
  let d := (n + 65536 - x.nextSeq.toNat) % 65536
  match x.run with
  | some r => if n == r.seq.toNat then .cur else if d == 0 then .nextBusy else if d ≤ 32767 then .ahead else .stale
  | none => if d == 0 then .next else if d ≤ 32767 then .ahead else .stale

/-- R250: an ABORT recorded for an operation to come. A repeated one is kept once (DEDUCED). -/
def Dev.recordAbort (s : Dev) (ex : Bool) (k : Nat) (d : ChdDef) (p : Pend) : Dev :=
  let x := s.grp ex k
  if x.pend.any fun q => q.seq == p.seq then s
  else
    let l := x.pend ++ [p]
    let s := s.setGrp ex k { x with pend := if 4 < l.length then l.drop 1 else l }
    let s := if 4 < l.length then s.grpBump ex .lost else s
    if d.notifyEn then s.ctrSignal d.part d.notify true else s

/-- R246, R250: an ABORT of a slot or exchange arrives. -/
def Dev.grpAbort (s : Dev) (ex : Bool) (k : Nat) (d : ChdDef) (p : Packet) : Dev :=
  let code := p.f 431 428
  if code == 0 || 4 < code then s.grpBump ex .stale
  else
    let s := s.grpBump ex .abortRx
    let off := p.f 447 432
    let step := p.f 303 296
    let r : Pend := { seq := BitVec.ofNat 16 (p.f 287 272), code := BitVec.ofNat 4 code, offender := BitVec.ofNat 16 off, step := BitVec.ofNat 8 step }
    match (s.grp ex k).seqCase (p.f 287 272) with
    | .cur => s.grpStop ex k d {
        st := abortStatus code off d.me, code := code, off := off, step := step, abort := true, skip := d.edgeOf p.src }
    | .next | .nextBusy | .ahead => s.recordAbort ex k d r
    | .stale => s.grpBump ex .stale

/-! ### Launch (R103, R238, R242, R249, R250) -/

/-- A command of a slot or exchange at its launch. `has` tells whether the slot has the shape the opcode needs, `bad`
the launch check that fails, `sig` the signature for a sequence, and `start` starts the operation. -/
def Dev.grpLaunch (s : Dev) (r : Nat) (e : Entry) (ex : Bool) (has : ChdDef → Bool) (bad : Option ChdDef → Option (Nat × Nat))
    (sig : Nat → Word) (start : Dev → ChdDef → Dev) : Dev :=
  let k := e.slot
  let part := ringPart r
  let failed := s.depFailed r e
  if e.scoreChanged then s.endEntry r e stScore k 0
  else
    let d := (s.grpDef ex k).filter fun d => d.part == part && has d
    match d with
    | none =>
      if failed then s.endEntry r e stDependency e.waitIdx 0
      else match bad none with
        | some (reason, off) => if reason == 0x05 then s.refuse r e reason off else s.refuse r e 0x0A 16
        | none => s.refuse r e 0x0A 16
    | some d =>
      let x := s.grp ex k
      let seq := x.nextSeq
      let g := sig seq.toNat
      let x := { x with nextSeq := seq + 1, pend := x.pend.filter fun p => p.seq != seq }
      let other := match x.early.findSome? fun y => (((y.sig, y.src) :: y.others).find? fun q => q.1 != g).map fun q => (q.2.toNat, y.step) with
        | some p => some p
        | none => (x.flits.find? fun y => y.2.2.2.2 != g).map fun y => (d.member y.1, d.inStep y.1)
      match (s.grp ex k).pend.find? fun p => p.seq == seq with
      | some p =>
        (s.setGrp ex k x).grpDone ex k d r e.pos seq g {
          st := abortStatus p.code.toNat p.offender.toNat d.me, code := p.code.toNat, off := p.offender.toNat, step := p.step.toNat }
      | none =>
        let own : GrpEnd := { code := 3, off := d.me, abort := true, issuer := true }
        match failed, bad (some d) with
        | true, _ => (s.setGrp ex k x).grpDone ex k d r e.pos seq g { own with st := stDependency, refused := some e.waitIdx }
        | false, some (reason, off) =>
          (s.setGrp ex k x).grpDone ex k d r e.pos seq g { own with st := stMalformed, refused := some (reason + at_ 16 off) }
        | false, none =>
          match other with
          | some (off, step) =>
            (s.setGrp ex k x).grpDone ex k d r e.pos seq g {
              st := stMismatch, code := 1, off := off, step := step, abort := true, issuer := true }
          | none =>
            let run : ChdRun := { ring := r, pos := e.pos, opcode := BitVec.ofNat 8 e.opcode, seq := seq, sig := g, began := s.now }
            start (s.setGrp ex k { x with run := some run }) d

/-- The operand of a chord, Pluck or Strum command is checked over its whole range; the member ends for a cause of its
own where the check fails (R165, R249). -/
def Dev.grpOperand (s : Dev) (ex : Bool) (k : Nat) (d : ChdDef) (ring : Nat) (pos : BitVec 32) (key : BitVec 32) (a n need : Nat)
    (cont : Dev → Dev) : Dev :=
  match s.keyCheck key d.part a n need with
  | (s, some st) => s.grpOwn ex k d st key.toNat
  | (s, none) => cont (s.setOp ring pos fun o => { o with keys := key :: o.keys })

/-- A write to NEXT_SEQ of a slot or exchange: taken while it is idle, when the pending-abort list empties (R250, R253,
R294). -/
def Dev.seqWrite (s : Dev) (v : View) (ex : Bool) (k off : Nat) (w : Word) : Dev :=
  match s.grpDef ex k with
  | none => s.hostErr v off 0x02 w
  | some d =>
    let x := s.grp ex k
    if x.run.isSome then s.hostErr v off 0x02 w
    else
      let s := s.setGrp ex k { x with nextSeq := BitVec.ofNat 16 (bits w 15 0), pend := [], early := [], flits := [], credit := [] }
      if ex then s else s.firstCredit k d (d.part * 256)

/-- A packet for this device leaves the list of packets for local processing and is recorded by the Folio. None where it
is not there. -/
def Dev.takeLocal (s : Dev) (port : Nat) (p : Packet) (part : Nat) : Option Dev :=
  match s.rte.local_.find? fun q => q.1 == p && (q.2.1 == port || q.2.1 == 16) && s.whole q.2.1 p with
  | none => none
  | some q =>
    let s : Dev := { s with rte := { s.rte with local_ := eraseFirst (· == q) s.rte.local_ } }
    some (s.folPkt false part q.2.1 [(0, part), groupAttr p] p)

end Sys2Proof.Machine
end

