-- ==== Sys2Proof/Machine/Reduce.lean ====
section
/-! DEFINITION. The arithmetic of exact reduction (chapter 12): conversion, operators, rounding, carried forms. -/

namespace Sys2Proof

def DType.ofCode (c : Nat) : Option DType :=
  match c with
  | 0 => some .fp32 | 1 => some .bf16 | 2 => some .fp16 | 3 => some .e4m3 | 4 => some .e5m2
  | 5 => some .mx4 | 6 => some .mx5 | 7 => some .int32 | 8 => some .int64 | _ => none

def DType.isMx : DType → Bool
  | .mx4 | .mx5 => true
  | _ => false

def DType.isInt : DType → Bool
  | .int32 | .int64 => true
  | _ => false

/-- Element bytes of an input encoding, without the scale byte of an MX block. -/
def DType.bytes : DType → Nat
  | .fp32 | .int32 => 4
  | .bf16 | .fp16 => 2
  | .int64 => 8
  | _ => 1

def Rop.ofCode (c : Nat) : Option Rop :=
  match c with
  | 0 => some .sum | 1 => some .max | 2 => some .min | 3 => some .and | 4 => some .or | 5 => some .xor
  | _ => none

end Sys2Proof

namespace Sys2Proof.Machine

/-- The parameters of an element format (Table 12.2). -/
def fmtExpBits : DType → Nat
  | .fp32 | .bf16 => 8
  | .fp16 | .e5m2 | .mx5 => 5
  | _ => 4

def fmtBias : DType → Int
  | .fp32 | .bf16 => 127
  | .fp16 | .e5m2 | .mx5 => 15
  | _ => 7

def fmtMant : DType → Nat
  | .fp32 => 23
  | .bf16 => 7
  | .fp16 => 10
  | .e5m2 | .mx5 => 2
  | _ => 3

/-- E4M3 has no infinity, and its only NaNs are exponent 15 with mantissa 7 (Table 12.2). -/
def fmtHasInf : DType → Bool
  | .e4m3 | .mx4 => false
  | _ => true

/-- R116: the combinations of input type, output type and operator that a combining command accepts. -/
def typeOk (d o : DType) (r : Rop) : Bool :=
  if d.isInt then decide (o = d)
  else !o.isInt && (decide (r = Rop.sum) || decide (r = Rop.max) || decide (r = Rop.min))

/-- Flag bits of Table 12.1. -/
def flNan : Byte := 1
def flPinf : Byte := 2
def flNinf : Byte := 4
def flNegzero : Byte := 8

/-- R256: exact conversion of an element; `xs` is the scale exponent of an MX element, 0 otherwise. -/
def convertFloat (d : DType) (x : Nat) (xs : Int) : Acc :=
  let mb := fmtMant d
  let eb := fmtExpBits d
  let m := x % 2 ^ mb
  let e := x / 2 ^ mb % 2 ^ eb
  let s := x / 2 ^ (mb + eb) % 2 == 1
  let top := 2 ^ eb - 1
  let nan := if fmtHasInf d then e == top && m != 0 else e == top && m == 2 ^ mb - 1
  if nan then { fl := flNan }
  else if fmtHasInf d && e == top then { fl := if s then flNinf else flPinf }
  else
    let mag : Nat :=
      if e == 0 then m <<< (161 - fmtBias d - mb + xs).toNat
      else (m + 2 ^ mb) <<< (160 + e - fmtBias d - mb + xs).toNat
    if mag == 0 then { fl := if s then flNegzero else 0 }
    else { a := if s then -(BitVec.ofNat 320 mag) else BitVec.ofNat 320 mag }

/-- R257: an MX element under its E8M0 scale code; scale 0xFF makes every element of the block NaN. -/
def convertMx (d : DType) (x scale : Nat) : Acc :=
  if scale == 0xFF then { fl := flNan } else convertFloat d x ((scale : Int) - 127)

/-- R258: a signed integer element, sign-extended. -/
def convertInt (d : DType) (x : Nat) : Acc :=
  { a := if d = .int32 then (BitVec.ofNat 32 x).signExtend 320 else (BitVec.ofNat 64 x).signExtend 320 }

def convert (d : DType) (x scale : Nat) : Acc :=
  if d.isInt then convertInt d x
  else if d.isMx then convertMx d x scale
  else convertFloat d x 0

/-- R260: the place of a value in the total order of MAX and MIN; NaNs are dealt with before. -/
def orderKey (x : Acc) : Int × Int × Int :=
  if x.fl &&& flNinf != 0 then (-1, 0, 0)
  else if x.fl &&& flPinf != 0 then (1, 0, 0)
  else (0, x.a.toInt, if x.fl &&& flNegzero != 0 then 0 else 1)

def keyLe (x y : Int × Int × Int) : Bool :=
  x.1 < y.1 || (x.1 == y.1 && (x.2.1 < y.2.1 || (x.2.1 == y.2.1 && x.2.2 ≤ y.2.2)))

/-- R259 to R261: combining two values. -/
def combine (d : DType) (op : Rop) (x y : Acc) : Acc :=
  match op with
  | .sum =>
    if d.isInt then { a := x.a + y.a }
    else { a := x.a + y.a,
           fl := ((x.fl ||| y.fl) &&& 7) ||| (x.fl &&& y.fl &&& flNegzero) }
  | .and => { a := x.a &&& y.a }
  | .or => { a := x.a ||| y.a }
  | .xor => { a := x.a ^^^ y.a }
  | .max =>
    if d.isInt then (if x.a.toInt < y.a.toInt then { a := y.a } else { a := x.a })
    else if (x.fl ||| y.fl) &&& flNan != 0 then { fl := flNan }
    else if keyLe (orderKey x) (orderKey y) then y else x
  | .min =>
    if d.isInt then (if y.a.toInt < x.a.toInt then { a := y.a } else { a := x.a })
    else if (x.fl ||| y.fl) &&& flNan != 0 then { fl := flNan }
    else if keyLe (orderKey x) (orderKey y) then x else y

/-- What rounding one element wrote, and which of RED_COUNTS it adds to (R274). -/
def encodeSign (d : DType) (s : Bool) (body : Nat) : Nat :=
  if s then body + 2 ^ (fmtMant d + fmtExpBits d) else body

/-- Table 12.6: canonical NaN. -/
def qnan : DType → Nat
  | .fp32 => 0x7FC00000 | .bf16 => 0x7FC0 | .fp16 => 0x7E00 | .e5m2 | .mx5 => 0x7E | _ => 0x7F

/-- Table 12.6: the code of an infinite result, sign apart; E4M3 has none and takes 0x7F. -/
def infCode : DType → Nat
  | .fp32 => 0x7F800000 | .bf16 => 0x7F80 | .fp16 => 0x7C00 | .e5m2 | .mx5 => 0x7C | _ => 0x7F

/-- Table 12.6: the code of the largest finite value, sign apart. -/
def maxCode : DType → Nat
  | .fp32 => 0x7F7FFFFF | .bf16 => 0x7F7F | .fp16 => 0x7BFF | .e5m2 | .mx5 => 0x7B | _ => 0x7E

/-- A finite magnitude, counted in units of the format's smallest subnormal, as exponent and mantissa bits. -/
def encodeUnits (d : DType) (n : Nat) : Nat :=
  let mb := fmtMant d
  if n < 2 ^ mb then n
  else
    let e := Nat.log2 n - mb
    (e + 1) * 2 ^ mb + (n / 2 ^ e - 2 ^ mb)

/-- The value of a finite code in units of the smallest subnormal. -/
def unitsOf (d : DType) (code : Nat) : Nat :=
  let mb := fmtMant d
  let e := code / 2 ^ mb
  if e == 0 then code else (code % 2 ^ mb + 2 ^ mb) * 2 ^ (e - 1)

/-- R266: the one rounding. `r` is the stochastic value, `x` the scale exponent of an MX element. -/
def roundFloat (o : DType) (v : Acc) (rmode r : Nat) (x : Int) (mx : Bool) : Rounded :=
  let nan := v.fl &&& flNan != 0
  let pinf := v.fl &&& flPinf != 0
  let ninf := v.fl &&& flNinf != 0
  if nan || (pinf && ninf) then { code := qnan o, nan := true }
  else if pinf || ninf then { code := encodeSign o ninf (infCode o), inf := true }
  else
    let a := v.a.toInt
    if a == 0 then { code := encodeSign o (v.fl &&& flNegzero != 0) 0 }
    else
      let s := decide (a < 0)
      let mag := a.natAbs
      let h : Int := (Nat.log2 mag : Int) - 160 - x
      let q : Int := max h (1 - fmtBias o) - fmtMant o + x
      let sh := (q + 160).toNat
      let n := mag / 2 ^ sh
      let rem := mag % 2 ^ sh
      let half := 2 ^ sh / 2
      let up : Bool :=
        if rmode == 0 then decide (rem > half) || (rem == half && n % 2 == 1 && sh != 0)
        else if rmode == 1 then false
        else decide (r < rem * 2 ^ 32 / 2 ^ sh)
      let n := if up then n + 1 else n
      let units := n * 2 ^ (q - x - (1 - fmtBias o - fmtMant o)).toNat
      if units > unitsOf o (maxCode o) then
        let code :=
          if mx || rmode == 1 then maxCode o
          else infCode o
        { code := encodeSign o s code, overflow := true, mxSat := mx }
      else if units == 0 then { code := encodeSign o s 0, underflow := true }
      else { code := encodeSign o s (encodeUnits o units) }

/-- R269: an integer result. -/
def roundInt (d : DType) (op : Rop) (sat : Bool) (v : Acc) : Rounded :=
  let w := d.bytes * 8
  let i := v.a.toInt
  let lo : Int := -(2 ^ (w - 1))
  let hi : Int := 2 ^ (w - 1) - 1
  if op = .sum && sat then
    if i < lo then { code := 2 ^ (w - 1), intSat := true }
    else if i > hi then { code := 2 ^ (w - 1) - 1, intSat := true }
    else { code := (i % (2 ^ w : Int)).toNat }
  else { code := (i % (2 ^ w : Int)).toNat }

/-- R270: the E8M0 scale of an output block whose results carry no NaN and no infinity. -/
def mxScale (o : DType) (vs : List Acc) : Nat :=
  let m := vs.foldl (fun m v => max m v.a.toInt.natAbs) 0
  if m == 0 then 0x7F
  else
    let e : Int := (Nat.log2 m : Int) - 160
    let el : Int := if o = .mx4 then 8 else 15
    (min (max (e - el + 127) 0) 254).toNat

/-- R271: the block carries a NaN or an infinity. -/
def mxBad (vs : List Acc) : Bool := vs.any (fun v => v.fl &&& 7 != 0)

/-- R270 and R271: one output block of 32 results: scale code, elements, and whether it is a NaN block. -/
def roundMxBlock (o : DType) (rmode : Nat) (vs : List (Acc × Nat)) : Nat × List Rounded × Bool :=
  if mxBad (vs.map Prod.fst) then (0xFF, vs.map (fun _ => {}), true)
  else
    let k := mxScale o (vs.map Prod.fst)
    (k, vs.map (fun v => roundFloat o v.1 rmode v.2 ((k : Int) - 127) true), false)

/-- R266 to R269 for one element of a plain output type. -/
def roundOut (d o : DType) (op : Rop) (rmode r : Nat) (sat : Bool) (v : Acc) : Rounded :=
  if d.isInt then roundInt d op sat v else roundFloat o v rmode r 0 false

/-! ### Carried forms (R262, R263) -/

/-- Bytes per element of the EXACT form (Table 12.4); 0 where the type and operator travel RAW. -/
def exactWidth (d : DType) (op : Rop) : Nat :=
  match d with
  | .fp32 | .bf16 => 40
  | .fp16 | .e4m3 | .e5m2 => 16
  | .mx4 | .mx5 => 48
  | .int32 => if op = .sum then 8 else 0
  | .int64 => if op = .sum then 16 else 0

/-- log2 of the inverse LSB weight of EXACT-64 (Table 12.4). -/
def exactLsb : DType → Nat
  | .fp16 => 24 | .e4m3 => 9 | .e5m2 => 16 | _ => 160

/-- Table 12.3: a value in its EXACT form. -/
def toExact (d : DType) (op : Rop) (v : Acc) : List Byte :=
  match d with
  | .fp32 | .bf16 => leBytes 39 v.a.toNat ++ [v.fl]
  | .fp16 | .e4m3 | .e5m2 =>
    leBytes 8 (((v.a.toInt / 2 ^ (160 - exactLsb d)) % (2 ^ 64 : Int)).toNat) ++ [v.fl] ++ List.replicate 7 0
  | .mx4 | .mx5 => leBytes 40 v.a.toNat ++ [v.fl] ++ List.replicate 7 0
  | .int32 => leBytes (if op = .sum then 8 else 4) v.a.toNat
  | .int64 => leBytes (if op = .sum then 16 else 8) v.a.toNat

/-- Table 12.3: a value read from its EXACT form. -/
def ofExact (d : DType) (op : Rop) (b : List Byte) : Acc :=
  match d with
  | .fp32 | .bf16 => { a := (BitVec.ofNat 312 (ofLe (b.take 39))).signExtend 320, fl := b.getD 39 0 &&& 0xF }
  | .fp16 | .e4m3 | .e5m2 =>
    { a := (BitVec.ofNat 64 (ofLe (b.take 8))).signExtend 320 <<< (160 - exactLsb d), fl := b.getD 8 0 &&& 0xF }
  | .mx4 | .mx5 => { a := BitVec.ofNat 320 (ofLe (b.take 40)), fl := b.getD 40 0 &&& 0xF }
  | .int32 =>
    if op = .sum then { a := (BitVec.ofNat 64 (ofLe (b.take 8))).signExtend 320 }
    else convertInt .int32 (ofLe (b.take 4))
  | .int64 =>
    if op = .sum then { a := (BitVec.ofNat 128 (ofLe (b.take 16))).signExtend 320 }
    else convertInt .int64 (ofLe (b.take 8))

/-- R262: elements of a segment for a combining command; an MX output rounds it down to a multiple of 32. -/
def segCombine (d o : DType) (op : Rop) : Nat :=
  let s := match d with
    | .fp32 | .bf16 => 1638
    | .fp16 | .e4m3 | .e5m2 => 4096
    | .mx4 | .mx5 => 1344
    | .int32 => if op = .sum then 8192 else 16384
    | .int64 => if op = .sum then 4096 else 8192
  if o.isMx then s / 32 * 32 else s

/-- R262: elements of a segment for BROADCAST, ALLGATHER and SHIFT. -/
def segMove (d : DType) : Nat :=
  match d with
  | .fp32 | .int32 => 16384
  | .bf16 | .fp16 => 32768
  | .e4m3 | .e5m2 => 65536
  | .mx4 | .mx5 => 63520
  | .int64 => 8192

/-- Bytes of `n` elements in the input encoding, MX scale bytes included (R257). -/
def rawBytes (d : DType) (n : Nat) : Nat := if d.isMx then n + n / 32 else n * d.bytes

/-- R256 to R258: the elements of RAW data: for an MX type the elements come first, then one scale for
each 32 of them. -/
def ofRaw (d : DType) (n : Nat) (b : List Byte) : List Acc :=
  (List.range n).map fun i =>
    if d.isMx then convert d (b.getD i 0).toNat (b.getD (n + i / 32) 0).toNat
    else convert d (ofLe ((b.drop (i * d.bytes)).take d.bytes)) 0

/-- The elements of a run of EXACT values. -/
def ofExactRun (d : DType) (op : Rop) (n : Nat) (b : List Byte) : List Acc :=
  let w := exactWidth d op
  if w == 0 then ofRaw d n b
  else (List.range n).map fun i => ofExact d op ((b.drop (i * w)).take w)

def toExactRun (d : DType) (op : Rop) (vs : List Acc) : List Byte :=
  vs.flatMap (toExact d op)

/-- Groups of 32. -/
def blocks32 {α : Type} (n : Nat) (l : List α) : List (List α) :=
  (List.range (n / 32)).map fun k => (l.drop (32 * k)).take 32

/-- What rounding a run of elements wrote: the bytes in OTYPE encoding, and the RED_COUNTS to add. -/
def roundRun (d o : DType) (op : Rop) (rmode : Nat) (sat : Bool) (vs : List (Acc × Nat)) :
    List Byte × List Rounded × Nat :=
  if o.isMx then
    let bs := (blocks32 vs.length vs).map (roundMxBlock o rmode)
    let els := bs.flatMap (fun b => b.2.1)
    (els.map (fun e => BitVec.ofNat 8 e.code) ++ bs.map (fun b => BitVec.ofNat 8 b.1), els,
      (bs.filter (fun b => b.2.2)).length)
  else
    let els := vs.map fun v => roundOut d o op rmode v.2 sat v.1
    (els.flatMap (fun e => leBytes o.bytes e.code), els, 0)

end Sys2Proof.Machine
end

