-- ==== Sys2Proof/Machine/Chord.lean ====
section
/-! DEFINITION. Chord operations (chapter 11): launch, segments, credit, combining, placement, and the chord packets. -/

namespace Sys2Proof

/-! ### The command's fields (Table 5.12) -/

namespace Machine

def Entry.dtype? (e : Entry) : Option DType := DType.ofCode (e.f 151 144)
def Entry.otype? (e : Entry) : Option DType := DType.ofCode (e.f 191 184)
def Entry.dtype (e : Entry) : DType := e.dtype?.getD .fp32
def Entry.otype (e : Entry) : DType := e.otype?.getD .fp32
def Entry.rop (e : Entry) : Rop := (Rop.ofCode (e.f 155 152)).getD .sum
def Entry.skey (e : Entry) : BitVec 32 := BitVec.ofNat 32 (e.f 255 224)
def Entry.saddr (e : Entry) : Nat := e.f 319 256
def Entry.dkey (e : Entry) : BitVec 32 := BitVec.ofNat 32 (e.f 351 320)
def Entry.daddr (e : Entry) : Nat := e.f 415 352

/-- R239, R262: elements of a segment, and segments of a block. -/
def Entry.segLen (e : Entry) : Nat := if e.moves then segMove e.dtype else segCombine e.dtype e.otype e.rop
def Entry.segs (e : Entry) : Nat := ceilDiv e.count e.segLen
/-- First element of segment i within its block, and how many it has. -/
def Entry.segAt (e : Entry) (i : Nat) : Nat × Nat := (i * e.segLen, min e.segLen (e.count - i * e.segLen))

/-- Elements of the source and of the destination of this member (R117). -/
def Entry.srcLen (e : Entry) (n : Nat) : Nat := if e.opcode == 0x43 then n * e.count else e.count
def Entry.dstLen (e : Entry) (n : Nat) : Nat := if e.opcode == 0x44 then n * e.count else e.count

/-- Whether this member reads its source, and writes its destination. -/
def Entry.reads (e : Entry) (me : Nat) : Bool := e.opcode != 0x42 || e.chdRoot == me
def Entry.writes (e : Entry) (me : Nat) : Bool := e.opcode != 0x40 || e.chdRoot == me

/-! ### Launch checks (R103, R116) -/

/-- The first failing check of Table 5.3 for a chord command, SLOT aside. RMODE 3 is refused wherever the opcode takes RMODE,
also where nothing is rounded (DESIGN CHOICE). -/
def Entry.chdBad (e : Entry) (d : Option ChdDef) : Option (Nat × Nat) :=
  let rootBad := (e.opcode == 0x40 || e.opcode == 0x42) && d.any fun d => d.members ≤ e.chdRoot
  if e.dtype?.isNone then some (0x05, 18)
  else if !e.moves && ((Rop.ofCode (e.f 155 152)).isNone || e.rmode == 3) then some (0x05, 19)
  else if rootBad then some (0x05, 20)
  else if e.otype?.isNone then some (0x05, 23)
  else if d.isNone then some (0x0A, 16)
  else if (if e.moves then decide (e.dtype ≠ e.otype) else !typeOk e.dtype e.otype e.rop) then some (0x0B, 18)
  else if e.count == 0 || ((e.dtype.isMx || e.otype.isMx) && e.count % 32 != 0) then some (0x0C, 24)
  else none

/-! ### Moving elements -/

/-- The bytes of `n` elements from element `x` on of an operand of `total` elements: address and length of each part,
elements before scales (R257). -/
def operandParts (t : DType) (addr total x n : Nat) : List (Nat × Nat) :=
  if t.isMx then [(addr + x, n), (addr + total + x / 32, n / 32)] else [(addr + x * t.bytes, n * t.bytes)]

/-- The elements of the source, in their input encoding; the failing status where a part cannot be read. -/
def Dev.chdRead (s : Dev) (env : Env) (d : ChdDef) (r : ChdRun) (e : Entry) (x n : Nat) : Dev × Except Nat (List Byte) :=
  (operandParts e.dtype e.saddr (e.srcLen d.members) x n).foldl (fun q p =>
    match q with
    | (s, .error st) => (s, .error st)
    | (s, .ok b) =>
      match s.regionRead env e.skey p.1 p.2 (opWho r.ring r.pos) with
      | (s, .ok c) => (s.folMem d.part (e.attrs r.ring) e.skey.toNat p.1 c, .ok (b ++ c))
      | (s, .fault st) => (s, .error st)
      | (s, .wait) => (s, .error stTranslation)) (s, .ok [])

def Dev.setRun (s : Dev) (ex : Bool) (k : Nat) (f : ChdRun → ChdRun) : Dev :=
  let x := s.grp ex k
  s.setGrp ex k { x with run := x.run.map f }

/-- A range of the destination that has been written, or in part (R247). -/
def Dev.noteWrote (s : Dev) (ex : Bool) (k a n : Nat) : Dev := s.setRun ex k fun r => { r with wrote := r.wrote ++ [(a, n)] }

/-- Bytes written to the destination, noted for R247; the failing status where a part cannot be written. -/
def Dev.grpWrite (s : Dev) (env : Env) (ex : Bool) (k : Nat) (key : BitVec 32) (a : Nat) (b : List Byte) : Dev × Option Nat :=
  match s.regionWrite env key a b (((s.grp ex k).run.map fun r => opWho r.ring r.pos).getD 0) with
  | (s, .ok _) =>
    let s : Dev := match (s.grp ex k).run with
      | some r => s.opReached r.ring r.pos key b.length
      | none => s
    ((s.noteWrote ex k a b.length).setRun ex k fun r => { r with written := r.written + b.length }, none)
  | (s, .fault st) => (s.noteWrote ex k a b.length, some st)
  | (s, .wait) => (s.noteWrote ex k a b.length, some stTranslation)

/-- A segment placed in the destination at element `x`. -/
def Dev.chdPlace (s : Dev) (env : Env) (k : Nat) (d : ChdDef) (e : Entry) (x n : Nat) (b : List Byte) : Dev × Option Nat :=
  ((operandParts e.otype e.daddr (e.dstLen d.members) x n).foldl (fun (q : (Dev × Option Nat) × List Byte) p =>
    match q.1 with
    | (_, some _) => q
    | (s, none) => (s.grpWrite env false k e.dkey p.1 (q.2.take p.2), q.2.drop p.2)) ((s, none), b)).1

/-! ### Segments -/

def Seg.whole (y : Seg) : Bool := y.pkts.length == y.npkt
def Seg.bytes (y : Seg) : List Byte :=
  (List.range y.npkt).flatMap fun i => match y.pkts.find? fun p => p.1 == i with | some p => p.2 | none => []
def Slot.seg? (x : Slot) (e round i : Nat) : Option Seg :=
  x.early.find? fun y => y.edge == e && y.round == round && y.seg == i && y.whole && !y.headerOnly
/-- An edge that brought a header-only packet brings nothing more. -/
def Slot.closed (x : Slot) (e : Nat) : Bool := x.early.any fun y => y.edge == e && y.headerOnly

/-- A segment has been combined and forwarded or placed: its unit is free (R240). -/
def Dev.segUsed (s : Dev) (k e step round i : Nat) : Dev :=
  let x := s.slot k
  let key := stepKey e step
  s.setSlot k { x with
    early := x.early.filter fun y => !(y.edge == e && y.round == round && y.seg == i)
    used := tset (fun _ => 0) x.used key (tget (fun _ => 0) x.used key + 1) }

/-- The DATA packets of a segment, 4,096 bytes each; one header-only packet where there is no data (R239, R241). -/
def Dev.sendSeg (s : Dev) (k : Nat) (d : ChdDef) (r : ChdRun) (e step round block i : Nat) (b : List Byte) : Dev :=
  let n := max 1 (ceilDiv b.length 4096)
  (List.range n).foldl (fun s j =>
    let c := slice b (4096 * j) 4096
    s.grpSend d r.ring {
      hdr := mkHdr [(0, d.node e), (32, s.node), (64, 0x10), (76, d.tc), (120, c.length), (224, n), (240, j), (256, k), (272, r.seq.toNat),
        (296, step), (304, d.me), (320, block), (336, round), (352, i), (448, r.sig.toNat)],
      payload := c } false) s

/-- The elements a received segment carries: EXACT where its length is that of the EXACT form, else RAW (DEDUCED). -/
def Entry.received (e : Entry) (n : Nat) (b : List Byte) : List Acc :=
  let w := exactWidth e.dtype e.rop
  if w != 0 && b.length == n * w then ofExactRun e.dtype e.rop n b else ofRaw e.dtype n b

/-- R259 to R261, element by element. -/
def Entry.addUp (e : Entry) (x y : List Acc) : List Acc := (x.zip y).map fun p => combine e.dtype e.rop p.1 p.2

/-- R274: what rounding counts at the member that rounds. -/
def Dev.countRounded (s : Dev) (l : List Rounded) (mxNan : Nat) : Dev :=
  let n := fun (f : Rounded → Bool) => (l.filter f).length
  (((((((s.bumpBy (Reg.redCounts 0) l.length).bumpBy (Reg.redCounts 1) (n (·.nan))).bumpBy (Reg.redCounts 2) (n (·.inf))).bumpBy
    (Reg.redCounts 3) (n (·.overflow))).bumpBy (Reg.redCounts 4) (n (·.underflow))).bumpBy (Reg.redCounts 5) (n (·.intSat))).bumpBy
    (Reg.redCounts 6) mxNan).bumpBy (Reg.redCounts 7) (n (·.mxSat))

/-- R268: r for the element of index i. -/
def stochastic (d : ChdDef) (k : Nat) (seq : BitVec 16) (i : Nat) : Nat :=
  (arx10 d.seed (BitVec.ofNat 64 (seq.toNat + at_ 16 k)) (BitVec.ofNat 64 i)).toNat % 2 ^ 32

/-- R265, R266: elements rounded once; `x` is the output index of the first. -/
def Dev.roundSeg (s : Dev) (k : Nat) (d : ChdDef) (r : ChdRun) (e : Entry) (x : Nat) (vs : List Acc) : Dev × List Byte :=
  let draw := fun i => if e.rmode == 2 then stochastic d k r.seq (x + i) else 0
  let q := roundRun e.dtype e.otype e.rop e.rmode e.sat (vs.zipIdx.map fun v => (v.1, draw v.2))
  (s.countRounded q.2.1 q.2.2, q.1)

/-! ### The tree (Table 11.4) -/

/-- The SEG_LIMIT last received for an edge and a step. -/
def Slot.segLimit (x : Slot) (e step : Nat) : Nat := tget (fun _ => 0) x.credit (stepKey e step)

/-- Credit for segment i on an edge of the tree, in the step that sends on it. -/
def Slot.credited (x : Slot) (d : ChdDef) (e i : Nat) : Bool := i < x.segLimit e (d.outStep e)

/-- R238: whether the result of a REDUCE goes down an edge as data: toward ROOT where ROOT is a child, else to every
child but from ROOT itself, since a record does not say which child leads to ROOT (DEDUCED). -/
def Entry.dataDown (e : Entry) (d : ChdDef) (x : Nat) : Bool :=
  if e.opcode != 0x40 then true
  else if d.me == e.chdRoot then false
  else if d.downs.any (fun y => d.member y == e.chdRoot) then d.member x == e.chdRoot
  else true

/-- Every down edge can take what segment i sends on it. -/
def Entry.downOpen (e : Entry) (d : ChdDef) (x : Slot) (i : Nat) : Bool :=
  d.downs.all fun y => if e.dataDown d y then x.credited d y i else i + 1 != e.segs || x.credited d y 0

/-- Segment i of the result, or a header-only packet, goes down and is placed where it is due. -/
def Dev.downSeg (s : Dev) (env : Env) (k : Nat) (d : ChdDef) (r : ChdRun) (e : Entry) (i : Nat) (b : Option (List Byte)) : Dev :=
  let last := b.isNone || i + 1 == e.segs
  let placed := match b with
    | some b => if e.writes d.me then s.chdPlace env k d e (e.segAt i).1 (e.segAt i).2 b else (s, none)
    | none => (s, none)
  match placed with
  | (s, some st) => s.grpOwn false k d st e.dkey.toNat
  | (s, none) =>
    let s := d.downs.foldl (fun s y =>
      match b, e.dataDown d y with
      | some b, true => s.sendSeg k d r y (d.outStep y) 0 0 i b
      | _, _ => if last then s.sendSeg k d r y (d.outStep y) 0 0 0 [] else s) s
    s.setRun false k fun r => { r with nextDown := if b.isNone then e.segs else i + 1 }

/-- More credit on the input edges of a tree operation. -/
def Dev.grantTree (s : Dev) (k : Nat) (d : ChdDef) (r : ChdRun) (e : Entry) (again : Bool) : Dev :=
  (d.kids ++ (if d.isRoot then [] else [d.parent])).foldl (fun s y =>
    if (s.slot k).closed y then s else s.grant k d r.ring y r.seq.toNat (d.inStep y) 2 e.segs again) s

/-- The step this member can take on its tree now, none where it waits. -/
def Dev.treeStep (s : Dev) (env : Env) (k : Nat) (d : ChdDef) (r : ChdRun) (e : Entry) : Option Dev :=
  let x := s.slot k
  let i := r.next
  let open_ := d.kids.filter fun y => !x.closed y
  let upOk := fun i => if d.isRoot then e.downOpen d x i else x.credited d d.parent i
  let upSeg := fun (s : Dev) (b : List Byte) =>
    let s := s.setRun false k fun r => { r with next := i + 1 }
    if d.isRoot then s.downSeg env k d r e i (some b) else s.sendSeg k d r d.parent (d.outStep d.parent) 0 0 i b
  let used := fun (s : Dev) (l : List Nat) =>
    if (s.slot k).run.isNone then s else (l.foldl (fun s y => s.segUsed k y (d.inStep y) 0 i) s).grantTree k d r e false
  let up : Option Dev :=
    if e.segs ≤ i then none
    else if e.opcode != 0x42 then
      let parts := open_.map fun y => x.seg? y 0 i
      if parts.any (·.isNone) || !upOk i then none
      else
        let a := e.segAt i
        match s.chdRead env d r e a.1 a.2 with
        | (s, .error st) => some (s.grpOwn false k d st e.skey.toNat)
        | (s, .ok raw) =>
          let vs := parts.foldl (fun vs y => match y with
            | some y => e.addUp vs (e.received a.2 y.bytes)
            | none => vs) (ofRaw e.dtype a.2 raw)
          if d.isRoot then
            match s.roundSeg k d r e a.1 vs with
            | (s, b) => some (used (upSeg s b) open_)
          else
            let b := if d.kids.isEmpty then raw else toExactRun e.dtype e.rop vs
            some (used (upSeg s b) open_)
    else if d.me == e.chdRoot then
      if !open_.isEmpty || !upOk i then none
      else
        let a := e.segAt i
        match s.chdRead env d r e a.1 a.2 with
        | (s, .error st) => some (s.grpOwn false k d st e.skey.toNat)
        | (s, .ok raw) => some (upSeg s raw)
    else
      let y := open_.find? fun y => (x.seg? y 0 i).isSome
      match y with
      | some y =>
        if open_.length != 1 || !upOk i then none
        else match x.seg? y 0 i with
          | some g => some (used (upSeg s g.bytes) [y])
          | none => none
      | none =>
        if !open_.isEmpty then none
        else if d.isRoot then
          if !d.downs.all fun y => x.credited d y 0 then none
          else
            let s := s.setRun false k fun r => { r with next := e.segs }
            some (s.downSeg env k d r e 0 none)
        else if !x.credited d d.parent 0 then none
        else
          let s := s.setRun false k fun r => { r with next := e.segs }
          some (s.sendSeg k d r d.parent (d.outStep d.parent) 0 0 0 [])
  match up with
  | some s => some s
  | none =>
    let j := r.nextDown
    if d.isRoot || e.segs ≤ j then none
    else if x.closed d.parent then
      if d.downs.all fun y => x.credited d y 0 then some (s.downSeg env k d r e 0 none) else none
    else match x.seg? d.parent 0 j with
      | none => none
      | some g =>
        if !e.downOpen d x j then none
        else
          let s := s.downSeg env k d r e j (some g.bytes)
          some (if (s.slot k).run.isNone then s else (s.segUsed k d.parent (d.inStep d.parent) 0 j).grantTree k d r e false)

/-- The waits of a tree member (R245). -/
def treeWaits (d : ChdDef) (x : Slot) (r : ChdRun) (e : Entry) : List (Nat × Bool × Nat × Nat) :=
  let n := e.segs
  let waits := fun (y i : Nat) => i < n && !x.closed y && (x.seg? y 0 i).isNone
  (d.kids.filterMap fun y => if waits y r.next then some (y, false, r.next, d.inStep y) else none) ++
  (if !d.isRoot && r.next < n && !x.credited d d.parent r.next then [(d.parent, true, r.next, d.outStep d.parent)] else []) ++
  (if !d.isRoot && waits d.parent r.nextDown then [(d.parent, false, r.nextDown, d.inStep d.parent)] else []) ++
  (if n ≤ r.nextDown then []
   else d.downs.filterMap fun y =>
    let i := if e.dataDown d y then r.nextDown else 0
    if x.credited d y i then none else some (y, true, i, d.outStep y))

/-! ### The ring (Table 11.4, R293) -/

/-- The edges on which ring data arrives and leaves. -/
def Entry.ringIn (e : Entry) (d : ChdDef) : Nat := d.canon (if e.opcode == 0x45 && e.back then d.nxt else d.prev)
def Entry.ringOut (e : Entry) (d : ChdDef) : Nat := d.canon (if e.opcode == 0x45 && e.back then d.prev else d.nxt)

/-- Rounds of a ring operation. -/
def Entry.rounds (e : Entry) (n : Nat) : Nat := if e.opcode == 0x45 then 1 else n - 1

/-- The block that arrives in round r at member m: what the member before it sends (Table 11.4). -/
def Entry.blockIn (e : Entry) (n m r : Nat) : Nat :=
  if e.opcode == 0x43 then (m + 2 * n - r % n - 2) % n else if e.opcode == 0x44 then (m + 2 * n - r % n - 1) % n else 0
/-- The block member m sends in round 0. -/
def Entry.blockOut (e : Entry) (n m : Nat) : Nat :=
  if e.opcode == 0x43 then (m + n - 1) % n else if e.opcode == 0x44 then m else 0

/-- First element, in the source or the destination, of segment i of a block. -/
def Entry.blockAt (e : Entry) (block i : Nat) : Nat := (if e.opcode == 0x45 then 0 else block * e.count) + (e.segAt i).1

/-- Segments of all rounds that go round the ring by each of its edges. -/
def Entry.ringTotal (e : Entry) (n : Nat) : Nat := e.segs * e.rounds n

/-- Segments this member has sent on: its own, and those forwarded (`nextDown` counts those of the last round, which are not). -/
def ChdRun.ringSent (r : ChdRun) : Nat := r.next + (r.ringUsed - r.nextDown)

/-- R240: credit for one more segment on the ring's output edge. SEG_LIMIT counts the segments of every round in the order they
are sent (DEDUCED: all rounds are one step). -/
def Entry.ringOpen (e : Entry) (d : ChdDef) (x : Slot) (r : ChdRun) : Bool := r.ringSent < x.segLimit (e.ringOut d) d.rstep

/-- A member starts a segment of its own only where that leaves credit to forward one, so that the ring always moves (DESIGN
CHOICE). -/
def Entry.ringStarts (e : Entry) (d : ChdDef) (x : Slot) (r : ChdRun) : Bool :=
  let lim := x.segLimit (e.ringOut d) d.rstep
  r.ringSent < lim && (e.rounds d.members == 1 || lim == e.ringTotal d.members || r.ringSent + 1 < lim)

/-- A segment of a round has been used: `nextDown` counts those of the last round. -/
def Dev.ringUse (s : Dev) (k : Nat) (d : ChdDef) (r : ChdRun) (e : Entry) (round i : Nat) : Dev :=
  let last := round + 1 == e.rounds d.members
  let s := s.segUsed k (e.ringIn d) d.rstep round i
  let s := s.setRun false k fun r => { r with ringUsed := r.ringUsed + 1, nextDown := if last then i + 1 else r.nextDown }
  s.grant k d r.ring (e.ringIn d) r.seq.toNat d.rstep 2 (e.ringTotal d.members) false

/-- The step this member can take on its ring now, none where it waits. A SHIFT places a segment only after it has read the same
segment of its source (R117). -/
def Dev.ringStep (s : Dev) (env : Env) (k : Nat) (d : ChdDef) (r : ChdRun) (e : Entry) : Option Dev :=
  let x := s.slot k
  let n := d.members
  let R := e.rounds n
  let out := e.ringOut d
  let own := fun (s : Dev) (i : Nat) (block : Nat) =>
    s.chdRead env d r e (if e.opcode == 0x43 then e.blockAt block i else (e.segAt i).1) (e.segAt i).2
  let place := fun (s : Dev) (block i : Nat) (b : List Byte) =>
    s.chdPlace env k d e (if e.opcode == 0x44 then e.blockAt block i else (e.segAt i).1) (e.segAt i).2 b
  let fail := fun (s : Dev) (st : Nat) (key : BitVec 32) => s.grpOwn false k d st key.toNat
  let staged := x.early.find? fun y =>
    y.edge == e.ringIn d && y.whole && y.round < R && y.seg < e.segs &&
      (y.round + 1 != R || y.seg == r.nextDown) && (y.round + 1 == R || e.ringOpen d x r) &&
      (e.opcode != 0x45 || y.seg < r.next)
  match staged with
  | some y =>
    let block := e.blockIn n d.me y.round
    let last := y.round + 1 == R
    let go := fun (s : Dev) (b : List Byte) =>
      some ((s.sendSeg k d r out d.rstep (y.round + 1) block y.seg b).ringUse k d r e y.round y.seg)
    if e.opcode == 0x43 then
      match own s y.seg block with
      | (s, .error st) => some (fail s st e.skey)
      | (s, .ok raw) =>
        let m := (e.segAt y.seg).2
        let vs := e.addUp (ofRaw e.dtype m raw) (e.received m y.bytes)
        if !last then go s (toExactRun e.dtype e.rop vs)
        else match s.roundSeg k d r e (e.blockAt block y.seg) vs with
          | (s, b) => match place s block y.seg b with
            | (s, some st) => some (fail s st e.dkey)
            | (s, none) => some (s.ringUse k d r e y.round y.seg)
    else
      match place s block y.seg y.bytes with
      | (s, some st) => some (fail s st e.dkey)
      | (s, none) => if last then some (s.ringUse k d r e y.round y.seg) else go s y.bytes
  | none =>
    let i := r.next
    if e.segs ≤ i || (R != 0 && !e.ringStarts d x r) then none
    else match own s i (e.blockOut n d.me) with
      | (s, .error st) => some (fail s st e.skey)
      | (s, .ok raw) =>
        let s := s.setRun false k fun r => { r with next := i + 1 }
        let mine : Dev × Option Nat :=
          if e.opcode == 0x44 then place s d.me i raw
          else if e.opcode == 0x43 && R == 0 then
            match s.roundSeg k d r e (e.segAt i).1 (ofRaw e.dtype (e.segAt i).2 raw) with
            | (s, b) => place s d.me i b
          else (s, none)
        match mine with
        | (s, some st) => some (fail s st e.dkey)
        | (s, none) =>
          if R == 0 then some (s.setRun false k fun r => { r with nextDown := i + 1 })
          else some (s.sendSeg k d r out d.rstep 0 (e.blockOut n d.me) i raw)

/-- The waits of a ring member: for the next segment of any round, and for credit for one it could send. -/
def ringWaits (d : ChdDef) (x : Slot) (r : ChdRun) (e : Entry) : List (Nat × Bool × Nat × Nat) :=
  let R := e.rounds d.members
  let here := x.early.filter fun y => y.edge == e.ringIn d && y.whole
  let barred := (r.next < e.segs && R != 0 && !e.ringStarts d x r) || (here.any (fun y => y.round + 1 < R) && !e.ringOpen d x r)
  (if r.ringUsed < e.ringTotal d.members && here.isEmpty then [(e.ringIn d, false, r.ringUsed, d.rstep)] else []) ++
  (if barred then [(e.ringOut d, true, r.ringSent, d.rstep)] else [])

/-! ### Running -/

/-- The entry of a running operation. -/
def Dev.runEntry (s : Dev) (r : ChdRun) : Entry := ((s.op? r.ring r.pos).map (·.entry)).getD {}

/-- Everything the running operation of slot k can do now; it completes where nothing is left to do. -/
def Dev.chdLoop : Nat → Dev → Env → Nat → ChdDef → Dev
  | 0, s, _, _, _ => s
  | fuel + 1, s, env, k, d =>
    match (s.slot k).run with
    | none => s
    | some r =>
      let e := s.runEntry r
      if e.segs ≤ r.nextDown && (e.segs ≤ r.next || !e.onRing) then s.grpStop false k d { bytes := r.written }
      else match if e.onRing then s.ringStep env k d r e else s.treeStep env k d r e with
        | some s => Dev.chdLoop fuel s env k d
        | none => s

/-- The operation goes on as far as it can, and its waits are set. -/
def Dev.chdProgress (s : Dev) (env : Env) (k : Nat) (d : ChdDef) : Dev :=
  match (s.slot k).run with
  | none => s
  | some r =>
    let e := s.runEntry r
    let s := s.chdLoop (2 * e.segs + (s.slot k).early.length + 8) env k d
    match (s.slot k).run with
    | none => s
    | some r =>
      let now := if e.onRing then ringWaits d (s.slot k) r e else treeWaits d (s.slot k) r e
      s.setRun false k fun r => { r with waits := s.keepWaits d r.waits now }

/-- A chord operation starts: operands, credit, and what can move at once. -/
def Dev.chdStart (s : Dev) (env : Env) (r : Nat) (e : Entry) (d : ChdDef) : Dev :=
  let k := e.slot
  let dst := fun (s : Dev) =>
    match (s.slot k).run with
    | none => s
    | some run =>
      let x := s.slot k
      let ins := if e.onRing then [stepKey (e.ringIn d) d.rstep]
        else (d.kids ++ (if d.isRoot then [] else [d.parent])).map fun y => stepKey y (d.inStep y)
      let s := s.setSlot k { x with limits := x.limits.filter (fun p => ins.contains p.1 && !x.closed (p.1 / 256)), used := [] }
      let s := s.setRun false k fun r => { r with segs := e.segs }
      let s := if e.onRing then
          (if e.rounds d.members == 0 then s else s.grant k d r (e.ringIn d) run.seq.toNat d.rstep 2 (e.ringTotal d.members) true)
        else s.grantTree k d run e true
      s.chdProgress env k d
  let src := fun (s : Dev) =>
    if e.writes d.me then s.grpOperand false k d r e.pos e.dkey e.daddr (rawBytes e.otype (e.dstLen d.members)) (rW + rCH) dst else dst s
  if e.reads d.me then s.grpOperand false k d r e.pos e.skey e.saddr (rawBytes e.dtype (e.srcLen d.members)) (rR + rCH) src else src s

/-- A chord command launches. -/
def Dev.launchChord (s : Dev) (env : Env) (r : Nat) (e : Entry) : Dev :=
  s.grpLaunch r e false e.shaped (fun d => e.chdBad (d.filter fun d => d.part == ringPart r))
    e.chdSig (fun s d => s.chdStart env r e d)

def execChdReduce (ring : Fin 16384) (env : Env) (s : State) : Host.Outcome State Fault Refusal :=
  onDev (fun s => (s.enter env).launchWith env ring 0x40 fun s r e => s.launchChord env r e) s
def execChdAllreduce (ring : Fin 16384) (env : Env) (s : State) : Host.Outcome State Fault Refusal :=
  onDev (fun s => (s.enter env).launchWith env ring 0x41 fun s r e => s.launchChord env r e) s
def execChdBroadcast (ring : Fin 16384) (env : Env) (s : State) : Host.Outcome State Fault Refusal :=
  onDev (fun s => (s.enter env).launchWith env ring 0x42 fun s r e => s.launchChord env r e) s
def execChdReduceScatter (ring : Fin 16384) (env : Env) (s : State) : Host.Outcome State Fault Refusal :=
  onDev (fun s => (s.enter env).launchWith env ring 0x43 fun s r e => s.launchChord env r e) s
def execChdAllgather (ring : Fin 16384) (env : Env) (s : State) : Host.Outcome State Fault Refusal :=
  onDev (fun s => (s.enter env).launchWith env ring 0x44 fun s r e => s.launchChord env r e) s
def execChdShift (ring : Fin 16384) (env : Env) (s : State) : Host.Outcome State Fault Refusal :=
  onDev (fun s => (s.enter env).launchWith env ring 0x45 fun s r e => s.launchChord env r e) s

/-! ### Chord packets (R241, R243, R251) -/

/-- A packet of a DATA segment joins the staging. -/
def Dev.stage (s : Dev) (k e : Nat) (p : Packet) : Dev :=
  let x := s.slot k
  let same := fun (y : Seg) => y.edge == e && y.round == p.f 351 336 && y.seg == p.f 383 352
  let j := p.f 255 240
  let sig : Word := BitVec.ofNat 64 (p.f 511 448)
  let src : BitVec 16 := BitVec.ofNat 16 (p.f 319 304)
  if x.early.any same then
    s.setSlot k { x with early := replaceFirst same (fun y =>
      let y := if sig = y.sig then y else { y with others := y.others ++ [(sig, src)] }
      if y.pkts.any (fun q => q.1 == j) then y else { y with pkts := y.pkts ++ [(j, p.payload)] }) x.early }
  else
    let y : Seg := {
      edge := e, round := p.f 351 336, seg := p.f 383 352, npkt := p.f 239 224, step := p.f 303 296
      sig := sig
      src := src
      block := p.f 335 320
      pkts := [(j, p.payload)] }
    let x := { x with early := x.early ++ [y] }
    s.setSlot k (if y.headerOnly then { x with limits := terase x.limits (stepKey e y.step) } else x)

/-- R240, R243: whether the credit granted on an edge in a step covers an early packet's segment. -/
def Dev.earlyRoom (s : Dev) (k e : Nat) (p : Packet) : Bool :=
  let x := s.slot k
  let step := p.f 303 296
  let here := x.early.filter fun y => y.edge == e && y.step == step
  here.any (fun y => y.round == p.f 351 336 && y.seg == p.f 383 352) || here.length < tget (fun _ => 0) x.limits (stepKey e step)

/-- Whether a segment of the running operation is still to come on an edge. -/
def Dev.segWanted (s : Dev) (k e : Nat) (p : Packet) (r : ChdRun) (entry : Entry) (d : ChdDef) : Bool :=
  let i := p.f 383 352
  let x := s.slot k
  i < entry.segs && !x.closed e &&
  (if entry.onRing then e == entry.ringIn d && p.f 351 336 < entry.rounds d.members && r.nextDown ≤ i
   else (d.kids.contains e && r.next ≤ i) || (!d.isRoot && e == d.parent && r.nextDown ≤ i))

/-- A DATA packet whose ICRC agrees. -/
def Dev.rxChordData (s : Dev) (env : Env) (k : Nat) (d : ChdDef) (e : Nat) (p : Packet) : Dev :=
  match (s.slot k).seqCase (p.f 287 272) with
  | .cur =>
    match (s.slot k).run with
    | none => s
    | some r =>
      let entry := s.runEntry r
      if p.f 511 448 != r.sig.toNat then s.grpMismatch false k d (p.f 319 304) (if entry.onRing then d.rstep else d.inStep e)
      else if s.segWanted k e p r entry d then (s.stage k e p).chdProgress env k d
      else s
  | .next => if s.earlyRoom k e p then s.stage k e p else s
  | .ahead => s.grpBump false .early
  | .nextBusy | .stale => s.grpBump false .stale

/-- A CREDIT packet: the limit of its edge and step, for the running operation or the next. -/
def Dev.rxCredit (s : Dev) (env : Env) (k : Nat) (d : ChdDef) (e : Nat) (p : Packet) : Dev :=
  let set := fun (s : Dev) => s.setSlot k { s.slot k with credit := tset (fun _ => 0) (s.slot k).credit (stepKey e (p.f 303 296)) (p.f 383 352) }
  match (s.slot k).seqCase (p.f 287 272) with
  | .cur => (set s).chdProgress env k d
  | .next => set s
  | .ahead => s.grpBump false .early
  | .nextBusy | .stale => s.grpBump false .stale

/-- A chord packet at its destination. -/
def Dev.rxChord (s : Dev) (env : Env) (port : Nat) (p : Packet) : Dev :=
  let k := p.f 267 256
  match (s.enter env).takeLocal port p (s.slotPart false k) with
  | none => s
  | some s =>
    if !icrcOk p then (s.dropConn 5).pathLost p
    else match s.grpDef false k with
      | none => s.grpBump false .nodef
      | some d =>
        if p.ptype == 0x12 then s.grpAbort false k d p
        else match d.edgeOf p.src with
          | none => s.grpBump false .nodef
          | some e => if p.ptype == 0x10 then s.rxChordData env k d e p else s.rxCredit env k d e p

/-- CHORD_DATA (R243). -/
def execChordData (port : Fin 16) (p : Packet) (env : Env) (s : State) : Host.Outcome State Fault Refusal :=
  onDev (fun s => if p.ptype == 0x10 then s.rxChord env port p else s) s
/-- CHORD_CREDIT (R240). -/
def execChordCredit (port : Fin 16) (p : Packet) (env : Env) (s : State) : Host.Outcome State Fault Refusal :=
  onDev (fun s => if p.ptype == 0x11 then s.rxChord env port p else s) s
/-- CHORD_ABORT (R246). -/
def execChordAbort (port : Fin 16) (p : Packet) (s : State) : Host.Outcome State Fault Refusal :=
  onDev (fun s => if p.ptype == 0x12 then s.rxChord {} port p else s) s
/-- CHORD_DEADLINE (R245). -/
def execChordDeadline (slot : BitVec 12) (s : State) : Host.Outcome State Fault Refusal :=
  onDev (fun s => match s.grpDef false slot.toNat with
    | some d => if ((s.slot slot.toNat).run.any fun r => r.opcode.toNat < 0x48) then s.grpLate false slot.toNat d else s
    | none => s) s
/-- CHD_SLOT_SEQ_WRITE (R250, R253). -/
def execChdSlotSeqWrite (v : View) (w : Word) (s : State) : Host.Outcome State Fault Refusal :=
  onWrite v Reg.chdSlotSeq w (pfOnly v fun s => s.gated v Reg.chdSlotSeq w fun s => s.seqWrite v false (bits (s.reg Reg.chdSlotSel) 11 0) Reg.chdSlotSeq w) s

end Machine

end Sys2Proof
end

