-- ==== Sys2Proof/Machine/Pluck.lean ====
section
/-! DEFINITION. Pluck barriers and scalars (chapter 13): launch, flits, combining and completion. -/

namespace Sys2Proof

/-! Fields of a Pluck flit (Table 13.1). -/

def Packet.pluckData (p : Packet) : Nat := p.f 511 256
def Packet.pluckFlit (p : Packet) : Nat := p.f 255 252
def Packet.pluckSlot (p : Packet) : Nat := p.f 251 240
def Packet.pluckSeq (p : Packet) : Nat := p.f 239 224
def Packet.pluckSig (p : Packet) : Nat := p.f 223 160

end Sys2Proof

namespace Sys2Proof.Machine

/-! ### Fields (Tables 5.14 and 13.1) -/

def Entry.plkKey (e : Entry) : BitVec 32 := BitVec.ofNat 32 (e.f 223 192)
def Entry.plkAddr (e : Entry) : Nat := e.f 287 224
/-- R118: the types a scalar accepts, and the first failing check of Table 5.3, SLOT aside. -/
def Entry.plkBad (e : Entry) (d : Option ChdDef) : Option (Nat × Nat) :=
  let t := e.dtype
  let typeBad := !(decide (t = .fp32) || decide (t = .bf16) || decide (t = .int32) || decide (t = .int64)) || !typeOk t t e.rop
  if e.isScalar && e.dtype?.isNone then some (0x05, 18)
  else if e.isScalar && ((Rop.ofCode (e.f 155 152)).isNone || e.rmode == 3) then some (0x05, 19)
  else if e.isScalar && 4 < e.nval then some (0x05, 20)
  else if d.isNone then some (0x0A, 16)
  else if e.isScalar && typeBad then some (0x0B, 18)
  else if e.isScalar && e.nval == 0 then some (0x0C, 20)
  else none

/-! ### Value streams (R279, Table 13.3) -/

/-- Bytes of a value that combines two or more members. -/
def Entry.combinedWidth (e : Entry) : Nat := if e.rop = .sum then exactWidth e.dtype .sum else 8

/-- Flits of the operation's stream for a width. -/
def Entry.nflit (e : Entry) (w : Nat) : Nat := max 1 (ceilDiv (e.nval * w) 32)

/-- The values an entry carries, VAL0 first. -/
def Entry.plkValues (e : Entry) : List Acc :=
  (List.range e.nval).map fun i => convert e.dtype (e.f (639 + 64 * i) (576 + 64 * i) % 2 ^ (8 * e.dtype.bytes)) 0

/-- Values read from a stream of width w. -/
def Entry.ofStream (e : Entry) (exact : Bool) (b : List Byte) : List Acc :=
  let w := if exact then e.combinedWidth else 8
  (List.range e.nval).map fun i =>
    let c := slice b (w * i) w
    if exact && e.rop = .sum then ofExact e.dtype .sum c else convert e.dtype (ofLe c % 2 ^ (8 * e.dtype.bytes)) 0

/-- Combined values as a stream. -/
def Entry.toStream (e : Entry) (vs : List Acc) : List Byte :=
  vs.flatMap fun v => if e.rop = .sum then toExact e.dtype .sum v else leBytes 8 (roundOut e.dtype e.dtype e.rop 0 0 false v).code

/-! ### Flits -/

/-- A Pluck flit (Table 13.1). -/
def pluckPkt (ptype dst src tc k seq flit : Nat) (sig : Word) (data : Nat) : Packet :=
  { hdr := mkHdr [(0, dst % 2 ^ 32), (32, src % 2 ^ 32), (64, ptype), (76, tc), (160, sig.toNat), (224, seq), (240, k), (252, flit),
      (256, data % 2 ^ 256)] }

/-- The flits of a stream to an edge. -/
def Dev.sendStream (s : Dev) (k : Nat) (d : ChdDef) (r : ChdRun) (ptype e n : Nat) (b : List Byte) : Dev :=
  (List.range n).foldl (fun s j =>
    s.grpSend d r.ring (pluckPkt ptype (d.node e) s.node d.tc k r.seq.toNat j r.sig (leAt b (32 * j) 32)) false) s

/-- The stream of `n` flits of a type from an edge, where it is whole. -/
def Slot.stream (x : Slot) (e ptype n : Nat) : Option (List Byte) :=
  let fs := (List.range n).map fun j => x.flits.find? fun f => f.1 == e && f.2.1 == ptype && f.2.2.1 == j
  if fs.all (·.isSome) then some (fs.flatMap fun f => match f with | some f => leBytes 32 f.2.2.2.1.toNat | none => []) else none

/-- What a child edge has brought for the up phase: no values for a barrier. -/
def Slot.childUp (x : Slot) (e : Entry) (y : Nat) : Option (List Acc) :=
  if !e.isScalar then (x.stream y 0x20 1).map fun _ => []
  else match x.stream y 0x22 (e.nflit 8) with
    | some b => some (e.ofStream false b)
    | none => (x.stream y 0x23 (e.nflit e.combinedWidth)).map (e.ofStream true)

/-- What the parent edge has brought: the results. -/
def Slot.parentDown (x : Slot) (e : Entry) (y : Nat) : Option (List Byte) :=
  if e.isScalar then x.stream y 0x24 (e.nflit 8) else x.stream y 0x21 1

/-! ### Running (R280 to R283) -/

/-- The results are placed, and the member completes. They wait while their destination is not translated (R178). -/
def Dev.pluckPlace (s : Dev) (env : Env) (k : Nat) (d : ChdDef) (r : ChdRun) (e : Entry) (b : List Byte) : Dev :=
  match s.destReady env e.plkKey d.part e.plkAddr (8 * e.nval) rW (opWho r.ring r.pos) with
  | (s, .wait) => (s.setRun false k fun r => { r with result := some b }).stall r.ring e
  | (s, .fault st) => s.grpOwn false k d st e.plkKey.toNat
  | (s, .ok _) => match s.grpWrite env false k e.plkKey e.plkAddr (b.take (8 * e.nval)) with
    | (s, some st) => s.grpOwn false k d st e.plkKey.toNat
    | (s, none) => s.grpStop false k d { bytes := 8 * e.nval, okCnt := some (Reg.plkCounts 3) }

/-- The release or the results go down, are placed, and the member completes. -/
def Dev.pluckDown (s : Dev) (env : Env) (k : Nat) (d : ChdDef) (r : ChdRun) (e : Entry) (b : List Byte) : Dev :=
  let s := d.downs.foldl (fun s y => if e.isScalar then s.sendStream k d r 0x24 y (e.nflit 8) b else s.sendStream k d r 0x21 y 1 []) s
  if !e.isScalar then s.grpStop false k d { okCnt := some (Reg.plkCounts 2) } else s.pluckPlace env k d r e b

/-- The waits of a Pluck operation. -/
def pluckWaits (d : ChdDef) (x : Slot) (r : ChdRun) (e : Entry) : List (Nat × Bool × Nat × Nat) :=
  (d.kids.filterMap fun y => if r.next == 0 && (x.childUp e y).isNone then some (y, false, 0, d.inStep y) else none) ++
  (if d.isRoot then [] else [(d.parent, false, 0, d.inStep d.parent)])

/-- The operation goes on as far as it can. -/
def Dev.pluckProgress (s : Dev) (env : Env) (k : Nat) (d : ChdDef) : Dev :=
  match (s.slot k).run with
  | none => s
  | some r =>
    if r.result.isSome then s else
    let e := s.runEntry r
    let x := s.slot k
    let kids := d.kids.map (x.childUp e)
    let s :=
      if r.next != 0 || kids.any (·.isNone) then s
      else
        let s := s.setRun false k fun r => { r with next := 1 }
        let vs := kids.foldl (fun vs y => e.addUp vs (y.getD [])) e.plkValues
        if d.isRoot then
          if !e.isScalar then s.pluckDown env k d r e []
          else
            let draw := fun i => if e.rmode == 2 then stochastic d k r.seq i else 0
            let q := vs.zipIdx.map fun v => roundOut e.dtype e.dtype e.rop e.rmode (draw v.2) e.sat v.1
            (s.countRounded q 0).pluckDown env k d r e (q.flatMap fun c => leBytes 8 c.code)
        else if !e.isScalar then s.sendStream k d r 0x20 d.parent 1 []
        else if d.kids.isEmpty then
          s.sendStream k d r 0x22 d.parent (e.nflit 8) ((List.range e.nval).flatMap fun i => leBytes 8 (e.f (639 + 64 * i) (576 + 64 * i)))
        else s.sendStream k d r 0x23 d.parent (e.nflit e.combinedWidth) (e.toStream vs)
    let s := match (s.slot k).run with
      | none => s
      | some r =>
        if d.isRoot || r.next == 0 then s
        else match (s.slot k).parentDown e d.parent with
          | some b => s.pluckDown env k d r e b
          | none => s
    match (s.slot k).run with
    | none => s
    | some r => s.setRun false k fun r' => { r' with
        waits := if r.result.isSome then [] else s.keepWaits d r.waits (pluckWaits d (s.slot k) r e) }

/-- Flits of a type a running operation expects on an edge; none where it expects none. -/
def pluckCount (d : ChdDef) (e : Entry) (y ptype : Nat) : Option Nat :=
  if e.opcode < 0x48 then none
  else if d.kids.contains y then
    (match ptype, e.isScalar with
      | 0x20, false => some 1
      | 0x22, true => some (e.nflit 8)
      | 0x23, true => some (e.nflit e.combinedWidth)
      | _, _ => none)
  else if !d.isRoot && y == d.parent then
    (match ptype, e.isScalar with
      | 0x21, false => some 1
      | 0x24, true => some (e.nflit 8)
      | _, _ => none)
  else none

/-- R280: flits that came before the launch and that the operation does not expect are dropped and counted under STALE. -/
def Dev.dropEarly (s : Dev) (ex : Bool) (k : Nat) (good : Nat × Nat × Nat × BitVec 256 × Word → Bool) (stale : Dev → Dev) : Dev :=
  let x := s.grp ex k
  (x.flits.filter fun f => !good f).foldl (fun s _ => stale s) (s.setGrp ex k { x with flits := x.flits.filter good })

/-- A Pluck command launches: PLK_SCALAR's destination is checked first. -/
def Dev.launchPluck (s : Dev) (env : Env) (r : Nat) (e : Entry) : Dev :=
  s.grpLaunch r e false e.shaped (fun d => e.plkBad (d.filter fun d => d.part == ringPart r)) e.plkSig fun s d =>
    let s := s.dropEarly false e.slot (fun f => match pluckCount d e f.1 f.2.1 with | some n => f.2.2.1 < n | none => false) fun s => s.bump (Reg.plkCounts 4)
    let go := fun (s : Dev) => s.pluckProgress env e.slot d
    if e.isScalar then s.grpOperand false e.slot d r e.pos e.plkKey e.plkAddr (8 * e.nval) rW go else go s

def execPlkBarrier (ring : Fin 16384) (s : State) : Host.Outcome State Fault Refusal :=
  onDev (fun s => s.launchWith {} ring 0x48 fun s r e => s.launchPluck {} r e) s
def execPlkScalar (ring : Fin 16384) (env : Env) (s : State) : Host.Outcome State Fault Refusal :=
  onDev (fun s => (s.enter env).launchWith env ring 0x49 fun s r e => s.launchPluck env r e) s

/-! ### Flits at their destination (R243, R277, R280) -/

def Dev.holdFlit (s : Dev) (ex : Bool) (k y : Nat) (p : Packet) : Dev :=
  let x := s.grp ex k
  if x.flits.any (fun f => f.1 == y && f.2.1 == p.ptype && f.2.2.1 == p.pluckFlit) then s
  else s.setGrp ex k { x with flits := x.flits ++ [(y, p.ptype, p.pluckFlit, BitVec.ofNat 256 p.pluckData, BitVec.ofNat 64 p.pluckSig)] }

/-- A barrier or scalar flit at its destination. -/
def Dev.rxPluck (s : Dev) (port : Nat) (p : Packet) : Dev :=
  let k := p.pluckSlot
  let stale := fun (s : Dev) => s.bump (Reg.plkCounts 4)
  match s.takeLocal port p (s.slotPart false k) with
  | none => s
  | some s =>
    let s := s.bump (Reg.plkCounts 1)
    match s.grpDef false k with
    | none => s.bump (Reg.plkCounts 5)
    | some d =>
      match d.edgeOf p.src with
      | none => s.bump (Reg.plkCounts 5)
      | some y =>
        match (s.slot k).seqCase p.pluckSeq with
        | .cur =>
          match (s.slot k).run with
          | none => s
          | some r =>
            if p.pluckSig != r.sig.toNat then s.grpMismatch false k d (d.member y) (d.inStep y)
            else match pluckCount d (s.runEntry r) y p.ptype with
              | none => stale s
              | some n => if n ≤ p.pluckFlit then stale s else (s.holdFlit false k y p).pluckProgress {} k d
        | .next => s.holdFlit false k y p
        | .ahead => s.grpBump false .early
        | .nextBusy | .stale => stale s

/-- A Pluck flit as a packet: PLEN is 0. -/
def pluckOf (d : BitVec 512) : Packet := { hdr := d }

def execBarUp (port : Fin 16) (d : BitVec 512) (s : State) : Host.Outcome State Fault Refusal :=
  onDev (fun s => if (pluckOf d).ptype == 0x20 then s.rxPluck port (pluckOf d) else s) s
def execBarDown (port : Fin 16) (d : BitVec 512) (s : State) : Host.Outcome State Fault Refusal :=
  onDev (fun s => if (pluckOf d).ptype == 0x21 then s.rxPluck port (pluckOf d) else s) s
def execSclUpRaw (port : Fin 16) (d : BitVec 512) (s : State) : Host.Outcome State Fault Refusal :=
  onDev (fun s => if (pluckOf d).ptype == 0x22 then s.rxPluck port (pluckOf d) else s) s
def execSclUpExact (port : Fin 16) (d : BitVec 512) (s : State) : Host.Outcome State Fault Refusal :=
  onDev (fun s => if (pluckOf d).ptype == 0x23 then s.rxPluck port (pluckOf d) else s) s
def execSclDown (port : Fin 16) (d : BitVec 512) (s : State) : Host.Outcome State Fault Refusal :=
  onDev (fun s => if (pluckOf d).ptype == 0x24 then s.rxPluck port (pluckOf d) else s) s
/-- PLUCK_DEADLINE (R283). -/
def execPluckDeadline (slot : BitVec 12) (s : State) : Host.Outcome State Fault Refusal :=
  onDev (fun s => match s.grpDef false slot.toNat with
    | some d => if ((s.slot slot.toNat).run.any fun r => 0x48 ≤ r.opcode.toNat) then s.grpLate false slot.toNat d else s
    | none => s) s

end Sys2Proof.Machine
end

