-- ==== Sys2Proof/Machine/Strum.lean ====
section
/-! DEFINITION. Strum exchanges (chapter 13): launch, the open, data and close phases, and the Strum packets. -/

namespace Sys2Proof.Machine

/-! ### Fields (Tables 5.15 and 13.5) -/

def Entry.isAll (e : Entry) : Bool := e.opcode == 0x51
def Entry.dlen (e : Entry) : Nat := e.f 511 448
def Entry.stmDaddr (e : Entry) : Nat := e.f 447 384
def Entry.stmDkey (e : Entry) : BitVec 32 := BitVec.ofNat 32 (e.f 383 352)
def Entry.stmSaddr (e : Entry) : Nat := e.f 351 288
def Entry.stmSkey (e : Entry) : BitVec 32 := BitVec.ofNat 32 (e.f 287 256)
def Entry.caddr (e : Entry) : Nat := e.f 255 192
def Entry.ckey (e : Entry) : BitVec 32 := BitVec.ofNat 32 (e.f 191 160)

/-- R287: header entries, header bytes, and the length of a slice. -/
def Entry.hdrCount (e : Entry) (n : Nat) : Nat := if e.isAll then n else 1
def Entry.hdrLen (e : Entry) (n : Nat) : Nat := ceilDiv (8 * e.hdrCount n) 64 * 64
def Entry.sliceLen (e : Entry) (n : Nat) : Nat := (e.dlen - e.hdrLen n) / (64 * e.hdrCount n) * 64

def Entry.stmBad (e : Entry) (d : Option ChdDef) : Option (Nat × Nat) :=
  match d with
  | none => some (0x0A, 16)
  | some d => if e.sliceLen d.members == 0 then some (0x05, 56) else none

/-- A counts vector entry: SEND_OFF, SEND_LEN, NODE, DST_MEMBER, SRC_MEMBER. -/
def countsOf (b : List Byte) (i : Nat) : Nat × Nat × Nat × Nat × Nat :=
  (leAt b (32 * i) 8, leAt b (32 * i + 8) 4, leAt b (32 * i + 12) 4, leAt b (32 * i + 16) 2, leAt b (32 * i + 18) 2)

def Dev.stmRun (s : Dev) (k : Nat) : StmRun := tget (fun _ => {}) s.stm.runs k
def Dev.setStm (s : Dev) (k : Nat) (x : StmRun) : Dev := { s with stm := { s.stm with runs := tput s.stm.runs k x } }

/-! ### Quotas (R292) -/

/-- The port of the DET_CHORD route to a node, 16 where it has none. -/
def Dev.stmPort (s : Dev) (n tc : Nat) : Nat :=
  match s.place { hdr := mkHdr [(0, n), (32, s.node), (64, 0x28), (76, tc)] } with
  | some (p, _) => p
  | none => 16

/-- F_p: the payload that port p's frets of exchange k carry in one period. -/
def Dev.fretBytes (s : Dev) (p k : Nat) : Nat :=
  let sum := ((List.range (s.tabCount p)).map fun i =>
    let w := s.tabEntry p i
    if tabKind w == 2 && tabOwner w == k then tabLen w else 0).sum
  sum * 1600 * 64 / 65

/-- Q_p. -/
def quota (f n : Nat) : Nat := if n == 0 || f == 0 then 0 else f / n / 4096 * 4096

/-! ### Messages (R287, R289, R290) -/

/-- The slice that receives a member's message. -/
def StmRun.sliceOf (x : StmRun) (m : Nat) : Nat := if x.alltoall then m else 0

def StmIn.done (i : StmIn) : Bool := i.total == some i.got

def StmRun.setIn (x : StmRun) (m : Nat) (f : StmIn → StmIn) : StmRun :=
  { x with ins := replaceFirst (fun i => i.member == m) f x.ins }

/-- Bytes of a member's message placed in its slice from an offset; what lies beyond the slice is discarded and counted. -/
def Dev.stmPlace (s : Dev) (env : Env) (k : Nat) (e : Entry) (m off : Nat) (b : List Byte) : Dev × Option Nat :=
  let x := s.stmRun k
  let keep := b.take (x.slice - off)
  let s := s.bumpBy (Reg.stmCounts 3) (b.length - keep.length)
  let s := s.setStm k (x.setIn m fun i => { i with got := i.got + b.length, placed := i.placed + keep.length, began := s.now })
  if keep.isEmpty then (s, none)
  else s.grpWrite env true k e.stmDkey (e.stmDaddr + x.hdr + x.sliceOf m * x.slice + off) keep

/-- A message's announced length, and its header entry. -/
def Dev.stmTotal (s : Dev) (env : Env) (k : Nat) (e : Entry) (m total : Nat) : Dev × Option Nat :=
  let x := s.stmRun k
  let s := s.setStm k (x.setIn m fun i => { i with total := some total, began := s.now })
  s.grpWrite env true k e.stmDkey (e.stmDaddr + 8 * x.sliceOf m) (leBytes 4 total ++ zeros 3 ++ [if x.slice < total then 0x80 else 0])

/-- A Strum DATA or END packet (Table 13.6). -/
def strumPkt (ptype dst src tc k seq me off : Nat) (sig : Word) (b : List Byte) : Packet :=
  { hdr := mkHdr [(0, dst), (32, src), (64, ptype), (76, tc), (120, b.length), (256, k), (272, seq), (304, me), (352, off), (448, sig.toNat)],
    payload := b }

/-- Whether a packet of the exchange still waits for a port. -/
def Dev.stmQueued (s : Dev) (k : Nat) (f : QPkt → Bool) : Bool :=
  s.sch.q.any fun x => isStrum x.pkt && x.pkt.ptype != 0x2A && x.inPort.isNone && x.pkt.f 267 256 == k && f x

/-- The next destination in a port's rotation, or in that of the spilled packets (16), that satisfies a test. -/
def StmRun.turn (x : StmRun) (p : Nat) (f : StmOut → Bool) : Option Nat :=
  let n := x.outs.length
  ((List.range n).map fun i => (tget (fun _ => 0) x.rot p + i) % n).find? fun i => match x.outs[i]? with | some o => f o | none => false

/-- One DATA packet of the message at place i of the list: the bytes from `next` on, at most `lim` of them. -/
def Dev.stmSend (s : Dev) (env : Env) (k : Nat) (d : ChdDef) (r : ChdRun) (e : Entry) (i : Nat) (spill : Bool) : Dev :=
  let x := s.stmRun k
  match x.outs[i]? with
  | none => s
  | some o =>
    let stop := if spill then o.len else min o.len o.quota
    let n := min 4096 (stop - o.next)
    match s.regionRead env e.stmSkey (e.stmSaddr + o.off + o.next) n (opWho r.ring r.pos) with
    | (s, .ok b) =>
      let s := s.folMem d.part (e.attrs r.ring) e.stmSkey.toNat (e.stmSaddr + o.off + o.next) b
      let rot := tset (fun _ => 0) x.rot (if spill then 16 else o.port) ((i + 1) % x.outs.length)
      let s := s.setStm k { s.stmRun k with outs := x.outs.set i { o with next := o.next + n }, rot := rot }
      let s := s.bumpBy (Reg.stmCounts (if spill then 2 else 1)) n
      s.grpSend d r.ring (strumPkt 0x28 o.node.toNat s.node d.tc k r.seq.toNat d.me o.next r.sig b) spill
    | (s, .fault st) => s.grpOwn true k d st e.stmSkey.toNat
    | (s, .wait) => s.grpOwn true k d stTranslation e.stmSkey.toNat

/-- The exchange offers port p its next scheduled packet, and the adaptive channel its next spilled one, one at a time
(R292). -/
def Dev.stmFeed (s : Dev) (env : Env) (p k : Nat) (d : ChdDef) : Dev :=
  let s := match (s.exch k).run with
    | some r =>
      if decide ((s.stmRun k).phase = StmPhase.data) && !s.stmQueued k (fun x => x.pkt.ptype == 0x28 && x.port == p && x.vc % 3 != 2) then
        match (s.stmRun k).turn p fun o => o.port == p && o.next < min o.len o.quota with
        | some i => s.stmSend env k d r (s.runEntry r) i false
        | none => s
      else s
    | none => s
  match (s.exch k).run with
  | some r =>
    if decide ((s.stmRun k).phase = StmPhase.data) && !s.stmQueued k (fun x => x.pkt.ptype == 0x28 && x.vc % 3 == 2) then
      match (s.stmRun k).turn 16 fun o => min o.len o.quota ≤ o.next && o.next < o.len with
      | some i => s.stmSend env k d r (s.runEntry r) i true
      | none => s
    else s
  | none => s

/-- After a message's last DATA packet has left, its END (R289). -/
def Dev.stmEnds (s : Dev) (k : Nat) (d : ChdDef) (r : ChdRun) : Dev :=
  (s.stmRun k).outs.foldl (fun s o =>
    if o.ended || o.next < o.len || s.stmQueued k (fun x => x.pkt.dst == o.node.toNat) then s
    else
      let x := s.stmRun k
      (s.setStm k { x with outs := x.outs.map fun q => if q.member == o.member then { q with ended := true } else q }).grpSend d r.ring
        (strumPkt 0x29 o.node.toNat s.node d.tc k r.seq.toNat d.me o.len r.sig []) false) s

/-- The own message is copied into the own slice (R289). -/
def Dev.stmCopy (s : Dev) (env : Env) (k : Nat) (d : ChdDef) (r : ChdRun) (e : Entry) (off n : Nat) : Dev :=
  let fail := fun (s : Dev) (st : Nat) (key : BitVec 32) => s.grpOwn true k d st key.toNat
  match s.regionRead env e.stmSkey (e.stmSaddr + off) n (opWho r.ring r.pos) with
  | (s, .fault st) => fail s st e.stmSkey
  | (s, .wait) => fail s stTranslation e.stmSkey
  | (s, .ok b) =>
    match (s.folMem d.part (e.attrs r.ring) e.stmSkey.toNat (e.stmSaddr + off) b).stmPlace env k e d.me 0 b with
    | (s, some st) => fail s st e.stmDkey
    | (s, none) => match s.stmTotal env k e d.me n with
      | (s, some st) => fail s st e.stmDkey
      | (s, none) => s

/-! ### Phases (R289) -/

/-- A phase flit to an edge. -/
def Dev.stmFlit (s : Dev) (k : Nat) (d : ChdDef) (r : ChdRun) (ptype e flit : Nat) : Dev :=
  s.grpSend d r.ring (pluckPkt ptype (d.node e) s.node d.tc k r.seq.toNat flit r.sig 0) false

def Slot.hasFlit (x : Slot) (e ptype flit : Nat) : Bool := x.flits.any fun f => f.1 == e && f.2.1 == ptype && f.2.2.1 == flit

/-- Waits of a phase: the children and the parent (R283). -/
def phaseWaits (d : ChdDef) (x : Slot) (y : StmRun) (flit : Nat) : List (Nat × Bool × Nat × Nat) :=
  (d.kids.filterMap fun e => if !y.sentUp && !x.hasFlit e 0x25 flit then some (e, false, flit, d.inStep e) else none) ++
  (if d.isRoot then [] else [(d.parent, false, flit, d.inStep d.parent)])

/-- The release of a phase has reached this member. -/
def Dev.stmRelease (s : Dev) (env : Env) (k : Nat) (d : ChdDef) (r : ChdRun) (flit : Nat) : Dev :=
  let s := d.downs.foldl (fun s e => s.stmFlit k d r 0x26 e flit) s
  let e := s.runEntry r
  let x := s.stmRun k
  if flit == 1 then s.grpStop true k d { bytes := 8 * e.hdrCount d.members + (x.ins.map (·.placed)).sum }
  else
    let s := s.setStm k { x with
      phase := .data, sentUp := false
      ins := x.ins.map fun i => { i with began := s.now }
      outs := x.outs.filter fun o => o.member != d.me }
    match x.outs.find? fun o => o.member == d.me with
    | some o => s.stmCopy env k d r e o.off o.len
    | none => s

/-- Whether the data phase of this member is over: its packets have left and its messages are complete. -/
def Dev.stmDataDone (s : Dev) (k : Nat) : Bool :=
  let x := s.stmRun k
  x.outs.all (·.ended) && x.ins.all StmIn.done && !s.stmQueued k (fun _ => true)

/-- One phase goes on as far as it can: the up flit once every child's is here, the release at the root or from the
parent. -/
def Dev.stmPhase (s : Dev) (env : Env) (k : Nat) (d : ChdDef) (r : ChdRun) (flit : Nat) : Dev :=
  let x := s.exch k
  let y := s.stmRun k
  let s :=
    if y.sentUp || !d.kids.all fun e => x.hasFlit e 0x25 flit then s
    else
      let s := s.setStm k { y with sentUp := true }
      if d.isRoot then s else s.stmFlit k d r 0x25 d.parent flit
  if (s.stmRun k).sentUp && (d.isRoot || x.hasFlit d.parent 0x26 flit) then s.stmRelease env k d r flit else s

/-- The command still waits for the translation of its counts vector (R178). -/
def Dev.runStalled (s : Dev) (r : ChdRun) : Bool := (s.op? r.ring r.pos).any (·.stalled)

/-- The running operation of an exchange goes on as far as it can. -/
def Dev.strumProgress (s : Dev) (env : Env) (k : Nat) (d : ChdDef) : Dev :=
  let onRun := fun (s : Dev) (p : StmPhase) (f : Dev → ChdRun → Dev) => match (s.exch k).run with
    | some r => if (s.stmRun k).phase = p && !s.runStalled r then f s r else s
    | none => s
  let s := onRun s .open_ fun s r => s.stmPhase env k d r 0
  let s := onRun s .data fun s r =>
    let s := s.stmEnds k d r
    if s.stmDataDone k then s.setStm k { s.stmRun k with phase := .close } else s
  let s := onRun s .close fun s r => s.stmPhase env k d r 1
  match (s.exch k).run with
  | none => s
  | some r =>
    if s.runStalled r then s else
    let y := s.stmRun k
    let now := match y.phase with
      | .open_ => phaseWaits d (s.exch k) y 0
      | .data => []
      | .close => phaseWaits d (s.exch k) y 1
    s.setRun true k fun r' => { r' with waits := s.keepWaits d r.waits now }

/-! ### Launch (R286, R292) -/

/-- The messages of an operation, from its counts vector: expected, and to send in rotation order. -/
def Dev.stmPlan (s : Dev) (k : Nat) (d : ChdDef) (e : Entry) (v : List Byte) : StmRun × Tbl Nat :=
  let n := d.members
  let dests : List (Nat × Nat × Nat × Nat) :=
    if e.isAll then (List.range n).map fun i =>
      let m := (d.me + 1 + i) % n
      let c := countsOf v m
      (m, c.1, c.2.1, c.2.2.1)
    else
      let c := countsOf v 0
      [(c.2.2.2.1, c.1, c.2.1, c.2.2.1)]
  let others := dests.filter fun c => c.1 != d.me
  let ports := others.map fun c => s.stmPort c.2.2.2 d.tc
  let q := fun p => if p < 16 then quota (s.fretBytes p k) (ports.filter (· == p)).length else 0
  let outs := dests.map fun c =>
    let p := if c.1 == d.me then 16 else s.stmPort c.2.2.2 d.tc
    ({ member := c.1, node := BitVec.ofNat 32 c.2.2.2, off := c.2.1, len := c.2.2.1, quota := q p, port := p } : StmOut)
  let froms := if e.isAll then List.range n else [(countsOf v 0).2.2.2.2]
  ({ ins := froms.map fun m => { member := m }, outs := outs, slice := e.sliceLen n, hdr := e.hdrLen n, alltoall := e.isAll },
    (List.range 16).foldl (fun t p => tset (fun _ => 0) t (16 * k + p) (q p)) s.stm.quotas)

/-- The counts vector is read, the operands are checked, and the operation starts. It waits while the vector is not
translated (R178). -/
def Dev.stmCounts (s : Dev) (env : Env) (r : Nat) (e : Entry) (d : ChdDef) : Dev :=
  let k := e.slot
  match s.regionRead env e.ckey e.caddr (32 * e.hdrCount d.members) (opWho r e.pos) with
  | (s, .fault st) => s.grpOwn true k d st e.ckey.toNat
  | (s, .wait) => s.stall r e
  | (s, .ok v) =>
    let s := s.folMem d.part (e.attrs r) e.ckey.toNat e.caddr v
    let (x, q) := s.stmPlan k d e v
    let s : Dev := { s with stm := { s.stm with quotas := q } }
    let dst := fun (s : Dev) => s.grpOperand true k d r e.pos e.stmDkey e.stmDaddr e.dlen (rW + rCH) fun s =>
      (s.setStm k x).strumProgress env k d
    x.outs.foldr (fun o cont => fun s =>
      if o.len == 0 then cont s
      else s.grpOperand true k d r e.pos e.stmSkey (e.stmSaddr + o.off) o.len (rR + rCH) cont) dst s

def Dev.stmStart (s : Dev) (env : Env) (r : Nat) (e : Entry) (d : ChdDef) : Dev :=
  s.grpOperand true e.slot d r e.pos e.ckey e.caddr (32 * e.hdrCount d.members) rR fun s => s.stmCounts env r e d

def Dev.launchStrum (s : Dev) (env : Env) (r : Nat) (e : Entry) : Dev :=
  s.grpLaunch r e true e.shaped (fun d => e.stmBad (d.filter fun d => d.part == ringPart r)) e.stmSig fun s d =>
    (s.dropEarly true e.slot (fun f => f.2.2.1 ≤ 1) fun s => s.grpBump true .stale).stmStart env r e d

def execStmPermute (ring : Fin 16384) (env : Env) (s : State) : Host.Outcome State Fault Refusal :=
  onDev (fun s => (s.enter env).launchWith env ring 0x50 fun s r e => s.launchStrum env r e) s
def execStmAlltoall (ring : Fin 16384) (env : Env) (s : State) : Host.Outcome State Fault Refusal :=
  onDev (fun s => (s.enter env).launchWith env ring 0x51 fun s r e => s.launchStrum env r e) s

/-! ### Packets (R243, R288, R290) -/

/-- A phase flit at its destination. -/
def Dev.rxPhase (s : Dev) (port : Nat) (p : Packet) : Dev :=
  let k := p.pluckSlot
  match s.takeLocal port p (s.slotPart true k) with
  | none => s
  | some s =>
    let s := s.bump (Reg.plkCounts 1)
    match s.grpDef true k with
    | none => s.bump (Reg.plkCounts 5)
    | some d =>
      match d.edgeOf p.src with
      | none => s.bump (Reg.plkCounts 5)
      | some y =>
        match (s.exch k).seqCase p.pluckSeq with
        | .cur =>
          match (s.exch k).run with
          | none => s
          | some r =>
            if p.pluckSig != r.sig.toNat then s.grpMismatch true k d (d.member y) (d.inStep y)
            else if 1 < p.pluckFlit then s.grpBump true .stale
            else (s.holdFlit true k y p).strumProgress {} k d
        | .next => s.holdFlit true k y p
        | .ahead => s.grpBump true .early
        | .nextBusy | .stale => s.grpBump true .stale

/-- A DATA or END of the running operation. -/
def Dev.rxMessage (s : Dev) (env : Env) (k : Nat) (d : ChdDef) (r : ChdRun) (p : Packet) : Dev :=
  let m := p.f 319 304
  let e := s.runEntry r
  if p.f 511 448 != r.sig.toNat || !(s.stmRun k).ins.any fun i => i.member == m then s.grpMismatch true k d m (d.steps.length - 1)
  else
    match if p.ptype == 0x28 then s.stmPlace env k e m (p.f 383 352) p.payload else s.stmTotal env k e m (p.f 383 352) with
    | (s, some st) => s.grpOwn true k d st e.stmDkey.toNat
    | (s, none) => s.strumProgress env k d

/-- A Strum packet at its destination. -/
def Dev.rxStrum (s : Dev) (env : Env) (p : Packet) : Dev :=
  let k := p.f 267 256
  let port := match s.rte.local_.find? fun q => q.1 == p with | some q => q.2.1 | none => 16
  match (s.enter env).takeLocal port p (s.slotPart true k) with
  | none => s
  | some s =>
    if !icrcOk p then (s.dropConn 5).pathLost p
    else match s.grpDef true k with
      | none => s.grpBump true .nodef
      | some d =>
        if p.ptype == 0x2A then s.grpAbort true k d p
        else match (s.exch k).seqCase (p.f 287 272) with
          | .cur => (match (s.exch k).run with
            | some r => s.rxMessage env k d r p
            | none => s)
          | .ahead => s.grpBump true .early
          | .next | .nextBusy | .stale => s.grpBump true .stale

def execStmUp (port : Fin 16) (d : BitVec 512) (s : State) : Host.Outcome State Fault Refusal :=
  onDev (fun s => if (pluckOf d).ptype == 0x25 then s.rxPhase port (pluckOf d) else s) s
def execStmDown (port : Fin 16) (d : BitVec 512) (s : State) : Host.Outcome State Fault Refusal :=
  onDev (fun s => if (pluckOf d).ptype == 0x26 then s.rxPhase port (pluckOf d) else s) s
def execStrumData (p : Packet) (env : Env) (s : State) : Host.Outcome State Fault Refusal :=
  onDev (fun s => if p.ptype == 0x28 then s.rxStrum env p else s) s
def execStrumEnd (p : Packet) (env : Env) (s : State) : Host.Outcome State Fault Refusal :=
  onDev (fun s => if p.ptype == 0x29 then s.rxStrum env p else s) s
def execStrumAbort (p : Packet) (s : State) : Host.Outcome State Fault Refusal :=
  onDev (fun s => if p.ptype == 0x2A then s.rxStrum {} p else s) s

/-- R291: a member whose message is not complete when its wait's deadline passes. -/
def Dev.stmLate (s : Dev) (k : Nat) (d : ChdDef) : Dev :=
  match (s.exch k).run with
  | none => s
  | some _ =>
    match (s.stmRun k).phase with
    | .data =>
      let step := d.steps.length - 1
      match (s.stmRun k).ins.find? fun i => !i.done && s.deadline d step i.began ≤ s.now with
      | some i => s.grpStop true k d { st := stAborted, code := 2, off := i.member, step := step, abort := true, issuer := true }
      | none => s
    | _ => s.grpLate true k d

/-- STRUM_DEADLINE (R283, R291). -/
def execStrumDeadline (exch : BitVec 12) (s : State) : Host.Outcome State Fault Refusal :=
  onDev (fun s => match s.grpDef true exch.toNat with | some d => s.stmLate exch.toNat d | none => s) s
/-- STM_EXCH_SEQ_WRITE (R294). -/
def execStmExchSeqWrite (v : View) (w : Word) (s : State) : Host.Outcome State Fault Refusal :=
  onWrite v Reg.stmExchSeq w (pfOnly v fun s => s.gated v Reg.stmExchSeq w fun s => s.seqWrite v true (bits (s.reg Reg.stmExchSel) 11 0) Reg.stmExchSeq w) s

/-- Pluck and Strum commands that waited at a translation miss go on (R178). -/
def Dev.resumeGroups (s : Dev) (env : Env) : Dev :=
  (s.ops.filter fun o => o.stalled && o.fin.isNone && decide (o.entry.cls = .chord)).foldl (fun s o =>
    let e := o.entry
    let k := e.slot
    let s := s.setOp o.ring e.pos fun o => { o with stalled := false }
    match s.grpDef e.isExch k, (s.grp e.isExch k).run with
    | some d, some r =>
      if e.isExch then s.stmCounts env o.ring e d
      else match r.result with
        | some b => (s.setRun false k fun r => { r with result := none }).pluckPlace env k d r e b
        | none => s
    | _, _ => s) s

/-- The exchanges that run give a port their next packets (R292). -/
def Dev.feedPort (s : Dev) (env : Env) (p : Nat) : Dev :=
  s.exchs.foldl (fun s x => match x.2.run, s.grpDef true x.1 with
    | some _, some d => s.stmFeed env p x.1 d
    | _, _ => s) s

/-- Packets have left: data phases may be over. -/
def Dev.strumGoOn (s : Dev) (env : Env) : Dev :=
  s.exchs.foldl (fun s x => match x.2.run, s.grpDef true x.1 with
    | some _, some d => s.strumProgress env x.1 d
    | _, _ => s) s

end Sys2Proof.Machine
end

