-- ==== Sys2Proof/Machine/Link.lean ====
section
/-! DEFINITION. Fabric links (chapter 10): link units, link control, arriving packets, ports that go down, telemetry. -/

namespace Sys2Proof.Machine

/-! ### A port goes down (R225, R227, R251) -/

/-- The packet in arrival on input p ends there: its rest will not come (R223, R227). It is discarded, credit is returned for
every flit of it that came, and where it was leaving cut-through an ABORT follows on its output, on its channel there. -/
def Dev.abortThrough (s : Dev) (p : Nat) : Dev :=
  let l := s.link p
  match l.rx with
  | none => s
  | some (_, _, 0, _) => s.setLink p { l with rx := none, cut := none }
  | some (h, b, _ + 1, seen) =>
    let s := s.setLink p { l with rx := none, cut := none }
    let k : Packet := { hdr := h }
    let mine := fun (x : QPkt) => x.inPort == some p && hdrStill x.pkt.hdr == hdrStill h
    let s := match seen, s.sch.q.find? mine with
      | false, _ => s.returnCredit p k.vc (1 + b.length / 64)
      | true, some x => if x.shared then s else s.returnCredit p k.vc (1 + b.length / 64)
      | true, none => s
    if s.capo.nodeSet && k.dst == s.node then
      let r := s.rte
      let s : Dev := { s with rte := { r with local_ := eraseFirst (fun q => hdrStill q.1.hdr == hdrStill h && q.2.1 == p) r.local_ } }
      (s.bump (Reg.rteDrops 4)).pathLost k
    else if s.sch.q.any mine then { s with sch := { s.sch with q := eraseFirst mine s.sch.q } }
    else match l.cut with
      | some (q, v) => (s.sendUnit q 5 (BitVec.ofNat 512 v)).emit (.abort q)
      | none => s

/-- The packets a connection has handed to port p, one after another, dropped there. -/
def Dev.dropOffered : Nat → Dev → Nat → Nat → Dev
  | 0, s, _, _ => s
  | n + 1, s, p, c =>
    match s.nextTx c with
    | none => s
    | some t =>
      if !s.windowOpen c || !(s.connPkt c t).any fun x => x.port == p then s
      else match s.buildTx {} c t with
        | (s, some _) => Dev.dropOffered n (s.bump (Reg.rteDrops 4)) p c
        | (s, none) => s

/-- R227: packets queued for the port are dropped and counted under LINK_DOWN. -/
def Dev.dropQueued (s : Dev) (p : Nat) : Dev :=
  let gone := s.sch.q.filter fun x => x.port == p && !x.kind2
  let s : Dev := { s with sch := { s.sch with q := s.sch.q.filter fun x => !(x.port == p && !x.kind2) } }
  let s := gone.foldl (fun s x => ((s.freeRoom x).bump (Reg.rteDrops 4)).pathLost x.pkt) s
  s.conns.foldl (fun s c => Dev.dropOffered c.2.tx.length s p c.1) s

/-- The direction of an edge of a slot for the class of its running operation. -/
def Dev.edgeDir (s : Dev) (pluck : Bool) (node : Nat) : Nat :=
  detDir (s.st (rteCell (s.nodeIndex node))) (if pluck then 3 else 2)

/-- R214, R251, R277: whether packets to a node left by port p until it went down. Pluck flits and the phase flits of an exchange
take the Pluck direction of the route. -/
def Dev.leftBy (s : Dev) (pluck : Bool) (p node : Nat) : Bool :=
  let u := (s.dirPorts (s.edgeDir pluck node)).filter fun q => q == p || s.usable q
  s.portDir p < 8 && u[flowOf { hdr := mkHdr [(0, node), (32, s.node)] } % u.length]? == some p

/-- R251: running operations with an edge whose route left by port p end. -/
def Dev.edgesLost (s : Dev) (ex : Bool) (p : Nat) : Dev :=
  ((if ex then s.exchs else s.slots).map (·.1)).foldl (fun s k =>
    match (s.grp ex k).run, s.grpDef ex k with
    | some r, some d =>
      (match (List.range d.edges.length).find? fun e => s.leftBy (0x48 ≤ r.opcode.toNat) p (d.node e) with
      | some e => (s.grpBump ex .path).grpStop ex k d {
          st := stAborted, code := 4, step := r.step, abort := true, skip := some (d.canon e), issuer := true }
      | none => s)
    | _, _ => s) s

/-- R72: a local apply, with its cause of Table 21.6. -/
def Dev.localApply (s : Dev) (p code : Nat) : Dev :=
  let s := (s.abortThrough p).dropQueued p
  if s.portDown p then s
  else
    let down := s.capo.down ||| BitVec.ofNat 16 (2 ^ p)
    let s := ({ s with capo := { s.capo with down := down } } : Dev).bump Reg.capoLocalCount
    let s := s.postErr Reg.rteCfg 0x09 code (p + at_ 16 down.toNat) 1
    (s.edgesLost false p).edgesLost true p

/-- The link layer of a port ends: what was partly sent or received is lost with it (R227), and nothing more follows on it. -/
def Dev.linkOff (s : Dev) (p : Nat) : Dev :=
  forUpto 16 (fun s q => if (s.link q).cut.any fun c => c.1 == p then s.setLink q { s.link q with cut := none } else s) (s.setLink p {})

/-- The link of port p goes down (R225). -/
def Dev.goDown (s : Dev) (p code : Nat) : Dev :=
  let s := s.localApply p code
  if (s.link p).up then s.linkOff p else s

/-- R34: Ruling loss is declared 200 ns after the last valid beacon, or after the link came up without one. -/
def Dev.rulingLoss (s : Dev) (p : Nat) : Dev :=
  let x := s.rlgPort p
  let last := max (x.beaconAt.getD 0) (s.link p).upAt
  if s.isEth p || x.lossDeclared || !((s.link p).up || x.beaconAt.isSome) || s.osc < last + nsTicks 200 then s
  else
    let t := ((s.setRlgPort p { x with lossDeclared := true }).bump (Reg.rlgPortBeaconLoss p)).localApply p 1
    s.oneClock (if t.isParent p then t.parentLost else t)

/-- R221: 16 successive replay requests without success. -/
def Dev.retryExhausted (s : Dev) (p : Nat) : Dev :=
  if (s.link p).up && 16 ≤ (s.link p).requests then s.goDown p 2 else s

def Dev.signalLoss (s : Dev) (p : Nat) : Dev := if (s.link p).up then s.goDown p 3 else s

/-- A port goes down, under the cause its state shows (R225). -/
def Dev.portLost (s : Dev) (p : Nat) : Dev :=
  if s.isEth p then s
  else s.goDown p (if (s.optPort p).fenced then 5 else if !s.portEnabled p then 4 else if 16 ≤ (s.link p).requests then 2 else 3)

/-- R357: all eight wavelengths are LOCKED. -/
def OptPort.locked (o : OptPort) : Bool := (List.range 8).all fun w => decide ((o.wl w).lock = .locked)

/-- The fabric port's link layer comes up (R221, R222): credit limits are the reservations of R218 and R278. -/
def Dev.linkUp (s : Dev) (p : Nat) : Dev :=
  if s.isEth p || !s.portEnabled p || (s.optPort p).fenced || !(s.optPort p).locked || s.inReset Reg.rteCfg || (s.link p).up then s
  else
    let limits : Tbl (BitVec 16) := (List.range 11).map fun v => (v, if v < 9 then 2048 else 32)
    let s := s.setLink p { up := true, limit := limits, grant := limits, upAt := s.osc }
    let x := s.rlgPort p
    s.setRlgPort p { x with beaconAt := none, lossDeclared := false, nbState := 0, nbDepth := 0, sent := [] }

/-! ### Link units (R220 to R223) -/

/-- LSEQ a is before b. -/
def seqBefore (a b : BitVec 16) : Bool := halfBefore 16 a.toNat b.toNat

/-- An accepted PKT unit: the header of a packet, come in at `a`, or its next payload flit. -/
def Link.takeFlit (l : Link) (a : Arrival) (d : BitVec 512) : Link :=
  match l.rx with
  | some (h, got, left + 1, seen) => { l with rx := some (h, got ++ leBytes 64 d.toNat, left, seen) }
  | _ => { l with rx := some (d, [], flitsOf { hdr := d } - 1, false), rxAt := a, cut := none }

/-- A payload flit of a packet that was looked up goes on by the output the packet leaves by. Its room is free again unless
the packet rests in the port's own part of the buffer (R22, R218). -/
def Dev.flitOn (s : Dev) (p : Nat) (h d : BitVec 512) : Dev :=
  let s := match (s.link p).cut with
    | some (q, v) => s.sendFlits q v 1 [d]
    | none => s
  if s.sch.q.any fun x => x.inPort == some p && !x.shared && hdrStill x.pkt.hdr == hdrStill h then s
  else s.returnCredit p ({ hdr := h } : Packet).vc 1

/-- An accepted PKT unit. -/
def Dev.flitRx (s : Dev) (p : Nat) (d : BitVec 512) : Dev :=
  let l := s.link p
  let s := s.setLink p (l.takeFlit { at_ := s.rlg.time, valid := s.rlg.lock.stampOk } d)
  match l.rx with
  | some (h, _, _ + 1, true) => s.flitOn p h d
  | _ => s

/-- The packet in arrival enters a lookup pipeline (R16). -/
def Link.lookedUp (l : Link) (k : Packet) : Link :=
  match l.rx with
  | some (h, got, left, _) => if hdrStill h == hdrStill k.hdr then { l with rx := some (h, got, left, true) } else l
  | none => l

/-- LINK_UNIT_RX (R221). An intact unsequenced unit that carries EXP shows that nothing is missing before it: it ends a
suspected loss once replay has been requested (DEDUCED). -/
def Dev.unitRx (s : Dev) (p : Nat) (u : LinkUnit) : Dev :=
  let l := s.link p
  if !s.portUp p then s
  else if !u.crcOk || 7 ≤ u.kind.toNat then s.setLink p { l with lost := true }
  else
    let sequenced := u.kind == 1 || u.kind == 2 || u.kind == 5 || u.kind == 6
    if !sequenced then
      (if u.seq == l.exp && l.requests != 0 then s.setLink p { l with lost := false, requests := 0 } else s)
    else if u.seq == l.exp then
      let s := s.setLink p { l with exp := l.exp + 1, lost := false, requests := 0 }
      if u.kind == 1 then s.flitRx p u.data else s
    else if seqBefore l.exp u.seq then s.setLink p { l with lost := true }
    else s

/-- The flit of Table 10.22 that port p sends. -/
def Dev.lctlFlit (s : Dev) (p : Nat) : BitVec 512 :=
  let l := s.link p
  BitVec.ofNat 512 (s.beaconState + at_ 8 (s.rlgDepth % 256) + at_ 16 l.exp.toNat
    + (if l.lost then at_ 32 l.exp.toNat + at_ 48 1 else 0)
    + (List.range 12).foldl (fun a v => a + at_ (64 + 16 * v) (tget (fun _ => 0) l.grant v).toNat) 0)

/-- LCTL_SEND. -/
def Dev.lctlSend (s : Dev) (p : Nat) : Dev :=
  if !s.portUp p then s
  else
    let l := s.link p
    (s.setLink p { l with requests := if l.lost then l.requests + 1 else l.requests }).emitUnit p 3 l.nextSeq (s.lctlFlit p)

/-- R222: a limit received moves the limit held only forward. -/
def Link.takeLimits (l : Link) (d : BitVec 512) : Link :=
  (List.range 12).foldl (fun l v =>
    let n : BitVec 16 := BitVec.ofNat 16 (bits d (79 + 16 * v) (64 + 16 * v))
    if seqBefore (tget (fun _ => 0) l.limit v) n then { l with limit := tset (fun _ => 0) l.limit v n } else l) l

/-- R221: a replay request resends what is held from its LSEQ on, at most once per microsecond for one LSEQ. -/
def Dev.replay (s : Dev) (p : Nat) (q : BitVec 16) : Dev :=
  let l := s.link p
  if (match l.replayAt with | some (r, t) => r == q && s.osc < t + usTicks 1 | none => false) then s
  else
    let s := s.setLink p { l with replayAt := some (q, s.osc) }
    (l.held.filter fun u => !seqBefore u.1 q).foldl (fun s u => s.emitUnit p u.2.1.toNat u.1 u.2.2) s

/-- LCTL (R222): the beacon, credit limits, acknowledgement and replay request of a link control flit. -/
def Dev.lctl (s : Dev) (p : Nat) (d : BitVec 512) : Dev :=
  if !s.portUp p then s
  else
    let l := (s.link p).takeLimits d
    let ack : BitVec 16 := BitVec.ofNat 16 (bits d 31 16)
    let s := s.setLink p { l with held := l.held.filter fun u => !seqBefore u.1 ack }
    let s := if bit d 48 then s.replay p (BitVec.ofNat 16 (bits d 47 32)) else s
    let st := bits d 2 0
    if 6 ≤ st then s
    else
      let depth := bits d 15 8
      let s := s.setRlgPort p { s.rlgPort p with
        nbState := BitVec.ofNat 3 st, nbDepth := BitVec.ofNat 8 depth, beaconAt := some s.osc, lossDeclared := false }
      (s.noteServed st depth).afterBeacon p

/-! ### Arriving packets (R213, R227, R120, R277) -/

/-- PACKET_LOOKUP. -/
def Dev.lookup (s : Dev) (p : Nat) (k : Packet) : Dev :=
  let s := s.setLink p ((s.link p).lookedUp k)
  let f := s.arrived p k
  if s.isEth p || s.inReset Reg.rteCfg then s
  else if s.portDown p || !s.portCarries p then ((s.returnCredit p k.vc f).bump (Reg.rteDrops 4)).pathLost k
  else if isPluck k && k.vc == 11 then (s.returnCredit p k.vc f).bump (Reg.plkCounts 6)
  else
    let arr := some (s.portDir p, k.vc % 3)
    let adaptive := k.vc % 3 == 2
    if s.capo.nodeSet && k.dst == s.node then
      let s := s.returnCredit p k.vc f
      if !ptypeOk k.ptype || 12 ≤ k.vc || 4096 < k.plen then s.dropConn 6
      else s.toLocal k p
    else match s.join (.transit k.tc k.vc) arr (some p) none k adaptive with
      | (s, none) => s
      | (s, some r) =>
        let s := s.returnCredit p k.vc f
        if r == 0 then s.pathLost k else s

/-- ADAPTIVE_ESCAPE (R217): the oldest adaptive packet that came in by the port, or started here, and has waited
ESCAPE_NS without a candidate. -/
def Dev.escape (s : Dev) (p : Nat) : Dev :=
  let s := s.retryAdaptive
  match s.sch.q.find? fun x => x.kind2 && x.inPort.getD p == p && x.escapeAt ≤ s.osc with
  | none => s
  | some x => match s.escapeOne x with
    | (s, some 0) => s.pathLost x.pkt
    | (s, _) => s

/-- TELEMETRY (R234). -/
def Dev.telemRx (s : Dev) (k : Packet) : Dev :=
  if !s.rte.local_.any (fun q => q.1 == k && s.whole q.2.1 k) || k.ptype != 0x30 then s
  else
    let s : Dev := { s with rte := { s.rte with local_ := eraseFirst (fun q => q.1 == k) s.rte.local_ } }
    let w := s.reg Reg.rteTelemRx
    let slots := 2 ^ min 16 (bits w 4 0)
    let a := bits w 63 16 * 65536 + (s.count Reg.rteTelemRxCount).toNat % slots * 8192
    if !icrcOk k || !bit w 9 then s.bump (Reg.rteDrops 5)
    else match s.writeT {} 0 (if bit w 8 then .ink else .host) a (hdrBytes k.hdr ++ k.payload) with
      | (s, .ok) => s.bump Reg.rteTelemRxCount
      | (s, _) => s.bump (Reg.rteDrops 5)

/-! ### The commands -/

def execRulingLoss (port : Fin 16) (s : State) : Host.Outcome State Fault Refusal := onDev (fun s => s.rulingLoss port) s
def execLinkRetryExhausted (port : Fin 16) (s : State) : Host.Outcome State Fault Refusal := onDev (fun s => s.retryExhausted port) s
def execSignalLockLoss (port : Fin 16) (s : State) : Host.Outcome State Fault Refusal := onDev (fun s => s.signalLoss port) s
def execFabricPortDown (port : Fin 16) (s : State) : Host.Outcome State Fault Refusal := onDev (fun s => s.portLost port) s
def execFabricLinkUp (port : Fin 16) (s : State) : Host.Outcome State Fault Refusal := onDev (fun s => s.linkUp port) s
def execLinkUnitRx (port : Fin 16) (u : LinkUnit) (s : State) : Host.Outcome State Fault Refusal := onDev (fun s => s.unitRx port u) s
def execLctlSend (port : Fin 16) (s : State) : Host.Outcome State Fault Refusal := onDev (fun s => s.lctlSend port) s
def execLctl (port : Fin 16) (d : BitVec 512) (s : State) : Host.Outcome State Fault Refusal := onDev (fun s => s.lctl port d) s
/-- LINK_ABORT (R223). -/
def execLinkAbort (port : Fin 16) (s : State) : Host.Outcome State Fault Refusal :=
  onDev (fun s => if s.portUp port then s.abortThrough port else s) s
def execPacketLookup (port : Fin 16) (p : Packet) (s : State) : Host.Outcome State Fault Refusal := onDev (fun s => s.lookup port p) s
def execAdaptiveEscape (port : Fin 16) (s : State) : Host.Outcome State Fault Refusal := onDev (fun s => s.escape port) s
def execTelemetry (p : Packet) (s : State) : Host.Outcome State Fault Refusal := onDev (fun s => s.telemRx p) s

end Sys2Proof.Machine
end

