-- ==== Sys2Proof/Machine/Miss.lean ====
section
/-! DEFINITION. Translation misses of on-demand regions and their page requests (R175, R176). -/

namespace Sys2Proof.Machine

def Dev.setMisses (s : Dev) (l : List Miss) : Dev := { s with xlt := { s.xlt with misses := l } }

def Miss.is (m : Miss) (fn : Nat) (pasid : BitVec 20) (page : Nat) : Bool := m.fn == fn && m.pasid == pasid && m.page == page

/-- Page requests outstanding, of a function and of all. -/
def Dev.priOut (s : Dev) (fn : Nat) : Nat := (s.xlt.misses.filter fun m => m.fn == fn && decide (m.st = .pri)).length
def Dev.priOutAll (s : Dev) : Nat := (s.xlt.misses.filter fun m => decide (m.st = .pri)).length

/-- The lowest page request group index of a function that is neither outstanding nor timed out. -/
def Dev.freeGroup (s : Dev) (fn : Nat) : Option Nat :=
  (List.range 512).find? fun g => !s.xlt.lateGroups.contains (fn, g) &&
    !s.xlt.misses.any fun m => m.fn == fn && decide (m.st = .pri) && m.group == g

/-- Whether a page request of the function may be sent now (R175, R176). -/
def Dev.priRoom (s : Dev) (fn : Nat) : Bool :=
  s.priOut fn < (s.fn fn).priAlloc && s.priOutAll < priCapacity && (s.freeGroup fn).isSome

/-- PRI_TIMEOUT in ticks. -/
def Dev.priTimeout (s : Dev) : Nat := usTicks (max 1 (bits (s.reg Reg.xltCfg) 63 48))

/-- A Page Request, as a group of its own with Last set. -/
def Dev.priSend (s : Dev) (m : Miss) : Dev :=
  let g := (s.freeGroup m.fn).getD 0
  let x : Miss := { m with st := .pri, group := g, deadline := s.osc + s.priTimeout }
  ((s.setMisses (replaceFirst (fun y => y.is m.fn m.pasid m.page) (fun _ => x) s.xlt.misses)).bump Reg.xltPriReqs).emit
    (.ats 1 m.fn m.pasid m.page g m.write)

/-- Misses of the pending list whose request may now be sent, oldest first. -/
def Dev.priNext : Nat → Dev → Dev
  | 0, s => s
  | fuel + 1, s =>
    match s.xlt.misses.find? fun m => decide (m.st = .pend) && s.priRoom m.fn with
    | some m => Dev.priNext fuel (s.priSend m)
    | none => s

def Dev.dropMiss (s : Dev) (m : Miss) : Dev := s.setMisses (eraseFirst (fun y => y.is m.fn m.pasid m.page) s.xlt.misses)

/-- A miss ends in TRANSLATION_FAULT, which each access that waits for it finds. -/
def Dev.missFault (s : Dev) (m : Miss) : Dev :=
  let s := s.dropMiss m
  { s with xlt := { s.xlt with faulted := s.xlt.faulted ++ m.who.map fun w => (w, m.key, m.page) } }

/-- The timed-out or abandoned page requests of a function's misses: their group indices wait for late answers (R176). -/
def lateOf (l : List Miss) : List (Nat × Nat) := l.filterMap fun m => if m.st = .pri then some (m.fn, m.group) else none

/-- The misses of a function end without a result; the group indices of its page requests wait for their answers. -/
def Dev.missesGone (s : Dev) (fn : Nat) : Dev :=
  let gone := s.xlt.misses.filter fun m => m.fn == fn
  { s with xlt := { s.xlt with
      misses := s.xlt.misses.filter fun m => m.fn != fn
      lateGroups := s.xlt.lateGroups ++ lateOf gone } }

end Sys2Proof.Machine
end

