-- ==== Sys2Proof/Machine/Partition.lean ====
section
/-! DEFINITION. Partition states: preemption, quiesce, release, function-level reset and forced reset (chapter 16). -/

namespace Sys2Proof.Machine

/-! ### RoCE queue pairs (R377, R379) -/

/-- A queue pair in RTS ends in ERROR; one with a WRITE message open sets FAILED on its counter (R377). -/
def Dev.qpError (s : Dev) (k : Nat) (cause : Byte) : Dev :=
  let q := s.qp k
  if q.st ≠ .rts then s
  else
    let c := q.part * 1024 + bits q.cfg 159 150
    let s := if q.openMsg && bit q.cfg 149 then s.setCtr c { s.ctr c with failed := true } else s
    s.setQp k { q with st := .error, errCause := cause, openMsg := false, resp := [] }

/-- R379: every queue pair of a partition. -/
def Dev.quiesceQps (s : Dev) (n : Nat) : Dev :=
  (s.qps.filter fun p => Qp.part p.2 == n).foldl (fun s p => s.qpError p.1 0x0D) s

/-! ### PTN_CTL (R330 to R333) -/

/-- A PTN_CTL command that does not act (R330). -/
def Dev.ptnRefused (s : Dev) (v : View) (n : Nat) (w : Word) : Dev := s.hostErr v (Reg.ptnCtl n) 0x02 w

/-- Whether a PTN_CTL write is one command bit and nothing else. -/
def ptnOne (w : Word) : Bool := w == 1 || w == 2 || w == 4 || w == 8

def Dev.ptnPreempt (s : Dev) (v : View) (n : Nat) (w : Word) : Dev :=
  match (s.ptn n).st with
  | .active => (s.setPtn n { s.ptn n with st := .preempting }).settlePtn n
  | _ => s.ptnRefused v n w

def Dev.ptnResume (s : Dev) (v : View) (n : Nat) (w : Word) : Dev :=
  match (s.ptn n).st with
  | .preempting | .preempted => (s.setPtn n { s.ptn n with st := .active }).settleHeads n
  | _ => s.ptnRefused v n w

/-- R332: rings stop, pools are flushed, new messages are refused from here on. -/
def Dev.ptnQuiesce (s : Dev) (v : View) (n : Nat) (w : Word) : Dev :=
  match (s.ptn n).st with
  | .active | .preempting | .preempted =>
    let s := (s.rings.filter fun p => ringPart p.1 == n && decide (p.2.st = .enabled)).foldl
      (fun s p => s.ringStop p.1 .quiesced 0) s
    let s := (forUpto 64 (fun s p => s.flushPool n p) s).quiesceQps n
    (s.setPtn n { s.ptn n with st := .quiescing }).settlePtn n
  | _ => s.ptnRefused v n w

/-- Table 16.4, Table 4.5: a released partition is ACTIVE, its rings in QUIESCED are DISABLED. -/
def Dev.ptnRelease (s : Dev) (v : View) (n : Nat) (w : Word) : Dev :=
  match (s.ptn n).st with
  | .quiesced =>
    let s := (s.rings.filter fun p => ringPart p.1 == n && decide (p.2.st = .quiesced)).foldl
      (fun s p => s.setRing p.1 { p.2 with st := .disabled, start := p.2.head, taken := [], discarding := false, held := false }) s
    s.setPtn n { s.ptn n with st := .active }
  | _ => s.ptnRefused v n w

/-- A PTN_CTL write: the command its one bit names, nothing where it is 0. A reserved bit or several bits are refused (R330). -/
def Dev.ptnCmd (s : Dev) (v : View) (n : Nat) (w : Word) : Dev :=
  if w == 0 then s
  else if w == 1 then s.ptnQuiesce v n w
  else if w == 2 then s.ptnPreempt v n w
  else if w == 4 then s.ptnRelease v n w
  else if w == 8 then s.ptnResume v n w
  else s.hostErr v (Reg.ptnCtl n) 0x03 w

/-- The command as its own row of the table: the write whose bit it is. -/
def Dev.ptnBit (s : Dev) (v : View) (n : Nat) (w : Word) (i : Nat) : Dev :=
  if bit w i then pfOnly v (fun s => s.gated v (Reg.ptnCtl n) w fun s => s.ptnCmd v n w) s else s

/-! ### Resets (R334 to R336, Table 16.5) -/

/-- Whether a queued packet is a partition's: it waits at one of its leaves, or is of one of its connections. -/
def Dev.pktOf (s : Dev) (n : Nat) (x : QPkt) : Bool :=
  leafPart x.leaf == some n || (x.own.bind s.connPart) == some n || (x.conn.bind s.connPart) == some n

/-- R335: a slot or exchange whose operation is a partition's ends it without zero-fill or record. -/
def Slot.dropRun (n : Nat) (x : Slot) : Slot :=
  match x.run with
  | some r => if ringPart r.ring == n then
      { x with run := none, early := [], limits := [], used := [], credit := [], flits := [] } else x
  | none => x

/-- R335: the partition's work in flight is discarded, page requests among it: the pending list moves up (R175). -/
def Dev.discardWork (s : Dev) (n : Nat) : Dev :=
  let mine := fun (r : TrayReq) => r.op.any fun o => ringPart o.1 == n
  let s : Dev := { s with
    sch := { s.sch with q := s.sch.q.filter fun x => !s.pktOf n x }
    ops := s.ops.filter fun o => o.part != n
    slots := tmap (fun _ => {}) (fun _ => Slot.dropRun n) s.slots
    exchs := tmap (fun _ => {}) (fun _ => Slot.dropRun n) s.exchs
    stm := { s.stm with runs := s.stm.runs.filter fun p => !((s.exch p.1).run.any fun r => ringPart r.ring == n) }
    tray := tmap (fun _ => {}) (fun _ (x : TrayPort) => { x with reqs := x.reqs.map fun r => if mine r then { r with op := none } else r }) s.tray }
  (Dev.priNext (s.xlt.misses.length + 1) (s.missesGone n)).unwait fun w => s.whoPart w == some n

/-- R122, R336: the partition's connections tell their peers, and are in RESET. -/
def Dev.tellPeers (s : Dev) (n : Nat) : Dev :=
  (s.conns.filter fun p => decide (p.2.st ≠ .reset) && s.connPart p.1 == some n).foldl (fun s p =>
    let x : Conn := { p.2 with
      tx := [], rob := [], holding := [], msgs := [], wait := none, rtoDeadline := 0, ackSince := none, ackHold := [], ackOwed := [],
      readPsn := [], blotting := [], blotEnd := 0, nakAt := [] }
    let s := (s.setConn p.1 x).sendNak p.1 {} x.peerNode x.peerConn x.rcvNxt 0x0C 0
    s.setConn p.1 { s.conn p.1 with st := .reset, resetAt := s.rlg.time }) s

/-- The slots that run an operation of a partition. -/
def Dev.slotsOf (s : Dev) (n : Nat) : List Nat :=
  (s.slots.filter fun p => p.2.run.any fun r => ringPart r.ring == n).map (·.1)

/-- First credits of slots that have become idle (R240). -/
def Dev.creditSlots (s : Dev) (l : List Nat) : Dev :=
  l.foldl (fun s k => match s.grpDef false k with | some d => s.firstCredit k d (d.part * 256) | none => s) s

/-- R335, R336: a forced reset begins. `cause` is the CODE of its record (Table 21.6). -/
def Dev.forceReset (s : Dev) (n cause : Nat) : Dev :=
  let count := (s.ops.filter fun o => o.part == n).length
  let idle := s.slotsOf n
  let s := (((s.discardWork n).tellPeers n).quiesceQps n).bump (Reg.ptnForcedCount n)
  let s := s.postErr Reg.ptnLayoutAccess 0x0D cause (n + at_ 32 count) 2 (some n)
  (s.setPtn n { s.ptn n with st := .resetting, forced := true }).creditSlots idle

/-- A ring after a partition reset. -/
def Ring.afterReset (x : Ring) : Ring := { doorbells := x.doorbells, enableResult := x.enableResult, errPos := x.errPos }

def Cq.afterReset (x : Cq) : Cq := { enableResult := x.enableResult, errPos := x.errPos, tail := x.tail }

/-- Table 16.5 for a partition, and its return to QUIESCED. -/
def Dev.resetPtn (s : Dev) (n : Nat) : Dev :=
  let p := s.ptn n
  let conn := fun (k : Nat) => s.connPart k == some n
  let r := s.ptnRec n
  let key := fun (k : Nat) => recKeyFirst r ≤ k && k < recKeyFirst r + recKeyCount r
  let cph := fun (k : Nat) => recCphFirst r ≤ k && k < recCphFirst r + recCphCount r
  let drop := (s.xlt.keys.filter fun e => key e.1 && keyValid e.2).map (·.1)
  let s : Dev := { s with
    rings := tmap (fun _ => {}) (fun k x => if ringPart k == n then x.afterReset else x) s.rings
    cqs := tmap (fun _ => {}) (fun k x => if ringPart k == n then x.afterReset else x) s.cqs
    conns := tmap (fun _ => {}) (fun k (x : Conn) => if conn k then { lastNak := x.lastNak, enableResult := x.enableResult, resetAt := if x.st = .reset then x.resetAt else s.rlg.time } else x) s.conns
    connCache := s.connCache.filter fun k => !conn k
    connBacked := s.connBacked.filter fun k => !conn k.1
    ctrs := s.ctrs.filter fun c => c.1 / 1024 != n
    pools := s.pools.filter fun c => c.1 / 64 != n
    xlt := { s.xlt with
      cache := s.xlt.cache.filter fun y => y.part != n
      past := s.xlt.past.filter fun p => !key (keyIndex p.1) } }
  let s := drop.foldl (fun s k => s.keyDrop k) s
  let s : Dev := if p.forced then { s with cph := { s.cph with keys := s.cph.keys.filter fun e => !cph e.1 } } else s
  s.setPtn n { p with st := .quiesced, quiesceAt := s.rlg.time, reach := 0, forced := false }

/-- PARTITION_RESET_DONE. -/
def Dev.ptnResetDone (s : Dev) (n : Nat) : Dev := if (s.ptn n).st = .resetting then s.resetPtn n else s

/-- What a function-level reset does to the partition (Table 16.4). -/
def Dev.flrPtn (s : Dev) (n : Nat) : Dev :=
  match (s.ptn n).st with
  | .resetting => s
  | .quiesced => s.setPtn n { s.ptn n with st := .resetting, forced := false }
  | _ => s.forceReset n 0x01

/-- A function's configuration-space bits and MSI-X structures at their reset values, as PCIe gives them (PRESUMED). ATS and
PRI are off then: its translations go (R170), and its page request groups are free (R176). -/
def Dev.resetFn (s : Dev) (n : Nat) : Dev :=
  { s with
    xlt := { s.xlt with
      cache := s.xlt.cache.filter fun y => y.part != n
      misses := s.xlt.misses.filter fun m => m.fn != n
      lateGroups := s.xlt.lateGroups.filter fun g => g.1 != n }
    hst := { s.hst with
      xlate := s.hst.xlate.filter fun y => y.1 != n
      fns := terase s.hst.fns n
      msix := s.hst.msix.filter fun p => p.1 / 4096 != n
      pba := s.hst.pba.filter fun p => p.1 / 2048 != n } }

/-- FUNCTION_LEVEL_RESET (R334): of the physical function or an enabled virtual function. That of the physical function clears VF
Enable, and the virtual functions are gone with their configuration (PRESUMED: SR-IOV); their partitions stand. -/
def Dev.flr (s : Dev) (n : Nat) : Dev :=
  if s.hst.numVf.toNat < n then s
  else
    let s : Dev := if n = 0 then
        let t := forUpto s.hst.numVf.toNat (fun s i => s.resetFn (i + 1)) s
        { t with hst := { t.hst with numVf := 0 } }
      else s
    (s.resetFn n).flrPtn n

/-- VF_ENABLE_CLEAR (R334). -/
def Dev.vfClear (s : Dev) : Dev :=
  let s := forUpto s.hst.numVf.toNat (fun s i => s.flr (i + 1)) s
  { s with hst := { s.hst with numVf := 0 } }

/-! ### The commands -/

def execQuiesce (v : View) (part : Fin 64) (w : Word) (s : State) : Host.Outcome State Fault Refusal :=
  onWrite v (Reg.ptnCtl part) w (fun s => s.ptnBit v part w 0) s
def execPreempt (v : View) (part : Fin 64) (w : Word) (s : State) : Host.Outcome State Fault Refusal :=
  onWrite v (Reg.ptnCtl part) w (fun s => s.ptnBit v part w 1) s
def execRelease (v : View) (part : Fin 64) (w : Word) (s : State) : Host.Outcome State Fault Refusal :=
  onWrite v (Reg.ptnCtl part) w (fun s => s.ptnBit v part w 2) s
def execResume (v : View) (part : Fin 64) (w : Word) (s : State) : Host.Outcome State Fault Refusal :=
  onWrite v (Reg.ptnCtl part) w (fun s => s.ptnBit v part w 3) s
def execFunctionLevelReset (fn : Fin 64) (s : State) : Host.Outcome State Fault Refusal := onDev (fun s => s.flr fn) s
def execVfEnableClear (s : State) : Host.Outcome State Fault Refusal := onDev Dev.vfClear s
def execPartitionResetDone (part : Fin 64) (s : State) : Host.Outcome State Fault Refusal := onDev (fun s => s.ptnResetDone part) s

end Sys2Proof.Machine
end

