-- ==== Sys2Proof/Machine/Score.lean ====
section
/-! DEFINITION. Score images: their checks at LOAD, and the staging of their sections (R54 to R57, Tables 3.1 to 3.3). -/

namespace Sys2Proof.Machine

/-! ### The fields of ST cells -/

def halves : List (Nat × Nat) := [(63, 32), (31, 0)]

/-- The fields of an ST cell, as top and bottom bit: those of its register, or of its table's words. The reserved bits of a
Tablature entry are among them, kept and read back, so that check 0x09 finds one that is set (DESIGN CHOICE). -/
def cellFields (c : Nat) : List (Nat × Nat) :=
  if c < 0x1000000 then
    match regRow true c with
    | some r => r.fields.map fun f => (f.1, f.2.1)
    | none => []
  else if c < schCell 0 0 then [(63, 44), (43, 32), (31, 24), (23, 20), (19, 19), (18, 17), (16, 0)]
  else if c < rteCell 0 then (if schCell 1 0 ≤ c && c < schCell 2 0 then [(57, 46)] else []) ++ [(45, 28), (27, 12), (11, 0)]
  else if c < altCell 0 then [(23, 16), (15, 12), (11, 8), (7, 4), (3, 0)]
  else if c < chdCell 0 0 then [(63, 63), (55, 52), (47, 32), (23, 16), (15, 12), (11, 8), (7, 4), (3, 0)]
  else if c < inkCell 0 0 then (if c % 1024 == 4 || c % 1024 == 5 then [(63, 0)] else halves)
  else if c < ptnCell 0 0 then
    match c % 4 with
    | 0 => [(13, 8), (2, 0)]
    | 1 => [(63, 48), (20, 0)]
    | 2 => [(43, 24), (3, 0)]
    | _ => [(11, 0)]
  else
    match c % 8 with
    | 0 => [(63, 48), (47, 32), (31, 16), (15, 8), (7, 0)]
    | 3 => [(63, 56), (55, 48), (47, 16), (15, 0)]
    | 4 | 5 => [(63, 0)]
    | _ => halves

/-- The value of a cell after a write of `v` over `old` that reaches the addressed part (R26). -/
def cellWrite (c : Nat) (h : Half) (old v : Word) : Word := writeFields ((cellFields c).map fun f => (f.1, f.2, 0)) h old v

/-- Whether a write of the addressed part reaches a field of the cell. -/
def cellReached (c : Nat) (h : Half) : Bool :=
  match h with
  | .both => true
  | .low => (cellFields c).any fun f => f.1 < 32
  | .high => (cellFields c).any fun f => 32 ≤ f.2

/-- A value staged into a cell whole, its reserved bits left out. -/
def Dev.stageCell (s : Dev) (c : Nat) (v : Word) : Dev := s.setShadow c (cellWrite c .both 0 v)

/-- The staged cells from `lo` up to `hi` back at their reset values, before a section replaces the table. -/
def Dev.unstage (s : Dev) (lo hi : Nat) : Dev := { s with shadow := s.shadow.filter fun p => !(lo ≤ p.1 && p.1 < hi) }

/-- The 8-byte value at byte `i` of a section. -/
def w8 (b : List Byte) (i : Nat) : Word := BitVec.ofNat 64 (leAt b i 8)

/-- `n` successive 8-byte values from byte `i` on, staged into the cells that `cell` names. -/
def Dev.stageRun (s : Dev) (cell : Nat → Nat) (b : List Byte) (i n : Nat) : Dev :=
  forUpto n (fun s k => s.stageCell (cell k) (w8 b (i + 8 * k))) s

/-! ### Sections (R48, R157, R235, R236, R313, R327, R371) -/

def Dev.secIncomplete (s : Dev) : Dev := { s with capo := { s.capo with incomplete := true } }

/-- A record the section loader cannot stage, which fails a check. -/
def Dev.secRefuse (s : Dev) (type code i : Nat) : Dev :=
  { s with capo := { s.capo with secBad := s.capo.secBad ++ [(type, code, i)] } }

/-- Type 0x0001 (R235): a section with fewer entries than its radices give nodes does not finish. -/
def Dev.stageRoutes (s : Dev) (b : List Byte) : Dev :=
  if b.length < 144 then s.secIncomplete
  else
    let n := (b.length - 144) / 8
    let s := s.unstage (rteCell 0) (altCell 0)
    let s := (s.stageCell Reg.rteCfg (w8 b 0)).stageCell Reg.rteCfg1 (w8 b 8)
    let s := s.stageRun Reg.rtePortCfg b 16 16
    let s := s.stageRun rteCell b 144 (min n 65536)
    let c := s.sh Reg.rteCfg
    let nodes := (bits c 7 0 + 1) * (bits c 15 8 + 1) * (bits c 23 16 + 1) * (bits c 31 24 + 1)
    if n < min nodes 65536 then s.secIncomplete else s

/-- Type 0x0002 (R235). -/
def Dev.stageAlts (s : Dev) (b : List Byte) : Dev :=
  let n := leAt b 0 4
  let m := min (min n ((b.length - 8) / 8)) 65536
  let s := (s.unstage (altCell 0) (chdCell 0 0)).stageRun altCell b 8 m
  if m < n || b.length < 8 then s.secIncomplete else s

/-- The entries of port p and the ports after it, from byte `i` on. -/
def Dev.stageTabs (s : Dev) (b : List Byte) : Nat → Nat → Nat → Dev
  | 0, _, _ => s
  | k + 1, p, i =>
    let n := bits (w8 b (8 * p)) 12 0
    let m := min (min n ((b.length - i) / 8)) 4096
    let s := s.stageRun (tabCell p) b i m
    if (b.length - i) / 8 < n then s.secIncomplete else Dev.stageTabs s b k (p + 1) (i + 8 * n)

/-- Type 0x0003: RLG_PORT_TAB of each port, then the entries of each port in turn. -/
def Dev.stageTablature (s : Dev) (b : List Byte) : Dev :=
  if b.length < 128 then s.secIncomplete
  else Dev.stageTabs ((s.unstage (tabCell 0 0) (schCell 0 0)).stageRun Reg.rlgPortTab b 0 16) b 16 0 128

/-- The slot records of type 0x0004, back to back: a second record of one slot fails CHD_SLOT. -/
def Dev.stageSlots : Nat → Dev → Nat → List Nat → List Byte → Dev
  | 0, s, _, _, _ => s
  | n + 1, s, i, seen, b =>
    let words := 8 + 2 * (leAt b 12 1 + leAt b 16 2)
    if b.length < 64 || b.length < 8 * words then s.secIncomplete
    else
      let k := leAt b 0 2 % 4096
      let s := if seen.contains k then s.secRefuse 4 0x17 i else s.stageRun (chdCell k) b 0 (min words 536)
      Dev.stageSlots n s (i + 1) (k :: seen) (b.drop (8 * words))

/-- Type 0x0004 (R236): bytes 4 to 7 of the section header are reserved. -/
def Dev.stageChords (s : Dev) (b : List Byte) : Dev :=
  if b.length < 8 then s.secIncomplete
  else
    let s := if leAt b 4 4 != 0 then s.secRefuse 4 0x18 0 else s
    Dev.stageSlots (leAt b 0 4) (s.unstage (chdCell 0 0) (chdCell 4096 0)) 0 [] (b.drop 8)

/-- Type 0x0005 (R327). -/
def Dev.stagePtns (s : Dev) (b : List Byte) : Dev :=
  if b.length < 40 then s.secIncomplete
  else
    let n := leAt b 0 4
    let m := min (min n ((b.length - 40) / 64)) 64
    let s := (s.unstage (ptnCell 0 0) (ptnCell 64 0)).stageRun Reg.trayPortPtn b 8 4
    let s := s.stageRun (ptnCell 0) b 40 (8 * m)
    if m < n then s.secIncomplete else s

/-- The cell a record of type 0x0006 names: a register of Table 7.7 by its offset, or an entry of a table. -/
def schTarget (off idx : Nat) : Option Nat :=
  if 0xFFFF0000 ≤ off then
    let t := off - 0xFFFF0000
    if t < 4 && idx < [64, 512, 16384, 8].getD t 0 then some (schCell t idx) else none
  else if off < 0x10000 && off % 8 == 0 && (regRow true (Reg.schTblAccess + off)).isSome then some (Reg.schTblAccess + off)
  else none

/-- Type 0x0006 (R157). -/
def Dev.stageSched (s : Dev) (b : List Byte) : Dev :=
  let s := forUpto (b.length / 16) (fun s i =>
    match schTarget (leAt b (16 * i) 4) (leAt b (16 * i + 4) 4) with
    | some c => s.stageCell c (w8 b (16 * i + 8))
    | none => s.secRefuse 6 0x1B i) s
  if b.length % 16 != 0 then s.secIncomplete else s

/-- Type 0x0007 (R371): a record stands at its port; one of another port or of a port named twice fails ETH_CFG. -/
def Dev.stageEth (s : Dev) (b : List Byte) : Dev :=
  let n := leAt b 0 4
  let m := min (min n ((b.length - 8) / 64)) 2
  let s := s.unstage (Reg.ethPortRec 0 0) (Reg.ethPortRec 0 8)
  let s := s.unstage (Reg.ethPortRec 1 0) (Reg.ethPortRec 1 8)
  let port := fun i => leAt b (8 + 64 * i) 1
  let s := forUpto m (fun s i =>
    if (port i == 14 || port i == 15) && !((List.range i).any fun j => port j == port i) then
      s.stageRun (Reg.ethPortRec (port i - 14)) b (8 + 64 * i) 8
    else s.secRefuse 7 0x1D i) s
  if m < n || b.length < 8 then s.secIncomplete else s

/-- Type 0x0008 (R313). -/
def Dev.stageInk (s : Dev) (b : List Byte) : Dev :=
  let n := leAt b 0 4
  let m := min (min n ((b.length - 8) / 32)) 80
  let s := (s.unstage (inkCell 0 0) (inkCell 80 0)).stageRun (inkCell 0) b 8 (4 * m)
  if m < n || b.length < 8 then s.secIncomplete else s

/-- A section staged by its type. -/
def Dev.stageSection (s : Dev) (type : Nat) (b : List Byte) : Dev :=
  let s : Dev := { s with capo := { s.capo with secBad := s.capo.secBad.filter fun x => x.1 != type } }
  match type with
  | 1 => s.stageRoutes b
  | 2 => s.stageAlts b
  | 3 => s.stageTablature b
  | 4 => s.stageChords b
  | 5 => s.stagePtns b
  | 6 => s.stageSched b
  | 7 => s.stageEth b
  | 8 => s.stageInk b
  | _ => s

/-! ### The image (Tables 3.1 to 3.3) -/

def scoreMax : Nat := 128 * 2 ^ 20
def trailerLen : Nat := 3073
def keyLen : Nat := 1793

def anyNonzero (b : List Byte) : Bool := b.any fun x => x != 0

/-- The directory: type, offset and length of each section. -/
def scoreDir (img : List Byte) : List (Nat × Nat × Nat) :=
  (List.range (min 16 (leAt img 6 2))).map fun i =>
    (leAt img (256 + 16 * i) 2, leAt img (264 + 16 * i) 8, leAt img (260 + 16 * i) 4)

/-- Whether two of the ranges (offset, length) share a byte. -/
def overlapAny : List (Nat × Nat) → Bool
  | [] => false
  | r :: l => l.any (fun q => r.1 < q.1 + q.2 && q.1 < r.1 + r.2 && 0 < r.2 && 0 < q.2) || overlapAny l

/-- FORMAT: the format, the section count, and the reserved bytes and bits of the header and the directory. -/
def scoreFormatBad (img : List Byte) : Bool :=
  leAt img 4 2 != 1 || 16 < leAt img 6 2 || 4 ≤ leAt img 28 1 || 4 ≤ leAt img 30 1 || leAt img 31 1 != 0 ||
  4096 ≤ leAt img 40 2 || anyNonzero (slice img 42 22) || anyNonzero (slice img 152 104) ||
  (List.range (leAt img 6 2)).any fun i => leAt img (258 + 16 * i) 2 != 0

/-- LENGTH, for an image of which `n` bytes were asked for. -/
def scoreLengthBad (img : List Byte) (n : Nat) : Bool :=
  let total := leAt img 32 4
  let lo := 256 + 16 * leAt img 6 2
  let dir := scoreDir img
  total != n || total < lo + trailerLen ||
  dir.any (fun d => d.2.1 < lo || total - trailerLen < d.2.1 + d.2.2) || overlapAny (dir.map fun d => d.2)

/-- The public key and the signature of a signed image of `n` bytes. -/
def trailerKey (img : List Byte) (n : Nat) : List Byte := slice img (n - trailerLen) keyLen
def trailerSig (img : List Byte) (n : Nat) : List Byte := slice img (n - trailerLen + keyLen) (trailerLen - keyLen)

/-- R408: a key whose digest OTP item `item` holds. -/
def Flash.keyOk (f : Flash) (item : Nat) (key : List Byte) : Bool :=
  f.provisioned.getLsbD (item - 1) && tget (fun _ => 0) f.digests item == digest256 key

/-- R57: the signature over the 64-byte digest of everything before the trailer. -/
def signedOk (img : List Byte) (n : Nat) : Bool :=
  Config.falconVerify (trailerKey img n) (shake256 64 (img.take (n - trailerLen))) (trailerSig img n)

/-- LOAD_RESULT of an image read whole (Table 3.3), 0x04 to 0x0C in their order, 0 where it may be staged. -/
def Dev.scoreCode (s : Dev) (f : Flash) (img : List Byte) (n : Nat) : Byte :=
  let types := (scoreDir img).map fun d => d.1
  if leAt img 0 4 != 0x41585343 then 0x04
  else if scoreFormatBad img then 0x05
  else if scoreLengthBad img n then 0x06
  else if 3 < leAt img 29 1 || !f.keyOk (1 + leAt img 29 1) (trailerKey img n) then 0x07
  else if !signedOk img n then 0x08
  else if !(leAt img 28 1).testBit f.stepping.toNat then 0x09
  else if s.capo.nodeSet && leAt img 24 4 != s.capo.node.toNat && leAt img 30 1 % 2 == 0 then 0x0A
  else if types.any (fun t => t == 0 || 8 < t) || !types.Nodup then 0x0B
  else if leAt img 16 8 ≤ s.capo.runGen.toNat then 0x0C
  else 0

/-- The RLG fields of the header staged (R55). -/
def Dev.stageHeader (s : Dev) (img : List Byte) : Dev :=
  let s := (s.stageCell Reg.rlgCfg (w8 img 64)).stageCell Reg.rlgTabPeriod (w8 img 72)
  let s := s.stageCell Reg.rlgTabGuard (w8 img 80)
  forUpto 16 (fun s p => s.stageCell (Reg.rlgPortAsym p) (BitVec.ofNat 64 (leAt img (88 + 4 * p) 4))) s

/-- Every section and header field of an image staged (R56), with the image's identity beside each. -/
def Dev.stageImage (s : Dev) (img : List Byte) (n : Nat) : Dev :=
  let whole := digest256 (img.take n)
  let id := w8 img 8
  let gen := w8 img 16
  let dir := scoreDir img
  let rlg := leAt img 30 1 / 2 % 2 == 1
  let s := if rlg then s.stageHeader img else s
  let s := dir.foldl (fun s d => s.stageSection d.1 (slice img d.2.1 d.2.2)) s
  let types := (if rlg then [0] else []) ++ dir.map fun d => d.1
  { s with
    capo := { s.capo with
      origins := s.capo.origins.filter (fun o => !types.contains o.1) ++ types.map fun t => (t, id, gen)
      sections := s.capo.sections.filter (fun t => !types.contains t) ++ types
      loaded := some { scoreId := id, generation := gen, node := BitVec.ofNat 32 (leAt img 24 4) }
      drainExtra := BitVec.ofNat 12 (leAt img 40 2)
      fresh := true
      stageImage := some (n, whole)
      isUnsigned := false
      checkCode := 0xFF
      st := .staged }
    det := { s.det with stageDigest := BitVec.ofNat 256 (ofLe (shake256 32 (img.take (n - trailerLen)))) } }

end Sys2Proof.Machine
end

