-- ==== Sys2Proof/Machine/Check.lean ====
section
/-! DEFINITION. The consistency checks of a stage and the drain mask (R60, R230, Table 3.4). -/

namespace Sys2Proof.Machine

/-- What a check found: its code and the index of the offending entry. -/
abbrev Fails := List (Nat × Nat)

def failIf (b : Bool) (code i : Nat) : Fails := if b then [(code, i)] else []

/-- The keys of a bank's listed cells in a range, relative to its start. -/
def listed (t : Tbl Word) (lo hi : Nat) : List Nat := (t.filter fun p => lo ≤ p.1 && p.1 < hi).map fun p => p.1 - lo

/-! ### Identity, Ruling (0x01 to 0x04) -/

/-- STAGE_MIXED: the first section type, in their order, whose image is not that of the lowest (DESIGN CHOICE). -/
def mixedAt (l : List (Nat × Word × Word)) : Option Nat :=
  match l with
  | [] => none
  | o :: r => (r.find? fun x => x.2 != o.2).map (·.1)

/-- A staged Ethernet port (Table 19.1). -/
def stagedEth (cell : Nat → Word) (p : Nat) : Bool := 14 ≤ p && p < 16 && bit (cell (Reg.ethPortRec (p - 14) 0)) 8

def checkRuling (cell : Nat → Word) : Fails :=
  let w := cell Reg.rlgCfg
  let cand := fun k => bits w (9 + 5 * k) (5 + 5 * k)
  failIf ((bits w 39 32 == 0) != bit w 0) 0x03 0 ++
  (List.range 4).flatMap fun k =>
    failIf (16 ≤ cand k && (((List.range k).any fun j => cand j == cand k) || stagedEth cell (cand k % 16))) 0x04 k

/-! ### Torus and routes (0x0B to 0x11) -/

/-- The torus a bank describes, and this device's address in it. -/
structure Torus where
  rad : List Nat := []
  me : List Nat := []
  dirs : List Nat := []
  deriving DecidableEq, Repr

def torusOf (cell : Nat → Word) (node : Nat) : Torus :=
  { rad := (List.range 4).map fun d => bits (cell Reg.rteCfg) (8 * d + 7) (8 * d) + 1
    me := (List.range 4).map fun d => coord node d
    dirs := (List.range 16).map fun p => bits (cell (Reg.rtePortCfg p)) 3 0 }

def Torus.n (t : Torus) (d : Nat) : Nat := t.rad.getD d 1
def Torus.at (t : Torus) (d : Nat) : Nat := t.me.getD d 0
def Torus.size (t : Torus) : Nat := t.n 0 * t.n 1 * t.n 2 * t.n 3
def Torus.index (t : Torus) (c : List Nat) : Nat :=
  c.getD 0 0 + t.n 0 * (c.getD 1 0 + t.n 1 * (c.getD 2 0 + t.n 2 * c.getD 3 0))

/-- The coordinates of a node index (R208). -/
def Torus.coords (t : Torus) (i : Nat) : List Nat :=
  [i % t.n 0, i / t.n 0 % t.n 1, i / (t.n 0 * t.n 1) % t.n 2, i / (t.n 0 * t.n 1 * t.n 2)]

/-- The ports of a direction, usable or not. -/
def Torus.ports (t : Torus) (dir : Nat) : List Nat := (List.range 16).filter fun p => t.dirs.getD p 15 == dir

def ringDist (a b n : Nat) : Nat := min ((b + n - a) % n) ((a + n - b) % n)

/-- A hop in a direction reduces the torus distance to the node at `dst`. -/
def Torus.reduces (t : Torus) (dst : List Nat) (dir : Nat) : Bool :=
  let d := dir / 2
  let n := t.n d
  let a := t.at d
  let b := dst.getD d 0
  ringDist (if dir % 2 == 0 then (a + 1) % n else (a + n - 1) % n) b n < ringDist a b n

/-- The lowest dimension in which a node's coordinate differs from this device's. -/
def Torus.firstDim (t : Torus) (dst : List Nat) : Option Nat := (List.range 4).find? fun d => dst.getD d 0 != t.at d

def detDirs (e : Word) : List Nat := (List.range 4).map fun c => detDir e c
def adaptList (e : Word) : List Nat := (List.range 8).filter fun k => (adaptDirs e).testBit k
/-- The directions an entry names. -/
def namedDirs (e : Word) : List Nat := (detDirs e).filter (· < 8) ++ adaptList e

/-- R207, R209. -/
def checkTorus (cell : Nat → Word) (t : Torus) : Fails :=
  failIf (65536 < t.size || (List.range 4).any fun d => t.n d ≤ t.at d) 0x0F 0 ++
  ((List.range 16).flatMap fun p =>
    let dir := t.dirs.getD p 15
    failIf (dir != 15 && (8 ≤ dir || t.n (dir / 2) == 1 || stagedEth cell p)) 0x0F p) ++
  (List.range 4).flatMap fun d => failIf (t.n d ≤ bits (cell Reg.rteCfg1) (8 * d + 7) (8 * d)) 0x0E d

/-- Table 10.4 on the primary entry of node index i. -/
def checkRoute (t : Torus) (i : Nat) (e : Word) : Fails :=
  let own := t.index t.me
  let dst := t.coords i
  let bad := fun (dir : Nat) => failIf (t.ports dir).isEmpty 0x0F i ++ failIf (!t.reduces dst dir) 0x0C i
  ((detDirs e).flatMap fun c =>
    if c == 9 then []
    else if 10 ≤ c then [(0x0F, i)]
    else if c == 8 then failIf (i != own) 0x0C i
    else if i == own then [(0x0C, i)]
    else bad c ++ failIf (t.firstDim dst != some (c / 2)) 0x0D i) ++
  ((adaptList e).flatMap fun c => if i == own then [(0x0C, i)] else bad c)

/-- Alternate entries of a bank: index in the table and value, VALID ones only. -/
def altList (t : Tbl Word) : List (Nat × Word) :=
  ((t.filter fun p => altCell 0 ≤ p.1 && p.1 < altCell 65536).filter fun p => bit p.2 63).map fun p => (p.1 - altCell 0, p.2)

def altPort (w : Word) : Nat := bits w 55 52
def altIndex (w : Word) : Nat := bits w 47 32
def altRoute (w : Word) : Word := BitVec.ofNat 64 (bits w 31 0)

def checkRoutes (tbl : Tbl Word) (cell : Nat → Word) (t : Torus) : Fails :=
  let idx := (listed tbl (rteCell 0) (altCell 0)).filter (· < t.size)
  let alts := altList tbl
  let carried := idx.flatMap fun i => namedDirs (cell (rteCell i))
  (idx.flatMap fun i => checkRoute t i (cell (rteCell i))) ++
  (alts.flatMap fun a =>
    let e := altRoute a.2
    let uturn := (namedDirs e).contains (t.dirs.getD (altPort a.2) 15)
    let noPort := (detDirs e).any (fun c => 10 ≤ c) || (namedDirs e).any fun c => (t.ports c).isEmpty
    let twice := alts.any fun b => b.1 < a.1 && altPort b.2 == altPort a.2 && altIndex b.2 == altIndex a.2
    failIf uturn 0x0B a.1 ++ failIf noPort 0x0F a.1 ++ failIf (uturn || noPort || twice) 0x11 a.1) ++
  (List.range 16).flatMap fun p =>
    let dir := t.dirs.getD p 15
    failIf (dir < 8 && carried.contains dir && (!bit (cell (Reg.rtePortCfg p)) 4 ||
      alts.any fun a => altPort a.2 == p && (namedDirs (altRoute a.2)).contains dir)) 0x10 p

/-! ### Partitions (0x12, 0x13, 0x15, 0x16; R328) -/

/-- The records of a bank: position and record. -/
def ptnList (cell : Nat → Word) : List (Nat × BitVec 512) :=
  ((List.range 64).map fun i => (i, ptnAt cell i)).filter fun p => p.2 != 0

def recPart (r : BitVec 512) : Nat := bits r 5 0

/-- PTN_LIMIT: a field out of its range, or a reserved byte. -/
def ptnLimit (r : BitVec 512) : Bool :=
  256 < recRings r || 256 < recCqs r || 1024 < recCtrs r || 1048575 < recConnFirst r || 1048576 < recConnCount r ||
  4194303 < recKeyFirst r || 4194304 < recKeyCount r || 65536 < recCphCount r || 64 < recPools r ||
  1048576 < recConnFirst r + recConnCount r || 4194304 < recKeyFirst r + recKeyCount r || 65536 < recCphFirst r + recCphCount r ||
  bits r 15 6 != 0 || bits r 255 248 != 0 || bits r 511 384 != 0

def rangesMeet (a n b m : Nat) : Bool := 0 < n && 0 < m && a < b + m && b < a + n

/-- Two regions have an Inkwell address, or a byte of a channel, in common. -/
def Region.meets (r q : Region) : Bool :=
  rangesMeet r.base r.size q.base q.size || (r.mask &&& q.mask != 0 && rangesMeet r.chanOff r.chanLen q.chanOff q.chanLen)

def ptnOverlap (r q : BitVec 512) : Bool :=
  recPart r == recPart q || rangesMeet (recConnFirst r) (recConnCount r) (recConnFirst q) (recConnCount q) ||
  rangesMeet (recKeyFirst r) (recKeyCount r) (recKeyFirst q) (recKeyCount q) ||
  rangesMeet (recCphFirst r) (recCphCount r) (recCphFirst q) (recCphCount q)

/-- The words of a partition's KIND 1 record in a bank. -/
def shareOf (cell : Nat → Word) (n : Nat) : Option Region := ((regionsOf cell).find? fun r => r.kind == 1 && r.part == n).map fun r => { r with idx := 0 }

/-- R328: the stage takes a resource from partition n. -/
def Dev.takes (s : Dev) (n : Nat) : Bool :=
  let r := s.ptnRec n
  let q := ptnRecOf s.sh n
  (r != 0 && (q == 0 || recRings q < recRings r || recCqs q < recCqs r || recCtrs q < recCtrs r || recConnCount q < recConnCount r ||
    recKeyCount q < recKeyCount r || recCphCount q < recCphCount r || recPools q < recPools r ||
    recConnFirst q != recConnFirst r || recKeyFirst q != recKeyFirst r || recCphFirst q != recCphFirst r)) ||
  ((shareOf s.st n).isSome && shareOf s.sh n != shareOf s.st n) ||
  (List.range 4).any fun k => bit (s.st (Reg.trayPortPtn k)) n && !bit (s.sh (Reg.trayPortPtn k)) n

/-- The shares of two partitions have an Inkwell address or a byte of a channel in common. -/
def sharesMeet (l : List Region) (n m : Nat) : Bool :=
  (l.filter fun r => r.kind == 1 && r.part == n).any fun r => l.any fun q => q.kind == 1 && q.part == m && r.meets q

def Dev.checkPtns (s : Dev) : Fails :=
  let recs := ptnList s.sh
  let shares := regionsOf s.sh
  let has4 := (regionKind (regionsOf s.sh) 4).isSome
  (recs.flatMap fun p =>
    failIf (0 < recKeyCount p.2 && !has4 && bits (s.reg (Reg.keyHostBacking (recPart p.2))) 63 12 == 0) 0x15 p.1 ++
    failIf (ptnLimit p.2) 0x13 p.1 ++
    failIf (recs.any fun q => q.1 < p.1 && (ptnOverlap p.2 q.2 || sharesMeet shares (recPart p.2) (recPart q.2))) 0x12 p.1) ++
  (List.range 64).flatMap fun n => failIf (s.takes n && decide ((s.ptn n).st ≠ .quiesced)) 0x16 n

/-! ### Chords (0x17 to 0x1A; R236, R237) -/

/-- The slots that have a record in a bank, in ascending order. -/
def chdSlots (tbl : Tbl Word) : List Nat :=
  ((tbl.filter fun p => chdCell 0 0 ≤ p.1 && p.1 < chdCell 4096 0 && p.1 % 1024 == 1 && bits p.2 31 0 != 0).map fun p =>
    (p.1 - chdCell 0 0) / 1024)

/-- Fields outside their ranges and nonzero reserved bytes of slot record k. -/
def chdReserved (cell : Nat → Word) (k : Nat) : Bool :=
  let f := chdF cell k
  let w := fun i => cell (chdCell k i)
  let ne := f 12 1
  let ns := f 16 2
  8 < ne || 256 < ns || 65536 < f 8 4 || f 0 2 != k || 64 ≤ f 2 1 || bits (w 0) 30 27 != 0 || 1024 ≤ f 22 2 ||
  f 28 4 != 0 || w 6 != 0 || w 7 != 0 ||
  ((List.range (min 8 ne)).any fun e => bits (w (8 + 2 * e)) 63 48 != 0 || w (9 + 2 * e) != 0) ||
  (List.range (min 256 ns)).any fun i =>
    let j := 8 + 2 * ne + 2 * i
    bits (w j) 31 16 != 0 || bits (w (j + 1)) 63 32 != 0

/-- R237: the cases of CHD_TREE. -/
def chdTreeBad (cell : Nat → Word) (k period : Nat) : Bool :=
  let d := chdDef cell k
  let n := d.edges.length
  let root := d.isRoot
  let up := d.steps.take d.nup
  let down := d.steps.drop d.nup
  let par := d.parent
  let pb := if par < 8 then 2 ^ par else 0
  let outs := (up.filter fun x => x.out &&& pb != 0).length
  let ins := (down.filter fun x => x.inn &&& pb != 0).length
  chdReserved cell k || d.members ≤ d.me || d.members ≤ d.root || d.steps.length < d.nup ||
  [par, d.prev, d.nxt].any (fun x => x != 0xFF && n ≤ x) || d.steps.any (fun x => (x.inn ||| x.out) >>> n != 0) ||
  ((d.prev == 0xFF) != (d.nxt == 0xFF)) || (root && par != 0xFF) || (!d.steps.isEmpty && !root && par == 0xFF) ||
  up.any (fun x => (x.out ||| pb) != pb) || down.any (fun x => (x.inn ||| pb) != pb) || 1 < outs ||
  (!d.steps.isEmpty && !root && (outs == 0 || ins != 1)) ||
  (List.range n).any (fun e =>
    let u := (up.filter fun x => maskHas x.inn e).length
    let o := (down.filter fun x => maskHas x.out e).length
    (0 < u && o != 1) || (0 < o && u != 1)) ||
  d.steps.any fun x => x.winEnd ≤ x.winStart || period < x.winEnd

def checkChords (tbl : Tbl Word) (cell : Nat → Word) : Fails :=
  let slots := chdSlots tbl
  let period := bits (cell Reg.rlgTabPeriod) 28 0
  (((List.range slots.length).zip slots).flatMap fun p =>
    let d := chdDef cell p.2
    let r := ptnRecOf cell d.part
    failIf (chdTreeBad cell p.2 period) 0x18 p.1 ++
    failIf (r == 0 || (d.notifyEn && recCtrs r ≤ d.notify)) 0x19 p.1) ++
  failIf (768 < (slots.map fun k => chdF cell k 21 1).sum) 0x1A 0

/-! ### Tablature (0x05 to 0x0A) -/

/-- R214 with every port of the bundle usable: the port of an edge of a slot. -/
def Torus.edgePort (t : Torus) (cell : Nat → Word) (node : Nat) (d : ChdDef) (e : Nat) : Option Nat :=
  if d.edges.length ≤ e then none
  else
    let peer := d.node e
    if (List.range 4).any (fun x => t.n x ≤ coord peer x) then none
    else
      let u := t.ports (detDir (cell (rteCell (t.index ((List.range 4).map fun x => coord peer x)))) 2)
      let x := node ^^^ peer
      if detDir (cell (rteCell (t.index ((List.range 4).map fun x => coord peer x)))) 2 < 8 && !u.isEmpty then
        u[((x % 65536) ^^^ (x / 65536)) % u.length]? else none

/-- The steps a slot's member sends: port, slot and step. A ring is sent on in either direction. -/
def Torus.sends (t : Torus) (cell : Nat → Word) (node k : Nat) : List (Nat × Nat × Nat) :=
  let d := chdDef cell k
  (((List.range d.steps.length).zip d.steps).flatMap fun p =>
    ((List.range 8).filter fun e => maskHas p.2.out e).filterMap fun e => (t.edgePort cell node d e).map fun q => (q, k, p.1)) ++
  (if d.nxt != 0xFF then [d.nxt, d.prev].filterMap fun e => (t.edgePort cell node d e).map fun q => (q, k, d.rstep) else [])

def checkTabs (tbl : Tbl Word) (cell : Nat → Word) (t : Torus) (node : Nat) : Fails :=
  let slots := chdSlots tbl
  let period := bits (cell Reg.rlgTabPeriod) 28 0
  let count := fun p => bits (cell (Reg.rlgPortTab p)) 12 0
  let ent := fun p i => cell (tabCell p i)
  let sends := slots.flatMap fun k => t.sends cell node k
  let frets := (List.range 16).flatMap fun p => (List.range (min 4096 (count p))).filterMap fun i =>
    if tabKind (ent p i) == 1 then some (p, tabOwner (ent p i), tabStep (ent p i)) else none
  ((List.range 16).flatMap fun p =>
    failIf (4096 < count p) 0x07 p ++
    failIf (stagedEth cell p && count p != 0) 0x08 p ++
    ((List.range (min 4096 (count p))).flatMap fun i =>
      let w := ent p i
      let o := tabOwner w
      failIf (tabLen w < 8 || 125000 < tabLen w) 0x05 (p * 4096 + i) ++
      failIf (bits w 63 44 != 0 || bits w 23 20 != 0 || (tabKind w == 1 && !slots.contains o) ||
        (tabKind w == 2 && !(slots.contains o && !(chdDef cell o).steps.isEmpty)) || (tabKind w == 3 && 8 ≤ o)) 0x09 (p * 4096 + i)) ++
    failIf (0 < count p && ((List.range (min 4096 (count p))).map fun i => tabLen (ent p i)).sum != period) 0x06 p) ++
  ((sends.filter fun x => !frets.contains x).map fun x => (0x0A, x.2.1)) ++
  (frets.filter fun x => slots.contains x.2.1 && !sends.contains x).map fun x => (0x0A, x.2.1)

/-! ### Inkwell (0x14, 0x1E; R314) -/

def mib : Nat := 2 ^ 20

/-- The unfenced capacity in bytes. -/
def Dev.unfenced (s : Dev) : Nat := ((List.range 12).filter fun c => !(s.chan c).fenced).length * s.ink.reference

/-- A stage without a layout is asked for the counts alone. -/
def Dev.checkInk (s : Dev) : Fails :=
  let used := regionsOf s.sh
  let pop := s.ink.populated
  let kinds := fun k => (used.filter fun r => r.kind == k).length
  let base := bits (s.reg Reg.capoStagingBase) 63 16 * 65536
  failIf (s.unfenced < ((used.filter fun r => r.kind == 1).map Region.size).sum) 0x14 0 ++
  (if pop == 0 then (match used with | r :: _ => [(0x1E, r.idx)] | [] => [])
  else
    (used.flatMap fun r =>
      let bad := s.capo.sections.contains 8 && (r.kind == 7 || (r.kind == 1 && used.any fun q => q.idx < r.idx && q.kind == 1 && q.part == r.part) ||
        r.mask == 0 || r.chanLen == 0 || s.ink.reference < r.chanOff + r.chanLen || pop < r.base + r.size ||
        (maskChans r.mask).any (fun c => (s.chan c).fenced) || (r.kind == 3 && r.size < 512 * mib) || (r.kind == 4 && r.size < 128 * mib) ||
        (r.kind == 2 && !(256 * mib ≤ r.size && r.base ≤ base && base + 256 * mib ≤ r.base + r.size)) ||
        used.any fun q => q.idx < r.idx && r.meets q)
      failIf bad 0x1E r.idx) ++
    failIf (kinds 2 != 1 || kinds 3 != 1 || kinds 4 != 1 || 1 < kinds 5 || 1 < kinds 6) 0x1E used.length)

/-! ### Scheduler, meters, Ethernet (0x1B to 0x1D) -/

def schRate (w : Word) : Nat := bits w 45 28

/-- A shaper's rate, or where it is unshaped the rate that bounds it. -/
def boundBy (own up : Nat) : Nat := if own == 0 then up else own

/-- R150: a rate above the nearest one over it. A rate above 100,000 MB/s on an Ethernet port is the port's own to limit. -/
def rateOver (eth : Bool) (rate bound : Nat) : Bool := bound < rate && !(eth && 100000 < rate)

/-- SCH_CFG. The configuration is shared by all ports, so an entry fails where its rate is too high on any port, and a ring
where it is too high under any traffic class. -/
def checkSched (tbl : Tbl Word) (cell : Nat → Word) : Fails :=
  let root := fun (p : Nat) => bits (cell (Reg.schPortCfg p)) 57 40
  let top := fun (p : Nat) => boundBy (root p) 200000
  let ptn := fun (p i : Nat) => boundBy (schRate (cell (schCell 0 i))) (top p)
  let tc := fun (p i : Nat) => boundBy (schRate (cell (schCell 1 i))) (ptn p (i / 8))
  let above := fun (rate : Nat) (bound : Nat → Nat) => (List.range 16).any fun p => rateOver (stagedEth cell p) rate (bound p)
  ((List.range 16).flatMap fun p =>
    let w := cell (Reg.schPortCfg p)
    failIf (sext 9 (bits w 8 0) < -64 || bits w 23 12 == 0 || rateOver (stagedEth cell p) (root p) 200000) 0x1B p) ++
  ((List.range 4).flatMap fun t => (listed tbl (schCell t 0) (schCell t ([64, 512, 16384, 8].getD t 0))).flatMap fun i =>
    let w := cell (schCell t i)
    failIf (bits w 11 0 == 0 || (t == 1 && bits w 57 46 == 0) || (t == 0 && above (schRate w) top) ||
      (t == 1 && above (schRate w) fun p => ptn p (i / 8)) ||
      (t == 2 && (List.range 8).any fun c => above (schRate w) fun p => tc p (8 * (i / 256) + c))) 0x1B i) ++
  (List.range 128).flatMap fun m =>
    let a := cell (Reg.polMeterCfg0 m)
    let b := cell (Reg.polMeterCfg1 m)
    failIf (bits a 37 20 < bits a 17 0 || bits b 47 24 == 0 || bits b 23 0 == 0) 0x1C m

/-- R371 on a staged port record. -/
def ethRecBad (i : Nat) (w : Nat → Word) : Bool :=
  let b := (List.range 8).flatMap fun k => leBytes 8 (w k).toNat
  leAt b 0 1 != 14 + i || leAt b 11 1 < 3 || 5 < leAt b 11 1 || leAt b 4 1 % 2 == 1 ||
  (leAt b 1 1 / 2 % 2 == 0 && leAt b 12 4 == 0) || leAt b 40 4 == 0 || 100000 < leAt b 40 4 ||
  8 ≤ leAt b 1 1 || (leAt b 2 2).testBit 12 || 64 ≤ leAt b 10 1 || anyNonzero (slice b 48 16)

def checkEth (cell : Nat → Word) : Fails :=
  (List.range 2).flatMap fun i =>
    let w := fun k => cell (Reg.ethPortRec i k)
    failIf ((List.range 8).any (fun k => w k != 0) && ethRecBad i w) 0x1D i

/-! ### The whole stage (R60) -/

/-- The node address the checks take: the staged TARGET_NODE, or this device's. -/
def Dev.stagedNode (s : Dev) : Nat :=
  match s.capo.loaded with
  | some i => if s.capo.fresh then i.node.toNat else s.node
  | none => s.node

/-- Every check of Table 3.4 that fails, in the order of the table for each code. -/
def Dev.checkAll (s : Dev) : Fails :=
  let node := s.stagedNode
  let t := torusOf s.sh node
  failIf s.capo.incomplete 0x01 0 ++
  (match mixedAt ((List.range 9).filterMap fun t => s.capo.origins.find? fun o => o.1 == t) with | some x => [(0x02, x)] | none => []) ++
  (s.capo.secBad.map fun x => (x.2.1, x.2.2)) ++
  checkRuling s.sh ++ checkTorus s.sh t ++ checkRoutes s.shadow s.sh t ++ s.checkPtns ++ checkChords s.shadow s.sh ++
  checkTabs s.shadow s.sh t node ++ s.checkInk ++ checkSched s.shadow s.sh ++ checkEth s.sh

/-! ### The drain mask (R230) -/

/-- The channels whose routes differ between two entries. -/
def drainDiff (a b : Word) : Nat :=
  ((List.range 4).foldl (fun m c => if detDir a c == detDir b c then m else m ||| 3 <<< (3 * c)) 0) |||
  (if adaptDirs a == adaptDirs b then 0 else 0x924)

/-- The entry of port p's set for a node index in a bank, or the primary one. -/
def altOr (tbl : Tbl Word) (cell : Nat → Word) (p i : Nat) : Word :=
  match (altList tbl).find? fun a => altPort a.2 == p && altIndex a.2 == i with
  | some a => altRoute a.2
  | none => cell (rteCell i)

def Dev.drainMask (s : Dev) : BitVec 12 :=
  let prim := listed s.shadow (rteCell 0) (altCell 0) ++ listed s.run (rteCell 0) (altCell 0)
  let whole := bits (s.sh Reg.rteCfg) 31 0 != bits (s.st Reg.rteCfg) 31 0 || s.sh Reg.rteCfg1 != s.st Reg.rteCfg1 ||
    (List.range 16).any fun p => bits (s.sh (Reg.rtePortCfg p)) 3 0 != bits (s.st (Reg.rtePortCfg p)) 3 0
  let m := prim.foldl (fun m i => m ||| drainDiff (s.sh (rteCell i)) (s.st (rteCell i))) (if whole then 0xFFF else 0)
  let alts := (altList s.shadow ++ altList s.run).filter fun a => s.portDown (altPort a.2)
  let m := alts.foldl (fun m a =>
    m ||| drainDiff (altOr s.shadow s.sh (altPort a.2) (altIndex a.2)) (altOr s.run s.st (altPort a.2) (altIndex a.2))) m
  BitVec.ofNat 12 m

end Sys2Proof.Machine
end

