-- ==== Sys2Proof/Machine/Capo.lean ====
section
/-! DEFINITION. The Capo engine up to the apply edge: direct staging and the windows on the staged tables, LOAD and
LOAD_FW, CHECK, ARM, DISARM, DISCARD and the drain window (R55 to R64, R67, R69, R73, R403). -/

namespace Sys2Proof.Machine

/-! ### Direct staging (R57, R61, R442) -/

/-- The states in which the stage cannot be changed (Table 3.3, R61). -/
def Dev.capoBusy (s : Dev) : Bool :=
  match s.capo.st with
  | .loading | .checking | .armed | .draining => true
  | _ => false

/-- R57, R61: the stage has been written directly; `mark` names the sections the write belongs to. -/
def Dev.directStage (s : Dev) (mark : List Nat) : Dev :=
  { s with capo := { s.capo with
      isUnsigned := true
      st := .staged
      checkCode := 0xFF
      sections := s.capo.sections ++ mark.filter fun t => !s.capo.sections.contains t } }

/-- A shadow write of an ST cell through the register at `off`: the fields in the addressed part take the bits. One
that reaches no field does nothing; one in a busy state is ignored with a record. -/
def Dev.shadowWrite (s : Dev) (v : View) (off c : Nat) (h : Half) (w : Word) (mark : List Nat) : Dev :=
  if !cellReached c h then s
  else if s.capoBusy then s.hostErr v off 0x02 w
  else (s.setShadow c (cellWrite c h (s.sh c) w)).directStage mark

/-- The sections an ST register belongs to, as far as an apply asks: the Tablature's. -/
def regSections (off : Nat) : List Nat := if Reg.rlgPortTab 0 ≤ off && off < Reg.rlgPortTab 16 then [3] else []

/-- A write of the ST fields of the register at `off`. Beside fields of another type they are written only where they
differ from their shadow (R442). -/
def Dev.stWrite (s : Dev) (v : View) (off : Nat) (h : Half) (w : Word) : Dev :=
  match regRow true off with
  | none => s
  | some _ =>
    if (regRow false off).isSome && cellWrite off h (s.sh off) w == s.sh off then s
    else s.shadowWrite v off off h w (regSections off)

/-! ### Windows (R53, R157, R235, R253, R325, R338) -/

/-- A window on a table: its ACCESS and DATA registers, its SHADOW bit, ACCESS after an access, the cell it reads and
the cell a write stages. -/
structure Window where
  access : Nat
  data : Nat
  shadow : Nat
  next : Word → Word
  read : (Nat → Word) → Word → Option Nat
  write : (Nat → Word) → Word → Option Nat
  mark : List Nat := []

/-- An access to a window's DATA register. A virtual function's view holds none of them (Table 9.2). -/
def Dev.window (s : Dev) (x : Window) (r : RegOp) : Dev :=
  let a := s.reg x.access
  let sh := bit a x.shadow
  match r.view, r.data with
  | .vf _, none => s.emit (.value 0)
  | .vf _, some _ => s
  | v, none =>
    if s.inReset x.data then (s.hostErr v x.data 0x06 0).emit (.value 0)
    else
      let cell := if sh then s.sh else s.st
      let val := match x.read cell a with | some c => cell c | none => 0
      (s.emit (.value (halfOf r.half val))).setReg x.access (x.next a)
  | v, some w =>
    if s.inReset x.data then s.hostErr v x.data 0x06 w
    else
      let t := match (if sh then x.write s.sh a else none) with
        | some c => s.shadowWrite v x.data c r.half w x.mark
        | none => s
      t.setReg x.access (x.next a)

def rlgTabWindow : Window :=
  let cell := fun (_ : Nat → Word) (a : Word) => some (tabCell (bits a 16 13) (bits a 11 0))
  { access := Reg.rlgTabAccess, data := Reg.rlgTabData, shadow := 17, mark := [3]
    next := fun a => setBits a 11 0 (bits a 11 0 + 1)
    read := cell
    write := cell }

/-- Entries of each table of SCH_TBL_ACCESS; tables 4 to 7 have none. -/
def schSizes : List Nat := [64, 512, 16384, 8]

def schWindow : Window :=
  let cell := fun (_ : Nat → Word) (a : Word) =>
    if bits a 13 0 < schSizes.getD (bits a 18 16) 0 then some (schCell (bits a 18 16) (bits a 13 0)) else none
  { access := Reg.schTblAccess, data := Reg.schTblData, shadow := 19
    next := fun a => let i := bits a 13 0 + 1; setBits a 13 0 (if schSizes.getD (bits a 18 16) 16384 ≤ i then 0 else i)
    read := cell
    write := cell }

def rteWindow : Window :=
  let cell := fun (_ : Nat → Word) (a : Word) =>
    if bits a 18 16 == 0 then some (rteCell (bits a 15 0)) else if bits a 18 16 == 1 then some (altCell (bits a 15 0)) else none
  { access := Reg.rteTblAccess, data := Reg.rteTblData, shadow := 19
    next := fun a => setBits a 15 0 (bits a 15 0 + 1)
    read := cell
    write := cell }

/-- Words of slot k's record in a bank: the header and as many edges and steps as it declares. -/
def chdExtent (cell : Nat → Word) (k : Nat) : Nat := min 536 (8 + 2 * (chdF cell k 12 1 + chdF cell k 16 2))

/-- A slot whose MEMBERS is 0 has no record and reads 0; a write reaches it all the same, and so makes one (R253). -/
def chdWindow : Window :=
  let cell := fun (c : Nat → Word) (a : Word) =>
    if bits a 9 0 < chdExtent c (bits a 27 16) then some (chdCell (bits a 27 16) (bits a 9 0)) else none
  { access := Reg.chdDefAccess, data := Reg.chdDefData, shadow := 28
    next := fun a => setBits a 9 0 (if 535 ≤ bits a 9 0 then 0 else bits a 9 0 + 1)
    read := fun c a => if chdF c (bits a 27 16) 8 4 = 0 then none else cell c a
    write := cell }

def inkWindow : Window :=
  let cell := fun (_ : Nat → Word) (a : Word) => if bits a 6 0 < 80 then some (inkCell (bits a 6 0) (bits a 9 8)) else none
  { access := Reg.inkLayoutAccess, data := Reg.inkLayoutData, shadow := 19, mark := [8]
    next := fun a => if bits a 9 8 == 3 then setBits (setBits a 9 8 0) 6 0 (bits a 6 0 + 1) else setBits a 9 8 (bits a 9 8 + 1)
    read := cell
    write := cell }

def ptnWindow : Window :=
  let cell := fun (_ : Nat → Word) (a : Word) => some (ptnCell (bits a 5 0) (bits a 10 8))
  { access := Reg.ptnLayoutAccess, data := Reg.ptnLayoutData, shadow := 19
    next := fun a => if bits a 10 8 == 7 then setBits (setBits a 10 8 0) 5 0 (bits a 5 0 + 1) else setBits a 10 8 (bits a 10 8 + 1)
    read := cell
    write := cell }

def execRlgTabDataAccess (r : RegOp) (s : State) : Host.Outcome State Fault Refusal := onDev (fun s => (s.tapOp rlgTabWindow.data r).window rlgTabWindow r) s
def execSchTblDataAccess (r : RegOp) (s : State) : Host.Outcome State Fault Refusal := onDev (fun s => (s.tapOp schWindow.data r).window schWindow r) s
def execRteTblDataAccess (r : RegOp) (s : State) : Host.Outcome State Fault Refusal := onDev (fun s => (s.tapOp rteWindow.data r).window rteWindow r) s
def execChdDefDataAccess (r : RegOp) (s : State) : Host.Outcome State Fault Refusal := onDev (fun s => (s.tapOp chdWindow.data r).window chdWindow r) s
def execInkLayoutDataAccess (r : RegOp) (s : State) : Host.Outcome State Fault Refusal := onDev (fun s => (s.tapOp inkWindow.data r).window inkWindow r) s
def execPtnLayoutDataAccess (r : RegOp) (s : State) : Host.Outcome State Fault Refusal := onDev (fun s => (s.tapOp ptnWindow.data r).window ptnWindow r) s

/-! ### Bytes to and from the staging area (R59, R443) -/

/-- A read of memory through a register that names an address as CAPO_LOAD_SRC does: bit 0 set, an Inkwell address;
clear, a host physical address of function 0. -/
def Dev.extRead (s : Dev) (env : Env) (boot : Bool) (sel : Word) (off n : Nat) : Dev × Option (List Byte) :=
  let a := bits sel 63 6 * 64 + off
  if bit sel 0 then
    match s.inkRead boot a n with
    | (s, .ok, b) => (s, some b)
    | (s, _, _) => (s, none)
  else match s.pinnedAddr env 0 a with
    | none => (s.pinnedAsk 0, none)
    | some p => match (s.pinnedAsk 0).readT env 0 .host p n with
      | (s, .ok, b) => (s, some b)
      | (s, _, _) => (s, none)

/-- A write likewise; false where it fails. -/
def Dev.extWrite (s : Dev) (env : Env) (boot : Bool) (sel : Word) (off : Nat) (b : List Byte) : Dev × Bool :=
  let a := bits sel 63 6 * 64 + off
  if bit sel 0 then
    match s.inkWrite boot a b with
    | (s, .ok) => (s, true)
    | (s, _) => (s, false)
  else match s.pinnedAddr env 0 a true with
    | none => (s.pinnedAsk 0, false)
    | some p => match (s.pinnedAsk 0).writeT env 0 .host p b with
      | (s, .ok) => (s, true)
      | (s, _) => (s, false)

def Dev.stagingBase (s : Dev) : Nat := bits (s.reg Reg.capoStagingBase) 63 16 * 65536

/-- The staging area as a source: an Inkwell address on a module with Inkwell, a host address without. -/
def Dev.stagingSel (s : Dev) : Word := BitVec.ofNat 64 (s.stagingBase + b2n (s.ink.populated != 0))

/-- Where the firmware image lies in the staging area (R59). -/
def fwRegion : Nat := 128 * 2 ^ 20

/-- Reads of `k` pieces of 64 bytes; none at the first that fails. -/
def Dev.extReadAll : Nat → Dev → Env → Word → Nat → Nat → List (List Byte) → Dev × Option (List Byte)
  | 0, s, _, _, _, _, acc => (s, some acc.reverse.flatten)
  | k + 1, s, env, sel, off, left, acc =>
    match s.extRead env true sel off (min 64 left) with
    | (s, none) => (s, none)
    | (s, some b) => Dev.extReadAll k s env sel (off + 64) (left - 64) (b :: acc)

/-- `n` bytes of the staging area from `off` on. -/
def Dev.stagingRead (s : Dev) (env : Env) (off n : Nat) : Dev × Option (List Byte) :=
  Dev.extReadAll (ceilDiv n 64) s env s.stagingSel off n []

/-- R56: a source is copied into the staging area 64 bytes at a time; it ends at the first failure of a read or a
write, which leaves what has been written. -/
def Dev.copyIn : Nat → Dev → Env → Word → Nat → Nat → Nat → List (List Byte) → Dev × Option (List Byte)
  | 0, s, _, _, _, _, _, acc => (s, some acc.reverse.flatten)
  | k + 1, s, env, src, dst, off, left, acc =>
    match s.extRead env true src off (min 64 left) with
    | (s, none) => (s, none)
    | (s, some b) =>
      match s.extWrite env true s.stagingSel (dst + off) b with
      | (s, false) => (s, none)
      | (s, true) => Dev.copyIn k s env src dst (off + 64) (left - 64) (b :: acc)

/-! ### LOAD (R56) -/

def Dev.loadEnds (s : Dev) (code : Byte) : Dev := { s with capo := { s.capo with loadResult := code } }

/-- The refusals of LOAD and LOAD_FW before any byte is read; `max` is the largest image. -/
def Dev.loadGate (s : Dev) (max : Nat) : Option Byte :=
  if s.capoBusy then some 0x01
  else if !s.rst.coreUp then some 0x02
  else if max < (s.reg Reg.capoLoadLen).toNat then some 0x06
  else none

/-- CAPO_CTL LOAD. -/
def Dev.loadCmd (s : Dev) : Dev :=
  match s.loadGate scoreMax with
  | some code => s.loadEnds code
  | none => { s with capo := { s.capo with
      loadPrev := s.capo.st, st := .loading, loadSrc := s.reg Reg.capoLoadSrc, loadLen := (s.reg Reg.capoLoadLen).toNat } }

/-- LOAD_DONE: the image has been read, is checked, and staged or refused. The signature check waits for the
management core (Table 1.3). -/
def Dev.loadDone (s : Dev) (f : Flash) (env : Env) : Dev :=
  if !decide (s.capo.st = .loading) || !s.rst.coreUp then s
  else
    let n := s.capo.loadLen
    let back := fun (s : Dev) (code : Byte) =>
      ({ s with capo := { s.capo with st := s.capo.loadPrev } } : Dev).loadEnds code
    match (s.enter env).copyIn (ceilDiv n 64) env s.capo.loadSrc 0 0 n [] with
    | (s, none) => back s 0x03
    | (s, some img) =>
      let code := s.scoreCode f img n
      if code != 0 then back s code else (s.stageImage img n).loadEnds 0

/-! ### LOAD_FW (R73, R403) -/

def fwMax : Nat := 16 * 2 ^ 20

/-- R403: the check of a firmware image of `n` bytes, by the codes of Table 3.3; 0 where it verifies. Its keys are OTP
items 5 to 8. In RETIRED the boot ROM refuses every image (Table 20.9). -/
def fwCode (f : Flash) (img : List Byte) (n : Nat) : Byte :=
  if leAt img 0 4 != 0x41584657 then 0x04
  else if leAt img 4 2 != 1 || 4 ≤ leAt img 6 1 || anyNonzero (slice img 24 232) then 0x05
  else if leAt img 8 4 != n || n < 256 + trailerLen || 256 + trailerLen + 8 * 2 ^ 20 < n then 0x06
  else if 3 < leAt img 7 1 || !f.keyOk (5 + leAt img 7 1) (trailerKey img n) then 0x07
  else if !signedOk img n then 0x08
  else if !(leAt img 6 1).testBit f.stepping.toNat then 0x09
  else 0

def fwImageOf (img : List Byte) : FwImage := { version := w8 img 16, digest := digest256 img, bytes := img }

/-- LOAD_FW. A firmware image makes a stage of its own: the state becomes STAGED and the check must be made anew. -/
def Dev.loadFwCmd (s : Dev) (f : Flash) (env : Env) : Dev :=
  match s.loadGate fwMax with
  | some code => s.loadEnds code
  | none =>
    let n := (s.reg Reg.capoLoadLen).toNat
    match (s.enter env).copyIn (ceilDiv n 64) env (s.reg Reg.capoLoadSrc) fwRegion 0 n [] with
    | (s, none) => s.loadEnds 0x03
    | (s, some img) =>
      let code := fwCode f img n
      if code != 0 then s.loadEnds code
      else ({ s with capo := { s.capo with
        fwStaged := true, fw := some (fwImageOf img), st := .staged, checkCode := 0xFF } } : Dev).loadEnds 0

/-! ### CHECK (R60) -/

def Dev.checkCmd (s : Dev) : Dev :=
  match s.capo.st with
  | .staged | .passed | .failed => { s with capo := { s.capo with st := .checking } }
  | _ => s

/-- The failure with the lowest code, and of those the first. -/
def lowestFail (l : Fails) : Option (Nat × Nat) :=
  l.foldl (fun a x => match a with | some y => if x.1 < y.1 then some x else some y | none => some x) none

/-- CHECK_DONE. -/
def Dev.checkDone (s : Dev) : Dev :=
  if s.capo.st ≠ .checking then s
  else
    let l := s.checkAll
    let extra : BitVec 12 := if s.capo.fresh then s.capo.drainExtra else 0
    { s with capo := { s.capo with
        st := if l.isEmpty then .passed else .failed
        checkFail := BitVec.ofNat 32 (l.foldl (fun a x => a ||| 2 ^ x.1) 0)
        checkCode := BitVec.ofNat 8 ((lowestFail l).map (·.1) |>.getD 0)
        checkDetail := BitVec.ofNat 32 ((lowestFail l).map (·.2) |>.getD 0)
        drainMask := s.drainMask ||| extra } }

/-! ### ARM, DISARM, DISCARD (R63, R64, R67) -/

/-- The extended CAPO_APPLY_AT. -/
def Dev.applyInstant (s : Dev) : Nat := bits (s.reg Reg.capoApplyAtEpoch) 31 0 * 2 ^ 64 + (s.reg Reg.capoApplyAt).toNat

/-- CAPO_DRAIN_WINDOW in ru. -/
def Dev.drainWindow (s : Dev) : Nat := bits (s.reg Reg.capoDrainWindow) 19 0 * 1024

def Dev.armEnds (s : Dev) (code : Byte) : Dev := { s with capo := { s.capo with armResult := code } }

/-- CAPO_CTL ARM. Where both apply, NO_TIME is reported before TOO_LATE (DESIGN CHOICE: Table 3.7 gives them no order). -/
def Dev.armCmd (s : Dev) : Dev :=
  if s.capo.st ≠ .passed then s.armEnds 0x02
  else if !s.rlg.lock.stampOk then s.armEnds 0x04
  else if s.applyInstant < s.now + s.drainWindow + 1024000 then s.armEnds 0x03
  else ({ s with capo := { s.capo with st := .armed, applyAt := s.applyInstant } } : Dev).armEnds 0x01

def Dev.capoArmed (s : Dev) : Bool := decide (s.capo.st = .armed) || decide (s.capo.st = .draining)

/-- CAPO_CTL DISARM. -/
def Dev.disarmCmd (s : Dev) : Dev :=
  if s.capoArmed then ({ s with capo := { s.capo with st := .passed } } : Dev).armEnds 0x06 else s

/-- What belonged to the stage, gone at DISCARD and at every apply. A staged firmware image and FW_STAGED stay (DESIGN CHOICE
for DISCARD: R67 does not name them). -/
def Capo.noStage (c : Capo) : Capo :=
  { c with st := .idle, isUnsigned := false, checkCode := 0xFF, checkDetail := 0, origins := [], sections := [], fresh := false,
           secBad := [], incomplete := false, drainExtra := 0 }

/-- CAPO_CTL DISCARD. -/
def Dev.discardCmd (s : Dev) : Dev := if s.capoBusy then s else { s with shadow := s.run, capo := s.capo.noStage }

/-! ### The drain window (R69) -/

/-- DRAIN_OPEN. -/
def Dev.drainOpen (s : Dev) : Dev :=
  if decide (s.capo.st = .armed) && s.capo.drainMask != 0 && s.capo.applyAt ≤ s.now + s.drainWindow then
    { s with capo := { s.capo with st := .draining } }
  else s

/-! ### STORE (R74) -/

/-- CAPO_CTL STORE: the running image, read back from the image region, is queued for flash; refused where the running
Score is unsigned or the region holds something else. -/
def Dev.storeCmd (s : Dev) (v : View) : Dev :=
  let refused := fun (s : Dev) => s.hostErr v Reg.capoCtl 0x02 7
  match s.capo.runImage with
  | none => refused s
  | some (n, d) =>
    if s.capo.unsignedRun then refused s
    else match s.stagingRead {} 0 n with
      | (s, none) => refused s
      | (s, some img) =>
        if digest256 img != d then refused s
        else { s with rst := { s.rst with jobs := s.rst.jobs ++
          [{ what := .score img s.stagingBase, left := ceilDiv n 65536 + 1 }] } }

/-! ### The commands -/

def execLoad (v : View) (w : Word) (s : State) : Host.Outcome State Fault Refusal :=
  onWrite v Reg.capoCtl w (fun s => if bits w 7 0 = 1 then pfOnly v Dev.loadCmd s else s) s
def execLoadFw (v : View) (env : Env) (s : State) : Host.Outcome State Fault Refusal :=
  onWriteF v Reg.capoCtl 2 (fun f s => pfOnly v (fun s => s.loadFwCmd f env) s) s
def execCheck (v : View) (s : State) : Host.Outcome State Fault Refusal := onWrite v Reg.capoCtl 3 (pfOnly v Dev.checkCmd) s
def execArm (v : View) (s : State) : Host.Outcome State Fault Refusal := onWrite v Reg.capoCtl 4 (pfOnly v Dev.armCmd) s
def execDisarm (v : View) (s : State) : Host.Outcome State Fault Refusal := onWrite v Reg.capoCtl 5 (pfOnly v Dev.disarmCmd) s
def execDiscard (v : View) (s : State) : Host.Outcome State Fault Refusal := onWrite v Reg.capoCtl 6 (pfOnly v Dev.discardCmd) s
def execStore (v : View) (s : State) : Host.Outcome State Fault Refusal := onWrite v Reg.capoCtl 7 (pfOnly v fun s => s.storeCmd v) s
def execDrainOpen (s : State) : Host.Outcome State Fault Refusal := onDev Dev.drainOpen s

end Sys2Proof.Machine
end

