-- ==== Sys2Proof/Machine/Apply.lean ====
section
/-! DEFINITION. The apply edge (R65, R66, R68, R72, R73, R228, R315, R372), the measurement it extends (R410), and the
fingerprint (R341). -/

namespace Sys2Proof.Machine

/-! ### LCS_MEAS (R410) and DET_FINGERPRINT (R341) -/

/-- M extended by a 64-byte entry. -/
def measExtend (m e : BitVec 512) : BitVec 512 := BitVec.ofNat 512 (ofLe (shake256 64 (leBytes 64 m.toNat ++ leBytes 64 e.toNat)))

/-- An event extends the measurement; the last 4,096 entries are kept. -/
def Dev.measure (s : Dev) (type : Nat) (dig : BitVec 256) (value : Word) : Dev :=
  let e : BitVec 512 := BitVec.ofNat 512 (type + at_ 64 s.rlg.time.toNat + at_ 128 dig.toNat + at_ 384 value.toNat)
  let l := s.lcs
  let full := 4096 ≤ l.entries.length
  { s with lcs := { l with
      meas := measExtend l.meas e
      base := if full then measExtend l.base (l.entries.headD 0) else l.base
      entries := (if full then l.entries.drop 1 else l.entries) ++ [e] } }

/-- A recomputation of the fingerprint begins. -/
def Dev.fpStart (s : Dev) : Dev := { s with det := { s.det with fpPending := true, fpValid := false } }

/-- The 80 bytes of Table 17.2. -/
def Dev.fpInput (s : Dev) (f : Flash) : List Byte :=
  leBytes 1 f.stepping.toNat ++ zeros 1 ++ leBytes 2 s.det.trimClass.toNat ++ leBytes 32 s.det.fwDigest.toNat
    ++ leBytes 32 s.det.scoreDigest.toNat ++ zeros 12

/-- FINGERPRINT_DONE. -/
def Dev.fpDone (s : Dev) (f : Flash) : Dev :=
  if !s.det.fpPending then s
  else { s with det := { s.det with
    fpPending := false, fpValid := true, fingerprint := BitVec.ofNat 64 (ofLe (shake256 8 (s.fpInput f))) } }

/-! ### Work in flight (Table 3.8) -/

/-- Partitions that lose a resource while not quiesced are reset by force under the outgoing layout. -/
def Dev.applyPtns (s : Dev) : Dev :=
  forUpto 64 (fun s n =>
    let p := s.ptn n
    if !s.takes n || decide (p.st = .quiesced) || decide (p.st = .resetting) then s
    else ((s.forceReset n 2).resetPtn n).setPtn n { p with st := .resetting, forced := true }) s

/-- R69: packets on masked channels that have not entered a lookup pipeline are dropped. -/
def Dev.applyDrain (s : Dev) : Dev :=
  if s.capo.st ≠ .draining then s
  else forUpto 16 (fun s p =>
    match (s.link p).rx with
    | some (h, got, left, false) =>
      let k : Packet := { hdr := h }
      if s.capo.drainMask.getLsbD k.vc then
        ((s.setLink p { s.link p with rx := some (h, got, left, true) }).returnCredit p k.vc (1 + got.length / 64)).bump Reg.capoDrainDrops
      else s
    | _ => s) s

/-- R69: the local packets that the drain held start under the applied tables. A packet of a connection that they do not route
is its transport engine's refusal, one of an operation its loss (R219, R251). -/
def Dev.rerouteHeld (s : Dev) (mask : BitVec 12) : Dev :=
  (s.sch.q.filter fun x => x.inPort.isNone && mask.getLsbD x.vc).foldl (fun s x =>
    let t : Dev := { s with sch := { s.sch with q := eraseFirst (· == x) s.sch.q } }
    match t.joinAs { x with kind2 := false } none (t.startsAdaptive x.pkt) with
    | (t, some k) => (t.refuseOwn x.own k).pathLost x.pkt
    | (t, none) => t) s

/-- The ST cells that the stage changes. -/
def Dev.changedCells (s : Dev) : List Nat :=
  (((s.run.map (·.1)) ++ (s.shadow.map (·.1))).filter fun c => s.st c != s.sh c).eraseDups

/-- The chord slots whose definition is changed or removed. -/
def changedSlots (cells : List Nat) : List Nat :=
  ((cells.filter fun c => chdCell 0 0 ≤ c && c < chdCell 4096 0).map fun c => (c - chdCell 0 0) / 1024).eraseDups

/-- An operation on a slot whose definition goes: it ends with SCORE_CHANGED. -/
def Dev.scoreEnd (s : Dev) (ex : Bool) (k : Nat) : Dev :=
  match s.grpDef ex k with
  | none => s
  | some d => s.grpStop ex k { d with steps := [], prev := 0xFF, nxt := 0xFF } {
      st := stScore, code := 3, off := 0xFFFF, step := match (s.grp ex k).run with | some r => r.step | none => 0
      abort := true, issuer := true }

/-- A slot under a new definition; CHD_LAST_ABORT stays. -/
def Slot.renewed (x : Slot) : Slot :=
  { lastSeq := x.lastSeq, lastOff := x.lastOff, lastStatus := x.lastStatus, lastStep := x.lastStep, lastCode := x.lastCode }

/-- Whether commands of a ring are known to be posted and not fetched: a scan or a re-read is due or running, or the ring is
held after a discard. -/
def Ring.unfetched (x : Ring) : Bool := x.scanning || x.dbPending || x.torn || x.held || x.discarding

/-- The entries of a ring that name a changed slot complete with SCORE_CHANGED at their launch, those taken and those
posted but not yet fetched (R66). -/
def Ring.scoreMark (l : List Nat) (x : Ring) : Ring :=
  { x with
    taken := x.taken.map fun e => if decide (e.cls = .chord) && l.contains e.slot then { e with scoreChanged := true } else e
    changed := if x.unfetched then x.changed ++ l else x.changed }

def Dev.applyChords (s : Dev) (l : List Nat) : Dev :=
  let s := l.foldl (fun s k => (s.scoreEnd false k).scoreEnd true k) s
  let s := l.foldl (fun s k => (s.setSlot k (s.slot k).renewed).setExch k (s.exch k).renewed) s
  if l.isEmpty then s else { s with rings := tmap (fun _ => {}) (fun _ x => x.scoreMark l) s.rings }

/-- The chord slots that have a record in the running bank. -/
def Dev.definedSlots (s : Dev) : List Nat :=
  ((s.run.filter fun p => chdCell 0 0 ≤ p.1 && p.1 < chdCell 4096 0).map fun p => (p.1 - chdCell 0 0) / 1024).eraseDups

/-- The first credits of slots with a new definition, and of idle slots that have granted none since a reset, where every
edge has a usable port. -/
def Dev.applyCredits (s : Dev) (l : List Nat) : Dev :=
  let bare := s.definedSlots.filter fun k => !l.contains k && (s.slot k).run.isNone && (s.slot k).limits.isEmpty
  (l ++ bare).foldl (fun s k => match s.grpDef false k with
    | some d => if d.edges.all (fun e => !(s.bundle (s.edgeDir false e.1)).isEmpty) then s.firstCredit k d (d.part * 256) else s
    | none => s) s

/-- The configuration cell of a child of a scheduler node, by the key of its deficit counter. -/
def deficitCell (key : Nat) : Option Nat :=
  let c := key % 1024
  let k := key / 1024 % 1024
  let p := key / 1024 / 1024
  if k = 0 then some (if c = 64 then Reg.schPortCfg p else schCell 0 c)
  else if k ≤ 64 then some (schCell 1 (8 * (k - 1) + c))
  else if 100 ≤ k && k < 612 then some (if c = 256 then schCell 1 (k - 100) else schCell 2 ((k - 100) / 8 * 256 + c))
  else if k = 690 then some (schCell 3 c)
  else none

/-- The configuration cell of a shaper, by its key. -/
def shaperCell (key : Nat) : Nat :=
  let p := key / 2 ^ 20
  let i := key % 2 ^ 20
  if i = 0 then Reg.schPortCfg p else if i = 1 then Reg.schPortCtrl p else if i < 66 then schCell 0 (i - 2)
  else if i < 578 then schCell 1 (i - 66) else schCell 2 (i - 578)

/-- The configuration cell of a child of the launch tree. -/
def launchCell (key : Nat) : Nat := if key / 1024 = 64 then schCell 0 (key % 1024) else schCell 2 (key / 1024 * 256 + key % 1024)

/-- Queues, shapers and meters whose configuration changes start afresh: deficit 0, buckets full. -/
def Sch.afterApply (x : Sch) (cells : List Nat) : Sch :=
  let meterKept := fun (m : Nat) => !cells.contains (Reg.polMeterCfg0 m) && !cells.contains (Reg.polMeterCfg1 m)
  { x with
    deficit := x.deficit.filter fun e => match deficitCell e.1 with | some c => !cells.contains c | none => true
    launchDeficit := x.launchDeficit.filter fun e => !cells.contains (launchCell e.1)
    buckets := x.buckets.filter fun e => !cells.contains (shaperCell e.1)
    tc := x.tc.filter fun e => meterKept e.1
    tp := x.tp.filter fun e => meterKept e.1 }

/-! ### Ethernet ports (R372) and DOWN (R228) -/

/-- A port leaves the fabric for Ethernet. -/
def Dev.ethOn (s : Dev) (p : Nat) : Dev :=
  let s := ((s.abortThrough p).dropQueued p).linkOff p
  s.setRlgPort p { (s.rlgPort p) with sent := [], beaconAt := none, lossDeclared := false }

/-- Frames in the ingress buffer of an Ethernet port are dropped and counted, and its queue pairs end. -/
def Dev.ethClear (s : Dev) (i : Nat) : Dev :=
  let x := s.ethPort i
  let s := (s.bumpBy (Reg.ethCounts i 10) x.ingress.length).setEth i { x with ingress := [] }
  (s.qps.filter fun q => Qp.port q.2 == i && decide (q.2.st = .rts)).foldl (fun s q =>
    let (s, w) := s.draw
    s.qpError q.1 (BitVec.ofNat 8 w.toNat)) s

def Dev.ethOff (s : Dev) (i : Nat) : Dev := (s.ethClear i).setEth i {}

/-- The personalities that change, `was` being those before the edge. -/
def Dev.applyEth (s : Dev) (was : Nat → Bool) : Dev :=
  forUpto 2 (fun s i => match was i, s.isEth (14 + i) with
    | false, true => s.ethOn (14 + i)
    | true, false => s.ethOff i
    | _, _ => s) s

/-- R228: the ports whose DOWN bit an apply clears. -/
def Dev.portBack (s : Dev) (p : Nat) : Bool :=
  s.portUp p && (s.rlgPort p).beaconAt.any (fun t => s.osc < t + nsTicks 200) && !(s.rlgPort p).lossDeclared && s.portCarries p

def Dev.applyDown (s : Dev) : Dev :=
  { s with capo := { s.capo with
    down := BitVec.ofNat 16 (((List.range 16).map fun p => if s.portBack p then 0 else 2 ^ p).sum) } }

/-! ### Keys and cipher keys (R162, R298) -/

def inRange (first count k : Nat) : Bool := first ≤ k && k < first + count

/-- The key and cipher ranges of partition n under the outgoing record `r` and the new one. -/
def Dev.applyRanges (s : Dev) (n : Nat) (r : BitVec 512) : Dev :=
  let q := s.ptnRec n
  let gone := s.xlt.keys.filter fun e => inRange (recKeyFirst r) (recKeyCount r) e.1 &&
    !inRange (recKeyFirst q) (recKeyCount q) e.1 && keyValid e.2
  let s := gone.foldl (fun s e => s.keyDrop e.1) s
  let s : Dev := { s with cph := { s.cph with keys := s.cph.keys.filter fun e =>
    !(inRange (recCphFirst r) (recCphCount r) e.1 && !inRange (recCphFirst q) (recCphCount q) e.1) } }
  let fresh := 0 < recKeyCount q && !(recKeyFirst r ≤ recKeyFirst q && recKeyFirst q + recKeyCount q ≤ recKeyFirst r + recKeyCount r)
  if fresh then
    { s.setPtn n { s.ptn n with initPending := true } with
      xlt := { s.xlt with rangeInit := if s.xlt.rangeInit.contains n then s.xlt.rangeInit else s.xlt.rangeInit ++ [n] } }
  else s

/-! ### The Inkwell layout (R315, R316, R443) -/

/-- The Inkwell address of a byte of a channel in a region. -/
def Region.addrOf (r : Region) (c off : Nat) : Option Nat :=
  let cs := maskChans r.mask
  if cs.contains c && r.chanOff ≤ off && off < r.chanOff + r.chanLen then
    some (r.base + ((off - r.chanOff) / 4096 * cs.length + cs.idxOf c) * 4096 + off % 4096)
  else none

/-- The boot placement as a region. -/
def Ink.bootRegion (i : Ink) : Region := { idx := 80, kind := 2, chanLen := i.reference, mask := 0xFFF }

/-- The channel and offset of a memory key that is Inkwell's. -/
def chanOfKey (k : Nat) : Option (Nat × Nat) := if 5 * 2 ^ 64 ≤ k then some (k / 2 ^ 64 - 5, k % 2 ^ 64) else none

/-- The Inkwell address in a region of the byte under a memory key. -/
def Region.ofKey (r : Region) (k : Nat) : Option Nat := (chanOfKey k).bind fun x => r.addrOf x.1 x.2

/-- The lines of the `n` bytes of a region from `lo` on that its placement cannot give: fenced or poisoned. -/
def Dev.lostLines (s : Dev) (r : Region) (lo n : Nat) : List Nat :=
  if s.ink.poison.isEmpty && !(maskChans r.mask).any (fun c => (s.chan c).fenced) then []
  else (linesOf lo n).filter fun a =>
    let (c, off) := r.place a
    (s.chan c).fenced || s.ink.poison.contains (lineKey c off)

/-- The number of the slot whose entry in memory a byte belongs to, by memory key. -/
def Dev.slotOfKey (s : Dev) (n k : Nat) : Option Nat :=
  let r := s.ptnRec n
  if (s.keyInk 0).isSome then ((regionKind s.regions 4).bind fun g => (g.ofKey k).map fun a => a - g.base).map (· / 32)
  else if 2 ^ 64 ≤ k then none
  else
    let back := bits (s.reg (Reg.keyHostBacking n)) 63 12 * 4096
    let a := if (s.fn 0).ats then (s.hst.xlate.find? fun x => x.1 == 0 && x.2.2.1 == k / 4096 * 4096).map fun x => x.2.1 + k % 4096 else some k
    a.bind fun a => if back ≤ a then some (recKeyFirst r + (a - back) / 32) else none

/-- KEY_RANGE_INIT_DONE: every entry of the range that the partition did not hold before is written with VALID 0 and
GEN 0. No key of the range can have been registered meanwhile, since the partition launches nothing. -/
def Dev.keyInitDone (s : Dev) (n : Nat) : Dev :=
  if !s.xlt.rangeInit.contains n then s
  else
    let r := s.ptnRec n
    let key := inRange (recKeyFirst r) (recKeyCount r)
    let s : Dev := { s with mem := s.mem.filter fun b => !(s.slotOfKey n b.1).any key }
    ({ s.setPtn n { s.ptn n with initPending := false } with
      xlt := { s.xlt with
        rangeInit := s.xlt.rangeInit.filter (· != n)
        keys := s.xlt.keys.filter fun e => !key e.1
        keyPoison := s.xlt.keyPoison.filter fun k => !key k
        keyCached := s.xlt.keyCached.filter fun k => !key k
        past := s.xlt.past.filter fun p => !key (keyIndex p.1)
        cache := s.xlt.cache.filter fun y => !key y.index } } : Dev).settleHeads n

/-- The bytes of a region read as bytes nothing has written, and its lines are sound. -/
def Dev.clearRegion (s : Dev) (r : Region) : Dev :=
  { s with
    mem := s.mem.filter fun e => (r.ofKey e.1).isNone
    ink := { s.ink with
      poison := s.ink.poison.filter fun l => (r.ofKey (64 * l)).isNone
      errors := s.ink.errors.filter fun e => (r.ofKey (64 * e.1)).isNone } }

/-- The staging area's 256 MiB from address `base` on move from one placement, as `t` holds it, to another at the same
addresses; lines that cannot be read arrive as poison. -/
def Dev.moveStaging (s t : Dev) (old new : Region) (base : Nat) : Dev :=
  let inside := fun (a : Nat) => base ≤ a && a < base + 256 * mib
  let bytes := t.mem.filterMap fun e => match old.ofKey e.1 with
    | some a => if inside a then some (a, e.2) else none
    | none => none
  let lost := t.lostLines old base (256 * mib)
  let s := s.clearRegion new
  let s := bytes.foldl (fun s b => let p := new.place b.1; s.setByte (chanKey p.1 p.2) b.2) s
  { s with ink := { s.ink with poison := s.ink.poison ++ lost.map fun a => let p := new.place a; lineKey p.1 p.2 } }

/-- The contents of a context or key region, as `t` holds them, move to the new placement, at the same offsets; lines that cannot
be read arrive as poison. -/
def Dev.moveTable (s t : Dev) (old new : Region) : Dev :=
  let n := min old.size new.size
  let bytes := t.mem.filterMap fun e => match old.ofKey e.1 with
    | some a => if a - old.base < n then some (new.base + (a - old.base), e.2) else none
    | none => none
  let lost := t.lostLines old old.base n
  let s := s.clearRegion new
  let s := bytes.foldl (fun s b => let p := new.place b.1; s.setByte (chanKey p.1 p.2) b.2) s
  { s with ink := { s.ink with poison := s.ink.poison ++ lost.map fun a =>
      let p := new.place (new.base + (a - old.base)); lineKey p.1 p.2 } }

/-- The key table is written out to a region that had no predecessor: until then it lay in host memory (DESIGN CHOICE: no rule
speaks of that move). -/
def Dev.tableOut (s : Dev) (r : Region) : Dev :=
  s.xlt.keys.foldl (fun s e => (leBytes 32 e.2.toNat).zipIdx.foldl (fun s b =>
    let p := r.place (r.base + 32 * e.1 + b.2); s.setByte (chanKey p.1 p.2) b.1) s) s

/-- One region of the new layout (Table 15.4), `old` being the outgoing layout, `t` the device before any of its regions was
moved, and `boot` whether the boot placement was in force. The records still to be filled and to be moved are collected. -/
def Dev.applyRegion (t : Dev) (old : List Region) (boot : Bool) (fill move : List Nat) (s : Dev) (r : Region) : Dev :=
  let same := old.find? fun q => { q with idx := r.idx } == r
  let due := fun (l : List Nat) => match same with | some q => l.contains q.idx | none => false
  let goes := fun (s : Dev) => ({ s with ink := { s.ink with move := s.ink.move ++ [r.idx] } } : Dev)
  let fills := fun (s : Dev) => ({ s with ink := { s.ink with fill := s.ink.fill ++ [r.idx] } } : Dev)
  match same with
  | some _ => let s := if due fill then fills s else s
              if due move then goes s else s
  | none =>
    if r.kind == 3 || r.kind == 4 then
      goes (match regionKind old r.kind with
        | some q => s.moveTable t q r
        | none => if r.kind == 4 then (s.clearRegion r).tableOut r else s.clearRegion r)
    else if r.kind == 2 then
      (if boot then goes (s.moveStaging t s.ink.bootRegion r s.stagingBase) else s.clearRegion r)
    else fills s

/-- The KIND 5 region of a layout, whatever its place in the list. -/
def journalRegion (l : List Region) : Option Region := (regionKind l 5).map fun r => { r with idx := 0 }

/-- Table 17.8: a change of the KIND 5 region ends any capture; a replay in progress keeps its state (Table 17.15). -/
def Dev.journalMoved (s : Dev) (old : List Region) : Dev :=
  let new := journalRegion s.regions
  if journalRegion old = new then s
  else { s with fol := { s.fol with
    st := (if s.det.replay then s.fol.st else if new.isSome then FolSt.idle else FolSt.unavailable), head := 0, postLeft := 0, markImg := [] } }

/-- A layout applied: `old` is the outgoing one, already replaced. -/
def Dev.applyInk (s : Dev) (old : List Region) : Dev :=
  let t : Dev := { s with ink := { s.ink with boot := false, fill := [], move := [] } }
  (t.regions.foldl (t.applyRegion old s.ink.boot s.ink.fill s.ink.move) t).journalMoved old

/-! ### The edge -/

/-- The partitions and chord slots in the journal's scope (R346). -/
def Dev.seedScopes (s : Dev) : List (Nat × Nat) := (s.folScopes.filterMap fun e => if e.1 == 0 then some (0, e.2.1) else
  if e.1 == 2 then some (1, e.2.1) else none).eraseDups

/-- The seed of a scope in a bank of ST cells: a partition's, or a chord slot's. -/
def seedOf (cell : Nat → Word) (x : Nat × Nat) : BitVec 128 :=
  if x.1 == 0 then recSeed (ptnRecOf cell (x.2 % 64)) else (chdDef cell x.2).seed

/-- SEED records for every seed in scope. -/
def Dev.seedRecords (s : Dev) : Dev :=
  s.seedScopes.foldl (fun s x => s.folSeed (if x.1 == 0 then x.2 % 64 else s.slotPart false x.2) x.1 x.2 (seedOf s.st x)) s

/-- The records of an apply edge: CAPO, and the seeds where one in scope has changed (R346). -/
def Dev.applyRecords (s : Dev) (changed : Bool) : Dev :=
  let s := s.folPut 0x0D 0x3F s.rlg.time (leBytes 8 s.capo.runId.toNat ++ leBytes 8 s.capo.runGen.toNat
    ++ leBytes 8 s.rlg.anchor.toNat ++ leBytes 4 s.rlg.anchorEpoch.toNat ++ zeros 4)
  if changed then s.seedRecords else s

/-- The running identity after an apply of this stage (R57, R65). -/
def Capo.applied (c : Capo) : Capo :=
  let id := c.loaded.getD {}
  let c := if c.loaded.isSome && (c.fresh || c.isUnsigned) then { c with runId := id.scoreId, runGen := id.generation } else c
  let c := if c.fresh then { c with node := id.node, nodeSet := true, runImage := c.stageImage } else c
  { c with unsignedRun := c.isUnsigned }.noStage

/-- R73: the staged firmware's action begins. -/
def Dev.fwAction (s : Dev) : Dev :=
  match s.capo.fwStaged, s.capo.fw with
  | true, some w => { s with
      capo := { s.capo with coreHeld := true }
      rst := { s.rst with coreUp := false }
      det := { s.det with fwDigest := w.digest } }
  | _, _ => s

/-- What happens at the apply edge; `code` is the ARM_RESULT it reports. -/
def Dev.applyEdge (s : Dev) (code : Byte) : Dev :=
  let held := if s.capo.st = .draining then s.capo.drainMask else 0
  let s := s.applyPtns.applyDrain
  let cells := s.changedCells
  let slots := changedSlots cells
  let s := s.applyChords slots
  let oldCfg := s.st Reg.rlgCfg
  let oldRegions := if s.ink.boot then [] else s.regions
  let was := fun i => s.isEth (14 + i)
  let recs := (List.range 64).map fun n => s.ptnRec n
  let seeds := s.seedScopes.any fun x => seedOf s.st x != seedOf s.sh x
  let tab := s.capo.sections.contains 3
  let layout := s.capo.sections.contains 8
  let score := s.capo.fresh
  let s : Dev := { s with
    run := if tab then s.shadow else tset stReset s.shadow Reg.rlgTabPeriod (s.st Reg.rlgTabPeriod)
    sch := s.sch.afterApply cells
    rlg := if tab then { s.rlg with
        anchor := s.reg Reg.capoApplyAt, anchorEpoch := BitVec.ofNat 32 (bits (s.reg Reg.capoApplyAtEpoch) 31 0) } else s.rlg
    det := if score then { s.det with scoreDigest := s.det.stageDigest } else s.det
    capo := { s.capo.applied with armResult := code, lastApply := s.rlg.time, lastApplyEpoch := s.rlg.epoch } }
  let s := (s.rlgApplied oldCfg).applyEth was
  let s := ((List.range 64).zip recs).foldl (fun s x => s.applyRanges x.1 x.2) s
  let s := if layout then s.applyInk oldRegions else s
  let s := (s.applyDown.rerouteHeld held).applyCredits slots
  let s := (s.applyRecords seeds).fwAction
  let s := (s.measure 3 s.det.scoreDigest s.capo.runGen).fpStart
  s.postErr Reg.capoCtl 0x03 code.toNat s.capo.runGen.toNat (if code == 0x08 then 1 else 0)

/-- The apply edge, its records in the order of their blocks. -/
def Dev.applyNowAt (s : Dev) (code : Byte) : Dev := s.oneClock (s.applyEdge code)

/-- CAPO_APPLY: the count reaches the instant latched by ARM. A drain window that was due opens first. -/
def Dev.capoApply (s : Dev) : Dev :=
  if s.capoArmed && s.capo.applyAt ≤ s.now then s.drainOpen.applyNowAt 0x07 else s

/-- R64: a forward step of the count carried an armed Capo past its instant, and past the opening of its drain window. -/
def Dev.applyLate (s : Dev) (before : Nat) : Dev :=
  if s.capoArmed && before < s.capo.applyAt && s.capo.applyAt ≤ s.now then s.drainOpen.applyNowAt 0x08 else s

/-- CAPO_CTL APPLY_NOW. -/
def Dev.applyNowCmd (s : Dev) (v : View) : Dev :=
  let free := decide (s.rlg.lock = .free) || (decide (s.rlg.lock = .source) && !s.rlg.served)
  if s.capo.st = .passed && free then s.applyNowAt 0x09 else s.hostErr v Reg.capoCtl 0x02 8

/-! ### Firmware (R73) -/

/-- FW_COPY_DONE: the image is in the core's SRAM, and the core is released; the new firmware writes it to flash. -/
def Dev.fwCopyDone (s : Dev) : Dev :=
  match s.capo.coreHeld, s.capo.fw with
  | true, some w =>
    let s : Dev := { s with
      capo := { s.capo with coreHeld := false }
      rst := { s.rst with
        coreUp := true, coreImage := some w, kickAt := s.osc
        jobs := s.rst.jobs ++ [{ what := .firmware w.bytes, left := ceilDiv w.bytes.length 65536 + 1 }] } }
    s.measure 2 w.digest w.version
  | _, _ => s

/-! ### The commands -/

def execApplyNow (v : View) (s : State) : Host.Outcome State Fault Refusal := onWrite v Reg.capoCtl 8 (pfOnly v fun s => s.applyNowCmd v) s
def execCapoApply (s : State) : Host.Outcome State Fault Refusal := onDev Dev.capoApply s
def execFwCopyDone (s : State) : Host.Outcome State Fault Refusal := onDev Dev.fwCopyDone s
def execFingerprintDone (s : State) : Host.Outcome State Fault Refusal := onDevF (fun f s => s.fpDone f) s
def execKeyRangeInitDone (part : Fin 64) (s : State) : Host.Outcome State Fault Refusal := onDev (fun s => s.keyInitDone part) s

/-- TSTAMP (R35, R444): a timestamp flit arrives; where it steps the count past an armed instant, the apply follows at the
next edge (R64). -/
def execTstamp (port : Fin 16) (d : BitVec 512) (fine : BitVec 13) (s : State) : Host.Outcome State Fault Refusal :=
  onDev (fun s => (s.tstamp port d fine.toNat).applyLate s.now) s

end Sys2Proof.Machine
end

