-- ==== Sys2Proof/Machine/FolioCmds.lean ====
section
/-! DEFINITION. Commands of the Folio (R345 to R351): capture, marks with their STATE records, and entering and starting
a replay. -/

namespace Sys2Proof.Machine

/-! ### Capture (R347) -/

def Dev.folErr (s : Dev) (v : View) (cmd : Nat) : Dev := s.hostErr v Reg.folCtl 0x02 (BitVec.ofNat 64 cmd)

/-- START: BEGIN, then the seeds in scope. -/
def Dev.folStart (s : Dev) (v : View) : Dev :=
  if s.fol.st ≠ .idle then s.folErr v 1
  else
    let s : Dev := { s with fol := { s.fol with st := .capture } }
    let s := s.folPut 0x01 0x3F s.rlg.time (leBytes 8 s.det.fingerprint.toNat ++ leBytes 4 s.rlg.epoch.toNat ++ zeros 4
      ++ leBytes 8 s.capo.runId.toNat ++ leBytes 8 s.capo.runGen.toNat ++ leBytes 8 s.rlg.anchor.toNat
      ++ leBytes 4 s.rlg.anchorEpoch.toNat ++ zeros 4)
    s.seedRecords

def Dev.folStop (s : Dev) (v : View) : Dev :=
  match s.fol.st with
  | .capture => { s.folGap with fol := { s.folGap.fol with st := .idle } }
  | .post => s.folFreeze
  | _ => s.folErr v 2

def Dev.folTriggerCmd (s : Dev) (v : View) : Dev :=
  match s.fol.st with
  | .capture | .post | .frozen => s.folTrigger 0x1 0
  | _ => s.folErr v 3

/-- FOLIO_POST_END. -/
def Dev.folPostEnd (s : Dev) : Dev := if s.fol.st = .post ∧ s.fol.postLeft = 0 then s.folFreeze else s

def Dev.folRearm (s : Dev) (v : View) : Dev :=
  if s.fol.st = .frozen then { s with fol := { s.fol with st := .idle } } else s.folErr v 4

/-! ### MARK and its STATE records (R348, Table 17.6). The layout of the state is the model's own (DESIGN CHOICE) -/

def RingSt.ofCode (n : Nat) : RingSt :=
  match n with
  | 1 => .enabled | 2 => .disabling | 3 => .error | 4 => .hostLost | 5 => .quiesced | _ => .disabled

/-- RING_STATUS.STATE (Table 4.4). -/
def RingSt.mark : RingSt → Nat
  | .disabled => 0 | .enabled => 1 | .disabling => 2 | .error => 3 | .hostLost => 4 | .quiesced => 5

/-- Partitions, rings, slots and exchanges of FOL_SCOPE. -/
def Dev.scopeIds (s : Dev) (kind lim : Nat) : List Nat :=
  (s.folScopes.filterMap fun e => if e.1 == kind && e.2.1 < lim then some e.2.1 else none).eraseDups

def Dev.markParts (s : Dev) : List Nat := s.scopeIds 0 64

/-- The rings in scope: those named, and those that partitions in scope hold. -/
def Dev.markRings (s : Dev) (held : Dev → Nat → Nat) : List Nat :=
  (s.scopeIds 1 16384 ++ s.markParts.flatMap fun n => (List.range (min 256 (held s n))).map fun i => n * 256 + i).eraseDups

def Dev.markSlots (s : Dev) (ex : Bool) : List Nat :=
  let parts := s.markParts
  (s.scopeIds (if ex then 3 else 2) 4096 ++ s.definedSlots.filter fun k =>
    (s.grpDef ex k).any fun d => parts.contains d.part).eraseDups

/-- A STATE record of a kind and identifier. -/
def Dev.folState (s : Dev) (part kind id : Nat) (b : List Byte) : Dev :=
  s.folPut 0x13 part s.rlg.time (leBytes 1 kind ++ zeros 3 ++ leBytes 4 id ++ zeros 8 ++ b)

/-- Bit 16 of the identifier tells completion rings and exchanges from rings and slots. -/
def second : Nat := 0x10000

/-- The launch position: of the first entry taken and not launched, else the position the next fetch reads. -/
def Ring.launchPos (x : Ring) : BitVec 32 := ((x.taken.head?).map Entry.pos).getD x.fetchPos

def ringState (x : Ring) : List Byte :=
  leBytes 8 x.base.toNat ++ leBytes 8 x.cfg.toNat ++ leBytes 8 x.head.toNat ++ leBytes 4 x.fetchPos.toNat
    ++ leBytes 2 x.fetchSeq.toNat ++ zeros 2 ++ leBytes 1 x.st.mark ++ leBytes 1 (b2n x.held) ++ zeros 2
    ++ leBytes 4 x.launchPos.toNat ++ zeros 8

def cqState (x : Cq) : List Byte :=
  leBytes 8 x.base.toNat ++ leBytes 8 x.cfg.toNat ++ leBytes 8 x.headAddr.toNat ++ leBytes 4 x.head.toNat
    ++ leBytes 4 x.tail.toNat ++ leBytes 1 x.st.mark ++ zeros 15

def pendBytes (p : Pend) : List Byte :=
  leBytes 2 p.seq.toNat ++ leBytes 2 p.offender.toNat ++ leBytes 1 p.code.toNat ++ leBytes 1 p.step.toNat ++ zeros 2

/-- NEXT_SEQ and the pending aborts. -/
def slotState (x : Slot) : List Byte :=
  leBytes 2 x.nextSeq.toNat ++ leBytes 1 x.pend.length ++ zeros 13 ++ (x.pend.flatMap pendBytes ++ zeros 32).take 32

def ctrState (x : EvCtr) : Nat := x.value.toNat + at_ 63 (b2n x.failed)

/-- The CRC-64 of a partition's key table range. -/
def Dev.keyDigest (s : Dev) (n : Nat) : Nat :=
  let r := s.ptnRec n
  crc64 ((List.range (recKeyCount r)).flatMap fun i => leBytes 32 (s.keyEntry (recKeyFirst r + i)).toNat)

/-- MARK: the record, the STATE records of everything but connections, and the contexts taken for theirs. -/
def Dev.folMark (s : Dev) (v : View) : Dev :=
  if s.fol.st ≠ .capture then s.folErr v 5
  else
    let mask := ((List.range 64).filter fun k => bit (s.reg (Reg.folScope k)) 63).map (2 ^ ·)
    let parts := s.markParts
    let conns := (s.conns.filter fun p => decide (p.2.st ≠ .reset) && (s.connPart p.1).any parts.contains).map fun p =>
      (2, p.1, leBytes 512 (s.ctxBits p.1).toNat)
    let t := s
    let s := s.folPut 0x12 0x3F s.rlg.time (leBytes 8 mask.sum ++ zeros 8)
    let s := (t.markRings fun s n => recRings (s.ptnRec n)).foldl
      (fun s r => s.folState (ringPart r) 0 r (ringState (t.ring r))) s
    let s := (t.markRings fun s n => recCqs (s.ptnRec n)).foldl
      (fun s r => s.folState (ringPart r) 0 (second + r) (cqState (t.cq r))) s
    let s := parts.foldl (fun s n => s.folState n 1 n
      ((List.range 1024).flatMap fun i => leBytes 8 (ctrState (t.ctr (n * 1024 + i))))) s
    let s := (t.markSlots false).foldl (fun s k => s.folState (t.slotPart false k) 3 k (slotState (t.slot k))) s
    let s := (t.markSlots true).foldl (fun s k => s.folState (t.slotPart true k) 3 (second + k) (slotState (t.exch k))) s
    let s := parts.foldl (fun s n => s.folState n 4 n (leBytes 8 (t.keyDigest n) ++ zeros 8)) s
    { s with fol := { s.fol with markImg := s.fol.markImg ++ conns } }

/-- A STATE record of a connection leaves the list of those still to be written. -/
def Dev.stateWritten (s : Dev) (c : Nat) : Option Dev :=
  match s.fol.markImg.find? fun m => m.1 == 2 && m.2.1 == c with
  | none => none
  | some m =>
    let s := s.folState ((s.connPart c).getD 0x3F) 2 c m.2.2
    some { s with fol := { s.fol with markImg := eraseFirst (fun x => x.1 == 2 && x.2.1 == c) s.fol.markImg } }

/-- STATE_RECORD_WRITTEN: the connection's packets that waited proceed. -/
def Dev.stateDone (s : Dev) (env : Env) (c : Nat) : Dev :=
  match s.stateWritten c with
  | none => s
  | some s => if s.markHeld c then s else ((s.enter env).drain env c).settle

/-! ### Entering and leaving replay (R349, R351) -/

def Dev.replayMay (s : Dev) : Bool :=
  ((List.range 63).all fun i => decide ((s.ptn (i + 1)).st = .quiesced)) &&
  (decide (s.rlg.lock = .free) || (decide (s.rlg.lock = .source) && !s.rlg.served)) &&
  (decide (s.fol.st = .idle) || decide (s.fol.st = .unavailable))

/-- REPLAY_ENTER: every port falls back to link control, with its DOWN bit set. -/
def Dev.replayEnter (s : Dev) (v : View) : Dev :=
  if !s.replayMay then s.folErr v 6
  else
    let s := forUpto 16 (fun s p => s.dropQueued p) s
    { s with
      det := { s.det with replay := true }
      fol := { s.fol with st := .replayReady, recs := [], produced := [] }
      capo := { s.capo with down := 0xFFFF } }

def FolSt.inReplay : FolSt → Bool
  | .replayReady | .replaying | .replayDone | .diverged => true
  | _ => false

/-- The partitions a replay made ACTIVE are QUIESCED again, as all are at REPLAY_ENTER. -/
def Dev.replayRest (s : Dev) : Dev :=
  forUpto 63 (fun s i => if (s.ptn (i + 1)).st = .active then s.setPtn (i + 1) { s.ptn (i + 1) with st := .quiesced } else s) s

/-- REPLAY_EXIT's effect: fetches and ports return to normal, and in FREE the count holds at 0 again. -/
def Dev.replayEnd (s : Dev) : Dev :=
  let s := s.replayRest
  { s with
    det := { s.det with replay := false }
    rlg := if s.rlg.lock = .free then { s.rlg with replayRun := false, time := 0, epoch := 0, frac := 0 }
      else { s.rlg with replayRun := false }
    fol := { s.fol with st := if s.folRegion.isSome then .idle else .unavailable, recs := [], produced := [] } }

def Dev.replayExit (s : Dev) (v : View) : Dev := if s.fol.st.inReplay then s.replayEnd else s.folErr v 8

/-! ### Starting a replay (R350, Table 17.9) -/

/-- LEN of the kinds whose LEN is fixed (Table 17.6). -/
def folLens : List (Nat × Nat) :=
  [(0x01, 4), (0x02, 2), (0x04, 2), (0x05, 6), (0x06, 6), (0x08, 4), (0x09, 3), (0x0A, 2), (0x0B, 2), (0x0C, 3), (0x0D, 3),
   (0x0E, 2), (0x0F, 2), (0x11, 2), (0x12, 2)]

def folLenOk (kind units : Nat) : Bool :=
  match folLens.find? fun p => p.1 == kind with
  | some p => units == p.2
  | none => if kind == 0x03 then 6 ≤ units && (units - 2) % 4 == 0 else if kind == 0x13 then 2 ≤ units else 1 ≤ units

/-- The records of a range; none at a reserved KIND, a bad LEN or a SEQ that does not follow. -/
def folParse : Nat → List Byte → Option Nat → List FolRec → Option (List FolRec)
  | _, [], _, acc => some acc.reverse
  | 0, _ :: _, _, _ => none
  | fuel + 1, b@(_ :: _), want, acc =>
    let kind := leAt b 0 1
    let units := leAt b 2 2
    let seq := leAt b 4 4
    if kind == 0 || 0x14 ≤ kind || units == 0 || b.length < 16 * units || !folLenOk kind units || want.any (· != seq) then none
    else
      let r : FolRec := { kind := BitVec.ofNat 8 kind, part := BitVec.ofNat 8 (leAt b 1 1), seq := BitVec.ofNat 32 seq,
                          time := BitVec.ofNat 64 (leAt b 8 8), body := slice b 16 (16 * units - 16) }
      folParse fuel (b.drop (16 * units)) (some ((seq + 1) % 2 ^ 32)) (r :: acc)

def FolRec.is (r : FolRec) (k : Nat) : Bool := r.kind.toNat == k
/-- The kinds that carry inputs. -/
def FolRec.input (r : FolRec) : Bool := r.is 0x02 || r.is 0x03 || r.is 0x04 || r.is 0x05
def FolRec.hdr (r : FolRec) : BitVec 512 := BitVec.ofNat 512 (leAt r.body 0 64)

/-- A PKT_RX with a payload that no PAYLOAD follows. -/
def noPayload : List FolRec → Bool
  | [] => false
  | [r] => r.is 0x05 && (({ hdr := r.hdr } : Packet).plen != 0)
  | r :: q :: l => (r.is 0x05 && ({ hdr := r.hdr } : Packet).plen != 0 && !q.is 0x07) || noPayload (q :: l)

/-- The STATE records of the first MARK. -/
def markStates (l : List FolRec) : List FolRec :=
  (((l.dropWhile fun r => !r.is 0x12).drop 1).takeWhile fun r => !r.is 0x12).filter fun r => r.is 0x13

/-- FOL_REPLAY_RESULT of the checks of Table 17.9, in their order; 0 where all pass. -/
def Dev.replayCode (s : Dev) (l : List FolRec) : Byte :=
  let before := l.takeWhile fun r => !r.input
  if !(before.any fun r => r.is 0x12) && (l.any FolRec.input || !(l.any fun r => r.is 0x12)) then 0x03
  else if l.any fun r => r.is 0x0F then 0x04
  else if !s.fpOk || (l.any fun r => r.is 0x01 && leAt r.body 0 8 != s.det.fingerprint.toNat) then 0x05
  else if noPayload l then 0x06
  else if (markStates l).any fun r => leAt r.body 0 1 == 4 && leAt r.body 16 8 != s.keyDigest (leAt r.body 4 4 % 64) then 0x07
  else 0

def loadPend (b : List Byte) : Pend :=
  { seq := BitVec.ofNat 16 (leAt b 0 2), offender := BitVec.ofNat 16 (leAt b 2 2), code := BitVec.ofNat 4 (leAt b 4 1),
    step := BitVec.ofNat 8 (leAt b 5 1) }

/-- A STATE record loaded. -/
def Dev.loadState (s : Dev) (r : FolRec) : Dev :=
  let id := leAt r.body 4 4
  let b := r.body.drop 16
  let w := fun (i n : Nat) => leAt b i n
  match leAt r.body 0 1 with
  | 0 =>
    let st := RingSt.ofCode (w 32 1)
    if id < second then s.setRing (id % 16384) { s.ring (id % 16384) with
      base := BitVec.ofNat 64 (w 0 8), cfg := BitVec.ofNat 64 (w 8 8), head := BitVec.ofNat 48 (w 16 8)
      fetchPos := BitVec.ofNat 32 (w 24 4), fetchSeq := BitVec.ofNat 16 (w 28 2), st := st, held := w 33 1 == 1, taken := [] }
    else s.setCq (id % 16384) { s.cq (id % 16384) with
      base := BitVec.ofNat 64 (w 0 8), cfg := BitVec.ofNat 64 (w 8 8), headAddr := BitVec.ofNat 64 (w 16 8)
      head := BitVec.ofNat 32 (w 24 4), tail := BitVec.ofNat 32 (w 28 4), st := st, reserved := 0 }
  | 1 => forUpto 1024 (fun s i => s.setCtr (id % 64 * 1024 + i)
      { value := BitVec.ofNat 48 (w (8 * i) 8), failed := (w (8 * i) 8).testBit 63 }) s
  | 2 => s.setConn id (ctxConn (BitVec.ofNat 4096 (w 0 512)))
  | 3 =>
    let ex := second ≤ id
    let k := id % 4096
    s.setGrp ex k { s.grp ex k with
      nextSeq := BitVec.ofNat 16 (w 0 2)
      pend := (List.range (min 4 (w 2 1))).map fun i => loadPend (slice b (16 + 8 * i) 8) }
  | _ => s

/-- The Tablature anchor a range gives: of the latest CAPO record before the MARK, else of BEGIN. -/
def replayAnchor (l : List FolRec) : Option (Word × BitVec 32) :=
  let before := l.takeWhile fun r => !r.is 0x12
  match (before.filter fun r => r.is 0x0D).getLast?, before.find? fun r => r.is 0x01 with
  | some r, _ => some (BitVec.ofNat 64 (leAt r.body 16 8), BitVec.ofNat 32 (leAt r.body 24 4))
  | none, some r => some (BitVec.ofNat 64 (leAt r.body 32 8), BitVec.ofNat 32 (leAt r.body 40 4))
  | none, none => none

/-- The records a replay consumes: inputs, outputs to compare, and those that fix an outcome. -/
def FolRec.consumed (r : FolRec) : Bool := r.input || r.is 0x06 || r.is 0x07 || r.is 0x08 || r.is 0x0A || r.is 0x0B || r.is 0x0C

/-- The partition of a STATE record of a ring, counter block, connection or key range acts as the ACTIVE one it was taken
from. -/
def Dev.stateActive (s : Dev) (r : FolRec) : Dev :=
  let n := r.part.toNat % 64
  if leAt r.body 0 1 = 3 ∨ (s.ptn n).st ≠ .quiesced then s else s.setPtn n { s.ptn n with st := .active }

/-- A range that has passed its checks. -/
def Dev.replayBegin (s : Dev) (l : List FolRec) : Dev :=
  let s := (markStates l).foldl Dev.loadState s
  let s := (markStates l).foldl Dev.stateActive s
  let mark := ((l.find? fun r => r.is 0x12).map (·.time)).getD 0
  let epoch := ((l.find? fun r => r.is 0x01).map fun r => BitVec.ofNat 32 (leAt r.body 8 4)).getD s.rlg.epoch
  let a := (replayAnchor l).getD (s.rlg.anchor, s.rlg.anchorEpoch)
  { s with
    rlg := { s.rlg with time := mark - 102400000, epoch := epoch, anchor := a.1, anchorEpoch := a.2, replayRun := true }
    fol := { s.fol with
      st := .replaying, produced := []
      recs := ((l.dropWhile fun r => !r.is 0x12).filter FolRec.consumed) } }

/-- REPLAY_START. -/
def Dev.replayStart (s : Dev) (v : View) (env : Env) : Dev :=
  match s.fol.st with
  | .replayReady | .replayDone | .diverged =>
    let n := (s.reg Reg.folReplayLen).toNat
    let result := fun (s : Dev) (c : Byte) => ({ s with fol := { s.fol with replayResult := c } } : Dev)
    match Dev.extReadAll (ceilDiv n 64) (s.enter env) env (s.reg Reg.folReplaySrc) 0 n [] with
    | (s, none) => result s 0x02
    | (s, some b) => match folParse (b.length / 16 + 1) b none [] with
      | none => result s 0x02
      | some l => if s.replayCode l != 0 then result s (s.replayCode l) else s.replayBegin l
  | _ => s.folErr v 7

/-! ### DET_GEN (R353) -/

/-- A write of DET_GEN_COUNTER. -/
def Dev.detGen (s : Dev) (w : Word) : Dev :=
  let s := s.setReg Reg.detGenCounter w
  let key := BitVec.ofNat 128 ((s.reg Reg.detGenKey0).toNat + at_ 64 (s.reg Reg.detGenKey1).toNat)
  let r := arx10 key (s.reg Reg.detGenStream) w
  { s with det := { s.det with out0 := r.setWidth 64, out1 := (r >>> 64).setWidth 64 } }

/-! ### The commands -/

def execStart (v : View) (s : State) : Host.Outcome State Fault Refusal := onWrite v Reg.folCtl 1 (pfOnly v fun s => s.folStart v) s
def execStop (v : View) (s : State) : Host.Outcome State Fault Refusal := onWrite v Reg.folCtl 2 (pfOnly v fun s => s.folStop v) s
def execTrigger (v : View) (s : State) : Host.Outcome State Fault Refusal := onWrite v Reg.folCtl 3 (pfOnly v fun s => s.folTriggerCmd v) s
def execFolioPostEnd (s : State) : Host.Outcome State Fault Refusal := onDev Dev.folPostEnd s
def execRearm (v : View) (s : State) : Host.Outcome State Fault Refusal := onWrite v Reg.folCtl 4 (pfOnly v fun s => s.folRearm v) s
def execMark (v : View) (s : State) : Host.Outcome State Fault Refusal := onWrite v Reg.folCtl 5 (pfOnly v fun s => s.folMark v) s
def execStateRecordWritten (conn : BitVec 20) (env : Env) (s : State) : Host.Outcome State Fault Refusal :=
  onDev (fun s => s.stateDone env conn.toNat) s
def execReplayEnter (v : View) (s : State) : Host.Outcome State Fault Refusal := onWrite v Reg.folCtl 6 (pfOnly v fun s => s.replayEnter v) s
def execReplayStart (v : View) (env : Env) (s : State) : Host.Outcome State Fault Refusal :=
  onWrite v Reg.folCtl 7 (pfOnly v fun s => s.replayStart v env) s
def execReplayExit (v : View) (s : State) : Host.Outcome State Fault Refusal := onWrite v Reg.folCtl 8 (pfOnly v fun s => s.replayExit v) s
def execDetGenCounterWrite (v : View) (w : Word) (s : State) : Host.Outcome State Fault Refusal :=
  onWrite v Reg.detGenCounter w (pfOnly v fun s => s.detGen w) s

end Sys2Proof.Machine
end

