-- ==== Sys2Proof/Machine/Inkwell.lean ====
section
/-! DEFINITION. Commands of Inkwell (chapter 15): training, moves, zero-fill, the patrol scrubber and fencing. -/

namespace Sys2Proof.Machine

/-! ### Fencing (R322) -/

/-- A channel is fenced for a cause of Table 15.9, with an error record. Every write of this model has reached its channel
by then, so none is queued. -/
def Dev.fence (s : Dev) (c : Nat) (cause : Byte) : Dev :=
  if (s.chan c).fenced then s
  else (s.setChan c { s.chan c with fenced := true, cause := cause, scrubbing := false }).postErr Reg.inkStatus 0x0C cause.toNat c 3

/-- INK_AUTO_FENCE: PHY lock, retries, or the uncorrectable lines of the last hour at their limit. -/
def Dev.autoFence (s : Dev) (c : Nat) (cause : Byte) : Dev :=
  let limit := bits (s.reg Reg.inkScrubCfg) 31 16
  let x := s.chan c
  let rate := limit != 0 && limit ≤ x.ueTimes.countP fun t => s.osc < t + secTicks 3600
  if x.present && (cause == 0x04 || cause == 0x05 || (cause == 0x06 && rate)) then s.fence c cause else s

/-! ### SPD reading and training (R312) -/

def gib : Nat := 2 ^ 30

/-- Whether a DIMM meets Table 15.1: its capacity and ranks. -/
def dimmOk (d : Nat × Bool × Bool) : Bool := (d.1 == 128 * gib && !d.2.1) || (d.1 == 256 * gib && d.2.1)

/-- The reference capacity: what most DIMMs of Table 15.1 hold, the larger at a tie. -/
def reference (l : List (Nat × Bool × Bool)) : Nat :=
  let n := fun (g : Nat) => (l.filter fun d => dimmOk d && d.1 == g).length
  if n (128 * gib) + n (256 * gib) = 0 then 0 else if n (128 * gib) ≤ n (256 * gib) then 256 * gib else 128 * gib

/-- INKWELL_TRAINING_DONE. -/
def Dev.inkTrained (s : Dev) (l : List (Nat × Bool × Bool)) : Dev :=
  if s.ink.trained || s.rst.released < 5 then s
  else
    let at12 := fun (c : Nat) => l.getD c (0, false, false)
    let all := (List.range 12).map at12
    let g := reference all
    let fitted := (all.filter fun d => d.1 != 0).length
    let s : Dev := { s with ink := { s.ink with trained := true, reference := g, fitted := fitted } }
    forUpto 12 (fun s c =>
      let d := at12 c
      let s := s.setChan c { s.chan c with present := d.1 != 0, ranks4 := d.2.1 }
      if fitted = 0 then s
      else if d.1 = 0 then s.fence c 0x01
      else if !dimmOk d || d.1 ≠ g then s.fence c 0x02
      else if !d.2.2 then s.fence c 0x03
      else s) s

/-! ### Moves and fills (R315, R316) -/

/-- REGION_MOVE_DONE. The contents went at the edge; what waited for the move may go on. -/
def Dev.moveDone (s : Dev) (r : Nat) : Dev := { s with ink := { s.ink with move := s.ink.move.filter (· != r) } }

/-- ZERO_FILL_DONE: the first region in record order is filled, once no move is under way. -/
def Dev.fillDone (s : Dev) : Dev :=
  match s.ink.move, s.ink.fill with
  | [], r :: l =>
    let t : Dev := { s with ink := { s.ink with fill := l } }
    (match s.regions.find? fun q => q.idx == r with
    | some q => t.clearRegion q
    | none => t)
  | _, _ => s

/-! ### The patrol scrubber (R321) -/

/-- SCRUB_PASS: the next line of a channel is read; `ecc` is what has befallen its bits. PERIOD takes effect with a pass. -/
def Dev.scrub (s : Dev) (c off ecc : Nat) : Dev :=
  let ended := s.ink.scrubPeriod = 0 || s.ink.scrubAt + secTicks (3600 * s.ink.scrubPeriod) ≤ s.osc
  let s : Dev := if ended then { s with ink := { s.ink with
      scrubAt := s.osc, scrubPeriod := bits (s.reg Reg.inkScrubCfg) 7 0 } } else s
  let s := forUpto 12 (fun s k => s.setChan k { s.chan k with scrubbing := k == c && s.ink.scrubPeriod != 0 && !(s.chan k).fenced && (s.chan k).present }) s
  if !(s.chan c).scrubbing || s.ink.reference ≤ off then s
  else
    let s : Dev := if ecc = 0 then s else { s with ink := { s.ink with errors := tset (fun _ => 0) s.ink.errors (lineKey c off) ecc } }
    s.eccRead c off

/-! ### Registers (Tables 15.8, 15.9) -/

def Dev.inkStatus (s : Dev) : Word :=
  BitVec.ofNat 64 (b2n (!s.ink.fill.isEmpty) + at_ 1 (b2n (!s.ink.move.isEmpty)) + at_ 22 (s.ink.populated / (128 * gib))
    + at_ 32 (s.unfenced / (128 * gib)))

def Chan.status (x : Chan) : Word :=
  BitVec.ofNat 64 (b2n x.present + at_ 1 (b2n x.fenced) + at_ 2 (b2n x.ranks4) + at_ 3 (b2n x.scrubbing) + at_ 8 x.cause.toNat)

/-! ### The commands -/

def execRegionMoveDone (region : BitVec 7) (s : State) : Host.Outcome State Fault Refusal := onDev (fun s => s.moveDone region.toNat) s
def execZeroFillDone (s : State) : Host.Outcome State Fault Refusal := onDev Dev.fillDone s
def execScrubPass (chan : Fin 12) (off : Word) (ecc : BitVec 2) (s : State) : Host.Outcome State Fault Refusal :=
  onDev (fun s => s.scrub chan off.toNat ecc.toNat) s
def execInkAutoFence (chan : Fin 12) (cause : Byte) (s : State) : Host.Outcome State Fault Refusal :=
  onDev (fun s => s.autoFence chan cause) s
def execChannelFence (v : View) (chan : Fin 12) (w : Word) (s : State) : Host.Outcome State Fault Refusal :=
  onWrite v (Reg.inkChanCtl chan) w (pfOnly v fun s => s.gated v (Reg.inkChanCtl chan) w fun s => if bit w 0 then s.fence chan 0x07 else s) s

end Sys2Proof.Machine
end

