-- ==== Sys2Proof/Machine/Eth.lean ====
section
/-! DEFINITION. The Ethernet personality (R371 to R379): received frames, the RoCE v2 responder, and the frames it sends. The
formats of Ethernet, IP, UDP and RoCE v2 are those of their standards (PRESUMED where this spec does not give them). -/

namespace Sys2Proof.Machine

/-! ### The port record (Table 19.1) -/

def Dev.ethWord (s : Dev) (i w : Nat) : Word := s.st (Reg.ethPortRec i w)
def Dev.ethRec (s : Dev) (i : Nat) : List Byte := (List.range 8).flatMap fun w => leBytes 8 (s.ethWord i w).toNat

/-- Addresses and options of a port. -/
structure EthCfg where
  ipv6 : Bool := false
  vlanEn : Bool := false
  vlan : Nat := 0
  mac : List Byte := []
  dscp : Nat := 0
  mtu : Nat := 1024
  ip : List Byte := []
  cnpInterval : Nat := 50000
  rateAi : Nat := 0
  rateMin : Nat := 1
  ratePeriod : Nat := 55000
  deriving DecidableEq, Repr

def Dev.ethCfg (s : Dev) (i : Nat) : EthCfg :=
  let r := s.ethRec i
  let v6 := (leAt r 1 1).testBit 1
  let orElse := fun (n d : Nat) => if n = 0 then d else n
  { ipv6 := v6
    vlanEn := (leAt r 1 1).testBit 2
    vlan := leAt r 2 2
    mac := slice r 4 6
    dscp := leAt r 10 1 % 64
    mtu := if leAt r 11 1 = 4 then 2048 else if leAt r 11 1 = 5 then 4096 else 1024
    ip := if v6 then slice r 16 16 else slice r 12 4
    cnpInterval := orElse (leAt r 32 4) 50000
    rateAi := leAt r 36 4
    rateMin := leAt r 40 4
    ratePeriod := orElse (leAt r 44 4) 55000 }

/-! ### Reading a frame -/

/-- A frame's EtherType and the offset of what follows it, past the port's VLAN tag where it has one; none where the tag is
not the port's. -/
def EthCfg.l3 (c : EthCfg) (f : List Byte) : Option (Nat × Nat) :=
  if c.vlanEn then (if beAt f 12 2 == 0x8100 && beAt f 14 2 % 4096 == c.vlan % 4096 then some (beAt f 16 2, 18) else none)
  else some (beAt f 12 2, 14)

/-- An ARP request for the port's IPv4 address. -/
def EthCfg.isArp (c : EthCfg) (f : List Byte) : Bool :=
  match c.l3 f with
  | some (t, o) => !c.ipv6 && t == 0x0806 && beAt f o 2 == 1 && beAt f (o + 2) 2 == 0x0800 && beAt f (o + 4) 2 == 0x0604 && beAt f (o + 6) 2 == 1
      && slice f (o + 24) 4 == c.ip
  | none => false

/-- An ICMPv6 Neighbor Solicitation for the port's IPv6 address. -/
def EthCfg.isNs (c : EthCfg) (f : List Byte) : Bool :=
  match c.l3 f with
  | some (t, o) => c.ipv6 && t == 0x86DD && leAt f (o + 6) 1 == 58 && leAt f (o + 40) 1 == 135 && slice f (o + 48) 16 == c.ip
  | none => false

/-- The offset of the UDP header of a frame to port 4791 at the port's address. -/
def EthCfg.udp (c : EthCfg) (f : List Byte) : Option Nat :=
  match c.l3 f with
  | none => none
  | some (t, o) =>
    if c.ipv6 then
      if t == 0x86DD && leAt f (o + 6) 1 == 17 && slice f (o + 24) 16 == c.ip && beAt f (o + 42) 2 == 4791 then some (o + 40) else none
    else
      let u := o + leAt f o 1 % 16 * 4
      if t == 0x0800 && leAt f o 1 / 16 == 4 && leAt f (o + 9) 1 == 17 && slice f (o + 16) 4 == c.ip && beAt f (u + 2) 2 == 4791 then some u
      else none

/-- Bytes of a header with those at some places set to all ones. -/
def ones (b : List Byte) (places : List Nat) : List Byte := places.foldl (fun b i => b.set i 0xFF) b

/-- The ICRC of RoCE v2: CRC-32 over eight bytes of ones and the packet from its IP header on, the fields that may change on
the way read as ones. `o` is the IP header's offset, `u` the UDP header's. -/
def rocev2Icrc (v6 : Bool) (f : List Byte) (o u : Nat) : Nat :=
  let ip := slice f o (u - o)
  let ip := if v6 then
      match ip with
      | a :: b => BitVec.ofNat 8 (a.toNat / 16 * 16 + 15) :: ones b [0, 1, 2, 6]
      | [] => []
    else ones ip [1, 8, 10, 11]
  let rest := ones (slice f u (f.length - 8 - u)) [6, 7, 12]
  crc32 (List.replicate 8 0xFF ++ ip ++ rest)

def EthCfg.l3off (c : EthCfg) : Nat := if c.vlanEn then 18 else 14

/-- The fields of a RoCE v2 packet; `u` is its UDP header's offset. -/
structure Roce where
  op : Nat := 0
  pad : Nat := 0
  qpn : Nat := 0
  ackReq : Bool := false
  psn : Nat := 0
  rest : List Byte := []
  ce : Bool := false
  deriving DecidableEq, Repr

def EthCfg.ecn (c : EthCfg) (f : List Byte) : Nat := if c.ipv6 then leAt f (c.l3off + 1) 1 / 16 % 4 else leAt f (c.l3off + 1) 1 % 4

def EthCfg.roce (c : EthCfg) (f : List Byte) (u : Nat) : Roce :=
  let b := u + 8
  { op := leAt f b 1, pad := leAt f (b + 1) 1 / 16 % 4, qpn := beAt f (b + 5) 3, ackReq := (leAt f (b + 8) 1).testBit 7
    psn := beAt f (b + 9) 3, rest := slice f (b + 12) (f.length - 8 - (b + 12)), ce := c.ecn f == 3 }

/-- The opcodes of Table 19.3. -/
def roceOps : List Nat := [0x06, 0x07, 0x08, 0x09, 0x0A, 0x0B, 0x0C, 0x81]

/-! ### Frames the device sends -/

def onesSum (b : List Byte) : Nat :=
  let n := ((List.range (ceilDiv b.length 2)).map fun i => beAt (b ++ [0]) (2 * i) 2).sum
  let n := n % 65536 + n / 65536
  n % 65536 + n / 65536

/-- A frame with its FCS, padded to 64 bytes. -/
def withFcs (b : List Byte) : List Byte :=
  let b := b ++ zeros (60 - b.length)
  b ++ leBytes 4 (crc32 b)

def EthCfg.l2 (c : EthCfg) (dst : List Byte) (etype : Nat) : List Byte :=
  dst ++ c.mac ++ (if c.vlanEn then beBytes 2 0x8100 ++ beBytes 2 c.vlan else []) ++ beBytes 2 etype

def EthCfg.arpReply (c : EthCfg) (f : List Byte) : List Byte :=
  let o := c.l3off
  withFcs (c.l2 (slice f (o + 8) 6) 0x0806 ++ beBytes 2 1 ++ beBytes 2 0x0800 ++ beBytes 2 0x0604 ++ beBytes 2 2
    ++ c.mac ++ c.ip ++ slice f (o + 8) 10)

def EthCfg.naReply (c : EthCfg) (f : List Byte) : List Byte :=
  let o := c.l3off
  let dst := slice f (o + 8) 16
  let icmp := fun (sum : Nat) => beBytes 2 0x8800 ++ beBytes 2 sum ++ beBytes 4 0x60000000 ++ c.ip ++ beBytes 2 0x0201 ++ c.mac
  let sum := 65535 - onesSum (c.ip ++ dst ++ beBytes 4 32 ++ beBytes 4 58 ++ icmp 0)
  withFcs (c.l2 (slice f 6 6) 0x86DD ++ beBytes 4 (0x60000000 + at_ 22 c.dscp) ++ beBytes 2 32 ++ beBytes 1 58 ++ beBytes 1 255
    ++ c.ip ++ dst ++ icmp sum)

/-- A RoCE v2 frame to a queue pair's requester: BTH, `ext` and payload. What the spec leaves of its headers (IP identification,
hop limit, UDP source port) is open. -/
def Dev.roceFrame (s : Dev) (i k op psn : Nat) (becn : Bool) (ext payload : List Byte) : Dev × List Byte :=
  let c := s.ethCfg i
  let q := s.qp k
  let (s, w) := s.draw
  let pad := (4 - payload.length % 4) % 4
  let bth := beBytes 1 op ++ beBytes 1 (0x40 + 16 * pad) ++ beBytes 2 0xFFFF ++ beBytes 1 (if becn then 0x40 else 0)
    ++ beBytes 3 (bits q.cfg 319 296) ++ beBytes 4 psn
  let body := bth ++ ext ++ payload ++ zeros pad
  let udp := beBytes 2 (bits w 39 24) ++ beBytes 2 4791 ++ beBytes 2 (12 + body.length) ++ beBytes 2 0
  let tos := c.dscp * 4 + 2
  let peer := beBytes 16 (bits q.cfg 511 384)
  let len := 8 + body.length + 4
  let ip := if c.ipv6 then
      beBytes 4 (0x60000000 + at_ 20 tos) ++ beBytes 2 len ++ beBytes 1 17 ++ beBytes 1 (bits w 23 16) ++ c.ip ++ peer
    else
      let h := fun (sum : Nat) => beBytes 1 0x45 ++ beBytes 1 tos ++ beBytes 2 (20 + len) ++ beBytes 2 (bits w 15 0) ++ beBytes 2 0x4000
        ++ beBytes 1 (bits w 23 16) ++ beBytes 1 17 ++ beBytes 2 sum ++ c.ip ++ peer.drop 12
      h (65535 - onesSum (h 0))
  let l2 := c.l2 (beBytes 6 (bits q.cfg 383 336)) (if c.ipv6 then 0x86DD else 0x0800)
  let f := l2 ++ ip ++ udp ++ body
  let f := f ++ leBytes 4 (rocev2Icrc c.ipv6 (f ++ zeros 8) l2.length (l2.length + ip.length))
  (s, withFcs f)

/-- A frame for the port's control queue. -/
def Dev.ethQueue (s : Dev) (i : Nat) (f : List Byte) : Dev :=
  s.setEth i { s.ethPort i with frames := (s.ethPort i).frames ++ [f] }

/-- An AETH: syndrome and MSN. -/
def aeth (syndrome : Nat) (msn : BitVec 24) : List Byte := beBytes 1 syndrome ++ beBytes 3 msn.toNat

/-- ACK, its credit field invalid. -/
def Dev.roceAck (s : Dev) (i k psn : Nat) : Dev :=
  let (s, f) := s.roceFrame i k 0x11 psn false (aeth 0x1F (s.qp k).msn) []
  s.ethQueue i f

/-- A NAK, counted: 0 PSN Sequence Error, 2 Remote Access Error, 3 Remote Operational Error. -/
def Dev.roceNak (s : Dev) (i k psn code : Nat) : Dev :=
  let (s, f) := s.roceFrame i k 0x11 psn false (aeth (0x60 + code) (s.qp k).msn) []
  (s.ethQueue i f).bump (Reg.ethCounts i 11)

/-- R378: a frame that carries CE is answered with a CNP, one per queue pair and CNP_INTERVAL. -/
def Dev.cnpSend (s : Dev) (i k : Nat) : Dev :=
  let q := s.qp k
  if q.cnpTxAt.any fun t => s.osc < t + nsTicks (s.ethCfg i).cnpInterval then s
  else
    let (s, f) := (s.setQp k { q with cnpTxAt := some s.osc }).roceFrame i k 0x81 0 true [] (zeros 16)
    (s.ethQueue i f).bump (Reg.ethCounts i 8)

/-! ### Arrival (R373, R374, R155, R156) -/

/-- The frame with CE in its IP header. -/
def EthCfg.markCe (c : EthCfg) (f : List Byte) : List Byte :=
  let o := c.l3off + 1
  f.set o (BitVec.ofNat 8 (leAt f o 1 + (if c.ipv6 then (3 - c.ecn f) * 16 else 3 - c.ecn f)))

def ingressCap : Nat := 4 * 2 ^ 20

/-- Table 7.6 for a frame of a partition. -/
def Dev.ethAdmit (s : Dev) (i n : Nat) (f : List Byte) : Dev :=
  let m := 2 * n + 1
  let b := f.length
  let (s, c) := s.meter m b
  let s := s.meterCount m b c
  let e := s.ethCfg i
  let x := s.ethPort i
  let held := (x.ingress.map fun y => y.1.length).sum
  let thresh := bits (s.st (Reg.polIngressCfg (1 + i))) 15 0 * 1024
  let ect := e.ecn f == 1 || e.ecn f == 2
  let drop := fun (s : Dev) => s.bump (Reg.polDropped m)
  let accept := fun (s : Dev) (f : List Byte) (ce : Bool) =>
    if ingressCap < held + b then drop s else s.setEth i { x with ingress := x.ingress ++ [(f, ce)] }
  let yellow := fun (s : Dev) => if thresh ≤ held then drop s else if ect then accept s (e.markCe f) true else accept s f false
  match c with
  | .green => accept s f false
  | .yellow => yellow s
  | .red => if bit (s.st (Reg.polMeterCfg1 m)) 56 && ect then yellow s else drop s

def ethBroadcast : List Byte := List.replicate 6 0xFF

/-- Table 19.2: the first row that matches a received frame. -/
def Dev.ethResolve (s : Dev) (i : Nat) (f : List Byte) : Dev :=
  let c := s.ethCfg i
  let drop := fun (k : Nat) => s.bump (Reg.ethCounts i k)
  if slice f 0 6 != c.mac && slice f 0 6 != ethBroadcast then drop 4
  else if c.isArp f then s.ethQueue i (c.arpReply f)
  else if c.isNs f then s.ethQueue i (c.naReply f)
  else match c.udp f with
    | none => drop 4
    | some u =>
      let r := c.roce f u
      let k := r.qpn - 0x1000
      if rocev2Icrc c.ipv6 f c.l3off u != leAt f (f.length - 8) 4 then drop 6
      else if !roceOps.contains r.op then drop 5
      else if r.qpn < 0x1000 || 0x2000 ≤ r.qpn || Qp.port (s.qp k) != i || decide ((s.qp k).st ≠ .rts) then drop 5
      else s.ethAdmit i (Qp.part (s.qp k)) f

/-- ETH_FRAME_RX: a frame from its destination address to its FCS. One below 64 bytes is no frame. -/
def Dev.ethRx (s : Dev) (i : Nat) (f : List Byte) : Dev :=
  if !s.isEth (14 + i) || !(s.ethPort i).link || f.length < 64 then s
  else if 9216 < f.length then s.bump (Reg.ethCounts i 3)
  else if crc32 (f.take (f.length - 4)) != leAt f (f.length - 4) 4 then s.bump (Reg.ethCounts i 2)
  else (s.bump (Reg.ethCounts i 0)).ethResolve i f

/-! ### The responder (R375 to R378) -/

/-- A request fails: the NAK of R376, and the queue pair's end. -/
def Dev.roceFail (s : Dev) (i k psn st : Nat) : Dev :=
  let op := st == stHostLost || st == stTarget || st == stPoison
  (s.roceNak i k psn (if op then 3 else 2)).qpError k (BitVec.ofNat 8 st)

/-- The rest of Table 8.5 for a key whose first five steps passed: an on-demand region has no translation here. -/
def Dev.onDemandStop (s : Dev) (key : BitVec 32) (a n : Nat) : Option Nat :=
  let e := s.region key
  if keyTarget e == 0 && keyOnDemand e then (match s.keyReach e a n with | some st => some st | none => some stTranslation) else none

/-- A placement of a WRITE packet: the state after it, and the failing status. -/
def Dev.rocePlace (s : Dev) (env : Env) (part : Nat) (key : BitVec 32) (a : Nat) (b : List Byte) : Dev × Option Nat :=
  match s.keyCheck key part a b.length (rW ||| rRM) with
  | (s, some st) => (s, some st)
  | (s, none) => match s.onDemandStop key a b.length with
    | some st => (s, some st)
    | none => match s.regionWrite env key a b with
      | (s, .ok _) => (s.setPtn part { s.ptn part with reach := (s.ptn part).reach ||| s.keyMemory key b.length }, none)
      | (s, .wait) => (s, some stTranslation)
      | (s, .fault st) => (s, some st)

/-- The message of a queue pair completes: MSN, and the signal of R377. -/
def Dev.roceSignal (s : Dev) (k : Nat) : Dev :=
  let q := s.qp k
  let s := s.setQp k { q with msn := q.msn + 1, openMsg := false }
  let c := bits q.cfg 159 150
  if bit q.cfg 149 && c < s.ctrsOf q.part then s.ctrSignal q.part c false else s

/-- An RDMA WRITE packet at EPSN. -/
def Dev.roceWrite (s : Dev) (env : Env) (i k : Nat) (r : Roce) : Dev :=
  let q := s.qp k
  let first := r.op == 0x06 || r.op == 0x0A || r.op == 0x0B
  let last := r.op == 0x08 || r.op == 0x09 || r.op == 0x0A || r.op == 0x0B
  let imm := r.op == 0x09 || r.op == 0x0B
  let x := if first then r.rest.drop 16 else r.rest
  let iv := beAt x 0 4
  let x := if imm then x.drop 4 else x
  let b := x.take (x.length - r.pad)
  let key : BitVec 32 := if first then BitVec.ofNat 32 (beAt r.rest 8 4) else q.openKey
  let a := if first then beAt r.rest 0 8 else q.openAddr.toNat
  if !first && !q.openMsg then s.roceFail i k r.psn stKeyInvalid
  else match s.rocePlace env q.part key a b with
    | (s, some st) => s.roceFail i k r.psn st
    | (s, none) =>
      let q := s.qp k
      let s := s.setQp k { q with
        epsn := q.epsn + 1, nakSent := false, openMsg := true, openKey := key, openAddr := BitVec.ofNat 64 (a + b.length)
        lastImm := if imm then BitVec.ofNat 32 iv else q.lastImm }
      let s := if last then s.roceSignal k else s
      if last || r.ackReq then s.roceAck i k r.psn else s

/-- The frames of a READ Response. -/
def Dev.readFrames (s : Dev) (i k psn mtu : Nat) (b : List Byte) : Dev :=
  let n := max 1 (ceilDiv b.length mtu)
  forUpto n (fun s j =>
    let op := if n = 1 then 0x10 else if j = 0 then 0x0D else if j + 1 = n then 0x0F else 0x0E
    let ext := if op = 0x0E then [] else aeth 0x1F (s.qp k).msn
    let (s, f) := s.roceFrame i k op ((psn + j) % 2 ^ 24) false ext (slice b (mtu * j) mtu)
    s.setQp k { s.qp k with resp := (s.qp k).resp ++ [(s.rlg.time, f)] }) s

/-- An RDMA READ Request; `dup` where it is executed again. -/
def Dev.roceRead (s : Dev) (env : Env) (i k : Nat) (r : Roce) (dup : Bool) : Dev :=
  let q := s.qp k
  let a := beAt r.rest 0 8
  let key : BitVec 32 := BitVec.ofNat 32 (beAt r.rest 8 4)
  let len := beAt r.rest 12 4
  let mtu := (s.ethCfg i).mtu
  match s.keyCheck key q.part a len (rR ||| rRM) with
  | (s, some st) => s.roceFail i k r.psn st
  | (s, none) => match s.onDemandStop key a len with
    | some st => s.roceFail i k r.psn st
    | none => match s.regionRead env key a len with
      | (s, .fault st) => s.roceFail i k r.psn st
      | (s, .wait) => s.roceFail i k r.psn stTranslation
      | (s, .ok b) =>
        let q := s.qp k
        let s := if dup then s else s.setQp k { q with
          epsn := q.epsn + BitVec.ofNat 24 (max 1 (ceilDiv len mtu)), msn := q.msn + 1, nakSent := false }
        s.readFrames i k r.psn mtu b

/-- R377: a request by its PSN. -/
def Dev.roceRequest (s : Dev) (env : Env) (i k : Nat) (r : Roce) : Dev :=
  let q := s.qp k
  let d := (BitVec.ofNat 24 r.psn - q.epsn).toNat
  let rd := r.op == 0x0C
  if d = 0 then (if rd then s.roceRead env i k r false else s.roceWrite env i k r)
  else if 2 ^ 23 ≤ d then (if rd then s.roceRead env i k r true else s.roceAck i k r.psn)
  else
    let s := s.bump (Reg.ethCounts i 7)
    if q.nakSent then s else (s.setQp k { q with nakSent := true }).roceNak i k q.epsn.toNat 0

/-- A CNP received (R378). -/
def Dev.cnpRx (s : Dev) (i k : Nat) : Dev :=
  let q := s.qp k
  let c := s.ethCfg i
  let s := (s.bump (Reg.ethCounts i 9)).setQp k { q with periodAt := s.osc }
  if q.cnpRxAt.any fun t => s.osc < t + nsTicks c.cnpInterval then s
  else s.setQp k { s.qp k with cnpRxAt := some s.osc, rate := BitVec.ofNat 32 (max c.rateMin (q.rate.toNat / 2)) }

/-- The frame at the head of a port's ingress buffer, where its opcode is one of the row's. A queue pair that has left RTS
takes it no more. -/
def Dev.roceHead (s : Dev) (env : Env) (i : Nat) (ops : List Nat) : Dev :=
  let x := s.ethPort i
  match x.ingress with
  | [] => s
  | (f, ce) :: l =>
    let c := s.ethCfg i
    let r := c.roce f ((c.udp f).getD 0)
    let k := r.qpn - 0x1000
    if !ops.contains r.op then s
    else
      let s := s.setEth i { x with ingress := l }
      if (s.qp k).st ≠ .rts then s.bump (Reg.ethCounts i 5)
      else
        let s := s.enter env
        let s := if r.op == 0x81 then s.cnpRx i k else s.roceRequest env i k r
        if r.ce || ce then s.cnpSend i k else s

/-- RATE_PERIOD_EXPIRY: a period without a CNP. -/
def Dev.ratePeriod (s : Dev) (i k : Nat) : Dev :=
  let q := s.qp k
  let c := s.ethCfg i
  if decide (q.st ≠ .rts) || Qp.port q != i || s.osc < q.periodAt + nsTicks c.ratePeriod then s
  else s.setQp k { q with periodAt := s.osc, rate := BitVec.ofNat 32 (min 100000 (q.rate.toNat + c.rateAi)) }

/-! ### ETH_QP_CTL (Table 19.8) -/

def Dev.selQp (s : Dev) : Nat := bits (s.reg Reg.ethQpSel) 11 0

/-- ENABLE. -/
def Dev.qpEnable (s : Dev) (v : View) (w : Word) : Dev :=
  let k := s.selQp
  let q := s.qp k
  if decide (q.st ≠ .reset) || s.ptnRec q.part == 0 || decide ((s.ptn q.part).st ≠ .active) then s.hostErr v Reg.ethQpCtl 0x02 w
  else s.setQp k { q with st := .rts, rate := 100000, periodAt := s.osc, sendAt := s.osc, cnpTxAt := none, cnpRxAt := none }

/-- A queue pair in RESET keeps its entry; what belonged to its open messages goes. -/
def Qp.toReset (q : Qp) : Qp :=
  { cfg := q.cfg, epsn := q.epsn, lastImm := q.lastImm, errCause := q.errCause, rate := q.rate }

/-- RESET. -/
def Dev.qpReset (s : Dev) (v : View) (w : Word) : Dev :=
  let k := s.selQp
  if (s.qp k).st = .reset then s.hostErr v Reg.ethQpCtl 0x02 w else s.setQp k (s.qp k).toReset

def Dev.qpCtl (s : Dev) (v : View) (w : Word) : Dev :=
  match bits w 7 0 with
  | 0 => s
  | 1 => s.qpEnable v w
  | 2 => s.qpReset v w
  | _ => s.hostErr v Reg.ethQpCtl 0x03 w

/-- ETH_LINK_UP (R372): light and lock on a port of the personality. -/
def Dev.ethUp (s : Dev) (i : Nat) : Dev :=
  let o := s.optPort (14 + i)
  if !s.isEth (14 + i) || o.fenced || !((List.range 8).all fun w => decide ((o.wl w).lock = .locked)) || s.inReset (Reg.ethPortStatus 0) then s
  else s.setEth i { s.ethPort i with link := true, pcsLock := true }

/-! ### The commands -/

def execEthFrameRx (port : Fin 2) (f : List Byte) (s : State) : Host.Outcome State Fault Refusal := onDev (fun s => s.ethRx port f) s
def execArpRequest (port : Fin 2) (f : List Byte) (s : State) : Host.Outcome State Fault Refusal :=
  onDev (fun s => if (s.ethCfg port).isArp f then s.ethRx port f else s) s
def execNeighborSolicitation (port : Fin 2) (f : List Byte) (s : State) : Host.Outcome State Fault Refusal :=
  onDev (fun s => if (s.ethCfg port).isNs f then s.ethRx port f else s) s
def execRdmaWrite (port : Fin 2) (env : Env) (s : State) : Host.Outcome State Fault Refusal :=
  onDev (fun s => s.roceHead env port [0x06, 0x07, 0x08, 0x0A]) s
def execRdmaWriteWithImmediate (port : Fin 2) (env : Env) (s : State) : Host.Outcome State Fault Refusal :=
  onDev (fun s => s.roceHead env port [0x09, 0x0B]) s
def execRdmaReadRequest (port : Fin 2) (env : Env) (s : State) : Host.Outcome State Fault Refusal :=
  onDev (fun s => s.roceHead env port [0x0C]) s
def execCnp (port : Fin 2) (s : State) : Host.Outcome State Fault Refusal := onDev (fun s => s.roceHead {} port [0x81]) s
def execRatePeriodExpiry (port : Fin 2) (qp : Fin 4096) (s : State) : Host.Outcome State Fault Refusal :=
  onDev (fun s => s.ratePeriod port qp) s
def execQpEnable (v : View) (w : Word) (s : State) : Host.Outcome State Fault Refusal :=
  onWrite v Reg.ethQpCtl w (fun s => if bits w 7 0 = 1 then pfOnly v (fun s => s.gated v Reg.ethQpCtl w fun s => s.qpCtl v w) s else s) s
def execQpReset (v : View) (w : Word) (s : State) : Host.Outcome State Fault Refusal :=
  onWrite v Reg.ethQpCtl w (fun s => if bits w 7 0 = 2 then pfOnly v (fun s => s.gated v Reg.ethQpCtl w fun s => s.qpCtl v w) s else s) s
def execEthLinkUp (port : Fin 2) (s : State) : Host.Outcome State Fault Refusal := onDev (fun s => s.ethUp port) s

end Sys2Proof.Machine
end

