-- ==== Sys2Proof/Machine/Optics.lean ====
section
/-! DEFINITION. Optical ports and laser source modules (chapter 18): lock, fences, the module check, life and
hot replacement. -/

namespace Sys2Proof.Machine

/-! ### Fences (R357, R359, R360) -/

/-- The wavelengths of a port after `f`. -/
def OptPort.eachWl (o : OptPort) (f : Wl → Wl) : OptPort :=
  (List.range 8).foldl (fun o w => o.setWl w (f (o.wl w))) o

/-- A wavelength without lock. -/
def Wl.darken (x : Wl) : Wl := { x with lock := .dark, rxPower := 0x8000, heater := 0 }

/-- R360: a fence leaves LOCKED rings locked while the light stays; the others end in DARK (Table 18.3). -/
def Wl.fence (x : Wl) : Wl := if x.lock = .locked then x else x.darken

/-- A record of the optics class (Table 21.6). -/
def Dev.optErr (s : Dev) (p code wl ber sev : Nat) : Dev :=
  s.postErr Reg.optPortStatus 0x0E code (p + at_ 4 (wl % 8) + at_ 16 (ber % 2 ^ 16)) sev

/-- R359: a port is fenced; the first cause is recorded, and the port goes down. -/
def Dev.fencePort (s : Dev) (p : Nat) (cause : Byte) (wl : Nat := 0) (ber : Nat := 0) : Dev :=
  let o := (s.optPort p).eachWl Wl.fence
  if o.fenced then s.setOpt p o
  else
    let s := s.setOpt p { o with fenced := true, cause := cause, fences := satAdd o.fences 1 }
    let s := s.optErr p cause.toNat wl ber 2
    if s.isEth p then s.setEth (p - 14) { s.ethPort (p - 14) with link := false, pcsLock := false }
    else s.goDown p 5

/-- Light reaches a port's engine: its dark wavelengths seek (Table 18.3, Table 18.6). -/
def Dev.seekPort (s : Dev) (p : Nat) : Dev :=
  let t := s.osc
  s.setOpt p ((s.optPort p).eachWl fun x => if x.lock = .dark then { x with lock := .seek, seekFrom := t } else x)

/-- R362: LSM_EN_N is low while the interlock is closed, the module present and checked, and RELEASE not written
since; the light follows it, but for an overloaded bay (R438). -/
def Bay.drive (b : Bay) : Bay :=
  let en := b.interlock && b.present && b.checked && !b.released
  { b with enLow := en, lit := en && !b.overload }

/-- R388, R389: in DARK and after a power-fail every LSM_EN_N is high. -/
def Dev.lasersOff (s : Dev) : Bool := decide (s.rst.boot = .dark) || s.rst.powerFail

/-- A bay takes its new state: light that comes or goes starts or ends the lock of its port, and a current appears
or ends with it. -/
def Dev.putBay (s : Dev) (i : Nat) (b : Bay) : Dev :=
  let b := if s.lasersOff then { b with enLow := false, lit := false } else b.drive
  match (s.bay i).lit, b.lit with
  | false, true =>
    let (s, w) := s.draw
    (s.setBay i { b with current := BitVec.ofNat 32 w.toNat }).seekPort i
  | true, false =>
    let s := s.setBay i { b with current := 0 }
    s.setOpt i ((s.optPort i).eachWl Wl.darken)
  | _, _ => s.setBay i b

/-! ### Lock and monitoring -/

/-- LOCK_ACQUIRED. -/
def Dev.lockAcquired (s : Dev) (p w : Nat) : Dev :=
  let o := s.optPort p
  if (o.wl w).lock = .seek then s.setOpt p (o.setWl w { o.wl w with lock := .locked }) else s

/-- A wavelength enters LOST, which fences the port (Table 18.4). -/
def Dev.lockLost (s : Dev) (p w : Nat) : Dev :=
  let o := s.optPort p
  (s.setOpt p (o.setWl w { o.wl w with lock := .lost })).fencePort p 0x06 w

/-- LOCK_SEEK_TIMEOUT: 60 ms of SEEK. -/
def Dev.seekTimeout (s : Dev) (p w : Nat) : Dev :=
  let x := (s.optPort p).wl w
  if x.lock = .seek ∧ x.seekFrom + msTicks 60 ≤ s.osc then s.lockLost p w else s

/-- LOCK_LOST. -/
def Dev.lockDropped (s : Dev) (p w : Nat) : Dev :=
  if ((s.optPort p).wl w).lock = .locked then s.lockLost p w else s

/-- RX_POWER_LOW: a wavelength the port receives on. -/
def Dev.rxPowerLow (s : Dev) (p w : Nat) : Dev :=
  if ((s.optPort p).wl w).lock = .dark then s
  else (s.setOpt p { s.optPort p with rxLow := true }).fencePort p 0x07 w

/-- TX_POWER_LOW. -/
def Dev.txPowerLow (s : Dev) (p : Nat) : Dev :=
  if !(s.bay p).lit then s else (s.setOpt p { s.optPort p with txLow := true }).fencePort p 0x08

/-- BER_WINDOW_END: the wavelengths' BER in −log10 × 100, and the FEC's corrected symbols and uncorrectable codewords
of the window. A larger BER is a smaller number. -/
def Dev.berWindow (s : Dev) (p : Nat) (bers : List Nat) (corr uncorr : Nat) : Dev :=
  let l := (List.range 8).zip bers |>.map fun x => (x.1, min x.2 0xFFFF)
  let o := s.optPort p
  let o := l.foldl (fun o x => o.setWl x.1 { o.wl x.1 with berExp := BitVec.ofNat 16 x.2 }) o
  let t := s.reg Reg.optThresh
  let bad := l.find? fun x => decide (x.2 < bits t 31 16)
  let o := { o with berBad := bad.isSome, fecCorr := satAdd o.fecCorr corr, fecUncorr := satAdd o.fecUncorr uncorr }
  let s := s.setOpt p o
  match bad, l.find? (fun x => decide (x.2 < bits t 15 0)) with
  | some x, _ => s.fencePort p 0x09 x.1 x.2
  | none, some x => s.optErr p 0x10 x.1 x.2 1
  | none, none => s

/-! ### OPT_PORT_CTL -/

/-- PORT_FENCE. -/
def Dev.softFence (s : Dev) (p : Nat) : Dev := s.fencePort p 0x01

/-- R359: whether a cause of Table 18.4 persists on a port. Received power and laser tap power are measured anew, and what
the measurement finds is open. -/
def Dev.causePersists (s : Dev) (p : Nat) : Dev × Bool :=
  let b := s.bay p
  let o := s.optPort p
  if !b.present || !b.interlock || b.refused || b.released || b.overload || o.berBad then (s, true)
  else if o.rxLow || o.txLow then
    let (s, w) := s.draw
    (s, bit w 0)
  else (s, false)

/-- PORT_UNFENCE. -/
def Dev.unfence (s : Dev) (v : View) (p : Nat) : Dev :=
  if !(s.optPort p).fenced then s
  else
    match s.causePersists p with
    | (s, true) => s.hostErr v Reg.optPortCtl 0x02 2
    | (s, false) =>
      let s := s.setOpt p { s.optPort p with fenced := false, cause := 0, rxLow := false, txLow := false }
      if (s.bay p).lit then s.seekPort p else s

/-! ### Laser source modules (R363 to R367) -/

/-- LSM_LIFE in weighted seconds. -/
def Bay.lifeSecs (b : Bay) : Nat := b.life / 1000000

/-- LIFE_WARN (Table 18.11). -/
def Bay.lifeWarn (b : Bay) : Nat :=
  let l := b.lifeSecs * 100
  let r := b.rated.toNat
  if !b.present then 0 else if 100 * r ≤ l then 3 else if 95 * r ≤ l then 2 else if 80 * r ≤ l then 1 else 0

/-- R343: the key of the laser challenges. -/
def challengeKey (f : Flash) : BitVec 128 :=
  BitVec.ofNat 128 (leAt (shake256 32 (f.idPriv ++ "lsm-challenge".toList.map fun c => BitVec.ofNat 8 c.toNat)) 0 16)

/-- R364: the 32-byte challenge nonce of a bay. -/
def Dev.challengeOf (s : Dev) (f : Flash) (i : Nat) : BitVec 256 :=
  let ctr := BitVec.ofNat 64 (s.rst.startCount.toNat * 2 ^ 32 + (s.bay i).challenges.toNat)
  let lo := arx10 (challengeKey f) (BitVec.ofNat 64 (2 ^ 63 + 0x20000 + i)) ctr
  let hi := arx10 (challengeKey f) (BitVec.ofNat 64 (2 ^ 63 + 0x20010 + i)) ctr
  BitVec.ofNat 256 (lo.toNat + at_ 128 hi.toNat)

/-- A check that is due starts once the interlock is closed, the bay powered and the management core there. -/
def Dev.checkStart (s : Dev) (f : Flash) (i : Nat) : Dev :=
  let b := s.bay i
  if !b.present || !b.interlock || b.checked || b.refused || b.checking || b.overload || !s.rst.coreUp || !s.rst.started then s
  else
    let n := s.challengeOf f i
    (s.setBay i { b with checking := true, challenge := n, challenges := b.challenges + 1 }).emit (.challenge i n)

def Dev.checkStarts (s : Dev) (f : Flash) : Dev := forUpto 16 (fun s i => s.checkStart f i) s

/-- LSM_INSERT: the EEPROM is read, and the check begins. -/
def Dev.lsmInsert (s : Dev) (f : Flash) (i : Nat) (e : List Byte) : Dev :=
  let b := s.bay i
  if b.present then s
  else
    let serial := BitVec.ofNat 128 (leAt e 0 16)
    let kept := match f.life.find? fun r => r.1 == serial with
      | some r => r.2.toNat
      | none => 0
    let l := leAt e 32 8
    let b : Bay := { b with
      present := true, checked := false, refused := false, checking := false, overload := false
      serial := serial
      iNom := BitVec.ofNat 32 (leAt e 16 4)
      iMax := BitVec.ofNat 32 (leAt e 20 4)
      rated := BitVec.ofNat 64 (leAt e 24 8)
      eepromLife := BitVec.ofNat 64 l
      life := max l kept * 1000000
      insertions := satAdd b.insertions 1
      cert := some e }
    (s.putBay i b).checkStart f i

/-- R364: whether a module passes: its certificate, its answer to the challenge, and its currents. -/
def moduleOk (f : Flash) (b : Bay) (answer : List Byte) : Bool :=
  let e := b.cert.getD []
  let pub := slice e 48 1793
  digest256 Config.lsmIssuingKey == tget (fun _ => 0) f.digests 9
    && Config.falconVerify Config.lsmIssuingKey (slice e 0 32 ++ pub) (slice e 1841 1280)
    && Config.falconVerify pub (leBytes 32 b.challenge.toNat) answer
    && b.iNom != 0 && b.iMax != 0 && decide (b.iNom.toNat ≤ b.iMax.toNat)

/-- R364, R368: the port of a refused module is fenced with cause REFUSED, one fenced before for its absence or its release
too (DEDUCED). -/
def Dev.refusePort (s : Dev) (i : Nat) : Dev :=
  let s := s.fencePort i 0x04
  s.setOpt i { s.optPort i with cause := 0x04 }

/-- LSM_CHECK_DONE. -/
def Dev.checkEnd (s : Dev) (f : Flash) (i : Nat) (answer : List Byte) : Dev :=
  let b := s.bay i
  if !b.checking || !s.rst.coreUp then s
  else if moduleOk f b answer then s.putBay i { b with checking := false, checked := true, released := false }
  else (s.putBay i { b with checking := false, refused := true }).refusePort i

/-- LSM_REMOVE: a life write owed is abandoned, and the device's own count kept for the flash record (R367). -/
def Dev.lsmRemove (s : Dev) (i : Nat) : Dev :=
  let b := s.bay i
  if !b.present then s
  else
    let s : Dev := { s with lives := (b.serial, BitVec.ofNat 64 b.lifeSecs) :: s.lives.filter fun x => x.1 != b.serial }
    (s.putBay i { b with
      present := false, checked := false, refused := false, checking := false, overload := false,
      cert := none }).fencePort i 0x02

/-- LSM_INTERLOCK_OPEN. -/
def Dev.interlockOpen (s : Dev) (i : Nat) : Dev :=
  let b := s.bay i
  if !b.interlock then s
  else (s.putBay i { b with interlock := false, checking := false }).fencePort i 0x03

/-- LSM_INTERLOCK_CLOSE. -/
def Dev.interlockClose (s : Dev) (f : Flash) (i : Nat) : Dev :=
  (s.putBay i { s.bay i with interlock := true }).checkStart f i

/-- LSM_RELEASE. -/
def Dev.lsmRelease (s : Dev) (i : Nat) : Dev := (s.putBay i { s.bay i with released := true }).fencePort i 0x05

/-- LSM_OVERLOAD: the bay's supplies go, and its port is fenced with TX_POWER. -/
def Dev.lsmOverload (s : Dev) (i : Nat) : Dev :=
  if !(s.bay i).present then s else (s.putBay i { s.bay i with overload := true, checking := false }).fencePort i 0x08

/-- Records of the laser class for the fractions of rated life reached between two levels (R366). -/
def Dev.lifeErrs (s : Dev) (i frm upto : Nat) : Dev :=
  [1, 2, 3].foldl (fun s k =>
    if frm < k && k ≤ upto then s.postErr Reg.lsmBayStatus 0x0F k (i + at_ 64 (s.bay i).lifeSecs) (if k = 3 then 2 else 1) else s) s

/-- LSM_LIFE_TICK: (I / I_NOM)² weighted seconds, kept in millionths. -/
def Dev.lifeTick (s : Dev) (i : Nat) (current : Nat) : Dev :=
  let b := s.bay i
  if !b.lit then s
  else
    let c := { b with
      current := BitVec.ofNat 32 current
      life := b.life + 1000000 * current * current / (b.iNom.toNat * b.iNom.toNat) }
    (s.setBay i c).lifeErrs i b.lifeWarn c.lifeWarn

/-- LSM_EEPROM_LIFE_WRITE. -/
def Dev.eepromWrite (s : Dev) (i : Nat) : Dev :=
  let b := s.bay i
  if !b.present || b.overload then s
  else s.setBay i { b with eepromLife := BitVec.ofNat 64 b.lifeSecs }

/-- A flash write is asked of the flash write engine (R401): its units and the validity unit. -/
def Dev.addJob (s : Dev) (w : FlashWhat) (units : Nat) : Dev :=
  { s with rst := { s.rst with jobs := s.rst.jobs ++ [{ what := w, left := units + 1 }] } }

/-- The life records a flash write stores: the modules in the bays and those removed, over the records held. -/
def Dev.lifeRecords (s : Dev) (f : Flash) : List (BitVec 128 × Word) :=
  let bays := ((List.range 16).filter fun i => (s.bay i).present).map fun i =>
    ((s.bay i).serial, BitVec.ofNat 64 (s.bay i).lifeSecs)
  let new := bays ++ s.lives.filter fun x => !bays.any fun y => y.1 == x.1
  new ++ f.life.filter fun x => !new.any fun y => y.1 == x.1

/-- LSM_FLASH_LIFE_WRITE. -/
def Dev.lifeWrite (s : Dev) (f : Flash) : Dev :=
  if !s.rst.coreUp then s
  else
    let r := s.lifeRecords f
    s.addJob (.life r) (ceilDiv (24 * r.length) 4096)

/-! ### The commands -/

def execLockAcquired (port : Fin 16) (wl : Fin 8) (s : State) : Host.Outcome State Fault Refusal := onDev (fun s => s.lockAcquired port wl) s
def execLockSeekTimeout (port : Fin 16) (wl : Fin 8) (s : State) : Host.Outcome State Fault Refusal := onDev (fun s => s.seekTimeout port wl) s
def execLockLost (port : Fin 16) (wl : Fin 8) (s : State) : Host.Outcome State Fault Refusal := onDev (fun s => s.lockDropped port wl) s
def execRxPowerLow (port : Fin 16) (wl : Fin 8) (s : State) : Host.Outcome State Fault Refusal := onDev (fun s => s.rxPowerLow port wl) s
def execTxPowerLow (port : Fin 16) (s : State) : Host.Outcome State Fault Refusal := onDev (fun s => s.txPowerLow port) s
def execBerWindowEnd (port : Fin 16) (bers : List Nat) (corr uncorr : Nat) (s : State) : Host.Outcome State Fault Refusal :=
  onDev (fun s => s.berWindow port bers corr uncorr) s
def execPortFence (v : View) (port : Fin 16) (s : State) : Host.Outcome State Fault Refusal :=
  onWrite v Reg.optPortCtl 1 (pfOnly v fun s => s.gated v Reg.optPortCtl 1 fun s => s.softFence port) s
def execPortUnfence (v : View) (port : Fin 16) (s : State) : Host.Outcome State Fault Refusal :=
  onWrite v Reg.optPortCtl 2 (pfOnly v fun s => s.gated v Reg.optPortCtl 2 fun s => s.unfence v port) s
def execLsmInsert (bay : Fin 16) (eeprom : List Byte) (s : State) : Host.Outcome State Fault Refusal :=
  onDevF (fun f s => s.lsmInsert f bay eeprom) s
def execLsmCheckDone (bay : Fin 16) (answer : List Byte) (s : State) : Host.Outcome State Fault Refusal :=
  onDevF (fun f s => s.checkEnd f bay answer) s
def execLsmRemove (bay : Fin 16) (s : State) : Host.Outcome State Fault Refusal := onDev (fun s => s.lsmRemove bay) s
def execLsmInterlockOpen (bay : Fin 16) (s : State) : Host.Outcome State Fault Refusal := onDev (fun s => s.interlockOpen bay) s
def execLsmInterlockClose (bay : Fin 16) (s : State) : Host.Outcome State Fault Refusal := onDevF (fun f s => s.interlockClose f bay) s
def execLsmRelease (v : View) (bay : Fin 16) (s : State) : Host.Outcome State Fault Refusal := onWrite v Reg.lsmCtl 1 (pfOnly v fun s => s.lsmRelease bay) s
def execLsmLifeTick (bay : Fin 16) (current : BitVec 32) (s : State) : Host.Outcome State Fault Refusal :=
  onDev (fun s => s.lifeTick bay current.toNat) s
def execLsmEepromLifeWrite (bay : Fin 16) (s : State) : Host.Outcome State Fault Refusal := onDev (fun s => s.eepromWrite bay) s
def execLsmFlashLifeWrite (s : State) : Host.Outcome State Fault Refusal := onDevF (fun f s => s.lifeWrite f) s
def execLsmOverload (bay : Fin 16) (s : State) : Host.Outcome State Fault Refusal := onDev (fun s => s.lsmOverload bay) s

end Sys2Proof.Machine
end

