-- ==== Sys2Proof/Machine/Mseg.lean ====
section
/-! DEFINITION. The management MAC (R380 to R382), and Rumos requests, their replies, HELLO and the rack key (R383 to R386). -/

namespace Sys2Proof.Machine

/-! ### The MAC: receive (R381, R382) -/

/-- An address of the device, the most significant byte first. -/
def Dev.msegMac (s : Dev) : List Byte := beBytes 6 s.mseg.mac.toNat

/-- A frame sent to a group address or to the device. -/
def Dev.msegFor (s : Dev) (f : List Byte) : Bool := (leAt f 0 1).testBit 0 || slice f 0 6 == s.msegMac

def isPause (f : List Byte) : Bool := beAt f 12 2 == 0x8808 && beAt f 14 2 == 1

def goodFcs (f : List Byte) : Bool := 64 ≤ f.length && leAt f (f.length - 4) 4 == crc32 (f.take (f.length - 4))

/-- A PAUSE frame's quanta are slot times of 512 bit times. -/
def Dev.pauseRx (s : Dev) (f : List Byte) : Dev :=
  let s := s.bump (Reg.msegCounts 7)
  if bit (s.reg Reg.msegCfg) 0 then s
  else
    let q := beAt f 16 2
    { s with mseg := { s.mseg with pausedUntil := if q = 0 then none else some (s.osc + 6400 * q) } }

def Dev.msegStored (s : Dev) : Nat := (s.mseg.rx.map (·.1.length)).sum

/-- A frame goes to the receive buffer, or is dropped whole where it does not fit. -/
def Dev.msegStore (s : Dev) (f : List Byte) (trunc : Bool) : Dev :=
  if 65536 < s.msegStored + f.length then s.bump (Reg.msegCounts 2)
  else
    let s := if trunc then s.bump (Reg.msegCounts 3) else s
    ({ s with mseg := { s.mseg with rx := s.mseg.rx ++ [(f, trunc)] } } : Dev).bump (Reg.msegCounts 0)

def Dev.msegRx (s : Dev) (f : List Byte) : Dev :=
  if s.rst.released < 4 || !s.msegFor f then s
  else if 2048 < f.length then s.msegStore (f.take 2048) true
  else if !goodFcs f then s.bump (Reg.msegCounts 4)
  else if isPause f then s.pauseRx f
  else s.msegStore f false

/-- PAUSE_END. -/
def Dev.pauseEnds (s : Dev) : Dev :=
  if s.mseg.pausedUntil.any (· ≤ s.osc) then { s with mseg := { s.mseg with pausedUntil := none } } else s

/-! ### The MAC: transmit (R380) -/

/-- PLCA is used. -/
def Dev.plcaOn (s : Dev) : Bool := bit (s.reg Reg.msegCfg) 1 && bits (s.reg Reg.msegCfg) 15 8 != 0xFF

/-- A new frame may start. -/
def Dev.msegMay (s : Dev) : Bool :=
  decide (4 ≤ s.rst.released) && !s.mseg.tx.isEmpty && s.mseg.pausedUntil.isNone &&
    (if s.plcaOn then decide (0 < s.mseg.sending) else s.mseg.backoffUntil.isNone)

/-- The frame at the head is sent where the MAC may start it. -/
def Dev.msegSend (s : Dev) : Dev :=
  match s.mseg.tx with
  | [] => s
  | f :: rest =>
    if !s.msegMay then s
    else
      let s : Dev := { s with mseg := { s.mseg with
        tx := rest, collisions := 0, attempts := s.mseg.attempts + 1,
        sending := if rest.isEmpty then 0 else s.mseg.sending - 1 } }
      (s.bump (Reg.msegCounts 1)).emit (.mseg f)

/-- MSEG_COLLISION: the transmission of the frame at the head collides. -/
def Dev.msegCollide (s : Dev) : Dev :=
  if !s.msegMay then s
  else
    let n := s.mseg.collisions + 1
    let a := s.mseg.attempts + 1
    let s := s.bump (Reg.msegCounts 5)
    if 16 ≤ n then
      ({ s with mseg := { s.mseg with
        tx := s.mseg.tx.drop 1, collisions := 0, attempts := a, sending := 0 } } : Dev).bump (Reg.msegCounts 6)
    else if s.plcaOn then { s with mseg := { s.mseg with collisions := n, attempts := a, sending := 0 } }
    else
      let r := (arx10 (s.ptnSeed 0) (BitVec.ofNat 64 (2 ^ 63 + 0x10000)) a).toNat % 2 ^ 32
      let j := r % 2 ^ (min n 10)
      { s with mseg := { s.mseg with collisions := n, attempts := a, backoffUntil := some (s.osc + 6400 * j) } }

/-- BACKOFF_EXPIRY. -/
def Dev.backoffEnds (s : Dev) : Dev :=
  if s.mseg.backoffUntil.any (· ≤ s.osc) then ({ s with mseg := { s.mseg with backoffUntil := none } } : Dev).msegSend else s

/-- PLCA_TRANSMIT_OPPORTUNITY: one frame and BURST more may be sent; the first starts now. With nothing to start the
opportunity passes. -/
def Dev.plcaOpportunity (s : Dev) : Dev :=
  if !s.plcaOn || s.rst.released < 4 then s
  else { s with mseg := { s.mseg with
    plcaActive := true
    sending := if s.mseg.tx.isEmpty || s.mseg.pausedUntil.isSome then 0 else 1 + bits (s.reg Reg.msegCfg) 39 32 } }

/-! ### Rumos requests (R383) -/

def rumosOf (f : List Byte) : Rumos :=
  { src := slice f 6 6, type := leAt f 15 1, seq := leAt f 18 8, target := slice f 26 4, body := slice f 38 (leAt f 30 2) }

def rumosEther (f : List Byte) : Bool := beAt f 12 2 == 0x88B5

/-- The tag under the rack key. -/
def Dev.rumosTag (s : Dev) (src : List Byte) (seq : Nat) (msg : List Byte) : List Byte :=
  gcmTag (aesExpand ((leBytes 32 s.mseg.rackKey.toNat).map (·.toNat))) (src ++ leBytes 6 seq)
    (leBytes 8 s.rst.startCount.toNat ++ msg) []

/-- The requests whose tags are zeros and not checked: HELLO, and KEY_SET in lifecycle MANUFACTURE. -/
def tagFree (fl : Flash) (type : Nat) : Bool := type == 1 || (type == 8 && fl.state == 1)

def Dev.rumosSrc (s : Dev) (src : List Byte) : Option RumosSrc := s.mseg.sources.find? fun x => x.mac == BitVec.ofNat 48 (ofBe src)

/-- What becomes of a frame at the head of the receive buffer. -/
inductive RumosIn where
  /-- dropped, counted under the count given where there is one -/
  | drop (count : Option Nat)
  /-- a repeated request, answered from the cached reply -/
  | again (reply : List Byte)
  /-- a request to carry out -/
  | request (r : Rumos)
  deriving DecidableEq, Repr

/-- The checks on a header. -/
def Dev.rumosHead (s : Dev) (f : List Byte) : Bool :=
  let target := leAt f 26 4
  leAt f 14 1 == 1 && (target == s.capo.node.toNat || (target == 0xFFFFFFFF && leAt f 15 1 == 1))
    && decide (38 + leAt f 30 2 + 16 + 4 ≤ f.length)

def Dev.rumosAuth (s : Dev) (fl : Flash) (f : List Byte) : Bool :=
  let n := leAt f 30 2
  tagFree fl (leAt f 15 1) || (s.mseg.keyed && slice f (38 + n) 16 == s.rumosTag (slice f 6 6) (leAt f 18 8) (slice f 14 (24 + n)))

/-- R383's checks in order. Frames that are no Rumos requests reach no one. -/
def Dev.rumosIn (s : Dev) (fl : Flash) (f : List Byte) (trunc : Bool) : RumosIn :=
  let r := rumosOf f
  if !rumosEther f || 0x80 ≤ r.type then .drop none
  else if trunc then .drop none
  else if !s.rumosHead f then .drop (some 10)
  else if !s.rst.startWritten && r.type != 1 then .drop none
  else if !s.rumosAuth fl f then .drop (some 8)
  else if r.type == 1 then .request r
  else match s.rumosSrc r.src with
    | none => if r.seq ≤ s.mseg.floor.toNat then .drop (some 9) else .request r
    | some x =>
      if r.seq < x.seq.toNat then .drop (some 9)
      else if r.seq = x.seq.toNat then .again x.reply
      else .request r

/-- A source becomes the most recently used, with its last accepted SEQ; to track a new one, the least recently used leaves and
raises FLOOR. -/
def Dev.track (s : Dev) (r : Rumos) (reply : List Byte) : Dev :=
  let m := BitVec.ofNat 48 (ofBe r.src)
  let others := s.mseg.sources.filter fun x => x.mac != m
  let out := others.take (others.length - 31)
  { s with mseg := { s.mseg with
    sources := others.drop (others.length - 31) ++ [{ mac := m, seq := BitVec.ofNat 64 r.seq, reply := reply }]
    floor := out.foldl (fun a x => if a.toNat < x.seq.toNat then x.seq else a) s.mseg.floor } }

/-- A reply frame. -/
def Dev.rumosReply (s : Dev) (fl : Flash) (r : Rumos) (status : Nat) (body : List Byte) : List Byte :=
  let msg := [1, BitVec.ofNat 8 (0x80 + r.type), BitVec.ofNat 8 status, 0] ++ leBytes 8 r.seq ++ r.target ++ leBytes 2 body.length ++ zeros 6 ++ body
  let tag := if tagFree fl r.type then zeros 16 else s.rumosTag s.msegMac r.seq msg
  withFcs (r.src ++ s.msegMac ++ beBytes 2 0x88B5 ++ msg ++ tag)

def Dev.msegQueue (s : Dev) (f : List Byte) : Dev := { s with mseg := { s.mseg with tx := s.mseg.tx ++ [f] } }

/-- A request is answered, and the reply kept. -/
def Dev.answer (s : Dev) (fl : Flash) (r : Rumos) (status : Nat) (body : List Byte) : Dev :=
  let f := s.rumosReply fl r status body
  (if r.type == 1 then s else s.track r f).msegQueue f

def dropHead (s : Dev) : Dev := { s with mseg := { s.mseg with rx := s.mseg.rx.drop 1 } }

/-- The frames ahead of the first request to carry out are dealt with; a reserved TYPE is answered with FORMAT. -/
def Dev.rumosDrain : Nat → Dev → Flash → Dev
  | 0, s, _ => s
  | n + 1, s, fl =>
    match s.mseg.rx with
    | [] => s
    | (f, trunc) :: _ =>
      match s.rumosIn fl f trunc with
      | .drop c => Dev.rumosDrain n (dropHead (match c with | some k => s.bump (Reg.msegCounts k) | none => s)) fl
      | .again reply => Dev.rumosDrain n (if reply.isEmpty then dropHead s else (dropHead s).msegQueue reply) fl
      | .request r =>
        if 1 ≤ r.type ∧ r.type ≤ 8 then s else Dev.rumosDrain n ((dropHead s).answer fl r 3 []) fl

/-- The request of a TYPE at the head of the buffer is carried out by `f`, once those ahead of it that are not to be carried
out are gone; where the first to be carried out is of another TYPE, it stays for that TYPE's command. -/
def Dev.rumosTake (s : Dev) (fl : Flash) (type : Nat) (f : Dev → Rumos → Dev) : Dev :=
  if !s.rst.coreUp then s
  else
    let s := s.rumosDrain s.mseg.rx.length fl
    match s.mseg.rx with
    | [] => s
    | (b, _) :: _ => if (rumosOf b).type == type then f (dropHead s) (rumosOf b) else s

/-! ### HELLO -/

/-- DEV_ID (Table 1.12). -/
def devId (f : Flash) : Nat := 0x10001610 + at_ 16 f.stepping.toNat

def Dev.helloBody (s : Dev) (f : Flash) : List Byte :=
  leBytes 4 s.capo.node.toNat ++ leBytes 4 (devId f) ++ leBytes 1 f.state.toNat ++ leBytes 1 (b2n s.mseg.keyed) ++ zeros 6
    ++ leBytes 8 s.det.fingerprint.toNat ++ leBytes 8 s.rst.startCount.toNat ++ leBytes 8 s.mseg.floor.toNat
    ++ leBytes 32 (digest256 f.idPub).toNat ++ leBytes 6 s.mseg.mac.toNat ++ zeros 2

def Dev.helloReq (s : Dev) (f : Flash) (r : Rumos) : Dev := if r.body.isEmpty then s.answer f r 0 (s.helloBody f) else s.answer f r 3 []

/-! ### The rack key (R385) -/

/-- KEY_SET waits for its flash write to begin: BUSY where the hold-up check refuses it, and where another new key waits. -/
def Dev.keySetReq (s : Dev) (f : Flash) (r : Rumos) : Dev :=
  if r.body.length ≠ 32 then s.answer f r 3 []
  else if s.mseg.keyPend.isSome then s.answer f r 2 []
  else
    let key := BitVec.ofNat 256 (ofLe r.body)
    ({ s.track r [] with mseg := { (s.track r []).mseg with keyPend := some key, keyReq := some r } } : Dev).addJob (.rackKey key) 1

/-- The answer to a KEY_SET whose write began, or was refused; it is kept where the request is still its source's last. -/
def Dev.keyAnswer (s : Dev) (f : Flash) (ok : Bool) : Dev :=
  match s.mseg.keyReq with
  | none => s
  | some r =>
    let b := s.rumosReply f r (if ok then 0 else 2) []
    { s with mseg := { s.mseg with
      keyReq := none
      tx := s.mseg.tx ++ [b]
      sources := s.mseg.sources.map fun x => if x.mac == BitVec.ofNat 48 (ofBe r.src) && x.seq.toNat == r.seq then { x with reply := b } else x } }

/-- MSEG_KEY: the physical function's alone. The write of word 3 stores the key. -/
def Dev.msegKeyWrite (s : Dev) (v : View) (word : Nat) (w : Word) : Dev :=
  match v with
  | .pf =>
    let t := tset (fun _ => 0) s.mseg.keyWords word w
    let s : Dev := { s with mseg := { s.mseg with keyWords := t } }
    if word ≠ 3 then s
    else
      let key := BitVec.ofNat 256 ((List.range 4).foldl (fun a i => a + at_ (64 * i) (tget (fun _ => 0) t i).toNat) 0)
      ({ s with mseg := { s.mseg with keyPend := some key } } : Dev).addJob (.rackKey key) 1
  | _ => s.hostErr v (Reg.msegKey word) 0x05 w

/-! ### The commands -/

def execMsegFrameRx (f : List Byte) (s : State) : Host.Outcome State Fault Refusal := onDev (fun s => s.msegRx f) s
def execPause (f : List Byte) (s : State) : Host.Outcome State Fault Refusal := onDev (fun s => if isPause f then s.msegRx f else s) s
def execPauseEnd (s : State) : Host.Outcome State Fault Refusal := onDev Dev.pauseEnds s
def execMsegCollision (s : State) : Host.Outcome State Fault Refusal := onDev Dev.msegCollide s
def execBackoffExpiry (s : State) : Host.Outcome State Fault Refusal := onDev Dev.backoffEnds s
def execPlcaTransmitOpportunity (s : State) : Host.Outcome State Fault Refusal := onDev (fun s => s.plcaOpportunity.msegSend) s
def execHello (s : State) : Host.Outcome State Fault Refusal := onDevF (fun f s => s.rumosTake f 1 fun s r => s.helloReq f r) s
def execKeySet (s : State) : Host.Outcome State Fault Refusal := onDevF (fun f s => s.rumosTake f 8 fun s r => s.keySetReq f r) s
def execMsegKeyWrite (v : View) (word : Fin 4) (w : Word) (s : State) : Host.Outcome State Fault Refusal :=
  onWrite v (Reg.msegKey word) w (fun s => s.msegKeyWrite v word.val w) s

end Sys2Proof.Machine
end

