-- ==== Sys2Proof/Machine/RingCmds.lean ====
section
/-! DEFINITION. The commands of work rings, completion rings and event counters (chapter 4). -/

namespace Sys2Proof.Machine

/-- The ring a doorbell names: the page is the partition, the slot the local ring (R28, R186). -/
def doorbellRing (d : Doorbell) : Nat :=
  match d.tray, d.view with
  | none, .vf n => n.val * 256 + d.off.toNat % 2 ^ 16 / 256
  | _, _ => d.off.toNat / 256

/-- DOORBELL (R28, R82, R193, R329): a write of 4 or 8 bytes to a ring's slot. One for a ring outside its partition is
discarded, and counted where it came over a tray port, as is one for a partition the tray port does not serve. -/
def Dev.doorbell (s : Dev) (d : Doorbell) : Dev :=
  let r := doorbellRing d
  match d.tray with
  | none => if (d.size == 4 || d.size == 8) && s.ringHeld r then s.ringDoorbell r 0 else s
  | some k =>
    if (d.size == 4 || d.size == 8) && s.ringHeld r && bit (s.st (Reg.trayPortPtn k)) (ringPart r) then
      s.ringDoorbell r (k + 1)
    else s.bump (Reg.trayBadDb k)

def execDoorbell (d : Doorbell) (s : State) : Host.Outcome State Fault Refusal :=
  onDev (fun s => if d.read then s.emit (.value 0) else if s.inReset Reg.ringSel then s else s.doorbell d) s

/-- RING_SCAN (R83): a scan that is due runs. -/
def execRingScan (ring : Fin 16384) (env : Env) (s : State) : Host.Outcome State Fault Refusal :=
  onDev (fun s => s.scan env ring) s

/-- SCAN_RESUME (R87): a scan that waits for cache space goes on. -/
def execScanResume (ring : Fin 16384) (env : Env) (s : State) : Host.Outcome State Fault Refusal :=
  onDev (fun s => s.scan env ring) s

/-- TORN_REREAD (R84). -/
def execTornReread (ring : Fin 16384) (env : Env) (s : State) : Host.Outcome State Fault Refusal :=
  onDev (fun s => s.rereadTorn env ring) s

/-- A write of RING_INVAL (R88): INVAL, then RESUME. -/
def Dev.writeInval (s : Dev) (v : View) (w : Word) : Dev :=
  if s.selKind v then s
  else if bit w 0 then s.ringInval (s.selRing v) (bit w 1)
  else if bit w 1 then s.ringResumeCmd (s.selRing v)
  else s

/-- INVAL (R88): a write of RING_INVAL with INVAL = 1. -/
def execInval (v : View) (w : Word) (s : State) : Host.Outcome State Fault Refusal :=
  onWrite v Reg.ringInval w (fun s => if bit w 0 then s.owned v Reg.ringInval w fun s => s.writeInval v w else s) s

/-- RING_RESUME (R88): a write of RING_INVAL with RESUME = 1 and INVAL = 0. -/
def execRingResume (v : View) (w : Word) (s : State) : Host.Outcome State Fault Refusal :=
  onWrite v Reg.ringInval w (fun s => if bit w 0 then s else s.owned v Reg.ringInval w fun s => s.writeInval v w) s

/-- RING_DISCARD_DONE (R88, R99). -/
def execRingDiscardDone (ring : Fin 16384) (s : State) : Host.Outcome State Fault Refusal :=
  onDev (fun s => s.discardDone ring) s

/-- RING_ENABLE (R99): RING_CTL ENABLE of a work ring. -/
def execRingEnable (v : View) (w : Word) (s : State) : Host.Outcome State Fault Refusal :=
  onWrite v Reg.ringCtl w (fun s => if bits w 7 0 = 1 && !s.selKind v then s.owned v Reg.ringCtl w fun s => s.enableRing (s.selRing v) else s) s

/-- RING_DISABLE (R99): RING_CTL DISABLE of a work ring. -/
def execRingDisable (v : View) (w : Word) (s : State) : Host.Outcome State Fault Refusal :=
  onWrite v Reg.ringCtl w (fun s => if bits w 7 0 = 2 && !s.selKind v then s.owned v Reg.ringCtl w fun s => s.disableRing (s.selRing v) else s) s

/-- CQ_ENABLE (R100): RING_CTL ENABLE of a completion ring. -/
def execCqEnable (v : View) (w : Word) (s : State) : Host.Outcome State Fault Refusal :=
  onWrite v Reg.ringCtl w (fun s => if bits w 7 0 = 1 && s.selKind v then s.owned v Reg.ringCtl w fun s => s.enableCq (s.selRing v) else s) s

/-- CQ_DISABLE (R100): RING_CTL DISABLE of a completion ring. -/
def execCqDisable (v : View) (w : Word) (s : State) : Host.Outcome State Fault Refusal :=
  onWrite v Reg.ringCtl w (fun s => if bits w 7 0 = 2 && s.selKind v then s.owned v Reg.ringCtl w fun s => s.disableCq v (s.selRing v) w else s) s

/-- RING_CTR_WRITE (R93, Table 4.15). -/
def execRingCtrWrite (v : View) (w : Word) (s : State) : Host.Outcome State Fault Refusal :=
  onWrite v Reg.ringCtr w (fun s => s.owned v Reg.ringCtr w fun s => s.writeCtr v w) s

/-- CQ_HEAD_READ (R97). -/
def execCqHeadRead (cq : Fin 16384) (env : Env) (s : State) : Host.Outcome State Fault Refusal :=
  onDev (fun s => s.cqHeadDue env cq) s

/-- CQ_HEAD_REREAD (R97). -/
def execCqHeadReread (cq : Fin 16384) (env : Env) (s : State) : Host.Outcome State Fault Refusal :=
  onDev (fun s => s.cqHeadAgain env cq) s

/-! ### Entries that end by themselves (R166, R199) -/

/-- R166: whether a command or packet other than the entry holds a checked range of a key. -/
def Dev.keyHeld (s : Dev) (o : Op) (k : BitVec 32) : Bool := s.keyUsed (s.ops.filter fun p => !p.is o.ring o.entry.pos) k

/-- R173: a key is gone, and with it every translation cache entry of it. -/
def Dev.keyGone (s : Dev) (k : BitVec 32) : Dev :=
  let s := s.dropKeyXlat k
  { s with xlt := { s.xlt with past := s.xlt.past.filter (·.1 != k) } }

/-- The tray ports a FENCE must reach. -/
def Op.fencePorts (o : Op) : List Nat := (List.range 4).filter fun k => o.reach.getLsbD (1 + k)

/-- R199: a FENCE with SCOPE SYSTEM, every earlier entry complete: it flushes host memory and sends FENCE_REQ on the
tray ports its writes reached. -/
def Dev.fenceStart (s : Dev) (o : Op) : Dev :=
  let host := o.reach.getLsbD 0
  let hostUp := host && s.reach o.part .host
  let ports := o.fencePorts
  let up := ports.filter fun k => s.reach o.part (.tray k)
  let bad : Option (Byte × Word) :=
    if host && !hostUp then some (BitVec.ofNat 8 stHostLost, BitVec.ofNat 64 s.hst.epoch.toNat)
    else if up.length < ports.length then some (BitVec.ofNat 8 stTarget, 0) else none
  let s := s.setOp o.ring o.entry.pos fun o => { o with
    started := true, respFault := bad, fenceHost := hostUp, fenceTray := BitVec.ofNat 4 ((up.map fun k => 2 ^ k).sum) }
  let s :=
    if hostUp then
      let (s, id) := s.flushStart o.part
      s.setOp o.ring o.entry.pos fun o => { o with flushId := id }
    else s
  up.foldl (fun s k => s.trayRequest k { msg := { hdr := trayHdr 0x08 0 1 0 0 }, op := some (o.ring, o.entry.pos) }) s

/-- A FENCE ends once every memory it had to reach has answered. -/
def Dev.fenceEnd (s : Dev) (ring : Nat) (pos : BitVec 32) : Dev :=
  match s.op? ring pos with
  | some o =>
    if o.entry.opcode == 0x20 && o.started && !o.fenceHost && o.fenceTray == 0 then
      match o.respFault with
      | some (st, d) => s.finish ring pos { status := st, detail := d }
      | none => s.finish ring pos {}
    else s
  | none => s

/-- The last thing a FENCE or KEY_INVALIDATE waits for. -/
def Dev.wake (s : Dev) (ring : Nat) (pos : BitVec 32) : Dev :=
  match s.op? ring pos with
  | some o =>
    if o.fin.isSome then s
    else if o.entry.opcode == 0x20 && !o.started && s.orderMet o then (s.fenceStart o).fenceEnd ring pos
    else if o.entry.opcode == 0x29 && !s.keyHeld o (BitVec.ofNat 32 (o.entry.f 159 128)) then
      (s.keyGone (BitVec.ofNat 32 (o.entry.f 159 128))).finish ring pos {}
    else s
  | none => s

/-- R247: zeros over what an ended operation had written. A range that waits for its translation stays; one that can no
longer be written is given up. -/
def Dev.zeroOut (s : Dev) (env : Env) (ring : Nat) (pos : BitVec 32) : Dev :=
  match s.op? ring pos with
  | none => s
  | some o =>
    let (s, rest) := o.zero.foldl (fun (q : Dev × List (BitVec 32 × Nat × Nat)) w =>
      match q.1.regionWrite env w.1 w.2.1 (zeros w.2.2) (opWho ring pos) with
      | (s, .wait) => (s, q.2 ++ [w])
      | (s, _) => (s, q.2)) (s, [])
    s.setOp ring pos fun o => { o with zero := rest }

/-- R92: a launched entry whose work has ended, whose data is visible at its scope and whose turn it is (R105). -/
def Dev.entryComplete (s : Dev) (ring : Nat) (pos : BitVec 32) (env : Env) : Dev :=
  ((((s.enter env).wake ring pos).zeroOut env ring pos).completeAt env ring pos).settle

/-- ENTRY_COMPLETE (R92). -/
def execEntryComplete (ring : Fin 16384) (pos : BitVec 32) (env : Env) (s : State) : Host.Outcome State Fault Refusal :=
  onDev (fun s => s.entryComplete ring pos env) s

end Sys2Proof.Machine
end

