-- ==== Sys2Proof/Machine/Host.lean ====
section
/-! DEFINITION. Host attach (chapter 9): CXL.mem and BAR2 accesses to Inkwell, snoops, flushes, host loss and its end. -/

namespace Sys2Proof.Machine

/-! ### Inkwell as the host sees it (R187 to R189, R317 to R319) -/

/-- What a read or write ends in, for the host: 1 where the completion carries the poison indication. -/
def Dev.hostRead (s : Dev) (a n : Nat) : Dev :=
  match s.inkRead false a n with
  | (s, .ok, b) => s.emit (.bytes b)
  | (s, .unmapped, _) => s.emit (.bytes (zeros n))
  | (s, _, _) => s.emit (.refusal 1)

/-- A write by the host: discarded where it finds no line, or part of a poisoned one, which is counted (R318). A write with
poison leaves its lines poisoned. -/
def Dev.hostWrite (s : Dev) (a : Nat) (b : List Byte) (poison : Bool) : Dev :=
  match s.inkWrite false a b with
  | (s, .poison) => s.bump Reg.inkPoisonWrites
  | (s, .ok) =>
    if poison then { s with ink := { s.ink with poison := ((linesOf a b.length).filterMap fun l =>
      (s.inkFind false l).map fun q => lineKey q.2.1 q.2.2) ++ s.ink.poison } } else s
  | (s, _) => s

/-- The bytes of the HDM range: populated, unfenced Inkwell, rounded down to 256 MiB. -/
def Dev.hdmSize (s : Dev) : Nat := s.unfenced / (256 * mib) * (256 * mib)

/-- The host's copy of a line after an access through CXL.mem: E where no accelerator holds it, else S; the oldest copy is
back-invalidated where the snoop filter is full. -/
def Dev.hostHolds (s : Dev) (l : Nat) : Dev :=
  let s := s.setDir 0 l (if (List.range 4).any fun k => decide (s.dirLine (k + 1) l ≠ .i) then .s else .e)
  if 262144 < s.hst.hostOrder.length then
    let old := s.hst.hostOrder.headD 0 * 64
    (s.setDir 0 old .i).backInval old
  else s

/-- CXL_MEM_ACCESS: only the physical function's host has CXL.mem; addresses count from the HDM base. -/
def Dev.cxlMem (s : Dev) (env : Env) (a : MemAccess) : Dev :=
  if a.fn.val != 0 || !s.hst.cxlMem || !s.hst.dlActive then s
  else
    let s := s.enter env
    let n := match a.data with | some b => b.length | none => a.len
    let x := a.addr.toNat
    let lines := linesOf x n
    let s := lines.foldl (fun s l => (s.setDir 0 l .i).recall 0 l a.data.isSome) s
    if s.hdmSize < x + n then
      match a.data with
      | none => (s.bumpBy Reg.inkUnmapped lines.length).emit (.bytes (zeros n))
      | some _ => s.bumpBy Reg.inkUnmapped lines.length
    else match a.data with
      | none => lines.foldl (fun s l => if (s.inkPlace l).isSome then s.hostHolds l else s) (s.hostRead x n)
      | some b => s.hostWrite x b a.poison

/-- BAR2_ACCESS (R27, R319): uncached, through the window of the physical function. -/
def Dev.bar2 (s : Dev) (env : Env) (a : MemAccess) : Dev :=
  if a.fn.val != 0 || !s.hst.dlActive || 2 ^ 32 ≤ a.addr.toNat then s
  else
    let s := s.enter env
    let x := bits (s.reg Reg.inkWindowBase) 41 16 * 65536 + a.addr.toNat
    let n := match a.data with | some b => b.length | none => a.len
    if 2 ^ 42 ≤ x then
      match a.data with
      | none => (s.bumpBy Reg.inkUnmapped (linesOf x n).length).emit (.bytes (zeros n))
      | some _ => s.bumpBy Reg.inkUnmapped (linesOf x n).length
    else match a.data with
      | none => s.hostRead x n
      | some b => s.hostWrite x b a.poison

/-- H2D_SNOOP (R187): kind 0 SnpData, 1 SnpInv, 2 SnpCur. The device holds host lines in S or not at all. -/
def Dev.h2dSnoop (s : Dev) (kind line : Nat) : Dev :=
  if !s.hst.cxlCache || kind = 3 then s
  else
    let had := s.hst.cacheLines.contains line
    let s : Dev := if kind = 1 then { s with hst := { s.hst with cacheLines := s.hst.cacheLines.filter (· != line) } } else s
    s.emit (.snoop line (if had && kind != 1 then .s else .i))

/-! ### SYSTEM flushes (R201) -/

/-- Whether an entry, or a connection's acknowledgement, waits for flush `id`. -/
def Op.flushes (o : Op) (id : Nat) : Bool := (o.flushWait || o.fenceHost) && o.flushId == id
def Conn.flushes (x : Conn) (id : Nat) : Bool := x.ackHold.any fun p => p.2 == id

/-- SYSTEM_FLUSH_DONE: a function's oldest flush that fell due has ended. What waited for it goes on. -/
def Dev.flushDone (s : Dev) (fn : Nat) : Dev :=
  match s.hst.flushDue.find? fun p => p.1 == fn && p.2.1 ≤ s.osc with
  | none => s
  | some f =>
    if !s.reach fn .host then s
    else
      let s := s.bump Reg.hstFlushes
      let s : Dev := { s with hst := { s.hst with flushDue := s.hst.flushDue.filter (· != f) } }
      let fences := s.ops.filter fun o => o.fenceHost && o.flushes f.2.2
      let s : Dev := { s with ops := s.ops.map fun o => if o.flushes f.2.2 then { o with flushWait := false, fenceHost := false } else o }
      let s := fences.foldl (fun s o => s.fenceEnd o.ring o.entry.pos) s
      let waits := (s.conns.filter fun p => p.2.flushes f.2.2).map (·.1)
      waits.foldl (fun s c =>
        (s.setConn c { s.conn c with ackHold := (s.conn c).ackHold.filter fun p => p.2 != f.2.2 }).ackSeen c) s

/-! ### Host loss (R203, R204) -/

/-- A launched entry has an operand in host memory. -/
def Dev.hostOperand (s : Dev) (o : Op) : Bool := o.keys.any fun k => keyTarget (s.region k) == 0

def hostLostDone (epoch : BitVec 32) : Done := { status := BitVec.ofNat 8 stHostLost, detail := epoch.setWidth 64 }

/-- A launched entry that cannot go on without the host. -/
def Dev.opLost (s : Dev) (o : Op) : Dev :=
  let z := hostLostDone s.hst.epoch
  match o.entry.cls with
  | .chord =>
    let ex := o.entry.isExch
    (match s.grpDef ex o.entry.slot, (s.grp ex o.entry.slot).run with
    | some d, some r => if r.ring == o.ring && r.pos == o.entry.pos then s.grpOwn ex o.entry.slot d stHostLost 0 else s
    | _, _ => s)
  | .match_ =>
    let pool := o.part * 64 + o.entry.f 133 128
    (s.setPool pool ((s.pool pool).filter fun b => !(b.ring == o.ring && b.pos == o.entry.pos))).finish o.ring o.entry.pos z
  | _ => s.finish o.ring o.entry.pos z

/-- An entry that has ended well, and waits for its record, with an operand in host memory (R204); a FENCE no longer waits for
the host, and ends with HOST_LOST once the tray ports it reaches have answered (R199). -/
def Dev.opHostGone (s : Dev) (o : Op) : Op :=
  let z := hostLostDone s.hst.epoch
  if o.fenceHost then { o with fenceHost := false, respFault := some (z.status, z.detail) }
  else if o.fin.any (fun d => d.status = 0) && (o.flushWait || s.hostOperand o) then
    { o with flushWait := false, fin := some { z with bytes := ((o.fin.map (·.bytes)).getD 0) } }
  else { o with flushWait := false }

/-- Step 5 of R204: rings, completion rings, connections and launched entries. -/
def Dev.loseWork (s : Dev) : Dev :=
  let host := fun (w : Word) => decide (baseTgt w = .host)
  let s := (s.rings.filter fun p => decide (p.2.st = .enabled) && (host p.2.base || host (s.cq p.2.cq).base)).foldl
    (fun s p => s.ringStop p.1 .hostLost 0) s
  let s : Dev := { s with cqs := tmap (fun _ => {}) (fun _ (x : Cq) =>
    if decide (x.st = .enabled) && host x.base then { x with st := .hostLost } else x) s.cqs }
  let backed := (if s.ink.boot then none else regionKind s.regions 3).isNone
  let lost := s.ops.filter fun o => o.fin.isNone && s.hostOperand o
  let names := fun (c : Nat) => s.ops.any fun o => decide (o.entry.cls = .conn) && o.conn == c && s.hostOperand o
  let conns := (s.conns.filter fun p => decide (p.2.st = .active) &&
    (backed || names p.1 || !p.2.ackHold.isEmpty || p.2.msgs.any (·.host))).map (·.1)
  let fences := s.ops.filter (·.fenceHost)
  let s : Dev := { s with ops := s.ops.map s.opHostGone }
  let s := fences.foldl (fun s o => s.fenceEnd o.ring o.entry.pos) s
  let s := lost.foldl (fun s o => s.opLost o) s
  (conns.foldl (fun s c => s.endConn c .hostLost stHostLost none s.hst.epoch.toNat) s).settle

/-- Lines an agent held in a state that may have been M, each lost if it was. Whether it was, the device cannot tell. -/
def Dev.linesLost (s : Dev) (g off : Nat) : Dev :=
  let mine := s.hst.dir.filter fun p => p.1 / 2 ^ 60 == g
  let s : Dev := { s with hst := { s.hst with
    dir := s.hst.dir.filter fun p => p.1 / 2 ^ 60 != g
    hostOrder := if g = 0 then [] else s.hst.hostOrder } }
  mine.foldl (fun s p =>
    if p.2 = .s then s
    else let (s, w) := s.draw
         if bit w 0 then s.bump off else s) s

/-- HOST_LOSS: 0 PERST#, 1 the Data Link Layer left DL_Active, 2 a hot reset. -/
def Dev.hostLoss (s : Dev) (cause : Nat) : Dev :=
  if 3 ≤ cause || s.hst.lost then s
  else
    let (s, n) := s.draw
    let s := s.bumpBy Reg.hstDiscards n.toNat
    let h : Hst := { s.hst with
      lost := true, dlActive := false, cxlCache := false, cxlMem := false, cacheNeg := false, memNeg := false, flit := false, width := 0, rate := 0
      epoch := s.hst.epoch + 1, lossAt := s.rlg.time
      flushDue := [], xlate := []
      cacheLines := s.hst.cacheLines.filter fun l => 2 ^ 58 ≤ l }
    let s := ({ s with hst := h } : Dev).postErr Reg.hstStatus 0x07 (cause + 1) h.epoch.toNat 2
    let s := s.loseWork
    let s := ({ s with xlt := { s.xlt with misses := [], lateGroups := [], faulted := [], cache := [] } } : Dev).linesLost 0 Reg.hstLostLines
    { s with hst := { s.hst with fns := [], msix := [], pba := [], numVf := 0 } }

/-- The host link reaches DL_Active (R205). -/
def Dev.hostUp (s : Dev) (l : HostLink) : Dev :=
  let ok := (l.width == 1 || l.width == 4 || l.width == 8 || l.width == 16) && 1 ≤ l.rate.toNat && l.rate.toNat ≤ 7 &&
    (l.flit || l.rate.toNat ≤ 5)
  if !ok || s.hst.dlActive || s.inReset Reg.hstStatus then s
  else { s with hst := { s.hst with
    lost := false, dlActive := true
    cxlCache := l.cxlCache && l.flit, cxlMem := l.cxlMem && l.flit && s.ink.populated != 0
    cacheNeg := l.cxlCache && l.flit, memNeg := l.cxlMem && l.flit && s.ink.populated != 0
    flit := l.flit, width := l.width, rate := l.rate } }

/-! ### The commands -/

def execCxlMemAccess (a : MemAccess) (env : Env) (s : State) : Host.Outcome State Fault Refusal := onDev (fun s => s.cxlMem env a) s
def execBar2Access (a : MemAccess) (env : Env) (s : State) : Host.Outcome State Fault Refusal := onDev (fun s => s.bar2 env a) s
def execH2dSnoop (kind : BitVec 2) (line : Word) (s : State) : Host.Outcome State Fault Refusal :=
  onDev (fun s => s.h2dSnoop kind.toNat line.toNat) s
def execSystemFlushDone (fn : Fin 64) (s : State) : Host.Outcome State Fault Refusal := onDev (fun s => s.flushDone fn) s
def execHostLoss (cause : BitVec 2) (s : State) : Host.Outcome State Fault Refusal := onDev (fun s => s.hostLoss cause.toNat) s

end Sys2Proof.Machine
end

