-- ==== Sys2Proof/Machine/Tray.lean ====
section
/-! DEFINITION. Tray Link (chapter 9): flits, requests the device answers as home of Inkwell, responses to the device's
own requests, INIT and ports that go down. -/

namespace Sys2Proof

/-- The addresses of the lines a message names. -/
def TrayMsg.lineList (m : TrayMsg) : List Nat := (List.range m.lines).map fun i => m.laddr + 64 * i

/-- A request that holds its line until every agent has answered: data bytes it occupies the ingress buffer with. -/
def TrayMsg.load (m : TrayMsg) : Nat := max 64 (64 * m.dataLines)

/-- Whether the request must have the line to itself. -/
def TrayMsg.writes (m : TrayMsg) : Bool := m.opc == 0x03 || m.opc == 0x04 || m.opc == 0x05

/-- A WR_PART into the doorbell range (R28, R193). -/
def TrayMsg.isBell (m : TrayMsg) : Bool :=
  m.opc == 0x05 && 2 ^ 42 ≤ m.laddr && m.laddr < 2 ^ 42 + 2 ^ 22 && (m.cnt == 4 || m.cnt == 8)

end Sys2Proof

namespace Sys2Proof.Machine

/-! ### What the device sends -/

/-- A response to a request, its tag and lines echoed. -/
def trayReply (m : TrayMsg) (opc arg : Nat) (data : List Byte) : TrayMsg :=
  { hdr := trayHdr opc m.tag.toNat m.lines arg 0, data := data }

/-- ERR: 1 UNMAPPED, 2 POISON, 3 UNAVAILABLE. -/
def Dev.trayErr (s : Dev) (k : Nat) (m : TrayMsg) (arg : Nat) : Dev := (s.bump (Reg.trayErrTx k)).traySend k (trayReply m 0x24 arg [])

def errOf (o : MemOut) : Nat := match o with | .unmapped => 1 | .poison => 2 | _ => 3

/-- RETRY, with the DELAY of TRAY_PORT_CFG. -/
def Dev.trayRetry (s : Dev) (k : Nat) (m : TrayMsg) : Dev :=
  let d := max 1 (bits (s.reg (Reg.trayPortCfg k)) 31 16)
  let r : TrayMsg := { hdr := trayHdr 0x23 m.tag.toNat m.lines 0 0 + BitVec.ofNat 128 (at_ 26 d) }
  (s.bump (Reg.trayRetryTx k)).traySend k r

/-! ### Requests (R192, R193, Table 9.8) -/

/-- Bytes held in the tray ingress buffer: requests that wait for snoops. -/
def Dev.trayFill (s : Dev) : Nat := (s.tray.map fun p => (p.2.waiting.map TrayMsg.load).sum).sum

/-- The partition whose Inkwell share holds every line of a request. -/
def Dev.trayPart (s : Dev) (m : TrayMsg) : Option Nat :=
  if 2 ^ 42 ≤ m.laddr then none
  else (List.range 64).find? fun n => s.inShare n m.laddr (64 * m.lines)

/-- A snoop of the line is unanswered. -/
def Dev.lineBusy (s : Dev) (a : Nat) : Bool := s.tray.any fun p => p.2.snoops.any fun x => x.2.1 == a / 64

/-- The snoops that a request of agent g for a line needs: accelerators that may hold it changed, and at a write every
holder. -/
def Dev.askers (s : Dev) (g a : Nat) (write : Bool) : List Nat :=
  (List.range 4).filter fun k => k + 1 != g && (match s.dirLine (k + 1) a with | .i => false | .s => write | _ => true)

/-- A read is answered with data in the state granted, or with ERR. -/
def Dev.trayRead (s : Dev) (k : Nat) (m : TrayMsg) (grant : Bool) : Dev :=
  let s := m.lineList.foldl (fun s l => s.setDir (k + 1) l .i) s
  match s.inkRead false m.laddr (64 * m.lines) with
  | (s, .ok, b) =>
    let free := m.opc == 0x03 || m.lineList.all fun l => (List.range 5).all fun h => decide (s.dirLine h l = .i)
    let st : Line := if free then .e else .s
    let s := if grant then m.lineList.foldl (fun s l => s.setDir (k + 1) l st) s else s
    s.traySend k (trayReply m 0x20 (if !grant then 0 else if free then 2 else 1) b)
  | (s, o, _) => s.trayErr k m (errOf o)

/-- A write is answered with CMP for both scopes, or with ERR. -/
def Dev.trayWrite (s : Dev) (k : Nat) (m : TrayMsg) (a : Nat) (b : List Byte) : Dev :=
  let s := m.lineList.foldl (fun s l => s.setDir (k + 1) l .i) s
  match s.inkWrite false a b with
  | (s, .ok) => s.traySend k (trayReply m 0x21 2 [])
  | (s, o) => s.trayErr k m (errOf o)

/-- The request's effect, once its lines are its own. -/
def Dev.trayDo (s : Dev) (k : Nat) (m : TrayMsg) : Dev :=
  let s := m.lineList.foldl (fun s l => if m.opc == 0x08 then s else
    if decide (s.dirLine 0 l = .i) || (decide (s.dirLine 0 l = .s) && !m.writes) then s
    else (if m.writes then s.setDir 0 l .i else s.setDir 0 l .s).backInval l) s
  match m.opc with
  | 0x01 => s.trayRead k m false
  | 0x02 | 0x03 => s.trayRead k m true
  | 0x04 => s.trayWrite k m m.laddr (m.data.take (64 * m.lines))
  | 0x05 => s.trayWrite k m (m.laddr + m.start) (slice m.data m.start (min m.cnt (64 - m.start)))
  | 0x06 =>
    (match s.dirLine (k + 1) m.laddr with
    | .i => s.traySend k (trayReply m 0x21 2 [])
    | _ => s.trayWrite k m m.laddr (m.data.take 64))
  | 0x07 => m.lineList.foldl (fun s l => s.setDir (k + 1) l .i) s
  | 0x08 => s.traySend k (trayReply m 0x21 1 [])
  | _ => s

/-- Whether a request must wait: a line is being snooped, or, for a FENCE_REQ, an earlier request of the port waits. -/
def Dev.trayBlocked (s : Dev) (k : Nat) (m : TrayMsg) : Bool :=
  if m.opc == 0x08 then !(s.trayPort k).waiting.isEmpty else m.opc != 0x06 && m.opc != 0x07 && m.lineList.any s.lineBusy

/-- The snoops of a request are sent; true where there was one to send. A holder's state stands until it answers: what it
writes back meanwhile is its line's newest data (R192). -/
def Dev.traySnoop (s : Dev) (k : Nat) (m : TrayMsg) : Dev × Bool :=
  if m.opc == 0x06 || m.opc == 0x07 || m.opc == 0x08 then (s, false)
  else m.lineList.foldl (fun (q : Dev × Bool) l =>
    let ask := q.1.askers (k + 1) l m.writes
    (ask.foldl (fun s h => s.snoopSend h (if m.writes then 0x10 else 0x11) l) q.1,
      q.2 || !ask.isEmpty)) (s, false)

def Dev.trayWait (s : Dev) (k : Nat) (m : TrayMsg) : Dev :=
  s.setTray k { s.trayPort k with waiting := (s.trayPort k).waiting ++ [m] }

/-- A request with its partition settled: it waits behind the snoops of its lines, or takes effect. -/
def Dev.trayServe (s : Dev) (k : Nat) (m : TrayMsg) : Dev :=
  if s.trayBlocked k m then s.trayWait k m
  else match s.traySnoop k m with
    | (s, true) => s.trayWait k m
    | (s, false) => s.trayDo k m

/-- Requests that waited and may go on, in port order, oldest first. -/
def Dev.trayRetryAll (s : Dev) : Dev :=
  forUpto 4 (fun s k =>
    let l := (s.trayPort k).waiting
    l.foldl (fun s m => s.trayServe k m) (s.setTray k { s.trayPort k with waiting := [] })) s

/-- Table 7.6 for a Tray Link request: refused with RETRY, or served. -/
def Dev.trayMetered (s : Dev) (k n : Nat) (m : TrayMsg) (f : Dev → Dev) : Dev :=
  let (s, c) := s.meter (2 * n) m.load
  let s := s.meterCount (2 * n) m.load c
  let full := bits (s.st (Reg.polIngressCfg 0)) 15 0 * 1024 ≤ s.trayFill
  let refused := match c with
    | .green => false
    | .yellow => full
    | .red => full || !bit (s.st (Reg.polMeterCfg1 (2 * n))) 56
  if refused then (s.bump (Reg.polDropped (2 * n))).trayRetry k m else f s

/-- A request message of the row's opcode, on a port that is UP. -/
def Dev.trayReq (s : Dev) (env : Env) (k opc : Nat) (m : TrayMsg) : Dev :=
  if m.opc != opc || decide ((s.trayPort k).st ≠ .up) then s
  else
    let s := s.enter env
    if opc == 0x08 then s.trayServe k m
    else if m.isBell then
      let off := m.laddr - 2 ^ 42 + m.start
      let n := off / 2 ^ 16
      s.trayMetered k n m fun s =>
        (s.doorbell { off := BitVec.ofNat 22 off, size := m.cnt, tray := some (Fin.ofNat 4 k) }).traySend k (trayReply m 0x21 2 [])
    else match s.trayPart m with
      | none => if opc == 0x07 then s else s.trayErr k m 1
      | some n => s.trayMetered k n m fun s =>
          if bit (s.st (Reg.trayPortPtn k)) n then s.trayServe k m else if opc == 0x07 then s else s.trayErr k m 1

/-! ### Snoops of the device's copies, and answers to its own snoops -/

/-- SNP_INV, SNP_DATA or SNP_CUR of lines of the accelerator's memory, which the device holds in S or not at all. -/
def Dev.traySnooped (s : Dev) (k opc : Nat) (m : TrayMsg) : Dev :=
  if m.opc != opc || decide ((s.trayPort k).st ≠ .up) then s
  else
    let keys := m.lineList.map fun a => trayKey k a / 64
    let had := keys.any fun l => s.hst.cacheLines.contains l
    let s : Dev := if opc == 0x10 then { s with hst := { s.hst with cacheLines := s.hst.cacheLines.filter fun l => !keys.contains l } } else s
    s.traySend k (trayReply m 0x22 (if had && opc != 0x10 then 2 else 0) [])

/-- SNP_RSP: the agent's answer. Changed data goes to Inkwell where a request waits for the line; a line the device
snooped for an access of its own had its data by then. SNP_CUR leaves the agent's state as it was. -/
def Dev.snpRsp (s : Dev) (k : Nat) (m : TrayMsg) : Dev :=
  match if m.opc == 0x22 then (s.trayPort k).snoops.find? (fun x => x.1 == m.tag) else none with
  | none => s
  | some x =>
    let s := s.setTray k { s.trayPort k with snoops := eraseFirst (fun y => y.1 == m.tag) (s.trayPort k).snoops }
    let a := x.2.1 * 64
    let wanted := s.tray.any fun p => p.2.waiting.any fun w => w.lineList.contains a
    let s := if m.arg % 2 == 1 && wanted then
        match s.inkFind false a with
        | some (_, c, off) => s.setKeyBytes (chanKey c off) (m.data.take 64)
        | none => s
      else s
    let s := if x.2.2 == 0x12 then s else s.setDir (k + 1) a (if m.arg / 2 % 4 == 1 then .s else .i)
    s.trayRetryAll

/-! ### Responses to the device's own requests (R194, R199) -/

def Dev.trayReqOf (s : Dev) (k : Nat) (m : TrayMsg) : Option TrayReq := (s.trayPort k).reqs.find? fun r => r.sent && r.tag == m.tag

def maskClear (w : BitVec 4) (k : Nat) : BitVec 4 := w &&& ~~~(BitVec.ofNat 4 (2 ^ k))

/-- A launched entry one of whose requests on a tray port failed (R194): TARGET_UNAVAILABLE, with the key. A WRITE or SEND whose
source could not be read fails as R180 states, a collective as its member's operand fault; another entry that still runs ends so
when its work has ended. -/
def Dev.opUnreached (s : Dev) (o : Op) (key : BitVec 32) : Dev :=
  let z : Done := { status := BitVec.ofNat 8 stTarget, detail := key.setWidth 64 }
  let later := fun (s : Dev) => s.setOp o.ring o.entry.pos fun o => { o with
    fin := o.fin.map fun d => if d.status = 0 then { z with bytes := d.bytes } else d
    respFault := if o.respFault.isSome then o.respFault else some (z.status, z.detail) }
  if o.fin.isSome then later s
  else match o.entry.cls with
    | .chord =>
      let ex := o.entry.isExch
      (match s.grpDef ex o.entry.slot, (s.grp ex o.entry.slot).run with
      | some d, some r => if r.ring == o.ring && r.pos == o.entry.pos then s.grpOwn ex o.entry.slot d stTarget key.toNat else s
      | _, _ => s)
    | .conn =>
      if o.entry.opcode == 0x10 || o.entry.opcode == 0x12 then
        let t := ((s.conn o.conn).tx.find? fun t => t.op == some (o.ring, o.entry.pos)).getD
          { op := some (o.ring, o.entry.pos), sent := true, psn := o.psn }
        s.sourceFault o.conn t stTarget key
      else later s
    | _ => later s

/-- A packet of a connection one of whose requests on a tray port failed: NAK TARGET_UNAVAILABLE, and the end of this side. -/
def Dev.pktUnreached (s : Dev) (c : Nat) (psn : BitVec 32) (read : Bool) (key : BitVec 32) : Dev :=
  let x := s.conn c
  if x.st ≠ .active then s
  else if read then s.sourceFault c { req := some psn, psn := psn } stTarget key
  else
    let s := s.sendNak c {} x.peerNode x.peerConn psn (statusNak stTarget) (if statusNak stTarget ≤ 8 then key.toNat else 0)
    ((x.msgs.foldl (fun s m => s.rsigFail m) s).endConn c .error stTarget none key.toNat).settle

/-- What a request served, once it has been answered: a FENCE or a packet's acknowledgement may go on, and where it failed the
access fails (R194). -/
def Dev.trayServed (s : Dev) (k : Nat) (r : TrayReq) (ok : Bool) : Dev :=
  match r.op, s.ops.find? (fun o => r.who != 0 && opWho o.ring o.entry.pos == r.who) with
  | some (ring, pos), _ =>
    if r.msg.opc == 0x08 then
      (s.setOp ring pos fun o => { o with
        fenceTray := maskClear o.fenceTray k
        respFault := if ok || o.respFault.isSome then o.respFault else some (BitVec.ofNat 8 stTarget, 0) }).fenceEnd ring pos
    else
      let s := if ok then s else match s.op? ring pos with
        | some o => s.opUnreached o r.key
        | none => s
      s.ackSeen (r.who / 2 ^ 33)
  | none, some o => if ok then s else s.opUnreached o r.key
  | none, none =>
    if r.who % 2 = 0 then s
    else if ok then (if 4 ≤ r.msg.opc then s.ackSeen (r.who / 2 ^ 33) else s)
    else s.pktUnreached (r.who / 2 ^ 33) (BitVec.ofNat 32 (r.who / 2 % 2 ^ 32)) (decide (r.msg.opc < 4)) r.key

/-- A request of the device ends, well or with TARGET_UNAVAILABLE. -/
def Dev.trayEnded (s : Dev) (k : Nat) (r : TrayReq) (ok : Bool) : Dev := (s.trayRequestEnd k r.tag).trayServed k r ok

/-- A request of the device that waits for an answer, changed. -/
def Dev.setTrayReq (s : Dev) (k : Nat) (tag : BitVec 12) (f : TrayReq → TrayReq) : Dev :=
  s.setTray k { s.trayPort k with reqs := replaceFirst (fun r => r.sent && r.tag == tag) f (s.trayPort k).reqs }

/-- CMP: PATH is noted, GLOBAL or both ends the request. -/
def Dev.trayCmp (s : Dev) (k : Nat) (m : TrayMsg) : Dev :=
  match if m.opc == 0x21 then s.trayReqOf k m else none with
  | none => s
  | some r =>
    if m.arg == 0 then
      let s := s.setTrayReq k r.tag fun q => { q with path := true }
      if r.who % 2 = 1 && 4 ≤ r.msg.opc && !r.sys then s.ackSeen (r.who / 2 ^ 33) else s
    else if m.arg == 1 || m.arg == 2 then s.trayEnded k r true
    else s

/-- DATA: the answer to a read of the device. -/
def Dev.trayData (s : Dev) (k : Nat) (m : TrayMsg) : Dev :=
  match if m.opc == 0x20 then s.trayReqOf k m else none with
  | some r => if 1 ≤ r.msg.opc && r.msg.opc ≤ 3 then s.trayEnded k r true else s
  | none => s

/-- RETRY: the request is sent again after DELAY; the 65th in succession ends it. -/
def Dev.trayRetried (s : Dev) (k : Nat) (m : TrayMsg) : Dev :=
  match if m.opc == 0x23 then s.trayReqOf k m else none with
  | none => s
  | some r =>
    if 64 ≤ r.retries then s.trayEnded k r false
    else s.setTrayReq k r.tag fun q => { q with
      retries := q.retries + 1, reissueAt := some (s.osc + nsTicks (16 * m.delay)) }

/-- RETRY_REISSUE. -/
def Dev.trayReissue (s : Dev) (k : Nat) (tag : BitVec 12) : Dev :=
  match (s.trayPort k).reqs.find? fun r => r.sent && r.tag == tag && r.reissueAt.any (· ≤ s.osc) with
  | none => s
  | some r => (s.setTrayReq k tag fun q => { q with reissueAt := none }).traySend k r.msg

/-- ERR: the request ends with TARGET_UNAVAILABLE; poison is posted. -/
def Dev.trayErred (s : Dev) (k : Nat) (m : TrayMsg) : Dev :=
  match if m.opc == 0x24 then s.trayReqOf k m else none with
  | none => s
  | some r =>
    let s := if m.arg == 2 then s.postErr (Reg.trayPortStatus 0) 0x08 0x02 (k + r.msg.laddr) 1 else s
    s.trayEnded k r false

/-! ### Ports (R195, R196) -/

/-- What a port that goes down leaves behind it. -/
def Dev.trayReset (s : Dev) (k : Nat) (st : TraySt) : Dev :=
  let x := s.trayPort k
  let s := s.setTray k { st := st, peerVersion := x.peerVersion }
  let s : Dev := { s with hst := { s.hst with cacheLines := s.hst.cacheLines.filter fun l => l / 2 ^ 58 != k + 1 } }
  let s := s.linesLost (k + 1) (Reg.trayLostLines k)
  let s := x.reqs.foldl (fun s r => s.trayServed k r false) s
  s.trayRetryAll

/-- A port goes down: counted and posted. -/
def Dev.trayDown (s : Dev) (k : Nat) (st : TraySt) : Dev :=
  if (s.trayPort k).st = .down then s
  else (((s.trayReset k st).bump (Reg.trayPortDowns k)).postErr (Reg.trayPortStatus 0) 0x08 0x03 k 2).settle

/-- The port's link starts from nothing: FSEQ 0 on both sides, no INIT seen. Of the flits not acknowledged the peer had accepted
the first `accepted`; the slots of the others are sent again, so that no message is lost or comes twice (R191). -/
def TrayPort.fresh (x : TrayPort) (accepted : Nat) : TrayPort :=
  { x with st := .init, lanes := 8, peerVersion := 0, credits := (0, 0, 0), txSeq := 0, rxSeq := 0, replays := 0, gotInit := false
           firstFlit := false, badInit := false, unacked := [], slots := (x.unacked.drop accepted).flatMap (·.2) ++ x.slots }

/-- TRAY_PORT_TRAINED. How many of the unacknowledged flits the peer had accepted is open (R191). -/
def Dev.trayTrained (s : Dev) (k : Nat) : Dev :=
  let x := s.trayPort k
  if s.inReset (Reg.trayPortStatus 0) || !bit (s.reg (Reg.trayPortCfg k)) 0 || (decide (x.st ≠ .down) && decide (x.st ≠ .training)) then s
  else
    let (s, v) := s.draw
    s.setTray k (x.fresh (v.toNat % (x.unacked.length + 1)))

/-- The INIT flit of the device (Table 9.17). -/
def initFlit (serial : Word) : List Byte :=
  let b := leBytes 4 0xF000 ++ leBytes 4 Config.trayCredits.toNat ++ leBytes 1 1 ++ leBytes 1 1 ++ leBytes 2 Config.trayTags.toNat
    ++ zeros 4 ++ leBytes 8 serial.toNat ++ zeros 224
  b ++ leBytes 8 (crc64 b)

/-- TRAY_INIT_SEND: an INIT leaves; after the peer's was received it is the last, and the port is UP. -/
def Dev.trayInitSend (s : Dev) (f : Flash) (k : Nat) : Dev :=
  let x := s.trayPort k
  if x.st ≠ .init then s
  else
    let s := s.emit (.trayFlit k (initFlit f.serial))
    if x.gotInit then (Dev.trayIssue (x.reqs.length) (s.setTray k { x with st := .up }) k).trayFlush k else s

/-- Whether the CRC of a flit received agrees with its bytes. -/
def flitCrcOk (b : List Byte) : Bool := b.length == 256 && leAt b 248 8 == crc64 (b.take 248)

/-- TRAY_INIT_RX: an INIT received. One whose CRC fails is discarded (R191). -/
def Dev.trayInitRx (s : Dev) (k : Nat) (b : List Byte) : Dev :=
  let x := s.trayPort k
  if !flitCrcOk b || leAt b 0 2 != 0xF000 || x.st = .down || x.st = .training then s
  else if x.firstFlit then
    let s := s.trayDown k .init
    s.setTray k ((s.trayPort k).fresh 0)
  else if x.gotInit then s
  else
    let role := leAt b 8 1
    let ver := leAt b 9 1
    let c := leAt b 4 4
    if role == 2 && ver == 1 then
      s.setTray k { x with
        gotInit := true, peerVersion := 1, peerTags := leAt b 10 2 % 4096 + 1
        credits := (c % 1024, c / 1024 % 1024, c / 1048576 % 1024) }
    else
      let s := (s.setTray k { x with peerVersion := BitVec.ofNat 8 ver, badInit := true }).bump (Reg.trayBadMsg k)
      if x.badInit then s else s.postErr (Reg.trayPortStatus 0) 0x08 0x04 (k + at_ 8 role + at_ 16 ver) 1

/-- TRAY_REPLAY_EXHAUSTED (R191): the port retrains. -/
def Dev.trayRetrain (s : Dev) (k : Nat) : Dev :=
  let x := s.trayPort k
  if decide (x.st = .up) && 16 ≤ x.replays then s.setTray k { x with st := .training } else s

/-- A write of TRAY_PORT_CFG (Table 9.16): ENABLE 0 takes the port down. -/
def Dev.trayCfg (s : Dev) (k : Nat) (w : Word) : Dev :=
  let s := s.setReg (Reg.trayPortCfg k) (setBits (setBits (s.reg (Reg.trayPortCfg k)) 31 16 (bits w 31 16)) 0 0 (bits w 0 0))
  if bit w 0 then s else s.trayDown k .down

/-! ### Flits (R190, R191) -/

/-- Whether a header slot's OPC is one of Table 9.7. -/
def trayOpcOk (m : TrayMsg) : Bool :=
  (1 ≤ m.opc && m.opc ≤ 8) || (0x10 ≤ m.opc && m.opc ≤ 0x12) || (0x20 ≤ m.opc && m.opc ≤ 0x24)

/-- The slots of an accepted flit: messages are completed across flits, and what they held is given back as credit. A
reserved OPC is discarded, counted and posted. -/
def Dev.traySlots (s : Dev) (k : Nat) (l : List (BitVec 128)) : Dev × Nat × Nat × Nat :=
  l.foldl (fun (q : Dev × Nat × Nat × Nat) d =>
    let s := q.1
    let x := s.trayPort k
    if x.partial_.isEmpty && d == 0 then q
    else
      let h : TrayMsg := { hdr := x.partial_.headD d }
      if x.partial_.isEmpty && !trayOpcOk h then
        ((s.bump (Reg.trayBadMsg k)).postErr (Reg.trayPortStatus 0) 0x08 0x01 (k + h.laddr) 1, q.2)
      else if h.slots ≤ x.partial_.length + 1 then
        (s.setTray k { x with partial_ := [] },
          (if h.cls == 0 then (q.2.1 + h.slots, q.2.2) else if h.cls == 1 then (q.2.1, q.2.2.1 + h.slots, q.2.2.2)
            else (q.2.1, q.2.2.1, q.2.2.2 + h.slots)))
      else (s.setTray k { x with partial_ := x.partial_ ++ [d] }, q.2)) (s, 0, 0, 0)

/-- A flit of Table 9.5 as received. -/
structure TrayFlit where
  seq : Nat := 0
  ack : Nat := 0
  replay : Bool := false
  credits : Nat := 0
  slots : List (BitVec 128) := []
  deriving DecidableEq, Repr

def flitOf (b : List Byte) : TrayFlit :=
  { seq := leAt b 0 2 % 4096, ack := leAt b 2 2 % 4096, replay := leAt b 2 2 / 2 ^ 15 == 1, credits := leAt b 4 4,
    slots := (List.range 15).map fun i => BitVec.ofNat 128 (leAt b (8 + 16 * i) 16) }

/-- ACKSEQ, replay request and credits of a flit. -/
def Dev.trayAck (s : Dev) (k : Nat) (f : TrayFlit) : Dev :=
  let x := s.trayPort k
  let keep := x.unacked.filter fun u => halfBefore 12 f.ack u.1.toNat
  let c := f.credits
  let y := { x with
    unacked := keep
    credits := (x.credits.1 + c % 1024, x.credits.2.1 + c / 1024 % 1024, x.credits.2.2 + c / 1048576 % 1024) }
  let s := s.setTray k y
  let s := if f.replay then
      keep.foldl (fun s u => (s.emit (.trayFlit k (y.flit u.1 u.2))).bump (Reg.trayFlitReplays k)) s
    else s
  s.trayFlush k

/-- A flit of idle slots that acknowledges, asks for replay, or returns credits: it repeats the FSEQ of the last flit sent. -/
def Dev.trayIdle (s : Dev) (k : Nat) (replay : Bool) (c : Nat × Nat × Nat) : Dev :=
  let x := s.trayPort k
  s.emit (.trayFlit k (trayFlitBytes (x.txSeq - 1).toNat (x.rxSeq - 1).toNat
    (c.1 % 1024 + at_ 10 (c.2.1 % 1024) + at_ 20 (c.2.2 % 1024)) replay []))

/-- TRAY_FLIT_RX: an ordinary flit. -/
def Dev.trayFlitRx (s : Dev) (k : Nat) (b : List Byte) : Dev :=
  let x := s.trayPort k
  let f := flitOf b
  let again := fun (s : Dev) => (s.setTray k { s.trayPort k with replays := (s.trayPort k).replays + 1 }).trayIdle k true (0, 0, 0)
  if !(decide (x.st = .up) || (decide (x.st = .init) && x.gotInit)) then s
  else if !flitCrcOk b then again s
  else if 4096 ≤ leAt b 0 2 then s
  else if f.slots.all (· == 0) then s.trayAck k f
  else if f.seq == x.rxSeq.toNat then
    let s := s.setTray k { x with rxSeq := x.rxSeq + 1, replays := 0, firstFlit := true }
    let (s, c) := (s.trayAck k f).traySlots k f.slots
    s.trayIdle k false c
  else if halfBefore 12 x.rxSeq.toNat f.seq then again s
  else s

/-! ### The commands -/

def execTrayFlitRx (port : Fin 4) (b : List Byte) (s : State) : Host.Outcome State Fault Refusal := onDev (fun s => s.trayFlitRx port b) s
def execTrayReplayExhausted (port : Fin 4) (s : State) : Host.Outcome State Fault Refusal := onDev (fun s => s.trayRetrain port) s
def execRdCur (port : Fin 4) (m : TrayMsg) (env : Env) (s : State) : Host.Outcome State Fault Refusal :=
  onDev (fun s => s.trayReq env port 0x01 m) s
def execRdShared (port : Fin 4) (m : TrayMsg) (env : Env) (s : State) : Host.Outcome State Fault Refusal :=
  onDev (fun s => s.trayReq env port 0x02 m) s
def execRdOwn (port : Fin 4) (m : TrayMsg) (env : Env) (s : State) : Host.Outcome State Fault Refusal :=
  onDev (fun s => s.trayReq env port 0x03 m) s
def execWrLine (port : Fin 4) (m : TrayMsg) (s : State) : Host.Outcome State Fault Refusal := onDev (fun s => s.trayReq {} port 0x04 m) s
def execWrPart (port : Fin 4) (m : TrayMsg) (env : Env) (s : State) : Host.Outcome State Fault Refusal :=
  onDev (fun s => s.trayReq env port 0x05 m) s
def execEvictDirty (port : Fin 4) (m : TrayMsg) (s : State) : Host.Outcome State Fault Refusal := onDev (fun s => s.trayReq {} port 0x06 m) s
def execEvictClean (port : Fin 4) (m : TrayMsg) (s : State) : Host.Outcome State Fault Refusal := onDev (fun s => s.trayReq {} port 0x07 m) s
def execFenceReq (port : Fin 4) (m : TrayMsg) (s : State) : Host.Outcome State Fault Refusal := onDev (fun s => s.trayReq {} port 0x08 m) s
def execSnpInv (port : Fin 4) (m : TrayMsg) (s : State) : Host.Outcome State Fault Refusal := onDev (fun s => s.traySnooped port 0x10 m) s
def execSnpData (port : Fin 4) (m : TrayMsg) (s : State) : Host.Outcome State Fault Refusal := onDev (fun s => s.traySnooped port 0x11 m) s
def execSnpCur (port : Fin 4) (m : TrayMsg) (s : State) : Host.Outcome State Fault Refusal := onDev (fun s => s.traySnooped port 0x12 m) s
def execData (port : Fin 4) (m : TrayMsg) (s : State) : Host.Outcome State Fault Refusal := onDev (fun s => s.trayData port m) s
def execCmp (port : Fin 4) (m : TrayMsg) (s : State) : Host.Outcome State Fault Refusal := onDev (fun s => s.trayCmp port m) s
def execSnpRsp (port : Fin 4) (m : TrayMsg) (s : State) : Host.Outcome State Fault Refusal := onDev (fun s => s.snpRsp port m) s
def execRetry (port : Fin 4) (m : TrayMsg) (s : State) : Host.Outcome State Fault Refusal := onDev (fun s => s.trayRetried port m) s
def execRetryReissue (port : Fin 4) (tag : BitVec 12) (s : State) : Host.Outcome State Fault Refusal := onDev (fun s => s.trayReissue port tag) s
def execErr (port : Fin 4) (m : TrayMsg) (s : State) : Host.Outcome State Fault Refusal := onDev (fun s => s.trayErred port m) s
def execTrayInitSend (port : Fin 4) (s : State) : Host.Outcome State Fault Refusal := onDevF (fun f s => s.trayInitSend f port) s
def execTrayInitRx (port : Fin 4) (b : List Byte) (s : State) : Host.Outcome State Fault Refusal := onDev (fun s => s.trayInitRx port b) s
def execTrayPortDown (port : Fin 4) (s : State) : Host.Outcome State Fault Refusal := onDev (fun s => s.trayDown port .down) s
def execTrayPortTrained (port : Fin 4) (s : State) : Host.Outcome State Fault Refusal :=
  onDev (fun s => s.trayTrained port) s
def execTrayPortEnableWrite (v : View) (port : Fin 4) (w : Word) (s : State) : Host.Outcome State Fault Refusal :=
  onWrite v (Reg.trayPortCfg port) w (pfOnly v fun s => s.gated v (Reg.trayPortCfg port) w fun s => s.trayCfg port w) s

end Sys2Proof.Machine
end

