-- ==== Sys2Proof/Machine/Reset.lean ====
section
/-! DEFINITION. Power and reset (chapter 20): power-on, power-fail, MOD_RESET_N, thermal trip, warm reset, orderly shutdown,
trim load and the release order. -/

namespace Sys2Proof.Machine

/-! ### What a warm reset leaves (Table 20.4) -/

/-- Table 4.5: every work ring is DISABLED. -/
def Ring.plane (x : Ring) : Ring :=
  { x with
    st := .disabled, start := if x.st = .disabled then x.start else x.head, held := false, torn := false, dbPending := false
    scanning := false, discarding := false, resumeAfter := false, tornTries := 0, tornAt := 0, changed := [], taken := [] }

def Cq.plane (x : Cq) : Cq := { x with st := .disabled, reserved := 0, owed := [], rereadAt := none }

/-- A connection's context without what only an open connection has, in RESET. -/
def Conn.plane (now : Word) (x : Conn) : Conn :=
  { x with
    st := .reset, resetAt := if x.st = .reset then x.resetAt else now
    tx := [], wait := none, sendHeld := false, rob := [], ackSince := none, ackHold := [], ackOwed := [], nakAt := [], seqRetxAt := []
    fetching := false, holding := [], blotting := [], blotEnd := 0, ctxLost := false, rtoDue := false, waitDue := false
    refused := false, readPsn := [] }

/-- R242: NEXT_SEQ stays. -/
def Slot.plane (x : Slot) : Slot := { nextSeq := x.nextSeq }

/-- Table 16.4. -/
def Ptn.plane (now : Word) (x : Ptn) : Ptn :=
  match x.st with
  | .quiescing | .resetting => { x with st := .quiesced, quiesceAt := now, forced := false }
  | _ => x

/-- Whether a BAR0 offset lies in a data-plane block. -/
def planeBlock (off : Nat) : Bool :=
  match off % 2 ^ 24 / 2 ^ 16 with
  | 0x05 | 0x06 | 0x08 | 0x09 | 0x0A | 0x0B | 0x0C | 0x0D | 0x0E | 0x0F | 0x10 | 0x11 | 0x12 | 0x13 | 0x14 | 0x15 | 0x17 | 0x19 => true
  | 0x16 => decide (off % 2 ^ 16 < 0x8000)
  | _ => false

/-- An RWS register (R10). -/
def rwsReg (off : Nat) : Bool := (regRow false (off % 2 ^ 24)).any fun r => decide (r.kind = .rws)

/-- Table 17.8, Table 17.15: the warm reset's notice to the Folio writer (R20, R347). -/
def Dev.folWarm (s : Dev) : Dev :=
  match s.fol.st with
  | .capture => (s.folTrigger 0x4 0).folFreeze
  | .post => (s.folGap.folPut 0x0E 0x3F s.rlg.time (leBytes 1 0x4 ++ zeros 15)).folFreeze
  | .replayReady | .replaying | .replayDone | .diverged => s.replayEnd
  | _ => s

/-- R205: the host link goes down with the reset, and a new epoch begins. -/
def Dev.hostWarm (s : Dev) : Dev :=
  let s : Dev := { s with hst := { s.hst with
    dlActive := false, cxlCache := false, cxlMem := false, cacheNeg := false, memNeg := false, flit := false, width := 0, rate := 0, numVf := 0
    epoch := s.hst.epoch + 1, fns := [], msix := [], pba := [], msixAt := [], flushDue := []
    cacheLines := [] } }
  s.linesLost 0 Reg.hstLostLines

/-- The tables of the data plane after a warm reset. -/
def Dev.planeTables (s : Dev) : Dev :=
  let t := s.rlg.time
  { s with
    rw := s.rw.filter fun p => !planeBlock p.1 || rwsReg p.1
    rings := tmap (fun _ => {}) (fun _ => Ring.plane) s.rings
    cqs := tmap (fun _ => {}) (fun _ => Cq.plane) s.cqs
    ops := [], pools := [], connCache := [], connBacked := []
    conns := tmap (fun _ => {}) (fun _ => Conn.plane t) s.conns
    sch := { histMgmt := s.sch.histMgmt, left := s.sch.left }
    xlt := { keys := s.xlt.keys, keyPoison := s.xlt.keyPoison, atsKeys := s.xlt.atsKeys, rangeInit := s.xlt.rangeInit }
    slots := tmap (fun _ => {}) (fun _ => Slot.plane) s.slots
    exchs := tmap (fun _ => {}) (fun _ => Slot.plane) s.exchs
    stm := {}, red := {}, cph := {}, det := { s.det with out0 := 0, out1 := 0 }
    ptns := tmap ptnReset (fun _ => Ptn.plane t) s.ptns
    qps := tmap (fun _ => {}) (fun _ => Qp.toReset) s.qps
    eth := [] }

/-- The data plane's work is treated as Table 20.4 states. -/
def Dev.resetPlane (s : Dev) : Dev :=
  let s := s.folWarm.planeTables.hostWarm
  let s := forUpto 4 (fun s k => s.trayDown k .training) s
  let c := s.capo
  ({ s with
    rte := { s.rte with links := [], recov := [], local_ := [] }
    capo := { c with
      st := if s.capoArmed then .passed else c.st
      armResult := if s.capoArmed then 0x06 else c.armResult
      down := 0xFFFF } } : Dev).settle

/-- The data plane is reset and held for 10 µs (R396). -/
def Dev.planeReset (s : Dev) (cause : Byte) : Dev :=
  let s := s.resetPlane
  { s with rst := { s.rst with cause := cause, ready := false, released := 4, warmAt := some (s.osc + usTicks 10) } }

/-- WARM_RESET. -/
def Dev.warmReset (s : Dev) (v : View) : Dev :=
  if s.rst.boot ≠ .done ∨ s.rst.shutting then s.hostErr v Reg.rstCtl 0x02 1
  else (s.planeReset 0x05).bump (Reg.rstCounts 2)

/-! ### Resets of everything (R387 to R389, R392) -/

/-- Host and tray memory, which no reset of the device reaches. -/
def outsideMem (m : Tbl Byte) : Tbl Byte := m.filter fun p => p.1 < chanKey 0 0

/-- The counts of the reset controller. -/
def rstCnt (c : Tbl Word) : Tbl Word := c.filter fun p => p.1 / 2 ^ 16 == 0x03

/-- Every domain but the reset controller is held in reset. -/
def Dev.allHeld (s : Dev) (r : Rst) : Dev :=
  { osc := s.osc, out := s.out, free := s.free, mem := outsideMem s.mem, cnt := rstCnt s.cnt, rst := r }

/-- The device starts from nothing: power-on (count 0) or MOD_RESET_N (count 1). -/
def Dev.startOver (s : Dev) (cause : Byte) (count : Nat) : Dev :=
  { osc := s.osc, out := s.out, free := s.free, mem := outsideMem s.mem, cnt := [(Reg.rstCounts count, 1)],
    rst := { cause := cause } }

/-- A start ends FIELD_DIAG (R407). -/
def Flash.restart (f : Flash) : Flash := if f.state = 3 then { f with state := 2 } else f

/-- A start of the machine; a change of lifecycle state is measured. -/
def State.startOver (s : State) (cause : Byte) (count : Nat) : State :=
  let d := s.dev.startOver cause count
  { s with
    dev := if s.flash.state = 3 then d.measure 4 0 2 else d
    flash := s.flash.restart }

/-- R389: in DARK the reset controller alone is left. -/
def Dev.goDark (s : Dev) (cause : Byte) (therm : Bool) : Dev :=
  s.allHeld { cause := cause, boot := .dark, therm := therm, holdup := s.rst.holdup, holdupAt := s.rst.holdupAt }

/-- An orderly shutdown ends once its flash writes have. -/
def Dev.darkIfDone (s : Dev) : Dev := if s.rst.shutting && s.rst.jobs.isEmpty then s.goDark s.rst.cause false else s

/-- R388: a power-fail, or an over-voltage (R430). The flash unit in progress goes on. -/
def Dev.powerFail (s : Dev) : Dev :=
  s.allHeld { cause := 0x02, powerFail := true, holdup := s.rst.holdup, holdupAt := s.rst.holdupAt, jobs := s.rst.jobs.filter (·.running) }

/-- R389: a thermal trip, unless the power has failed (R393). -/
def Dev.thermalTrip (s : Dev) : Dev :=
  if s.rst.powerFail then s else (s.goDark 0x04 true).bump (Reg.rstCounts 6)

/-! ### Orderly shutdown (R389, R413 to R415) -/

/-- The items of word `w` of SST_RESULT that the shutdown tests cover. -/
def Dev.tested (s : Dev) (w : Nat) : List Nat :=
  if w = 0 then List.range 32
  else if w = 1 then List.range 23
  else if w = 2 then (List.range 12).filter fun c => (s.chan c).present && !(s.chan c).fenced
  else if w < 7 then (List.range 32).filter fun k => (s.bay (4 * (w - 3) + k / 8)).lit
  else if w < 15 then List.range 32
  else []

/-- One of PASS, MARGINAL and FAIL for each item, as measured: what the measurement finds is open. -/
def itemResults (items : List Nat) (w : Word) : Word :=
  BitVec.ofNat 64 ((items.map fun k => at_ (2 * k) (bits w (2 * k + 1) (2 * k) % 3 + 1)).sum)

def Dev.setResult (s : Dev) (i : Nat) (w : Word) : Dev := { s with sst := { s.sst with results := tset (fun _ => 0) s.sst.results i w } }

def Dev.sstResult (s : Dev) (i : Nat) : Word := tget (fun _ => 0) s.sst.results i

/-- The tests of Table 21.1. -/
def Dev.selfTest (s : Dev) : Dev :=
  forUpto 16 (fun s w => let (s, x) := s.draw; s.setResult w (itemResults (s.tested w) x)) s

/-- The calibration record (Table 21.2); the stamp is filled when its write starts. -/
def Dev.calRecord (s : Dev) (f : Flash) (tRec : BitVec 16) : CalRec :=
  { stepping := BitVec.ofNat 8 f.stepping.toNat
    seq := s.sst.calSeq + 1
    trimClass := f.trimClass
    tRec := tRec
    idDigest := digest256 f.idPub
    results := (List.range 16).map s.sstResult }

/-- Step 4: the calibration record, of at most 6 units, and the laser life records (R365). -/
def Dev.shutdownWrites (s : Dev) (f : Flash) : Dev :=
  let (s, t) := s.draw
  let (s, n) := s.draw
  (s.addJob (.calibration (s.calRecord f (t.setWidth 16))) (n.toNat % 6 + 1)).lifeWrite f

/-- SHUTDOWN. -/
def Dev.shutdown (s : Dev) (f : Flash) (v : View) : Dev :=
  if s.rst.boot ≠ .done ∨ s.rst.shutting then s.hostErr v Reg.rstCtl 0x02 2
  else
    let s := (s.planeReset 0x06).selfTest
    let s := if s.rst.coreUp then s.shutdownWrites f else { s with rst := { s.rst with jobs := s.rst.jobs.filter (·.running) } }
    ({ s with rst := { s.rst with shutting := true } } : Dev).darkIfDone

/-! ### Trim load and release (R395, R399, R400) -/

/-- TRIM_LOAD_PASS. A good pass gives the trims and options of OTP, and the first measurement (R410). -/
def Dev.trimPass (s : Dev) (f : Flash) (ok : Bool) : Dev :=
  if s.rst.powerFail || decide (s.rst.boot ≠ .trim) || s.rst.trimValid || 8 ≤ s.rst.trimFails then s
  else if !ok then { s with rst := { s.rst with trimFails := s.rst.trimFails + 1 } }
  else
    let s : Dev := { s with
      rst := { s.rst with trimValid := true, trimFails := 0, released := 1 }
      det := { s.det with trimClass := f.trimClass }
      mseg := { s.mseg with mac := f.mac } }
    (s.measure 1 0 (BitVec.ofNat 64 (f.stepping.toNat + at_ 16 f.trimClass.toNat))).fpStart

/-- DOMAIN_RELEASE: the domain released last reports ready, and the next is released. Release of the management core starts
the boot ROM; the router's sets DOWN on every port (R228). -/
def Dev.release (s : Dev) : Dev :=
  let n := s.rst.released
  if n = 0 || 9 ≤ n || s.rst.shutting || s.rst.warmAt.any (fun t => s.osc < t) || (n = 5 && !s.ink.trained) then s
  else
    { s with
      rst := { s.rst with released := n + 1, warmAt := none, boot := if n = 3 then .rom else s.rst.boot }
      capo := if n = 5 then { s.capo with down := 0xFFFF } else s.capo }

/-! ### The commands -/

/-- POWER_ON (R387, R388). -/
def execPowerOn (s : State) : Host.Outcome State Fault Refusal := .next (s.startOver (if s.dev.rst.powerFail then 0x02 else 0x01) 0)
/-- MOD_RESET (R392); without power it waits for power-on, which is the wider. -/
def execModReset (s : State) : Host.Outcome State Fault Refusal := .next (if s.dev.rst.powerFail then s else s.startOver 0x03 1)
def execPowerFail (s : State) : Host.Outcome State Fault Refusal := onDev Dev.powerFail s
def execOverVoltage (s : State) : Host.Outcome State Fault Refusal := onDev Dev.powerFail s
def execThermalTrip (s : State) : Host.Outcome State Fault Refusal := onDev Dev.thermalTrip s
def execWarmReset (v : View) (s : State) : Host.Outcome State Fault Refusal := onWrite v Reg.rstCtl 1 (pfOnly v fun s => s.warmReset v) s
def execShutdown (v : View) (s : State) : Host.Outcome State Fault Refusal := onWriteF v Reg.rstCtl 2 (fun f => pfOnly v fun s => s.shutdown f v) s
def execDomainRelease (s : State) : Host.Outcome State Fault Refusal := onDev Dev.release s
def execTrimLoadPass (crcOk : Bool) (s : State) : Host.Outcome State Fault Refusal := onDevF (fun f s => s.trimPass f crcOk) s

end Sys2Proof.Machine
end

