-- ==== Sys2Proof/Machine/Boot.lean ====
section
/-! DEFINITION. Boot (R403 to R406), firmware recovery (R224), what the firmware does when nothing is commanded, block reset
(R397) and the watchdog (R398). -/

namespace Sys2Proof.Machine

/-! ### Images start (R403, R404) -/

/-- A verified image is in the core's SRAM. -/
def Dev.imageStart (s : Dev) (img : List Byte) : Dev :=
  { s with rst := { s.rst with boot := .firmware, coreImage := some (fwImageOf img), recovering := false } }

/-- A fetched image that verifies is started, and its flash write asked for; a FLASH record tells of it (Table 21.6). -/
def Dev.recoveredStart (s : Dev) (img : List Byte) : Dev :=
  let s := (s.imageStart img).addJob (.firmware img) (ceilDiv img.length 65536)
  ({ s with rst := { s.rst with fwRecovered := true } } : Dev).postErr Reg.rstCtl 0x10 0x10 s.rst.holdup.toNat 1

/-- Step 1 of R404: the host mailbox is waited for. -/
def Dev.mailboxWait (s : Dev) : Dev :=
  { s with rst := { s.rst with boot := .recovery, recovering := false, recoveryAt := s.osc + secTicks 1 } }

/-- BOOT_ROM_START: the firmware image of flash is verified and started, or recovery begins. In BLANK the boot ROM stops, in
RETIRED it refuses every image (Table 20.9). -/
def Dev.bootRom (s : Dev) (f : Flash) : Dev :=
  if s.rst.released < 4 || decide (s.rst.boot ≠ .rom) || f.state == 0 || f.state == 4 then s
  else match f.fw with
    | some img => if fwCode f img img.length == 0 then s.imageStart img else s.mailboxWait
    | none => s.mailboxWait

/-! ### Neighbours (R224, R404) -/

def Dev.recov (s : Dev) (p : Nat) : Recov := tget (fun _ => {}) s.rte.recov p
def Dev.setRecov (s : Dev) (p : Nat) (x : Recov) : Dev := { s with rte := { s.rte with recov := tset (fun _ => {}) s.rte.recov p x } }

/-- A recovery unit (Table 10.23). -/
def recovUnit (op stepping off : Nat) (body : Nat) : BitVec 512 :=
  BitVec.ofNat 512 (op + at_ 8 (stepping % 256) + at_ 32 (off % 2 ^ 32) + at_ 64 body)

/-- The next port from `p` on whose link is up is asked; after the last, step 1 is repeated. -/
def Dev.askFrom (s : Dev) (f : Flash) (p : Nat) : Dev :=
  match (List.range 16).find? fun q => p ≤ q && s.portUp q with
  | some q =>
    let s := (s.setRecov q {}).sendRecovery q (recovUnit 1 (2 ^ f.stepping.toNat) 0 0)
    { s with rst := { s.rst with recovering := true, recoveryPort := q, recoveryAt := s.osc + secTicks 2 } }
  | none => s.mailboxWait

/-- The port asked is given up. -/
def Dev.nextPort (s : Dev) (f : Flash) : Dev := (s.setRecov s.rst.recoveryPort {}).askFrom f (s.rst.recoveryPort + 1)

/-- The port is being asked for an image. -/
def Dev.asking (s : Dev) (p : Nat) : Bool := decide (s.rst.boot = .recovery) && s.rst.recovering && s.rst.recoveryPort == p

def readLen : Nat := 57344

/-- READs up to four outstanding. -/
def Dev.askReads : Nat → Dev → Nat → Dev
  | 0, s, _ => s
  | n + 1, s, p =>
    let x := s.recov p
    let total := x.total.toNat
    if total ≤ x.asked || 4 ≤ ceilDiv x.asked readLen - x.bytes.length / readLen then s
    else
      let len := min readLen (total - x.asked)
      Dev.askReads n ((s.setRecov p { x with asked := x.asked + len }).sendRecovery p (recovUnit 3 0 x.asked len)) p

def Dev.answered (s : Dev) : Dev := { s with rst := { s.rst with recoveryAt := s.osc + secTicks 2 } }

/-- RECOVERY_OFFER. -/
def Dev.recovOffer (s : Dev) (f : Flash) (p : Nat) (d : BitVec 512) : Dev :=
  if bits d 7 0 != 2 || !s.asking p then s
  else
    let total := bits d 95 64
    if total = 0 ∨ fwMax < total then s.nextPort f
    else
      let x : Recov := { total := BitVec.ofNat 32 total, digest := BitVec.ofNat 256 (bits d 351 96) }
      Dev.askReads 4 (s.setRecov p x).answered p

/-- RECOVERY_DATA: image bytes in order; the whole image is compared with the OFFER and verified. -/
def Dev.recovData (s : Dev) (f : Flash) (p : Nat) (d : BitVec 512) : Dev :=
  let x := s.recov p
  let total := x.total.toNat
  let got := x.bytes.length
  if bits d 7 0 != 4 || !s.asking p || bits d 63 32 != got || x.asked ≤ got then s
  else
    let img := x.bytes ++ (leBytes 56 (bits d 511 64)).take (total - got)
    if img.length < total then Dev.askReads 4 (s.setRecov p { x with bytes := img }).answered p
    else if digest256 img == x.digest && fwCode f img total == 0 then (s.setRecov p {}).recoveredStart img
    else s.nextPort f

/-- RECOVERY_NONE. -/
def Dev.recovNone (s : Dev) (f : Flash) (p : Nat) : Dev := if s.asking p then s.nextPort f else s

/-- RECOVERY_TIMEOUT: 2 s without an answer. -/
def Dev.recovTimeout (s : Dev) (f : Flash) : Dev :=
  if decide (s.rst.boot = .recovery) && s.rst.recovering && s.rst.recoveryAt ≤ s.osc then s.nextPort f else s

/-- RECOVERY_REQUEST: this device as responder. -/
def Dev.recovRequest (s : Dev) (f : Flash) (p : Nat) (d : BitVec 512) : Dev :=
  if bits d 7 0 != 1 || !s.portUp p then s
  else
    let none := (s.setRecov p {}).sendRecovery p (recovUnit 5 0 0 0)
    match f.fw with
    | some img =>
      if s.rst.coreUp && (leAt img 6 1 &&& bits d 15 8) != 0 then
        (s.setRecov p { serving := true }).sendRecovery p (recovUnit 2 (leAt img 6 1) 0
          (img.length + at_ 32 (digest256 img).toNat))
      else none
    | Option.none => none

/-- RECOVERY_READ: the range as DATA units in offset order, the last one padded with zeros. -/
def Dev.recovRead (s : Dev) (f : Flash) (p : Nat) (d : BitVec 512) : Dev :=
  let off := bits d 63 32
  let len := bits d 95 64
  match f.fw with
  | some img =>
    if bits d 7 0 != 3 || !(s.recov p).serving || !s.rst.coreUp || !s.portUp p || len = 0 || readLen < len || img.length < off + len then s
    else forUpto (ceilDiv len 56) (fun s i =>
      s.sendRecovery p (recovUnit 4 0 (off + 56 * i) (ofLe ((slice img off len).drop (56 * i) |>.take 56)))) s
  | none => s

/-! ### The host mailbox -/

/-- RST_MBOX_CTL as the boot ROM leaves it: GO cleared, DONE set, and REFUSED where the image was. -/
def Dev.mboxEnd (s : Dev) (refused : Bool) : Dev := s.setReg Reg.rstMboxCtl (if refused then 6 else 2)

/-- MAILBOX_GO: in step 1 of R404, with the link in DL_Active, the image is read and verified. -/
def Dev.mailboxGo (s : Dev) (f : Flash) (env : Env) : Dev :=
  let s := s.setReg Reg.rstMboxCtl (s.reg Reg.rstMboxCtl ||| 1)
  if decide (s.rst.boot ≠ .recovery) || s.rst.recovering || !s.hst.dlActive then s
  else
    let n := (s.reg Reg.rstMboxLen).toNat
    let refuse := fun (s : Dev) => (s.mboxEnd true).askFrom f 0
    if fwMax < n then refuse s
    else match Dev.extReadAll (ceilDiv n 64) (s.enter env) env 0 (s.reg Reg.rstMboxAddr).toNat n [] with
      | (s, some img) => if fwCode f img n == 0 then (s.mboxEnd false).recoveredStart img else refuse s
      | (s, none) => refuse s

/-- MAILBOX_WAIT_EXPIRY. -/
def Dev.mailboxExpiry (s : Dev) (f : Flash) : Dev :=
  if decide (s.rst.boot = .recovery) && !s.rst.recovering && s.rst.recoveryAt ≤ s.osc then s.askFrom f 0 else s

/-! ### The firmware's start (R405, R406, R416 to R418) -/

/-- The stored records, and the one taken: the larger SEQ. -/
def Flash.cals (f : Flash) : List CalRec := f.cal.toList ++ f.calOld.toList
def Flash.calTaken (f : Flash) : Option CalRec :=
  f.cals.foldl (fun a r => match a with | some x => if x.seq.toNat < r.seq.toNat then some r else some x | none => some r) none

/-- R416: the record taken is accepted. -/
def calAccepted (f : Flash) (tStart : BitVec 16) (r : CalRec) : Bool :=
  r.magic == 0x41584341 && r.format == 1 && r.stepping.toNat == f.stepping.toNat && r.trimClass == f.trimClass
    && r.idDigest == digest256 f.idPub && decide ((tStart.toInt - r.tRec.toInt).natAbs < 1500)

/-- The test and item of the two bits at 2 k of word w of SST_RESULT (Tables 21.1, 21.9). -/
def sstItem (w k : Nat) : Nat × Nat :=
  if w = 0 then (2, k) else if w = 1 then (if k < 16 then (3, k) else (1, k - 16)) else if w = 2 then (6, k)
  else if w < 7 then (4, 32 * (w - 3) + k) else (5, 32 * (w - 7) + k)

/-- R418: one SELF_TEST record for each MARGINAL or FAIL item. -/
def Dev.sstRecords (s : Dev) : Dev :=
  forUpto 15 (fun s w => forUpto 32 (fun s k =>
    let r := bits (s.sstResult w) (2 * k + 1) (2 * k)
    let x := sstItem w k
    if 2 ≤ r then s.postErr Reg.sstCtl 0x12 x.1 (x.2 + at_ 8 r) (if r = 3 then 2 else 1) else s) s) s

/-- Step 1 of R405: the calibration record is taken, and its results and stamp show in SST. -/
def Dev.calibrate (s : Dev) (f : Flash) (tStart : BitVec 16) : Dev :=
  let t := f.calTaken
  let r := t.getD { results := [] }
  let s : Dev := { s with
    sst := { s.sst with
      calSeq := if t.isSome then r.seq else 0
      calTime := if t.isSome then r.time else 0
      calInfo := BitVec.ofNat 64 ((if t.isSome then r.epoch.toNat + at_ 32 r.tRec.toNat else 0) + at_ 48 tStart.toNat)
      results := []
      erased := f.cals.isEmpty }
    rst := { s.rst with calWarm := t.any (calAccepted f tStart) } }
  (forUpto 16 (fun s w => s.setResult w (r.results.getD w 0)) s).sstRecords

/-- The firmware's first start since power-on or MOD_RESET_N. -/
def Dev.firstStart (s : Dev) (f : Flash) (tStart : BitVec 16) : Dev :=
  let s := s.calibrate f tStart
  let count := f.startCount.getD 0 + 1
  let start : FlashJob := { what := .startCount count, left := 2 }
  let erase : List FlashJob := if f.cals.isEmpty then [] else [{ what := .eraseCal, left := f.cals.length }]
  { s with
    mseg := { s.mseg with keyed := f.rack.isSome, rackKey := f.rack.getD 0 }
    rst := { s.rst with
      started := true, startCount := count, startWritten := false
      jobs := start :: erase ++ s.rst.jobs
      bootScore := if f.score.isSome then 1 else 0 } }

/-- FIRMWARE_START: `tStart` is the central die reference sensor in 0.01 °C. -/
def Dev.firmwareStart (s : Dev) (f : Flash) (tStart : BitVec 16) : Dev :=
  match s.rst.boot, s.rst.coreImage with
  | .firmware, some w =>
    let s := s.measure 2 w.digest w.version
    let s : Dev := { s with
      rst := { s.rst with coreUp := true, kickAt := s.osc, boot := .done }
      det := { s.det with fwDigest := w.digest } }
    let s := if s.rst.started then s else s.firstStart f tStart
    s.fpStart.checkStarts f
  | _, _ => s

/-! ### The boot Score (step 2 of R405) -/

/-- The firmware's copy reaches the staging area at the base set. -/
def Dev.stagingThere (s : Dev) : Bool := s.ink.trained && (s.ink.populated != 0 || s.reach 0 .host)

/-- The boot Score is copied to the staging area at the base stored with it, and LOAD issued. -/
def Dev.bootScoreGo (s : Dev) (f : Flash) : Dev :=
  match f.score with
  | none => s
  | some (img, base) =>
    if s.rst.bootScore ≠ 1 ∨ !s.rst.coreUp ∨ s.rst.shutting ∨ s.capoBusy ∨ !s.stagingThere then s
    else
      let s := (s.setReg Reg.capoStagingBase (BitVec.ofNat 64 (base / 65536 * 65536)))
      let s := (s.setReg Reg.capoLoadSrc s.stagingSel).setReg Reg.capoLoadLen (BitVec.ofNat 64 img.length)
      let s : Dev := { s with rst := { s.rst with bootScore := 2 } }
      (forUpto (ceilDiv img.length 64) (fun s i => (s.extWrite {} true s.stagingSel (64 * i) (slice img (64 * i) 64)).1) s).loadCmd

/-- A boot Score that is refused leaves the device as it is. -/
def Dev.bootScoreEnd (s : Dev) : Dev := { s with rst := { s.rst with bootScore := 0 } }

/-- LOAD_DONE; the boot Score goes on to its check. -/
def Dev.loadDoneBoot (s : Dev) (f : Flash) (env : Env) : Dev :=
  let was := decide (s.capo.st = .loading) && s.rst.coreUp
  let s := s.loadDone f env
  if !was || s.rst.bootScore ≠ 2 then s
  else if s.capo.loadResult == 0 then s.checkCmd else s.bootScoreEnd

/-- CHECK_DONE; the boot Score is applied once the state is PASSED (R68). -/
def Dev.checkDoneBoot (s : Dev) : Dev :=
  let was := decide (s.capo.st = .checking)
  let s := s.checkDone
  if !was || s.rst.bootScore ≠ 2 then s
  else
    let s := s.bootScoreEnd
    if s.capo.st ≠ .passed then s
    else
      let s := s.applyNowCmd .port
      if s.capo.armResult == 0x09 && decide (s.capo.st = .idle) then { s with rst := { s.rst with scoreBooted := true } } else s

/-! ### READY (step 4 of R405) -/

/-- OPT_PORT_STATUS.READY: all wavelengths LOCKED and the link trained. -/
def Dev.optReady (s : Dev) (p : Nat) : Bool :=
  (s.optPort p).locked && (if s.isEth p then (s.ethPort (p - 14)).link else (s.link p).up)

/-- READY is set once the host and tray attachments have trained and every unfenced fabric port is READY (R405), the erases
of R417 complete. -/
def Dev.readyGo (s : Dev) : Dev :=
  let tray := (List.range 4).all fun k => !bit (s.reg (Reg.trayPortCfg k)) 0 || decide ((s.trayPort k).st = .up)
  let ports := (List.range 16).all fun p => s.isEth p || (s.optPort p).fenced || s.optReady p
  if decide (s.rst.boot = .done) && s.rst.coreUp && !s.rst.shutting && s.rst.released == 9 && s.sst.erased && s.hst.dlActive && tray && ports then
    { s with rst := { s.rst with ready := true } }
  else s

/-- Interrupts left pending go once they are unmasked (PRESUMED: MSI-X). -/
def Dev.pbaGo (s : Dev) : Dev :=
  s.hst.pba.foldl (fun s p =>
    let fn := p.1 / 2048
    let v := p.1 % 2048
    if (s.fn fn).msixMask || bit (s.msixWord fn v 1) 32 then s
    else ({ s with hst := { s.hst with pba := terase s.hst.pba p.1 } } : Dev).interrupt fn v) s

/-- What passes where no command waits: a tick of the oscillator, what the firmware watches for, the management MAC's next
frame, and interrupts that have become free. -/
def Dev.idle (s : Dev) (f : Flash) : Dev := ((s.passTick.bootScoreGo f).checkStarts f).readyGo.msegSend.pbaGo

/-! ### The watchdog (R398) -/

/-- RST_WDT_KICK. -/
def Dev.wdtKick (s : Dev) : Dev := { s with rst := { s.rst with kickAt := s.osc } }

/-- A flash write not begun is dropped; while shutting down that ends the shutdown. -/
def Dev.coreGone (s : Dev) : Dev :=
  if s.rst.shutting then ({ s with rst := { s.rst with jobs := s.rst.jobs.filter (·.running) } } : Dev).darkIfDone else s

/-- WATCHDOG_EXPIRY: `intact` says whether the firmware in SRAM still has the digest last measured. -/
def Dev.watchdog (s : Dev) (intact : Bool) : Dev :=
  let c := s.reg Reg.rstWdtCfg
  if !bit c 16 || !s.rst.coreUp || s.osc < s.rst.kickAt + msTicks (max 1 (bits c 15 0)) then s
  else
    let s : Dev := { s with rst := { s.rst with
      coreUp := false, boot := if intact then .firmware else .rom } }
    ((s.bump (Reg.rstCounts 3)).postErr Reg.rstCtl 0x11 0x02 0 1).coreGone

/-! ### Block reset (R397, Table 20.5) -/

/-- The block and what it loses; `forced` where it did not go idle. -/
def Dev.resetBlock (s : Dev) (code arg : Nat) (forced : Bool) : Dev :=
  match code with
  | 1 => if (s.trayPort arg).st = .down then s else if forced then s.trayDown arg .training else s.trayReset arg .training
  | 2 =>
    let s := if forced then s.ethClear arg else s
    s.setEth arg { s.ethPort arg with link := false, pcsLock := false }
  | 3 =>
    { s with mseg := { s.mseg with
      rx := if forced then [] else s.mseg.rx
      tx := if forced then s.mseg.tx.drop 1 else s.mseg.tx
      collisions := 0, sending := 0, backoffUntil := none, pausedUntil := none, plcaActive := false } }
  | 4 =>
    if !forced then s
    else { s with
      sch := { s.sch with histMgmt := [] }
      rte := { s.rte with cmapMgmt := s.rte.cmapNext } }
  | 5 =>
    let s := s.folGap
    let s := if !forced then s else
      let (s, n) := s.draw
      s.folPut 0x0F 0x3F s.rlg.time (leBytes 8 n.toNat ++ zeros 8)
    (match s.fol.st with
    | .capture | .post => { s with fol := { s.fol with st := .idle, postLeft := 0, queue := 0, gap := 0 } }
    | _ => s)
  | _ => { s with sst := { s.sst with run := none } }

/-- The block is reset and released, and the outcome reported. -/
def Dev.blockDone (s : Dev) (code : Byte) (arg : BitVec 2) (forced : Bool) : Dev :=
  let s := s.resetBlock code.toNat arg.toNat forced
  let s := ({ s with rst := { s.rst with block := none, blockForced := forced } } : Dev).bump (Reg.rstCounts 4)
  if forced then (s.bump (Reg.rstCounts 5)).postErr Reg.rstCtl 0x11 0x01 (code.toNat + at_ 8 arg.toNat) 1 else s

/-- BLOCK_RESET: a write to RST_BLOCK_CTL. A timeout of 0 resets at once. -/
def Dev.blockCmd (s : Dev) (v : View) (w : Word) : Dev :=
  let code : Byte := BitVec.ofNat 8 (bits w 7 0)
  let arg : BitVec 2 := BitVec.ofNat 2 (bits w 9 8)
  if s.rst.block.isSome then s.hostErr v Reg.rstBlockCtl 0x02 w
  else if code == 0 || 7 ≤ code.toNat || (code == 2 && 2 ≤ arg.toNat) then s.hostErr v Reg.rstBlockCtl 0x03 w
  else
    let t := bits (s.reg Reg.rstIdleTimeout) 15 0
    if t = 0 then s.blockDone code arg true
    else { s with rst := { s.rst with block := some (code, arg, s.osc + usTicks t) } }

/-- BLOCK_IDLE: the block has gone idle, or its time has passed. -/
def Dev.blockIdle (s : Dev) (idle : Bool) : Dev :=
  match s.rst.block with
  | none => s
  | some (code, arg, t) => if idle then s.blockDone code arg false else if t ≤ s.osc then s.blockDone code arg true else s

/-! ### The commands -/

def execInkwellTrainingDone (d : Dimms) (s : State) : Host.Outcome State Fault Refusal := onDev (fun s => s.inkTrained d.chans) s
def execHostLinkUp (l : HostLink) (s : State) : Host.Outcome State Fault Refusal := onDev (fun s => s.hostUp l) s
def execLoadDone (env : Env) (s : State) : Host.Outcome State Fault Refusal := onDevF (fun f s => s.loadDoneBoot f env) s
def execCheckDone (s : State) : Host.Outcome State Fault Refusal := onDev Dev.checkDoneBoot s
def execBootRomStart (s : State) : Host.Outcome State Fault Refusal := onDevF (fun f s => s.bootRom f) s
def execMailboxGo (v : View) (env : Env) (s : State) : Host.Outcome State Fault Refusal :=
  onWriteF v Reg.rstMboxCtl 1 (fun f => pfOnly v fun s => s.mailboxGo f env) s
def execMailboxWaitExpiry (s : State) : Host.Outcome State Fault Refusal := onDevF (fun f s => s.mailboxExpiry f) s
def execRecoveryTimeout (s : State) : Host.Outcome State Fault Refusal := onDevF (fun f s => s.recovTimeout f) s
def execRecoveryRequest (port : Fin 16) (d : BitVec 512) (s : State) : Host.Outcome State Fault Refusal :=
  onDevF (fun f s => s.recovRequest f port d) s
def execRecoveryOffer (port : Fin 16) (d : BitVec 512) (s : State) : Host.Outcome State Fault Refusal :=
  onDevF (fun f s => s.recovOffer f port d) s
def execRecoveryRead (port : Fin 16) (d : BitVec 512) (s : State) : Host.Outcome State Fault Refusal :=
  onDevF (fun f s => s.recovRead f port d) s
def execRecoveryData (port : Fin 16) (d : BitVec 512) (s : State) : Host.Outcome State Fault Refusal :=
  onDevF (fun f s => s.recovData f port d) s
def execRecoveryNone (port : Fin 16) (s : State) : Host.Outcome State Fault Refusal := onDevF (fun f s => s.recovNone f port) s
def execFirmwareStart (tStart : BitVec 16) (s : State) : Host.Outcome State Fault Refusal :=
  onDevF (fun f s => s.firmwareStart f tStart) s
def execRstWdtKick (v : View) (s : State) : Host.Outcome State Fault Refusal := onWrite v Reg.rstWdtKick 0 (pfOnly v Dev.wdtKick) s
def execWatchdogExpiry (intact : Bool) (s : State) : Host.Outcome State Fault Refusal := onDev (fun s => s.watchdog intact) s
def execBlockReset (v : View) (w : Word) (s : State) : Host.Outcome State Fault Refusal := onWrite v Reg.rstBlockCtl w (pfOnly v fun s => s.blockCmd v w) s
def execBlockIdle (idle : Bool) (s : State) : Host.Outcome State Fault Refusal := onDev (fun s => s.blockIdle idle) s

end Sys2Proof.Machine
end

