-- ==== Sys2Proof/Machine/Cipher.lean ====
section
/-! DEFINITION. Commands of the cipher's key table (R296, R297, R310). -/

namespace Sys2Proof.Machine

/-- USERS of an entry: connections not in RESET whose context encrypts with it. -/
def Dev.cphUsers (s : Dev) (i : Nat) : Nat :=
  (s.conns.filter fun p => decide (p.2.st ≠ .reset) && p.2.enc && p.2.cphKey == i).length

/-- The key in CPH_KEY_DATA. -/
def Dev.cphData (s : Dev) : BitVec 256 :=
  BitVec.ofNat 256 ((List.range 4).foldl (fun a w => a + at_ (64 * w) (tget (fun _ => 0) s.cph.data w).toNat) 0)

/-- A key command of Table 14.1: the entry takes `key`, or is refused; CPH_KEY_DATA is zeroed either way. -/
def Dev.cphCommand (s : Dev) (key : Option (BitVec 256)) : Dev :=
  let i := bits (s.reg Reg.cphKeySel) 15 0
  let code : Byte := if (s.cphPart i).isNone then 0x02 else if s.cphUsers i != 0 then 0x01 else 0x00
  { s with cph := { s.cph with
      data := []
      result := tset (fun _ => 0) s.cph.result i code
      keys := if code == 0 then tset (fun _ => none) s.cph.keys i key else s.cph.keys } }

/-- A write of CPH_KEY_CTL: only the physical function's view acts. -/
def Dev.cphCtl (s : Dev) (v : View) (w : Word) : Dev :=
  match v with
  | .pf => s.gated v Reg.cphKeyCtl w fun s =>
      match bits w 7 0 with
      | 0 => s
      | 1 => s.cphCommand (some s.cphData)
      | 2 => s.cphCommand none
      | _ => s.hostErr v Reg.cphKeyCtl 0x03 w
  | _ => s.hostErr v Reg.cphKeyCtl 0x05 w

/-- A write of a word of CPH_KEY_DATA. -/
def Dev.cphDataWrite (s : Dev) (v : View) (i : Nat) (w : Word) : Dev :=
  match v with
  | .pf => s.gated v (Reg.cphKeyData i) w fun s => { s with cph := { s.cph with data := tset (fun _ => 0) s.cph.data i w } }
  | _ => s.hostErr v (Reg.cphKeyData i) 0x05 w

/-- CPH_KEY_STATUS of the selected entry (Table 14.7). -/
def Dev.cphStatus (s : Dev) : Word :=
  let i := bits (s.reg Reg.cphKeySel) 15 0
  BitVec.ofNat 64 (b2n (tget (fun _ => none) s.cph.keys i).isSome + at_ 1 ((s.cphPart i).getD 0) + at_ 7 (b2n (s.cphPart i).isSome)
    + at_ 12 (s.cphUsers i) + at_ 56 (tget (fun _ => 0) s.cph.result i).toNat)

def execCphKeyLoad (v : View) (w : Word) (s : State) : Host.Outcome State Fault Refusal :=
  onWrite v Reg.cphKeyCtl w (fun s => if bits w 7 0 = 1 then s.cphCtl v w else s) s
def execCphKeyErase (v : View) (w : Word) (s : State) : Host.Outcome State Fault Refusal :=
  onWrite v Reg.cphKeyCtl w (fun s => if bits w 7 0 = 2 then s.cphCtl v w else s) s

end Sys2Proof.Machine
end

