-- ==== Sys2Proof/Machine/FlashEng.lean ====
section
/-! DEFINITION. The flash write engine with its hold-up check (R401, R402), and the lifecycle and attestation commands (R407 to
R412). -/

namespace Sys2Proof.Machine

/-! ### Kinds of write (Table 20.7) -/

/-- The row of Table 20.7. An erase of a validity unit has the energy of a 4 KiB unit (R417). -/
def FlashWhat.row : FlashWhat → Nat
  | .firmware _ => 1
  | .score _ _ => 2
  | .calibration _ | .eraseCal => 3
  | .life _ => 4
  | .rackKey _ => 5
  | .startCount _ | .nonce _ | .state _ | .provision _ _ => 6

/-- The energy a unit requires, in mJ. -/
def FlashWhat.needs : FlashWhat → Nat
  | .firmware _ | .score _ _ | .calibration _ => 17800
  | .life _ | .rackKey _ | .eraseCal => 5700
  | .startCount _ | .nonce _ | .state _ | .provision _ _ => 6000

/-- An LCS command's write. -/
def FlashWhat.lcs : FlashWhat → Bool
  | .nonce _ | .state _ | .provision _ _ => true
  | _ => false

def FlashWhat.isStart : FlashWhat → Bool
  | .startCount _ => true
  | _ => false

/-- R402: the energy of the bank in mJ, rounded, from V0 and V1 in mV; none where the voltages give none. -/
def holdupE (v0 v1 : Nat) : Option Nat :=
  let den := (v0 * v0 : Int) - v1 * v1
  let num := 200 * ((v0 * v0 : Int) - 36000 * 36000)
  if den ≤ 0 then none else some ((2 * num + den) / (2 * den)).toNat

/-- RST_HOLDUP holds 24 bits; a larger energy shows as their largest value. -/
def cap24 (n : Nat) : BitVec 24 := BitVec.ofNat 24 (min n (2 ^ 24 - 1))

def Dev.job (s : Dev) (i : Nat) : FlashJob := s.rst.jobs.getD i {}

/-- The write the engine may start or go on with: none while a unit is in progress; START_COUNT's before any other, then one
begun, then the first that waits for no retry. -/
def Dev.jobAt (s : Dev) : Option Nat :=
  let n := List.range s.rst.jobs.length
  let may := fun i => (s.job i).retryAt.isNone
  if s.rst.jobs.any (·.running) then none
  else match s.rst.jobs with
    | [] => none
    | j :: _ =>
      if j.what.isStart then (if may 0 then some 0 else none)
      else (n.find? fun i => may i && decide (0 < (s.job i).done)).or (n.find? may)

def Dev.setJob (s : Dev) (i : Nat) (j : FlashJob) : Dev := { s with rst := { s.rst with jobs := s.rst.jobs.set i j } }
def Dev.dropJob (s : Dev) (i : Nat) : Dev := { s with rst := { s.rst with jobs := s.rst.jobs.eraseIdx i } }

/-- An LCS command ends. -/
def Dev.lcsEnd (s : Dev) (result : Byte) : Dev := { s with lcs := { s.lcs with result := result, cmd := none } }

/-- R402, Table 20.7: what a refused write does. -/
def Dev.jobRefused (s : Dev) (f : Flash) (i : Nat) : Dev :=
  let j := s.job i
  let e := s.rst.holdup.toNat
  let s := (s.bump (Reg.rstCounts 7)).postErr Reg.rstCtl 0x10 j.what.row e 1
  let after := fun (t : Nat) => if s.rst.shutting then s.dropJob i else s.setJob i { j with retryAt := some (s.osc + t) }
  let s := match j.what with
    | .firmware _ => after (secTicks 10)
    | .score _ _ | .calibration _ => s.dropJob i
    | .life _ => after (secTicks 3600)
    | .rackKey _ => ({ s.dropJob i with mseg := { s.mseg with keyPend := none } } : Dev).keyAnswer f false
    | .startCount _ | .eraseCal => after (msTicks 100)
    | .nonce _ | .state _ | .provision _ _ => (s.dropJob i).lcsEnd 0x05
  s.darkIfDone

/-! ### FLASH_WRITE_START -/

/-- What flash no longer holds once the first unit of a write has begun: single slots, and the older copy of two (R401). -/
def Flash.begun (f : Flash) (w : FlashWhat) : Flash :=
  match w with
  | .firmware _ => { f with fw := none }
  | .score _ _ => { f with score := none }
  | .calibration _ => { f with calOld := none }
  | .life _ => { f with lifeOld := [] }
  | .rackKey _ => { f with rackOld := none }
  | .eraseCal => if f.cal.isSome then { f with cal := none } else { f with calOld := none }
  | _ => f

/-- Table 21.2: TIME, EPOCH and STAMP_VALID at the start of a calibration record's write. -/
def Dev.stamped (s : Dev) (w : FlashWhat) : FlashWhat :=
  match w with
  | .calibration r => .calibration { r with time := s.rlg.time, epoch := s.rlg.epoch, stampValid := s.rlg.lock.stampOk }
  | w => w

/-- The bank is measured: E is kept, as the measurement gives it. -/
def Dev.measureBank (s : Dev) (v0 v1 : Nat) : Dev :=
  let (s, e) := match holdupE v0 v1 with
    | some e => (s, cap24 e)
    | none => let (s, w) := s.draw; (s, w.setWidth 24)
  { s with rst := { s.rst with holdup := e, holdupAt := s.osc } }

/-- A unit begins. The first of a write ends what its slot held. -/
def State.unitBegins (s : State) (i : Nat) : State :=
  let d := s.dev
  let j := d.job i
  if j.done = 0 then
    let d := d.setJob i { j with running := true, what := d.stamped j.what }
    { s with
      dev := (match j.what with | .rackKey _ => d.keyAnswer s.flash true | _ => d)
      flash := s.flash.begun j.what }
  else { s with dev := d.setJob i { j with running := true } }

/-- FLASH_WRITE_START: before a write and every 64th unit of it the bank is measured, in mV before and after the draw. -/
def State.writeStart (s : State) (v0 v1 : Nat) : State :=
  match s.dev.jobAt with
  | none => s
  | some i =>
    let j := s.dev.job i
    if !s.dev.rst.coreUp || s.dev.rst.powerFail || j.running || j.retryAt.isSome || j.done % 64 != 0 then s
    else
      let d := s.dev.measureBank v0 v1
      if d.rst.holdup.toNat < j.what.needs then { s with dev := d.jobRefused s.flash i }
      else ({ s with dev := d } : State).unitBegins i

/-! ### FLASH_UNIT_DONE -/

/-- What a completed write stores. -/
def Flash.stored (f : Flash) (w : FlashWhat) : Flash :=
  match w with
  | .firmware b => { f with fw := some b }
  | .score b base => { f with score := some (b, base) }
  | .calibration r => { f with cal := some r, calOld := f.cal }
  | .life l => { f with life := l, lifeOld := f.life }
  | .rackKey k => { f with rack := some k, rackOld := f.rack }
  | .startCount c => { f with startCount := some c }
  | .nonce c => { f with nonce := c }
  | .state c =>
    if c = 4 then
      let kept := f.digests.filter fun p => p.1 == 9 || p.1 == 10
      { f with state := c, idPriv := [], digests := kept }
    else { f with state := c }
  | .provision i d => { f with provisioned := f.provisioned ||| BitVec.ofNat 10 (2 ^ (i - 1)), digests := tset (fun _ => 0) f.digests i d }
  | .eraseCal => { f with cal := none, calOld := none }

/-- LCS_NONCE for a counter (R409). -/
def Dev.nonceFor (s : Dev) (f : Flash) (count : Word) : BitVec 256 :=
  digest256 (leBytes 32 (digest256 f.idPub).toNat ++ leBytes 8 count.toNat ++ leBytes 8 s.rlg.time.toNat)

/-- The effect of a completed write on the device; `f` is flash after it. -/
def Dev.jobDone (s : Dev) (f : Flash) (w : FlashWhat) : Dev :=
  match w with
  | .firmware b => if s.capo.fw.any (fun x => x.bytes == b) then { s with capo := { s.capo with fwStaged := false, fw := none } } else s
  | .life _ => { s with lives := [] }
  | .rackKey k => { s with mseg := { s.mseg with keyed := true, rackKey := k, keyPend := none } }
  | .startCount _ => { s with rst := { s.rst with startWritten := true } }
  | .nonce c => ({ s with lcs := { s.lcs with nonce := s.nonceFor f c, nonceFresh := true } } : Dev).lcsEnd 0
  | .state c => (s.measure 4 0 (c.setWidth 64)).lcsEnd 0
  | .provision _ _ => s.lcsEnd 0
  | .eraseCal => { s with sst := { s.sst with erased := true } }
  | .score _ _ | .calibration _ => s

/-- FLASH_UNIT_DONE: the unit in progress is written and read back. The next unit follows at once, but for every 64th, which
waits for the hold-up check; none starts while the power has failed or the management core is absent (Table 1.3). -/
def State.unitDone (s : State) : State :=
  match (List.range s.dev.rst.jobs.length).find? fun i => (s.dev.job i).running with
  | none => s
  | some i =>
    let d := s.dev
    let j := d.job i
    let k : FlashJob := { j with done := j.done + 1, left := j.left - 1 }
    if j.left ≤ 1 then
      let f := s.flash.stored j.what
      { s with dev := ((d.dropJob i).jobDone f j.what).darkIfDone, flash := f }
    else { s with dev := d.setJob i { k with running := k.done % 64 != 0 && d.rst.coreUp && !d.rst.powerFail } }

/-- FLASH_RETRY: writes whose retry is due may start again. -/
def Dev.flashRetry (s : Dev) : Dev :=
  let due := fun (j : FlashJob) => if j.retryAt.any (fun t => t ≤ s.osc) then { j with retryAt := none } else j
  { s with rst := { s.rst with jobs := s.rst.jobs.map due } }

/-! ### LCS commands (R407 to R411) -/

/-- Every LCS command: one at a time (R412). -/
def Dev.lcsCmd (s : Dev) (v : View) (code : Nat) (f : Dev → Dev) : Dev :=
  if s.lcs.cmd.isSome then s.hostErr v Reg.lcsCtl 0x02 (BitVec.ofNat 64 code) else f s

/-- A command whose OTP or flash write is asked for. -/
def Dev.lcsJob (s : Dev) (code : Byte) (w : FlashWhat) : Dev :=
  ({ s with lcs := { s.lcs with cmd := some code } } : Dev).addJob w 1

def Dev.nonceCmd (s : Dev) (f : Flash) : Dev := s.lcsJob 1 (.nonce (f.nonce + 1))

def tokenLen : Nat := 3145

/-- RESULT of a token for a request (R409), the checks in the order of its bytes; 0 where it is valid. The nonce is one
attempt's. -/
def Dev.tokenCode (s : Dev) (f : Flash) (b : List Byte) (request : Nat) : Byte :=
  let key := slice b 72 1793
  if leAt b 0 4 != 0x41584C54 || leAt b 4 1 != request || leAt b 5 3 != 0 then 0x07
  else if leAt b 8 32 != (digest256 f.idPub).toNat then 0x04
  else if !s.lcs.nonceFresh || leAt b 40 32 != s.lcs.nonce.toNat then 0x03
  else if !f.keyOk 10 key || !Config.falconVerify key (shake256 64 (b.take 1865)) (slice b 1865 1280) then 0x02
  else 0

/-- ENTER_DIAG (to state 3) and RETIRE (to state 4): an attempt uses the nonce up, whatever its outcome. -/
def Dev.tokenCmd (s : Dev) (f : Flash) (env : Env) (code : Byte) (dest : BitVec 4) : Dev :=
  let used := fun (s : Dev) => ({ s with lcs := { s.lcs with nonceFresh := false } } : Dev)
  if f.state != 2 && !(dest == 4 && f.state == 3) then (used s).lcsEnd 0x01
  else match Dev.extReadAll (ceilDiv tokenLen 64) (s.enter env) env (s.reg Reg.lcsReqAddr) 0 tokenLen [] with
    | (s, none) => (used s).lcsEnd 0x06
    | (s, some b) =>
      let r := s.tokenCode f b dest.toNat
      if r == 0 then (used s).lcsJob code (.state dest) else (used s).lcsEnd r

def Dev.exitDiag (s : Dev) (f : Flash) : Dev := if f.state == 3 then s.lcsJob 3 (.state 2) else s.lcsEnd 0x01

/-- Provisioned as SECURE asks: a Score key, a firmware key, the issuing key and the diagnostics authority. -/
def Flash.secureReady (f : Flash) : Bool :=
  bits f.provisioned 3 0 != 0 && bits f.provisioned 7 4 != 0 && bit f.provisioned 8 && bit f.provisioned 9

def Dev.secure (s : Dev) (f : Flash) : Dev := if f.state == 1 && f.secureReady then s.lcsJob 4 (.state 2) else s.lcsEnd 0x01

/-- PROVISION. -/
def Dev.provision (s : Dev) (f : Flash) (env : Env) : Dev :=
  if f.state != 1 then s.lcsEnd 0x01
  else match Dev.extReadAll 32 (s.enter env) env (s.reg Reg.lcsReqAddr) 0 2048 [] with
    | (s, none) => s.lcsEnd 0x06
    | (s, some b) =>
      let item := leAt b 0 1
      if item = 0 || 10 < item then s.lcsEnd 0x07
      else if bit f.provisioned (item - 1) then s.lcsEnd 0x01
      else s.lcsJob 7 (.provision item (BitVec.ofNat 256 (leAt b 8 32)))

/-- LCS_ATTEST_NONCE. -/
def Dev.attestNonce (s : Dev) : List Byte := (List.range 4).flatMap fun w => leBytes 8 (s.reg (Reg.lcsAttestNonce w)).toNat

/-- The attestation report (R411). -/
def Dev.report (s : Dev) (f : Flash) : List Byte :=
  let l := s.lcs
  let node := (s.capo.node.toNat, s.capo.nodeSet)
  let body := leBytes 4 0x41584154 ++ leBytes 2 1 ++ leBytes 2 l.entries.length ++ leBytes 4 (if node.2 then node.1 else 0)
    ++ leBytes 1 f.state.toNat ++ zeros 3 ++ leBytes 8 s.det.fingerprint.toNat ++ s.attestNonce
    ++ leBytes 64 l.base.toNat ++ leBytes 64 l.meas.toNat ++ zeros 72
    ++ (l.entries.flatMap fun e => leBytes 64 e.toNat)
  let pub := (f.idPub ++ zeros 1793).take 1793
  body ++ pub ++ (Config.falconSign f.idPriv (shake256 64 (body ++ pub)) ++ zeros 1280).take 1280

/-- Pieces of 64 bytes written to LCS_REQ_ADDR; false at the first that fails. -/
def Dev.extWriteAll (s : Dev) (env : Env) (sel : Word) (b : List Byte) : Dev × Bool :=
  (List.range (ceilDiv b.length 64)).foldl (fun (q : Dev × Bool) i =>
    if q.2 then q.1.extWrite env true sel (64 * i) (slice b (64 * i) 64) else q) (s, true)

/-- ATTEST: nothing is written where the report does not fit or a write fails. -/
def Dev.attest (s : Dev) (f : Flash) (env : Env) : Dev :=
  let r := s.report f
  if f.state == 4 then s.lcsEnd 0x01
  else if (s.reg Reg.lcsReqLen).toNat < r.length then s.lcsEnd 0x07
  else
    let s := s.enter env
    match s.extWriteAll env (s.reg Reg.lcsReqAddr) r with
    | (t, true) => t.lcsEnd 0
    | (_, false) => s.lcsEnd 0x06

/-! ### The commands -/

def execFlashWriteStart (v0 v1 : BitVec 17) (s : State) : Host.Outcome State Fault Refusal := .next (s.writeStart v0.toNat v1.toNat)
def execFlashUnitDone (s : State) : Host.Outcome State Fault Refusal := .next s.unitDone
def execFlashRetry (s : State) : Host.Outcome State Fault Refusal := onDev Dev.flashRetry s
def execNonce (v : View) (s : State) : Host.Outcome State Fault Refusal :=
  onWriteF v Reg.lcsCtl 1 (fun f => pfOnly v fun s => s.lcsCmd v 1 fun s => s.nonceCmd f) s
def execEnterDiag (v : View) (env : Env) (s : State) : Host.Outcome State Fault Refusal :=
  onWriteF v Reg.lcsCtl 2 (fun f => pfOnly v fun s => s.lcsCmd v 2 fun s => s.tokenCmd f env 2 3) s
def execExitDiag (v : View) (s : State) : Host.Outcome State Fault Refusal :=
  onWriteF v Reg.lcsCtl 3 (fun f => pfOnly v fun s => s.lcsCmd v 3 fun s => s.exitDiag f) s
def execSecure (v : View) (s : State) : Host.Outcome State Fault Refusal :=
  onWriteF v Reg.lcsCtl 4 (fun f => pfOnly v fun s => s.lcsCmd v 4 fun s => s.secure f) s
def execRetire (v : View) (env : Env) (s : State) : Host.Outcome State Fault Refusal :=
  onWriteF v Reg.lcsCtl 5 (fun f => pfOnly v fun s => s.lcsCmd v 5 fun s => s.tokenCmd f env 5 4) s
def execAttest (v : View) (env : Env) (s : State) : Host.Outcome State Fault Refusal :=
  onWriteF v Reg.lcsCtl 6 (fun f => pfOnly v fun s => s.lcsCmd v 6 fun s => s.attest f env) s
def execProvision (v : View) (env : Env) (s : State) : Host.Outcome State Fault Refusal :=
  onWriteF v Reg.lcsCtl 7 (fun f => pfOnly v fun s => s.lcsCmd v 7 fun s => s.provision f env) s

end Sys2Proof.Machine
end

