-- ==== Sys2Proof/Machine/Errs.lean ====
section
/-! DEFINITION. The on-demand self-test (R419), and error records: the escalation queue and the log (R17, R420 to R425). -/

namespace Sys2Proof.Machine

/-! ### On-demand self-test -/

/-- Table 21.4. -/
def Dev.sstTarget (s : Dev) (test target : Nat) : Bool :=
  match test with
  | 1 => target == 0
  | 2 => target < 32 && !bit (s.reg (Reg.trayPortCfg (target / 8))) 0
  | 4 => target < 16 && (s.optPort target).fenced && (s.bay target).lit
  | 5 => target < 16 && (s.optPort target).fenced
  | 6 => target < 12 && (s.chan target).fenced && (s.chan target).present
  | _ => false

/-- RESULT of a RUN. -/
def Dev.sstCode (s : Dev) (f : Flash) (test target : Nat) : Byte :=
  if s.sst.run.isSome then 0x04
  else if f.state != 1 && f.state != 3 then 0x01
  else if test < 1 || 6 < test then 0x03
  else if !s.sstTarget test target then 0x02
  else 0

/-- SST_CTL. -/
def Dev.sstCtl (s : Dev) (f : Flash) (v : View) (w : Word) : Dev :=
  if bits w 7 0 = 0 then s
  else if bits w 7 0 ≠ 1 then s.hostErr v Reg.sstCtl 0x03 w
  else
    let test := bits w 15 8
    let target := bits w 23 16
    let r := s.sstCode f test target
    let s : Dev := { s with sst := { s.sst with result := r } }
    if r == 0 then { s with sst := { s.sst with run := some (test, target) } } else s.hostErr v Reg.sstCtl 0x02 w

/-- The SST_RESULT word of a test's target, its first item there, and how many it has (Table 21.9). -/
def sstItems (test target : Nat) : Nat × Nat × Nat :=
  match test with
  | 1 => (1, 16, 7)
  | 2 => (0, target, 1)
  | 4 => (3 + target / 4, 8 * (target % 4), 8)
  | 5 => (7 + target / 2, 16 * (target % 2), 16)
  | _ => (2, target, 1)

/-- SST_TEST_DONE: the results of the target's items, in order. -/
def Dev.sstDone (s : Dev) (r : List (BitVec 2)) : Dev :=
  match s.sst.run with
  | none => s
  | some (test, target) =>
    let (word, first, n) := sstItems test target
    let w := (List.range n).foldl (fun (w : Word) i =>
      setBits w (2 * (first + i) + 1) (2 * (first + i)) (r.getD i 0).toNat) (s.sstResult word)
    ({ s with sst := { s.sst with run := none } } : Dev).setResult word w

/-! ### The escalation queue (R17) -/

/-- The summary record of a block: CLASS and CODE of the first record it could not post, and how many followed. It names no
partition, whether or not that record names one (DESIGN CHOICE: R17 gives the summary no PARTITION). -/
def Dev.summary (s : Dev) (held : BitVec 256) (lost : Nat) : BitVec 256 :=
  s.errRecord (bits held 23 16) (bits held 5 0) (bits held 31 24) 0 (bits held 38 37) none true lost

/-- A block that still has records to post does so while the queue has room. -/
def Dev.repost (s : Dev) (blk : Nat) : Dev :=
  let x := s.firstErr blk
  let room := 64 - s.err.queue.length
  match x.held with
  | none => s
  | some r =>
    let l := [r, s.summary r x.lost]
    if room < l.length then s
    else { s with err := { s.err with queue := s.err.queue ++ l, first := terase s.err.first blk } }

/-- ERROR_QUEUE_SPACE: the lower block first. -/
def Dev.queueSpace (s : Dev) : Dev := forUpto 256 Dev.repost s

/-! ### The log (R422 to R425) -/

/-- The pipeline lane a cipher record names. -/
def cipherLane (r : BitVec 256) : Nat := bits r 199 196

/-- R425: a second cipher fault on a lane within 24 hours is FATAL. -/
def Dev.severity (s : Dev) (r : BitVec 256) : BitVec 256 :=
  if bits r 5 0 = 0x0B ∧ (tfind s.err.cipherAt (cipherLane r)).any (fun t => s.osc ≤ t + secTicks 86400) then setBits r 38 37 3 else r

/-- The record goes into its slot. -/
def Err.append (e : Err) (r : BitVec 256) : Err :=
  let n := e.head.toNat
  let full := decide (4096 ≤ n)
  { e with
    log := tset (fun _ => 0) e.log (n % 4096) r
    head := e.head + 1
    overwrites := if full && decide (e.read.toNat ≤ n - 4096) then satAdd e.overwrites 1 else e.overwrites
    unreadClasses := e.unreadClasses ++ [(e.head, bits r 5 0)] }

/-- What logging does (R424): the interrupt and the Folio trigger of the record's class. -/
def Dev.logged (s : Dev) (cls : Nat) : Dev :=
  let s := if bit (s.reg Reg.errCfg) 16 && bit (s.reg Reg.errIntMask) cls then s.interrupt 0 (bits (s.reg Reg.errCfg) 10 0) else s
  if bit (s.reg Reg.folTrigErr) cls then s.folTrigger 0x3 cls else s

/-- ERROR_RECORD_LOGGED. -/
def Dev.logRecord (s : Dev) : Dev :=
  match s.err.queue with
  | [] => s
  | r :: rest =>
    let cls := bits r 5 0
    let e := ({ s.err with queue := rest } : Err).append (s.severity r)
    let e := if cls = 0x0B then { e with cipherAt := tput e.cipherAt (cipherLane r) s.osc } else e
    ((({ s with err := e } : Dev).bump (Reg.errClassCount cls)).logged cls)

/-- ERR_READ: clamped between its value and ERR_LOG_HEAD. -/
def Dev.errReadSet (s : Dev) (w : Word) : Dev :=
  let r := BitVec.ofNat 64 (min (max w.toNat s.err.read.toNat) s.err.head.toNat)
  { s with err := { s.err with read := r, unreadClasses := s.err.unreadClasses.filter fun p => decide (r.toNat ≤ p.1.toNat) } }

/-- Whether a record number is kept. -/
def Err.kept (e : Err) (n : Nat) : Bool := n < e.head.toNat && e.head.toNat ≤ n + 4096

/-- ERR_LOG_DATA0: the selected record is kept for the other words. -/
def Dev.errSnap (s : Dev) : Dev :=
  let n := (s.reg Reg.errLogSel).toNat
  { s with err := { s.err with snap := if s.err.kept n then tget (fun _ => 0) s.err.log (n % 4096) else 0 } }

def Dev.errData (s : Dev) (w : Nat) : Word := (s.err.snap >>> (64 * w)).setWidth 64

/-- ALERT_N is driven low by the log. -/
def Dev.logAlert (s : Dev) : Bool := s.err.unreadClasses.any fun p => bit (s.reg Reg.rstAlertMask) p.2

/-! ### The sideband outputs (R390, Table 20.1) -/

/-- ALERT_N is low: under R388 and R400 while the domains are held, and for the log (R424). -/
def Dev.alertLow (s : Dev) : Bool := s.rst.powerFail || decide (8 ≤ s.rst.trimFails) || s.logAlert

/-- THERM_N is low from a thermal trip until DARK ends (R389). -/
def Dev.thermLow (s : Dev) : Bool := s.rst.therm

/-- MOD_READY_N is low while RST_STATUS.READY is 1. -/
def Dev.readyLow (s : Dev) : Bool := s.rst.ready

/-- ERR_STATUS. -/
def Dev.errStatus (s : Dev) : Word :=
  let h := s.err.head.toNat
  BitVec.ofNat 64 (b2n s.logAlert + at_ 16 (h - max s.err.read.toNat (h - 4096)))

/-! ### The commands -/

def execSstRun (v : View) (w : Word) (s : State) : Host.Outcome State Fault Refusal :=
  onWriteF v Reg.sstCtl w (fun f => pfOnly v fun s => s.sstCtl f v w) s
def execSstTestDone (r : List (BitVec 2)) (s : State) : Host.Outcome State Fault Refusal := onDev (fun s => s.sstDone r) s
def execErrorQueueSpace (s : State) : Host.Outcome State Fault Refusal := onDev Dev.queueSpace s
def execErrorRecordLogged (s : State) : Host.Outcome State Fault Refusal := onDev Dev.logRecord s
def execErrReadWrite (v : View) (w : Word) (s : State) : Host.Outcome State Fault Refusal := onWrite v Reg.errRead w (pfOnly v fun s => s.errReadSet w) s
def execErrLogRead (v : View) (s : State) : Host.Outcome State Fault Refusal :=
  onDev (fun s => match v with
    | .vf _ => s.emit (.value 0)
    | _ => s.errSnap.emit (.value (s.errSnap.errData 0))) s

end Sys2Proof.Machine
end

