-- ==== Sys2Proof/Machine/PortStart.lean ====
section
/-! DEFINITION. PORT_PACKET_START on every port (R146 to R151): fabric ports, whose Strum packets are fed to the tree as they
leave, and Ethernet ports, whose control frames and READ Responses the same tree serves. -/

namespace Sys2Proof.Machine

/-! ### Ethernet ports -/

/-- A frame starts; in replay the port sends nothing (R349). -/
def Dev.ethDepart (s : Dev) (p : Nat) (f : List Byte) : Dev :=
  if s.replaying then s else (s.bump (Reg.ethCounts (p - 14) 1)).emit (.eth p f)

/-- The READ Responses that their queue pairs' RATE lets join the tree, each standing for its queue pair's next frame (R378). -/
def Dev.ethOffers (s : Dev) (p : Nat) : List (QPkt × Nat) :=
  s.qps.filterMap fun q => match q.2.resp with
    | [] => none
    | (t, f) :: _ =>
      if Qp.port q.2 + 14 ≠ p ∨ s.osc < q.2.sendAt then none
      else some ({ port := p, leaf := .response (Qp.part q.2) (bits q.2.cfg 130 128), at_ := t, own := some q.1 }, f.length)

/-- A READ Response leaves; the next waits for the time its length takes at RATE, in MB/s. -/
def Dev.respDepart (s : Dev) (p k : Nat) : Dev :=
  let q := s.qp k
  match q.resp with
  | [] => s
  | (_, f) :: rest =>
    (s.setQp k { q with resp := rest, sendAt := s.osc + nsTicks (ceilDiv (f.length * 1000) q.rate.toNat) }).ethDepart p f

/-- The tree of an Ethernet port serves its READ Responses. -/
def Dev.ethTree (s : Dev) (p : Nat) : Dev :=
  let l := s.ethOffers p
  let lenOf := fun (x : QPkt) => s.slen p (((l.find? fun y => y.1 == x).map (·.2)).getD 0)
  let held := (s.qps.filter fun q => Qp.port q.2 + 14 = p ∧ q.2.resp ≠ []).map fun q => Leaf.response (Qp.part q.2) (bits q.2.cfg 130 128)
  match s.pickRoot p { all := l.map (·.1), held := held, may := fun _ => true, len := lenOf } with
  | some (x, d) =>
    let s : Dev := { s with sch := { s.sch with deficit := d.deficit, fresh := d.fresh, cur := d.cur } }
    (s.chargePath p x (lenOf x)).respDepart p (x.own.getD 0)
  | none => s

/-- Control frames go first, under their shaper. -/
def Dev.ethStart (s : Dev) (p : Nat) : Dev :=
  let e := s.ethPort (p - 14)
  if !e.link then s
  else
    let cw := s.st (Reg.schPortCtrl p)
    match e.frames with
    | f :: rest =>
      if s.shaperOk (shaperKey p 1) (bits cw 17 0) (bits cw 33 18 * 64) then
        ((s.setEth (p - 14) { e with frames := rest }).charge (shaperKey p 1) (bits cw 17 0) (bits cw 33 18 * 64)
          (s.slen p f.length)).ethDepart p f
      else s.ethTree p
    | [] => s.ethTree p

/-! ### The command -/

/-- PORT_PACKET_START. -/
def Dev.portPacket (s : Dev) (env : Env) (p : Nat) : Dev :=
  if s.isEth p then (s.enter env).ethStart p
  else ((((s.enter env).feedPort env p).portStart env p).strumGoOn env).settle

def execPortPacketStart (port : Fin 16) (env : Env) (s : State) : Host.Outcome State Fault Refusal :=
  onDev (fun s => s.portPacket env port) s

end Sys2Proof.Machine
end

