-- ==== Sys2Proof/Machine/RedTest.lean ====
section
/-! DEFINITION. The reduction test registers (R274, R275). -/

namespace Sys2Proof.Machine

/-- RED_TEST_STATUS.BUSY. -/
def Dev.redBusy (s : Dev) : Bool := s.osc < s.red.busyUntil

/-- DTYPE, OTYPE and ROP of a command that R116 accepts, RMODE not reserved. -/
def redTypes (w : Word) : Option (DType × DType × Rop) :=
  match DType.ofCode (bits w 15 8), DType.ofCode (bits w 23 16), Rop.ofCode (bits w 27 24) with
  | some d, some o, some r => if typeOk d o r && bits w 29 28 != 3 then some (d, o, r) else none
  | _, _, _ => none

/-- RED_TEST_IN, converted. -/
def Dev.redIn (s : Dev) (d : DType) : Acc := convert d (s.reg Reg.redTestIn).toNat (bits (s.reg Reg.redTestScale) 7 0)

/-- RED_TEST_OUT: for an MX type the block has 31 more results of +0. -/
def Dev.redOut (s : Dev) (d o : DType) (op : Rop) (rmode : Nat) (sat : Bool) : Word :=
  let r := bits (s.reg Reg.redTestR) 31 0
  if o.isMx then
    let (scale, els, _) := roundMxBlock o rmode ((s.red.acc, r) :: List.replicate 31 ({}, 0))
    BitVec.ofNat 64 ((els.map (·.code)).headD 0 % 256 + at_ 8 scale)
  else BitVec.ofNat 64 (roundOut d o op rmode r sat s.red.acc).code

/-- A command: BUSY lasts at most 100 ns, and how long is open. -/
def Dev.redTest (s : Dev) (v : View) (w : Word) (f : Dev → DType → DType → Rop → RedTest) : Dev :=
  if s.redBusy then s.hostErr v Reg.redTestCtl 0x02 w
  else match redTypes w with
    | none => { s with red := { s.red with err := true } }
    | some (d, o, op) =>
      let (s, x) := s.draw
      { s with red := { f s d o op with err := false, busyUntil := s.osc + x.toNat % 13 } }

def Dev.testLoad (s : Dev) (v : View) (w : Word) : Dev :=
  s.redTest v w fun s d _ _ => { s.red with acc := s.redIn d }

def Dev.testCombine (s : Dev) (v : View) (w : Word) : Dev :=
  s.redTest v w fun s d _ op => { s.red with acc := combine d op s.red.acc (s.redIn d) }

def Dev.testRound (s : Dev) (v : View) (w : Word) : Dev :=
  s.redTest v w fun s d o op => { s.red with out := s.redOut d o op (bits w 29 28) (bit w 30) }

/-- RED_TEST_CTL. -/
def Dev.redTestCtl (s : Dev) (v : View) (w : Word) : Dev :=
  match bits w 7 0 with
  | 0 => if s.redBusy then s.hostErr v Reg.redTestCtl 0x02 w else s
  | 1 => s.testLoad v w
  | 2 => s.testCombine v w
  | 3 => s.testRound v w
  | _ => s.hostErr v Reg.redTestCtl 0x03 w

def Dev.redStatus (s : Dev) : Word :=
  BitVec.ofNat 64 (b2n s.redBusy + at_ 1 (b2n s.red.err) + at_ 8 (s.red.acc.fl.toNat % 16))

def execTestLoad (v : View) (w : Word) (s : State) : Host.Outcome State Fault Refusal :=
  onWrite v Reg.redTestCtl w (fun s => if bits w 7 0 = 1 then pfOnly v (fun s => s.gated v Reg.redTestCtl w fun s => s.testLoad v w) s else s) s
def execTestCombine (v : View) (w : Word) (s : State) : Host.Outcome State Fault Refusal :=
  onWrite v Reg.redTestCtl w (fun s => if bits w 7 0 = 2 then pfOnly v (fun s => s.gated v Reg.redTestCtl w fun s => s.testCombine v w) s else s) s
def execTestRound (v : View) (w : Word) (s : State) : Host.Outcome State Fault Refusal :=
  onWrite v Reg.redTestCtl w (fun s => if bits w 7 0 = 3 then pfOnly v (fun s => s.gated v Reg.redTestCtl w fun s => s.testRound v w) s else s) s

end Sys2Proof.Machine
end

