-- ==== Sys2Proof/Machine/Xlt.lean ====
section
/-! DEFINITION. Translation (R170, R174 to R176, R183): what the host's ATS and PRI messages do, and XLT_INVAL. -/

namespace Sys2Proof.Machine

/-! ### ATS (R170, R174, R175) -/

/-- What waited for a miss goes on, the pending list moves up, and a partition that waited for the miss is quiet (R333). -/
def Dev.missOver (s : Dev) : Dev := (((s.priNext (s.xlt.misses.length + 1)).resumeStalled {}).resumeGroups {}).settle

/-- The translation is installed for the registration that missed (R165), or held for the access that waits for it where it
takes no cache entry. -/
def Dev.missGrant (s : Dev) (m : Miss) (write : Bool) (size : Nat) (final : Nat) : Dev :=
  let x := s.region m.key
  let n := if size < 4096 then 4096 else size
  let s := s.dropMiss m
  let y : XltEnt := {
    part := m.fn, index := keyIndex m.key, gen := BitVec.ofNat 8 (keyGen x), page := m.page / n * n, size := n, final := final / n * n
    write := write, pasid := m.pasid, sticky := keyClass x == 1, ask := some (m.page / n * n) }
  if (s.xltRoom (keyClass x) y).isSome then s.xltInsert (keyClass x) y else s.xltHold y m.write

/-- Access was not granted: the first time a Page Request follows, or the miss waits for one; the second time it faults. A
miss that finds the pending list full is forgotten, to repeat at the next access. -/
def Dev.missRefused (s : Dev) (m : Miss) : Dev :=
  if m.st = .again || !(s.fn m.fn).pri then s.missFault m
  else if s.priRoom m.fn then s.priSend m
  else if (s.xlt.misses.filter fun y => decide (y.st = .pend)).length < priPending then
    s.setMisses (replaceFirst (fun y => y.is m.fn m.pasid m.page) (fun y => { y with st := .pend }) s.xlt.misses)
  else s.dropMiss m

/-- ATS_COMPLETION: the answer to the Translation Request of a miss. -/
def Dev.atsDone (s : Dev) (fn : Nat) (pasid : BitVec 20) (page : Nat) (a : AtsAnswer) : Dev :=
  match s.missOf fn pasid page with
  | none => s
  | some m =>
    if m.st = .pend || m.st = .pri then s
    else match a with
      | .grant r w size addr => (if (r || w) && (!m.write || w) then s.missGrant m w size addr.toNat else s.missRefused m).missOver
      | _ => (s.missRefused m).missOver

/-- ATS_ENABLE_CHANGE. -/
def Dev.atsEnable (s : Dev) (fn : Nat) (on : Bool) : Dev :=
  if s.hst.numVf.toNat < fn || (s.fn fn).ats == on then s
  else
    let s := s.setFn fn { s.fn fn with ats := on }
    let s : Dev := { s with
      xlt := { s.xlt with cache := s.xlt.cache.filter fun y => y.part != fn }
      hst := { s.hst with xlate := s.hst.xlate.filter fun y => y.1 != fn } }
    if on then s else (s.missesGone fn).missOver

/-- ATS_INVALIDATION: entries that hold a translation of 4,096 · 2^size bytes from `addr` on are removed. Every access
made with one has completed by then, so the completion follows at once. -/
def Dev.atsInval (s : Dev) (fn : Nat) (pasid : Option (BitVec 20)) (addr size : Nat) : Dev :=
  let n := 4096 * 2 ^ size
  let lo := addr / n * n
  let hit := fun (y : XltEnt) => y.part == fn && (match pasid with | some p => y.pasid == p | none => true) &&
    (match y.ask with | some a => a < lo + n && lo < a + y.size | none => false)
  let s : Dev := { s with
    xlt := { s.xlt with cache := s.xlt.cache.filter fun y => !hit y }
    hst := { s.hst with xlate := s.hst.xlate.filter fun y => !(pasid.isNone && y.1 == fn && y.2.1 < lo + n && lo < y.2.1 + 4096) } }
  (s.bump Reg.xltAtsInvals).emit (.ats 2 fn (pasid.getD 0) lo size false)

/-! ### PRI (R176) -/

/-- PRI Response Failure: the function's misses fault and it stops. -/
def Dev.priFail (s : Dev) (fn : Nat) : Dev :=
  let gone := s.xlt.misses.filter fun m => m.fn == fn
  let s := (s.missesGone fn)
  let s : Dev := { s with xlt := { s.xlt with
      faulted := s.xlt.faulted ++ gone.flatMap fun m => m.who.map fun w => (w, m.key, m.page)
      stopped := s.xlt.stopped ||| BitVec.ofNat 64 (2 ^ fn) } }
  s.postErr Reg.keySel 0x06 0x02 fn 2 (some fn)

/-- PRG_RESPONSE: 0 Success, 1 Invalid Request, any other code Response Failure. -/
def Dev.prgResponse (s : Dev) (fn group code : Nat) : Dev :=
  if s.xlt.lateGroups.contains (fn, group) then
    { s with xlt := { s.xlt with lateGroups := s.xlt.lateGroups.filter (· != (fn, group)) } }
  else match s.xlt.misses.find? fun m => m.fn == fn && decide (m.st = .pri) && m.group == group with
    | none => s
    | some m =>
      (match code with
      | 0 => ((s.setMisses (replaceFirst (fun y => y.is fn m.pasid m.page) (fun y => { y with st := .again }) s.xlt.misses)).bump
          Reg.xltAtsReqs).emit (.ats 0 fn m.pasid m.page 0 m.write)
      | 1 => s.missFault m
      | _ => (s.dropMiss m).missFault m |>.priFail fn).missOver

/-- PRI_TIMEOUT. -/
def Dev.priLate (s : Dev) (fn group : Nat) : Dev :=
  match s.xlt.misses.find? fun m => m.fn == fn && decide (m.st = .pri) && m.group == group && decide (m.deadline ≤ s.osc) with
  | none => s
  | some m =>
    let s := s.missFault m
    ({ s with xlt := { s.xlt with lateGroups := s.xlt.lateGroups ++ [(fn, group)] } } : Dev).missOver

/-- PRI_ENABLE_CHANGE: disabling frees the timed-out group indices, enabling again clears STOPPED. -/
def Dev.priEnable (s : Dev) (fn : Nat) (on : Bool) : Dev :=
  if s.hst.numVf.toNat < fn || (s.fn fn).pri == on then s
  else
    let s := s.setFn fn { s.fn fn with pri := on }
    if on then { s with xlt := { s.xlt with stopped := s.xlt.stopped &&& ~~~(BitVec.ofNat 64 (2 ^ fn)) } }
    else { s with xlt := { s.xlt with lateGroups := s.xlt.lateGroups.filter fun g => g.1 != fn } }

/-! ### XLT_INVAL (R183, Table 8.15) -/

def Dev.xltInval (s : Dev) (v : View) (w : Word) : Dev :=
  if s.xlt.invalBusy then s.hostErr v Reg.xltInval 0x02 w
  else
    let n := bits w 29 24
    let i := bits w 21 0
    let x : Xlt := { s.xlt with invalBusy := true }
    let y : Xlt := if bit w 32 then
        { x with cache := x.cache.filter (fun y => y.part != n), keyCached := x.keyCached.filter fun k => s.keyPart k != some n }
      else { x with cache := x.cache.filter fun y => !(y.index == i && s.keyPart i == some n) }
    { s with xlt := y }

/-- A write of the high half of XLT_INVAL alone. With ALL it names partition 0; without it nothing is named, and nothing
starts (R26). -/
def Dev.xltInvalHigh (s : Dev) (v : View) (w : Word) : Dev :=
  if bit w 32 then s.xltInval v 0x100000000
  else if s.xlt.invalBusy then s.hostErr v Reg.xltInval 0x02 w
  else s

/-! ### The commands -/

def execAtsEnableChange (fn : Fin 64) (on : Bool) (s : State) : Host.Outcome State Fault Refusal := onDev (fun s => s.atsEnable fn on) s
def execAtsInvalidation (fn : Fin 64) (pasid : Option (BitVec 20)) (addr : Word) (size : BitVec 6) (s : State) :
    Host.Outcome State Fault Refusal := onDev (fun s => s.atsInval fn pasid addr.toNat size.toNat) s
def execAtsCompletion (fn : Fin 64) (pasid : BitVec 20) (page : BitVec 52) (a : AtsAnswer) (s : State) :
    Host.Outcome State Fault Refusal := onDev (fun s => s.atsDone fn pasid (page.toNat * 4096) a) s
def execPrgResponse (fn : Fin 64) (group : BitVec 9) (code : BitVec 4) (s : State) : Host.Outcome State Fault Refusal :=
  onDev (fun s => s.prgResponse fn group.toNat code.toNat) s
def execPriTimeout (fn : Fin 64) (group : BitVec 9) (s : State) : Host.Outcome State Fault Refusal :=
  onDev (fun s => s.priLate fn group.toNat) s
def execPriEnableChange (fn : Fin 64) (on : Bool) (s : State) : Host.Outcome State Fault Refusal := onDev (fun s => s.priEnable fn on) s
def execXltInval (v : View) (w : Word) (s : State) : Host.Outcome State Fault Refusal :=
  onWrite v Reg.xltInval w (pfOnly v fun s => s.gated v Reg.xltInval w fun s => s.xltInval v w) s
def execXltInvalDone (s : State) : Host.Outcome State Fault Refusal :=
  onDev (fun s => { s with xlt := { s.xlt with invalBusy := false } }) s

end Sys2Proof.Machine
end

