-- ==== Sys2Proof/Machine/RegRead.lean ====
section
/-! DEFINITION. What a read of each BAR0 register returns (the register tables of chapters 1 to 21, R26, R186). -/

namespace Sys2Proof.Machine

/-- The index of a register of a run of `count`, `stride` apart. -/
def runIdx (base stride count off : Nat) : Option Nat :=
  if base ≤ off ∧ off < base + stride * count ∧ (off - base) % stride = 0 then some ((off - base) / stride) else none

/-- A word from its fields as bottom bit and value. -/
def wordOf (l : List (Nat × Nat)) : Word := BitVec.ofNat 64 (l.foldl (fun a f => a + at_ f.1 f.2) 0)

/-- Word `w` of a wide value. -/
def wideWord {n : Nat} (x : BitVec n) (w : Nat) : Word := BitVec.ofNat 64 (bits x (64 * w + 63) (64 * w))

/-- A count capped at a field's width. -/
def capTo (n w : Nat) : Nat := min n (2 ^ w - 1)

/-! ### Control plane: DEV, CAPO, RST, LCS, ERR, SST, RLG -/

def Dev.readDev (s : Dev) (f : Flash) (off : Nat) : Word :=
  let up := s.rst.trimValid
  if off = Reg.devId then (if up then BitVec.ofNat 64 (devId f) else 0x10001610)
  else if off = Reg.devSerial then (if up then f.serial else 0)
  else if off = Reg.devStatus then
    (if s.ink.trained then wordOf [(0, s.ink.reference / (128 * gib)), (8, s.ink.fitted)] else 0)
  else if off = Reg.devFwVersion then
    (if s.rst.coreUp || s.capo.coreHeld then (match s.rst.coreImage with | some w => w.version | none => 0) else 0)
  else 0

def CapoSt.code : CapoSt → Nat
  | .idle => 0 | .loading => 1 | .staged => 2 | .checking => 3 | .passed => 4 | .failed => 5 | .armed => 6 | .draining => 7

/-- CAPO_STATUS (Table 3.12). -/
def Dev.capoStatus (s : Dev) : Word :=
  let c := s.capo
  wordOf [(0, c.st.code), (16, b2n c.fwStaged), (17, b2n c.isUnsigned), (18, b2n c.unsignedRun), (32, c.loadResult.toNat),
    (40, c.armResult.toNat)]

def Dev.readCapo (s : Dev) (off : Nat) : Option Word :=
  let c := s.capo
  if off = Reg.capoStatus then some s.capoStatus
  else if off = Reg.capoCheckResult then some (wordOf [(0, c.checkCode.toNat), (8, c.checkDetail.toNat)])
  else if off = Reg.capoCheckFail then some (c.checkFail.setWidth 64)
  else if off = Reg.capoDrainMask then some (c.drainMask.setWidth 64)
  else if off = Reg.capoRunId then some c.runId
  else if off = Reg.capoRunGen then some c.runGen
  else if off = Reg.capoLastApply then some c.lastApply
  else if off = Reg.capoLastApplyEpoch then some (c.lastApplyEpoch.setWidth 64)
  else if off = Reg.capoLocal then some (c.down.setWidth 64)
  else if off = Reg.devNode then some (wordOf [(0, c.node.toNat), (63, b2n !c.nodeSet)])
  else none

def Boot.code : Boot → Nat
  | .trim => 0 | .rom => 1 | .recovery => 2 | .firmware => 3 | .done => 4 | .dark => 5

/-- RST_STATUS (Table 20.11). -/
def Dev.rstStatus (s : Dev) : Word :=
  let r := s.rst
  wordOf [(0, b2n r.trimValid), (1, b2n r.calWarm), (2, b2n r.fwRecovered), (3, b2n r.scoreBooted), (4, b2n r.ready),
    (8, r.boot.code), (56, r.cause.toNat)]

/-- RST_FLASH_STATUS: the write in progress. -/
def Dev.flashStatus (s : Dev) : Word :=
  match ((List.range s.rst.jobs.length).find? fun i => (s.job i).running).or s.jobAt with
  | none => 0
  | some i => wordOf [(0, 1), (8, (s.job i).what.row), (16, capTo (s.job i).left 16)]

/-- RST_HOLDUP. -/
def Dev.holdupReg (s : Dev) : Word :=
  wordOf [(0, s.rst.holdup.toNat), (32, capTo ((s.osc - s.rst.holdupAt) / secTicks 1) 16)]

/-- LCS_STATUS (Table 20.12). -/
def Dev.lcsStatus (s : Dev) (f : Flash) : Word :=
  wordOf [(0, f.state.toNat), (6, f.provisioned.toNat), (16, b2n s.lcs.cmd.isSome), (56, s.lcs.result.toNat)]

def Dev.readRst (s : Dev) (f : Flash) (off : Nat) : Option Word :=
  if off = Reg.rstStatus then some s.rstStatus
  else if off = Reg.rstBlockStatus then some (wordOf [(0, b2n s.rst.block.isSome), (1, b2n s.rst.blockForced)])
  else if off = Reg.rstHoldup then some s.holdupReg
  else if off = Reg.rstFlashStatus then some s.flashStatus
  else if off = Reg.lcsStatus then some (s.lcsStatus f)
  else match runIdx (Reg.lcsNonce 0) 8 4 off, runIdx (Reg.lcsMeas 0) 8 8 off, runIdx (Reg.lcsIdDigest 0) 8 4 off with
    | some w, _, _ => some (wideWord s.lcs.nonce w)
    | _, some w, _ => some (wideWord s.lcs.meas w)
    | _, _, some w => some (wideWord (digest256 f.idPub) w)
    | _, _, _ => none

def Dev.readErr (s : Dev) (off : Nat) : Option Word :=
  if off = Reg.errLogHead then some s.err.head
  else if off = Reg.errRead then some s.err.read
  else if off = Reg.errOverwrites then some s.err.overwrites
  else if off = Reg.errStatus then some s.errStatus
  else (runIdx (Reg.errLogData 0) 8 4 off).map s.errData

def Dev.readSst (s : Dev) (off : Nat) : Option Word :=
  if off = Reg.sstStatus then some (wordOf [(0, b2n s.sst.run.isSome), (1, b2n s.sst.erased), (8, s.sst.result.toNat)])
  else if off = Reg.sstCalSeq then some s.sst.calSeq
  else if off = Reg.sstCalTime then some s.sst.calTime
  else if off = Reg.sstCalInfo then some s.sst.calInfo
  else (runIdx (Reg.sstResult 0) 8 16 off).map s.sstResult

def Dev.readRlg (s : Dev) (off : Nat) : Option Word :=
  let r := s.rlg
  if off = Reg.rlgTime then some r.time
  else if off = Reg.rlgEpoch then some (r.epoch.setWidth 64)
  else if off = Reg.rlgSnapTime then some r.snapTime
  else if off = Reg.rlgSnapEpoch then some (r.snapEpoch.setWidth 64)
  else if off = Reg.rlgStatus then some s.rlgStatus
  else if off = Reg.rlgTabAnchor then some r.anchor
  else if off = Reg.rlgTabAnchorEpoch then some (r.anchorEpoch.setWidth 64)
  else match runIdx (Reg.rlgPortOffset 0) 8 16 off, runIdx (Reg.rlgTabPos 0) 8 16 off with
    | some p, _ => some ((s.rlgPort p).theta.signExtend 64)
    | _, some p => some (s.tabPos p)
    | _, _ => none

/-! ### Rings and connections -/

/-- RING_STATUS of a work ring (Table 4.14). -/
def Ring.status (x : Ring) : Word :=
  wordOf [(0, x.st.mark), (4, b2n x.held), (5, b2n x.torn), (6, b2n x.dbPending), (32, (x.taken.map (·.units.length)).sum),
    (48, x.errCode.toNat), (56, x.enableResult.toNat)]

def Cq.status (x : Cq) : Word := wordOf [(0, x.st.mark), (48, x.errCode.toNat), (56, x.enableResult.toNat)]

/-- RING_ERRMAP and RING_CQ_ERRMAP. -/
def errMap (st : Nat → RingSt) (w : Nat) : Word :=
  BitVec.ofNat 64 (((List.range 64).map fun b => if st (64 * w + b) = .error ∨ st (64 * w + b) = .hostLost then 2 ^ b else 0).sum)

/-- The registers of the selected work ring. -/
def Ring.read (x : Ring) (off : Nat) : Word :=
  if off = Reg.ringBase then x.base
  else if off = Reg.ringCfg then x.cfg
  else if off = Reg.ringStatus then x.status
  else if off = Reg.ringPublishedHead then x.head.setWidth 64
  else if off = Reg.ringStart then x.start.setWidth 64
  else if off = Reg.ringErrPos then x.errPos.setWidth 64
  else if off = Reg.ringDoorbells then x.doorbells
  else 0

/-- The registers of the selected completion ring. -/
def Cq.read (x : Cq) (off : Nat) : Word :=
  if off = Reg.ringBase then x.base
  else if off = Reg.ringCfg then x.cfg
  else if off = Reg.ringStatus then x.status
  else if off = Reg.ringPublishedHead then x.head.setWidth 64
  else if off = Reg.ringStart then x.start.setWidth 64
  else if off = Reg.ringErrPos then x.errPos.setWidth 64
  else if off = Reg.ringCqHeadAddr then x.headAddr
  else if off = Reg.ringCqTail then x.tail.setWidth 64
  else 0

/-- The value of RING_CTR. -/
def EvCtr.word (x : EvCtr) : Word := wordOf [(0, x.value.toNat), (63, b2n x.failed)]

/-- A view's share of the error maps (R186). -/
def mapShown (v : View) (w : Nat) : Bool :=
  match v with
  | .vf n => w / 4 == n.val
  | _ => true

def Dev.readRing (s : Dev) (v : View) (off : Nat) : Word :=
  if off = Reg.ringSel ∨ off = Reg.ringCtrSel then s.sel v off
  else match runIdx (Reg.ringErrmap 0) 8 256 off, runIdx (Reg.ringCqErrmap 0) 8 256 off with
    | some w, _ => if mapShown v w then errMap (fun r => (s.ring r).st) w else 0
    | _, some w => if mapShown v w then errMap (fun r => (s.cq r).st) w else 0
    | _, _ =>
      if off = Reg.ringCtr then (s.ctr (bits (s.sel v Reg.ringCtrSel) 15 0)).word
      else if s.selKind v then (s.cq (s.selRing v)).read off else (s.ring (s.selRing v)).read off

/-- CONN_STATUS (Table 6.14). -/
def Conn.status (x : Conn) : Word :=
  wordOf [(0, x.st.code), (40, x.lastNak.toNat), (48, x.errStatus.toNat), (56, x.enableResult.toNat)]

def Dev.readConn (s : Dev) (v : View) (off : Nat) : Option Word :=
  if off = Reg.connSel then some (s.sel v off)
  else if off = Reg.connStatus then some (s.conn (s.selConn v)).status
  else if off = Reg.connCache then some (wordOf [(0, s.connCache.length), (24, s.pinned)])
  else none

/-- A read of CONN_CTX; an uncached context is fetched first. What a failed fetch returns is open. -/
def Dev.readCtx (s : Dev) (env : Env) (v : View) (w : Nat) : Dev × Word :=
  let c := s.selConn v
  let s := if s.ctxCached c then s.ctxTouch c
    else let s := (s.enter env).ctxWant c; if s.inkMoving 3 then s else (s.ctxAsk c).ctxEnd env c (s.fetchCtx env c)
  if s.ctxCached c then (s, wideWord (cfgReserved.foldl (fun b r => setBits b r.1 r.2 0) (s.ctxBits c)) w) else s.draw

/-! ### Keys, translation, host and tray attach -/

def Dev.readKey (s : Dev) (v : View) (off : Nat) : Option Word :=
  let x := s.xlt
  let asked := fun (f : Miss → Bool) => (x.misses.filter f).length
  if off = Reg.keySel then some (s.sel v off)
  else if off = Reg.keyCache then
    some (wordOf [(0, x.keyCached.length), (24, (x.keyCached.filter fun j => keyClass (s.keyEntry j) == 1).length)])
  else if off = Reg.xltInvalStatus then some (wordOf [(0, b2n x.invalBusy)])
  else if off = Reg.xltCache then some (wordOf [(0, xltCount x.cache), (24, (x.cache.filter (·.sticky)).length)])
  else if off = Reg.xltPriStatus then
    some (wordOf [(0, asked fun m => decide (m.st = .pri)), (12, asked fun m => decide (m.st = .pend))])
  else match runIdx (Reg.xltPriFn 0) 8 64 off with
    | some f => some (wordOf [(0, b2n (bit x.stopped f)), (16, asked fun m => decide (m.st = .pri) && m.fn == f)])
    | none => none

/-- A read of KEY_ENTRY fetches an uncached entry first (R183). One that returns poison or does not come reads as VALID 0, the rest
being open. -/
def Dev.readEntry (s : Dev) (env : Env) (v : View) (w : Nat) : Dev × Word :=
  let i := bits (s.sel v Reg.keySel) 21 0
  let s := (s.enter env).keyLoad i
  if !s.keyBad i then (s, wideWord (s.keyEntry i) w)
  else let (s, x) := s.draw; (s, if w = 0 then setBits x 53 53 0 else x)

/-- HST_STATUS (Table 9.13). -/
def Dev.hstStatus (s : Dev) : Word :=
  let h := s.hst
  wordOf [(0, b2n h.lost), (1, b2n h.dlActive), (12, b2n h.cxlCache), (13, b2n h.cxlMem), (14, b2n h.flit), (15, h.width.toNat),
    (20, h.rate.toNat), (32, h.numVf.toNat)]

/-- A word of a function's MSI-X pending-bit array. -/
def Dev.pbaWord (s : Dev) (fn w : Nat) : Word :=
  BitVec.ofNat 64 (((List.range 64).map fun b => if tget (fun _ => false) s.hst.pba (fn * 2048 + 64 * w + b) then 2 ^ b else 0).sum)

def Dev.readHst (s : Dev) (off : Nat) : Option Word :=
  if off = Reg.hstStatus then some s.hstStatus
  else if off = Reg.hstEpoch then some (s.hst.epoch.setWidth 64)
  else if off = Reg.hstLossAt then some s.hst.lossAt
  else match runIdx 0x054000 8 32 off, runIdx 0x058000 8 4096 off with
    | some w, _ => some (s.pbaWord 0 w)
    | _, some i => some (s.msixWord 0 (i / 2) (i % 2))
    | _, _ => none

def TraySt.code : TraySt → Nat
  | .down => 0 | .training => 1 | .init => 2 | .up => 3

def Dev.readTray (s : Dev) (off : Nat) : Option Word :=
  (runIdx (Reg.trayPortStatus 0) 4096 4 off).map fun k =>
    let x := s.trayPort k
    wordOf [(0, b2n (decide (x.st = .up))), (4, x.lanes.toNat), (8, x.st.code), (24, x.peerVersion.toNat)]

/-! ### Fabric, chords, Pluck and Strum -/

/-- RTE_PORT_STATUS (Table 10.14). -/
def Dev.portStatus (s : Dev) (p : Nat) : Word :=
  let beacon := match (s.rlgPort p).beaconAt with | some t => decide (s.osc < t + nsTicks 200) | none => false
  wordOf [(0, b2n (s.link p).up), (1, b2n beacon), (2, b2n (s.usable p))]

/-- The bytes of the record in a congestion map slot. -/
def Dev.cmapBytes (s : Dev) (slot : Nat) : List Byte := (tget (fun _ => {}) s.rte.cmap slot).bytes

/-- R229. -/
def Dev.relay (s : Dev) : Bool := !s.hst.dlActive && (List.range 4).all fun k => decide ((s.trayPort k).st ≠ .up)

def Dev.readRte (s : Dev) (off : Nat) : Option Word :=
  if off = Reg.rteStatus then
    some (wordOf [(0, ((List.range 16).map fun p => if s.usable p then 2 ^ p else 0).sum), (16, b2n s.relay)])
  else if off = Reg.rteCmapHead then some ((s.rte.cmapNext - 1).setWidth 64)
  else match runIdx (Reg.rteCmapData 0) 8 8 off, runIdx (Reg.rtePortStatus 0) 8 16 off with
    | some w, _ => some (BitVec.ofNat 64 (leAt (s.cmapBytes (bits (s.reg Reg.rteCmapSel) 9 0)) (8 * w) 8))
    | _, some p => some (s.portStatus p)
    | _, _ => none

/-- CUR of a slot or exchange (R243). -/
def Slot.cur (x : Slot) : BitVec 16 :=
  match x.run with
  | some r => r.seq
  | none => x.nextSeq - 1

/-- CHD_SLOT_STATUS and STM_EXCH_STATUS, with the STATE code and the owner. -/
def Slot.status (x : Slot) (state part : Nat) : Word :=
  wordOf [(0, state), (4, part), (16, x.pend.length), (32, x.nextSeq.toNat), (48, x.cur.toNat)]

/-- CHD_LAST_ABORT and STM_LAST_ABORT (Table 11.12). -/
def Slot.lastAbort (x : Slot) : Word :=
  wordOf [(0, x.lastCode.toNat), (16, x.lastStep.toNat), (24, x.lastStatus.toNat), (32, x.lastOff.toNat), (48, x.lastSeq.toNat)]

/-- STATE of an exchange (Table 13.10). -/
def Dev.exchState (s : Dev) (k : Nat) : Nat :=
  if (s.grpDef true k).isNone then 0
  else match (s.exch k).run, tfind s.stm.runs k with
    | none, _ => 1
    | some _, some r => (match r.phase with | .open_ => 2 | .data => 3 | .close => 4)
    | some _, none => 2

def Dev.readChd (s : Dev) (off : Nat) : Option Word :=
  let k := bits (s.reg Reg.chdSlotSel) 11 0
  let x := s.slot k
  let d := s.grpDef false k
  if off = Reg.chdSlotStatus then
    some (x.status (if d.isNone then 0 else if x.run.isSome then 2 else 1) (match d with | some d => d.part | none => 0))
  else if off = Reg.chdSlotSeq then some (x.nextSeq.setWidth 64)
  else if off = Reg.chdLastAbort then some x.lastAbort
  else if off = Reg.chdStaging then some (wordOf [(0, s.reserved), (16, stagingUnits - s.unitsHeld)])
  else none

def Dev.readStm (s : Dev) (off : Nat) : Option Word :=
  let k := bits (s.reg Reg.stmExchSel) 11 0
  let x := s.exch k
  if off = Reg.plkStatus then
    some (wordOf [(0, capTo ((s.slots ++ s.exchs).map fun p => p.2.flits.length).sum 16), (16, capTo ((List.range 16).map fun p => (s.pluckQueue p).length).sum 16)])
  else if off = Reg.stmExchStatus then
    some (x.status (s.exchState k) (match s.grpDef true k with | some d => d.part | none => 0))
  else if off = Reg.stmExchSeq then some (x.nextSeq.setWidth 64)
  else if off = Reg.stmLastAbort then some x.lastAbort
  else (runIdx (Reg.stmQuota 0) 8 16 off).map fun p => BitVec.ofNat 64 (tget (fun _ => 0) s.stm.quotas (16 * k + p))

def Dev.readRed (s : Dev) (off : Nat) : Option Word :=
  if off = Reg.redTestStatus then some s.redStatus
  else if off = Reg.redTestOut then some s.red.out
  else (runIdx (Reg.redTestAcc 0) 8 5 off).map (wideWord s.red.acc.a)

/-! ### Inkwell, partitions, determinism -/

def Dev.readInk (s : Dev) (off : Nat) : Option Word :=
  if off = Reg.inkStatus then some s.inkStatus
  else match runIdx (Reg.inkChanStatus 0) 64 12 off, runIdx (Reg.inkChanCtl 0) 64 12 off, runIdx (Reg.inkLastUe 0) 64 12 off with
    | some c, _, _ => some (s.chan c).status
    | _, some c, _ => some (wordOf [(0, b2n (s.chan c).fenced)])
    | _, _, some c => some (s.chan c).lastUe
    | _, _, _ => none

/-- Connections of a partition that are still open. -/
def Dev.openConns (s : Dev) (n : Nat) : Nat := s.conns.countP fun c => decide (c.2.st = .active) && s.connPart c.1 == some n

/-- PTN_STATUS (Table 16.9). -/
def Dev.ptnStatus (s : Dev) (n : Nat) : Word :=
  let runs := fun (t : Tbl Slot) => t.countP fun p => p.2.run.any fun r => ringPart r.ring == n
  wordOf [(0, (s.ptn n).st.code), (11, s.openConns n),
    (32, capTo (s.xlt.misses.countP fun m => m.fn == n && (decide (m.st = .pri) || decide (m.st = .pend))) 8),
    (40, capTo (runs s.slots + runs s.exchs) 8), (48, capTo (s.ops.countP fun o => o.part == n) 16)]

def Dev.readPtn (s : Dev) (off : Nat) : Option Word :=
  match runIdx (Reg.ptnStatus 0) 32 64 off, runIdx (Reg.ptnQuiesceAt 0) 32 64 off, runIdx (Reg.ptnPreemptAt 0) 8 64 off with
  | some n, _, _ => some (s.ptnStatus n)
  | _, some n, _ => some (s.ptn n).quiesceAt
  | _, _, some n => some (s.ptn n).preemptAt
  | _, _, _ => none

def Dev.readDet (s : Dev) (f : Flash) (off : Nat) : Option Word :=
  let d := s.det
  let x := s.fol
  if off = Reg.detFingerprint then some d.fingerprint
  else if off = Reg.detStatus then some (wordOf [(0, b2n s.fpOk), (1, b2n d.replay)])
  else if off = Reg.detParts then some (if s.rst.trimValid then wordOf [(0, f.stepping.toNat), (8, d.trimClass.toNat)] else 0)
  else if off = Reg.detGenOut0 then some d.out0
  else if off = Reg.detGenOut1 then some d.out1
  else if off = Reg.folStatus then some (wordOf [(0, x.st.code)])
  else if off = Reg.folHead then some x.head
  else if off = Reg.folSeq then some x.seq
  else if off = Reg.folFreezeAt then some x.freezeAt
  else if off = Reg.folFreezeHead then some x.freezeHead
  else if off = Reg.folReplayPos then some x.replayPos
  else if off = Reg.folReplayResult then some (x.replayResult.setWidth 64)
  else none

/-! ### Optics, Ethernet, management segment -/

def WlLock.code : WlLock → Nat
  | .dark => 0 | .seek => 1 | .locked => 2 | .lost => 3

def Dev.readOpt (s : Dev) (off : Nat) : Option Word :=
  let p := bits (s.reg Reg.optPortSel) 3 0
  let x := s.optPort p
  if off = Reg.optPortStatus then
    some (wordOf [(0, b2n x.fenced), (1, b2n x.locked), (2, b2n (s.optReady p)), (8, x.cause.toNat)])
  else if off = Reg.optFecCorr then some x.fecCorr
  else if off = Reg.optFecUncorr then some x.fecUncorr
  else if off = Reg.optFences then some x.fences
  else none

/-- OPT_WL_STATUS: received power and heater drive are measured, and what the measurement of a wavelength that is not dark
finds is open. -/
def Dev.readWl (s : Dev) (w : Nat) : Dev × Word :=
  let p := bits (s.reg Reg.optPortSel) 3 0
  let measured : Dev :=
    if ((s.optPort p).wl w).lock = .dark then s
    else
      let (s, x) := s.draw
      let o := s.optPort p
      s.setOpt p (o.setWl w { o.wl w with rxPower := x.setWidth 16, heater := BitVec.ofNat 16 (bits x 31 16) })
  let y := (measured.optPort p).wl w
  (measured, wordOf [(0, y.lock.code), (16, y.rxPower.toNat), (32, y.heater.toNat), (48, y.berExp.toNat)])

/-- LSM_BAY_STATUS (Table 18.11). -/
def Bay.status (b : Bay) : Word :=
  wordOf [(0, b2n b.present), (1, b2n b.interlock), (2, b2n b.lit), (3, b2n b.checked), (4, b2n b.refused), (5, b2n b.released),
    (6, b.lifeWarn), (32, b.current.toNat)]

def Dev.readLsm (s : Dev) (off : Nat) : Option Word :=
  let b := s.bay (bits (s.reg Reg.lsmBaySel) 3 0)
  if off = Reg.lsmBayStatus then some b.status
  else if off = Reg.lsmLife then some (BitVec.ofNat 64 b.lifeSecs)
  else if off = Reg.lsmRated then some b.rated
  else if off = Reg.lsmSerial0 then some (wideWord b.serial 0)
  else if off = Reg.lsmSerial1 then some (wideWord b.serial 1)
  else if off = Reg.lsmInsertions then some b.insertions
  else none

def QpSt.code : QpSt → Nat
  | .reset => 0 | .rts => 1 | .error => 2

/-- A queue pair entry (Table 19.5). -/
def Qp.entry (q : Qp) : BitVec 512 :=
  let b := setBits (setBits q.cfg 1 0 q.st.code) 287 264 q.epsn.toNat
  setBits (setBits (setBits (setBits b 255 224 q.lastImm.toNat) 223 216 q.errCause.toNat) 215 192 q.msn.toNat) 191 160 q.rate.toNat

def Dev.readEth (s : Dev) (off : Nat) : Option Word :=
  match runIdx (Reg.ethPortStatus 0) 256 2 off, runIdx (Reg.ethQpEntry 0) 8 8 off with
  | some i, _ =>
    let x := s.ethPort i
    some (wordOf [(0, b2n x.link), (1, b2n x.pcsLock), (2, b2n (s.isEth (14 + i)))])
  | _, some w => some (wideWord (s.qp s.selQp).entry w)
  | _, _ => none

def Dev.readMseg (s : Dev) (off : Nat) : Option Word :=
  if off = Reg.msegStatus then
    some (wordOf [(0, b2n s.mseg.keyed), (1, b2n (s.mseg.plcaActive && s.plcaOn)), (2, b2n s.mseg.pausedUntil.isSome)])
  else if off = Reg.msegMac then some (s.mseg.mac.setWidth 64)
  else none

/-! ### Every register -/

/-- Registers that hold what is written to them, their ST fields as CAPO_VIEW shows them, and counts; 0 at every other
offset. -/
def Dev.readPlain (s : Dev) (off : Nat) : Word :=
  let rw := if (regRow false off).isSome then s.reg off else 0
  let st := if (regRow true off).isSome then (if bit (s.reg Reg.capoView) 0 then s.sh off else s.st off) else 0
  if (runIdx (Reg.rlgPortAsym 0) 8 16 off).isSome then (st.setWidth 32).signExtend 64
  else if (regRow false off).isSome || (regRow true off).isSome then rw ||| st else s.count off

/-- A register whose reading changes nothing, in the physical function's map. -/
def Dev.readReg (s : Dev) (f : Flash) (v : View) (off : Nat) : Word :=
  let special : Option Word :=
    match off / 2 ^ 16 with
    | 0x00 => some (s.readDev f off)
    | 0x01 => s.readCapo off
    | 0x02 => s.readRlg off
    | 0x03 => s.readRst f off
    | 0x04 => s.readErr off
    | 0x05 => s.readHst off
    | 0x06 => s.readTray off
    | 0x08 | 0x09 => some (s.readRing v off)
    | 0x0C => s.readConn v off
    | 0x0D => s.readKey v off
    | 0x0F => s.readRte off
    | 0x10 => s.readChd off
    | 0x11 => s.readRed off
    | 0x12 => s.readStm off
    | 0x13 => if off = Reg.cphKeyStatus then some s.cphStatus else none
    | 0x14 => s.readInk off
    | 0x15 => s.readPtn off
    | 0x16 => s.readDet f off
    | 0x17 => s.readOpt off
    | 0x18 => s.readLsm off
    | 0x19 => s.readEth off
    | 0x1A => s.readMseg off
    | 0x1B => s.readSst off
    | _ => none
  special.getD (s.readPlain off)

/-- The window whose DATA register lies at an offset. -/
def windowAt (off : Nat) : Option Window :=
  [rlgTabWindow, schWindow, rteWindow, chdWindow, inkWindow, ptnWindow].find? fun w => w.data == off

/-- What a function sends as a value, taken from what it sends. -/
def Dev.taken (s : Dev) (f : Dev → Dev) : Dev × Word :=
  let t := f { s with out := [] }
  let v := match t.out.getLast? with | some (.value w) => w | _ => 0
  ({ t with out := s.out ++ t.out.filter fun o => match o with | .value _ => false | _ => true }, v)

/-- A read of the register at an offset of the physical function's map: those that a read changes first. -/
def Dev.readAt (s : Dev) (f : Flash) (env : Env) (v : View) (h : Half) (off : Nat) : Dev × Word :=
  if s.inReset off then (s.hostErr v off 0x06 0, 0)
  else if !s.selOwned v off && off != Reg.ringSel && off != Reg.ringCtrSel && off != Reg.connSel && off != Reg.keySel
    && off / 2 ^ 16 != 0x09 then (s, 0)
  else match windowAt off, runIdx (Reg.connCtx 0) 8 64 off, runIdx (Reg.optWlStatus 0) 8 8 off, runIdx (Reg.keyEntry 0) 8 4 off with
    | some x, _, _, _ => s.taken fun s => s.window x { view := .pf, half := h }
    | _, some w, _, _ => s.readCtx env v w
    | _, _, some w, _ => s.readWl w
    | _, _, _, some w => s.readEntry env v w
    | _, _, _, _ =>
      if off = Reg.schHistData0 then s.taken Dev.histRead
      else if off = Reg.schHistData1 then (s, s.sch.snap1)
      else if off = Reg.connHoldPeak then ({ s with cnt := terase s.cnt off }, s.count off)
      else if off = Reg.errLogData 0 then (s.errSnap, s.errSnap.errData 0)
      else (s, s.readReg f v off)

/-! ### Views and accesses (R26, R186) -/

/-- The physical function's offset of a register of a virtual function's view (Table 9.2); none where the view has no such
register. The view's own HST_VF_INFO, pending bits and MSI-X table are dealt with apart. -/
def vfReg (off : Nat) : Option Nat :=
  if off ≤ 0x68 || (0x10000 ≤ off && off < 0x11000) then some (off + 0x080000)
  else if off = 0x20000 || off = 0x20008 || off = 0x20010 || (0x20200 ≤ off && off < 0x20400) then some (off + 0x0A0000)
  else if 0x30008 ≤ off && off ≤ 0x30028 then some (off - 0x30008 + 0x0D0000)
  else if 0x30100 ≤ off && off ≤ 0x30118 then some (off - 0x30100 + 0x020010)
  else none

/-- A read through a virtual function's BAR0. -/
def Dev.vfRead (s : Dev) (f : Flash) (env : Env) (n : Fin 64) (h : Half) (off : Nat) : Dev × Word :=
  if off = 0x30000 then (s, wordOf [(0, n.val), (32, s.hst.epoch.toNat)])
  else match runIdx 0x34000 8 32 off, runIdx 0x38000 8 4096 off with
    | some w, _ => (s, s.pbaWord n.val w)
    | _, some i => (s, s.msixWord n.val (i / 2) (i % 2))
    | _, _ => match vfReg off with
      | some o => s.readAt f env (.vf n) h o
      | none => (s, 0)

/-- A read of 4 or 8 bytes at an aligned offset. -/
def Dev.viewRead (s : Dev) (f : Flash) (env : Env) (v : View) (h : Half) (off : Nat) : Dev × Word :=
  let (s, w) := match v with
    | .vf n => s.vfRead f env n h off
    | _ => s.readAt f env v h off
  (s, halfOf h w)

end Sys2Proof.Machine
end

