-- ==== Sys2Proof/Machine/Regs.lean ====
section
/-! DEFINITION. What a write of each BAR0 register does, and accesses of any offset, size and alignment through the views and
the register port (R15, R26, R61, R186, R442). -/

namespace Sys2Proof.Machine

/-- The data of a write as a register takes it whose fields all lie in the low half; none where the low half is not
addressed. -/
def lowData (h : Half) (w : Word) : Option Word :=
  match h with
  | .both => some w
  | .low => some (w &&& 0xFFFFFFFF)
  | .high => none

def onLow (h : Half) (w : Word) (s : Dev) (f : Dev → Word → Dev) : Dev :=
  match lowData h w with
  | some w => f s w
  | none => s

/-- The data of a register with one field that spans bit 32. -/
def onWhole (h : Half) (s : Dev) (f : Dev → Dev) : Dev :=
  match h with
  | .both => f s
  | _ => s

/-- A register that holds what is written, ST fields to its shadow (R442). -/
def Dev.writePlain (s : Dev) (v : View) (h : Half) (off : Nat) (w : Word) : Dev :=
  let s := match regRow false off with
    | some r => s.setReg off (writeFields r.fields h (s.reg off) w)
    | none => s
  s.stWrite v off h w

/-! ### Control plane -/

/-- CAPO_CTL (Table 3.11). -/
def Dev.capoCtl (s : Dev) (f : Flash) (env : Env) (v : View) (w : Word) : Dev :=
  match bits w 7 0 with
  | 0 => s
  | 1 => s.loadCmd
  | 2 => s.loadFwCmd f env
  | 3 => s.checkCmd
  | 4 => s.armCmd
  | 5 => s.disarmCmd
  | 6 => s.discardCmd
  | 7 => s.storeCmd v
  | 8 => s.applyNowCmd v
  | _ => s.hostErr v Reg.capoCtl 0x03 w

/-- The states in which CAPO_STAGING_BASE may be written (R59). -/
def Dev.baseOpen (s : Dev) : Bool :=
  match s.capo.st with
  | .idle | .staged | .passed | .failed => true
  | _ => false

def Dev.writeCapo (s : Dev) (f : Flash) (env : Env) (v : View) (h : Half) (off : Nat) (w : Word) : Dev :=
  if off = Reg.capoCtl then onLow h w s fun s w => s.capoCtl f env v w
  else if off = Reg.capoApplyAt ∨ off = Reg.capoApplyAtEpoch then (if s.capoArmed then s else s.writePlain v h off w)
  else if off = Reg.capoStagingBase then (if s.baseOpen then s.writePlain v h off w else s.hostErr v off 0x02 w)
  else s.writePlain v h off w

def Dev.rstCtl (s : Dev) (f : Flash) (v : View) (w : Word) : Dev :=
  match bits w 7 0 with
  | 0 => s
  | 1 => s.warmReset v
  | 2 => s.shutdown f v
  | _ => s.hostErr v Reg.rstCtl 0x03 w

/-- LCS_CTL (R412). -/
def Dev.lcsCtl (s : Dev) (f : Flash) (env : Env) (v : View) (w : Word) : Dev :=
  let k := bits w 7 0
  let run : Option (Dev → Dev) :=
    match k with
    | 1 => some fun s => s.nonceCmd f
    | 2 => some fun s => s.tokenCmd f env 2 3
    | 3 => some fun s => s.exitDiag f
    | 4 => some fun s => s.secure f
    | 5 => some fun s => s.tokenCmd f env 5 4
    | 6 => some fun s => s.attest f env
    | 7 => some fun s => s.provision f env
    | _ => none
  if k = 0 then s
  else match run with
    | some g => s.lcsCmd v k g
    | none => s.hostErr v Reg.lcsCtl 0x03 w

def Dev.writeRst (s : Dev) (f : Flash) (env : Env) (v : View) (h : Half) (off : Nat) (w : Word) : Dev :=
  if off = Reg.rstCtl then onLow h w s fun s w => s.rstCtl f v w
  else if off = Reg.rstBlockCtl then onLow h w s fun s w => s.blockCmd v w
  else if off = Reg.rstWdtKick then s.wdtKick
  else if off = Reg.lcsCtl then onLow h w s fun s w => s.lcsCtl f env v w
  else if off = Reg.rstMboxCtl then onLow h w (s.writePlain v h off w) fun s w => if bit w 0 then s.mailboxGo f env else s
  else s.writePlain v h off w

def Dev.writeErr (s : Dev) (v : View) (h : Half) (off : Nat) (w : Word) : Dev :=
  if off = Reg.errRead then onWhole h s fun s => s.errReadSet w else s.writePlain v h off w

def Dev.writeRlg (s : Dev) (v : View) (h : Half) (off : Nat) (w : Word) : Dev :=
  if off = Reg.rlgSnap then s.rlgSnap
  else if off = Reg.rlgSet then onWhole h s fun s => s.rlgSet w
  else s.writePlain v h off w

/-! ### Selections (R101, R140, R183, R186) -/

/-- A register that a selection register governs. -/
def governed (off : Nat) : Nat :=
  if off = Reg.ringSel then Reg.ringBase
  else if off = Reg.ringCtrSel then Reg.ringCtr
  else if off = Reg.connSel then Reg.connCtl
  else Reg.keyEntry 0

def Dev.writeSel (s : Dev) (v : View) (h : Half) (off : Nat) (w : Word) : Dev :=
  match regRow false off with
  | none => s
  | some r =>
    let t := s.setReg (selKey v off) (writeFields r.fields h (s.sel v off) w)
    if t.selOwned v (governed off) then t else s.hostErr v off 0x04 w

/-! ### Rings and connections -/

def ringBaseFields : List (Nat × Nat × Nat) := [(63, 12, 0), (11, 10, 0), (9, 8, 0)]
def ringCfgFields : List (Nat × Nat × Nat) := [(29, 16, 0), (15, 8, 0), (4, 0, 0)]
def cqCfgFields : List (Nat × Nat × Nat) := [(26, 16, 0), (8, 8, 0), (4, 0, 0)]
def startFields : List (Nat × Nat × Nat) := [(47, 32, 0), (31, 0, 0)]

/-- A write of a register that is RW in DISABLED. -/
def Ring.write (x : Ring) (h : Half) (off : Nat) (w : Word) : Ring :=
  if off = Reg.ringBase then { x with base := writeFields ringBaseFields h x.base w }
  else if off = Reg.ringCfg then { x with cfg := writeFields ringCfgFields h x.cfg w }
  else { x with start := (writeFields startFields h (x.start.setWidth 64) w).setWidth 48 }

def Cq.write (x : Cq) (h : Half) (off : Nat) (w : Word) : Cq :=
  if off = Reg.ringBase then { x with base := writeFields ringBaseFields h x.base w }
  else if off = Reg.ringCfg then { x with cfg := writeFields cqCfgFields h x.cfg w }
  else if off = Reg.ringCqHeadAddr then { x with headAddr := writeFields [(63, 3, 0)] h x.headAddr w }
  else { x with start := (writeFields startFields h (x.start.setWidth 64) w).setWidth 48 }

/-- RING_BASE, RING_CFG, RING_START and RING_CQ_HEAD_ADDR. -/
def Dev.writeRingCfg (s : Dev) (v : View) (h : Half) (off : Nat) (w : Word) : Dev :=
  let r := s.selRing v
  if s.selKind v then
    (if (s.cq r).st = .disabled then s.setCq r ((s.cq r).write h off w) else s.hostErr v off 0x02 w)
  else if off = Reg.ringCqHeadAddr then s
  else if (s.ring r).st = .disabled then s.setRing r ((s.ring r).write h off w)
  else s.hostErr v off 0x02 w

/-- RING_CTR: VALUE spans bit 32. -/
def Dev.writeRingCtr (s : Dev) (v : View) (h : Half) (w : Word) : Dev :=
  match h with
  | .low => s
  | _ =>
    let old := (s.ctr (bits (s.sel v Reg.ringCtrSel) 15 0)).word
    s.writeCtr v (writeFields [(63, 63, 0), (47, 0, 0)] h old w)

def Dev.writeRing (s : Dev) (v : View) (h : Half) (off : Nat) (w : Word) : Dev :=
  if off = Reg.ringSel ∨ off = Reg.ringCtrSel then s.writeSel v h off w
  else if off = Reg.ringCtl then onLow h w s fun s w => s.owned v off w fun s => s.ringCtl v w
  else if off = Reg.ringInval then onLow h w s fun s w => s.owned v off w fun s => s.writeInval v w
  else if off = Reg.ringBase ∨ off = Reg.ringCfg ∨ off = Reg.ringStart ∨ off = Reg.ringCqHeadAddr then
    s.owned v off w fun s => s.writeRingCfg v h off w
  else if off = Reg.ringCtr then s.owned v off w fun s => s.writeRingCtr v h w
  else s

/-- The writable fields of words 0 to 7 of a context; a reserved bit is held, and refused at ENABLE (Tables 6.3, 6.15). -/
def ctxFields : Nat → List (Nat × Nat × Nat)
  | 0 => [(63, 32, 0), (31, 30, 0), (23, 19, 0), (18, 16, 0), (15, 14, 0), (13, 8, 0), (7, 7, 0), (6, 6, 0), (5, 4, 0)]
  | 1 => [(63, 32, 0), (31, 20, 0), (19, 0, 0)]
  | 2 => [(63, 32, 0), (31, 16, 0), (15, 0, 0)]
  | 3 => [(63, 56, 0), (55, 48, 0), (47, 40, 0), (39, 32, 0), (31, 0, 0)]
  | 4 => [(63, 48, 0), (47, 0, 0)]
  | 5 => [(63, 32, 0), (31, 0, 0)]
  | 6 => [(63, 16, 0), (15, 0, 0)]
  | 7 => [(63, 0, 0)]
  | _ => []

/-- Word `w` of a 512-bit record replaced. -/
def setWide (x : BitVec 512) (w : Nat) (v : Word) : BitVec 512 := setBits x (64 * w + 63) (64 * w) v.toNat

/-- CONN_CTX. -/
def Dev.writeCtx (s : Dev) (v : View) (h : Half) (i : Nat) (w : Word) : Dev :=
  let c := s.selConn v
  let x := s.conn c
  if 8 ≤ i ∨ x.st ≠ .reset then s.hostErr v (Reg.connCtx i) 0x02 w
  else (s.setConn c { x with cfg := setWide x.cfg i (writeFields (ctxFields i) h (wideWord x.cfg i) w) }).ctxTouch c

def Dev.writeConn (s : Dev) (v : View) (h : Half) (off : Nat) (w : Word) : Dev :=
  if off = Reg.connSel then s.writeSel v h off w
  else if off = Reg.connCtl then onLow h w s fun s w => s.owned v off w fun s => s.connCmd v w
  else match runIdx (Reg.connCtx 0) 8 64 off with
    | some i => s.owned v off w fun s => s.writeCtx v h i w
    | none => s.writePlain v h off w

def Dev.writeKey (s : Dev) (v : View) (h : Half) (off : Nat) (w : Word) : Dev :=
  if off = Reg.keySel then s.writeSel v h off w
  else if off = Reg.xltInval then
    match h with
    | .both => s.xltInval v w
    | .low => s.xltInval v (w &&& 0xFFFFFFFF)
    | .high => s.xltInvalHigh v w
  else s.writePlain v h off w

/-! ### Host and tray attach -/

/-- A write of a word of a function's MSI-X table entry; its mask bit is bit 32 of the second word (PRESUMED: the MSI-X
capability). -/
def Dev.writeMsix (s : Dev) (fn i : Nat) (h : Half) (w : Word) : Dev :=
  let fields := if i % 2 = 0 then [(63, 32, 0), (31, 2, 0)] else [(32, 32, 0), (31, 0, 0)]
  let v := writeFields fields h (s.msixWord fn (i / 2) (i % 2)) w
  { s with hst := { s.hst with msix := tset msixReset s.hst.msix (msixKey fn (i / 2) (i % 2)) v } }

def Dev.writeHst (s : Dev) (v : View) (h : Half) (off : Nat) (w : Word) : Dev :=
  match runIdx 0x058000 8 4096 off with
  | some i => s.writeMsix 0 i h w
  | none => s.writePlain v h off w

def Dev.writeTray (s : Dev) (v : View) (h : Half) (off : Nat) (w : Word) : Dev :=
  match runIdx (Reg.trayPortCfg 0) 4096 4 off with
  | some k => onLow h w s fun s w => s.trayCfg k w
  | none => s.writePlain v h off w

/-! ### Fabric, chords, reduction -/

/-- RTE_PORT_CFG: ENABLE = 0 takes the port down (R225). -/
def Dev.writeRtePort (s : Dev) (v : View) (p : Nat) (h : Half) (w : Word) : Dev :=
  let was := s.portEnabled p
  let s := s.writePlain v h (Reg.rtePortCfg p) w
  if was && !s.portEnabled p && !s.isEth p then s.goDown p 4 else s

def Dev.writeRte (s : Dev) (v : View) (h : Half) (off : Nat) (w : Word) : Dev :=
  match runIdx (Reg.rtePortCfg 0) 8 16 off with
  | some p => s.writeRtePort v p h w
  | none => s.writePlain v h off w

def Dev.writeChd (s : Dev) (v : View) (h : Half) (off : Nat) (w : Word) : Dev :=
  if off = Reg.chdSlotSeq then onLow h w s fun s w => s.seqWrite v false (bits (s.reg Reg.chdSlotSel) 11 0) off w
  else s.writePlain v h off w

def Dev.writeStm (s : Dev) (v : View) (h : Half) (off : Nat) (w : Word) : Dev :=
  if off = Reg.stmExchSeq then onLow h w s fun s w => s.seqWrite v true (bits (s.reg Reg.stmExchSel) 11 0) off w
  else s.writePlain v h off w

def Dev.writeRed (s : Dev) (v : View) (h : Half) (off : Nat) (w : Word) : Dev :=
  if off = Reg.redTestCtl then onLow h w s fun s w => s.redTestCtl v w else s.writePlain v h off w

def Dev.writeCph (s : Dev) (v : View) (h : Half) (off : Nat) (w : Word) : Dev :=
  if off = Reg.cphKeyCtl then onLow h w s fun s w => s.cphCtl v w
  else match runIdx (Reg.cphKeyData 0) 8 4 off with
    | some i => onWhole h s fun s => s.cphDataWrite v i w
    | none => s.writePlain v h off w

/-! ### Inkwell, partitions, Folio -/

def Dev.writeInk (s : Dev) (v : View) (h : Half) (off : Nat) (w : Word) : Dev :=
  match runIdx (Reg.inkChanCtl 0) 64 12 off with
  | some c => onLow h w s fun s w => if bit w 0 then s.fence c 0x07 else s
  | none => s.writePlain v h off w

def Dev.writePtn (s : Dev) (v : View) (h : Half) (off : Nat) (w : Word) : Dev :=
  match runIdx (Reg.ptnCtl 0) 32 64 off with
  | some n => onLow h w s fun s w => s.ptnCmd v n w
  | none => s.writePlain v h off w

/-- FOL_CTL (Table 17.11). -/
def Dev.folCtl (s : Dev) (env : Env) (v : View) (w : Word) : Dev :=
  match bits w 7 0 with
  | 0 => s
  | 1 => s.folStart v
  | 2 => s.folStop v
  | 3 => s.folTriggerCmd v
  | 4 => s.folRearm v
  | 5 => s.folMark v
  | 6 => s.replayEnter v
  | 7 => s.replayStart v env
  | 8 => s.replayExit v
  | _ => s.hostErr v Reg.folCtl 0x03 w

def Dev.writeDet (s : Dev) (env : Env) (v : View) (h : Half) (off : Nat) (w : Word) : Dev :=
  if off = Reg.folCtl then onLow h w s fun s w => s.folCtl env v w
  else if off = Reg.detGenCounter then onWhole h s fun s => s.detGen w
  else s.writePlain v h off w

/-! ### Optics, Ethernet, management segment -/

/-- OPT_PORT_CTL. -/
def Dev.optCtl (s : Dev) (v : View) (w : Word) : Dev :=
  let p := bits (s.reg Reg.optPortSel) 3 0
  match bits w 1 0 with
  | 1 => s.softFence p
  | 2 => s.unfence v p
  | 3 => s.hostErr v Reg.optPortCtl 0x02 w
  | _ => s

def Dev.writeOpt (s : Dev) (v : View) (h : Half) (off : Nat) (w : Word) : Dev :=
  if off = Reg.optPortCtl then onLow h w s fun s w => s.optCtl v w else s.writePlain v h off w

def Dev.writeLsm (s : Dev) (v : View) (h : Half) (off : Nat) (w : Word) : Dev :=
  if off = Reg.lsmCtl then onLow h w s fun s w => if bit w 0 then s.lsmRelease (bits (s.reg Reg.lsmBaySel) 3 0) else s
  else s.writePlain v h off w

/-- The writable fields of a queue pair entry's words (Table 19.5). -/
def qpFields : Nat → List (Nat × Nat × Nat)
  | 0 => [(37, 32, 0), (8, 8, 0)]
  | 2 => [(31, 22, 0), (21, 21, 0), (2, 0, 0)]
  | 4 => [(63, 40, 0), (31, 8, 0)]
  | 5 => [(63, 16, 0)]
  | 6 | 7 => [(63, 0, 0)]
  | _ => []

/-- ETH_QP_ENTRY. -/
def Dev.writeQp (s : Dev) (v : View) (h : Half) (i : Nat) (w : Word) : Dev :=
  let k := s.selQp
  let q := s.qp k
  if q.st ≠ .reset then s.hostErr v (Reg.ethQpEntry i) 0x02 w
  else
    let e := setWide q.entry i (writeFields (qpFields i) h (wideWord q.entry i) w)
    let cfg := setBits (setBits e 287 264 0) 255 192 0
    s.setQp k { q with cfg := setBits (setBits cfg 191 160 0) 1 0 0, epsn := BitVec.ofNat 24 (bits e 287 264) }

def Dev.writeEth (s : Dev) (v : View) (h : Half) (off : Nat) (w : Word) : Dev :=
  if off = Reg.ethQpCtl then onLow h w s fun s w => s.qpCtl v w
  else match runIdx (Reg.ethQpEntry 0) 8 8 off with
    | some i => s.writeQp v h i w
    | none => s.writePlain v h off w

def Dev.writeMseg (s : Dev) (v : View) (h : Half) (off : Nat) (w : Word) : Dev :=
  match runIdx (Reg.msegKey 0) 8 4 off with
  | some i => onWhole h s fun s => s.msegKeyWrite v i w
  | none => s.writePlain v h off w

/-! ### Every register -/

/-- A write of a register that is no window's DATA, its block out of reset. -/
def Dev.writeReg (s : Dev) (f : Flash) (env : Env) (v : View) (h : Half) (off : Nat) (w : Word) : Dev :=
  match off / 2 ^ 16 with
  | 0x01 => s.writeCapo f env v h off w
  | 0x02 => s.writeRlg v h off w
  | 0x03 => s.writeRst f env v h off w
  | 0x04 => s.writeErr v h off w
  | 0x05 => s.writeHst v h off w
  | 0x06 => s.writeTray v h off w
  | 0x08 => s.writeRing v h off w
  | 0x0C => s.writeConn v h off w
  | 0x0D => s.writeKey v h off w
  | 0x0F => s.writeRte v h off w
  | 0x10 => s.writeChd v h off w
  | 0x11 => s.writeRed v h off w
  | 0x12 => s.writeStm v h off w
  | 0x13 => s.writeCph v h off w
  | 0x14 => s.writeInk v h off w
  | 0x15 => s.writePtn v h off w
  | 0x16 => s.writeDet env v h off w
  | 0x17 => s.writeOpt v h off w
  | 0x18 => s.writeLsm v h off w
  | 0x19 => s.writeEth v h off w
  | 0x1A => s.writeMseg v h off w
  | 0x1B => if off = Reg.sstCtl then onLow h w s fun s w => s.sstCtl f v w else s
  | _ => s.writePlain v h off w

/-- A write of the register at an offset of the physical function's map. -/
def Dev.writeAt (s : Dev) (f : Flash) (env : Env) (v : View) (h : Half) (off : Nat) (w : Word) : Dev :=
  if s.inReset off then s.hostErr v off 0x06 w
  else match windowAt off with
    | some x => s.window x { view := v, data := some w, half := h }
    | none => s.writeReg f env v h off w

/-- A write through a virtual function's BAR0. -/
def Dev.vfWrite (s : Dev) (f : Flash) (env : Env) (n : Fin 64) (h : Half) (off : Nat) (w : Word) : Dev :=
  match runIdx 0x38000 8 4096 off with
  | some i => s.writeMsix n.val i h w
  | none => match vfReg off with
    | some o => s.writeAt f env (.vf n) h o w
    | none => s

/-- A write of 4 or 8 bytes at an aligned offset. -/
def Dev.viewWrite (s : Dev) (f : Flash) (env : Env) (v : View) (h : Half) (off : Nat) (w : Word) : Dev :=
  let s := s.tapPart v off h w
  match v with
  | .vf n => s.vfWrite f env n h off w
  | _ => s.writeAt f env v h off w

/-- The register and the half of it that an aligned access of 4 or 8 bytes addresses (R26). -/
def accPart (a : Access) : Nat × Half :=
  let off := a.off.toNat
  (off / 8 * 8, if a.size = 8 then .both else if off % 8 = 0 then .low else .high)

def accOk (a : Access) : Bool := (a.size == 4 || a.size == 8) && a.off.toNat % a.size == 0

/-- The data of an access, in the addressed half. -/
def accPlaced (h : Half) (w : Word) : Word :=
  match h with
  | .high => w <<< 32
  | _ => w

/-- The value a read returns to the bus. -/
def accReturned (h : Half) (w : Word) : Word :=
  match h with
  | .high => w >>> 32
  | _ => w

/-- An access to BAR0: one of another size or alignment reads zero, is ignored, and posts a record (R26). -/
def Dev.access (s : Dev) (f : Flash) (env : Env) (a : Access) : Dev :=
  let (off, h) := (accPart a)
  if !accOk a then
    let s := s.hostErr a.view a.off.toNat 0x01 (a.data.getD 0)
    if a.data.isNone then s.emit (.value 0) else s
  else match a.data with
    | some w => s.viewWrite f env a.view h off (accPlaced h w)
    | none => let (s, w) := s.viewRead f env a.view h off; s.emit (.value (accReturned h w))

/-- A register with ST fields, or a window on staged tables. -/
def stAt (off : Nat) : Bool := (regRow true off).isSome || (windowAt off).isSome

def execRegisterWrite (a : Access) (env : Env) (s : State) : Host.Outcome State Fault Refusal :=
  onDevF (fun f s => s.access f env a) s
def execShadowWrite (a : Access) (s : State) : Host.Outcome State Fault Refusal :=
  onDevF (fun f s => if a.data.isSome && stAt (accPart a).1 then s.access f {} a else s) s
def execRtePortEnableWrite (v : View) (port : Fin 16) (w : Word) (s : State) : Host.Outcome State Fault Refusal :=
  onWrite v (Reg.rtePortCfg port) w
    (pfOnly v fun s => s.gated v (Reg.rtePortCfg port) w fun s => s.writeRtePort v port .both w) s

end Sys2Proof.Machine
end

