-- ==== Sys2Proof/Machine/Replay.lean ====
section
/-! DEFINITION. REPLAY_INJECT (R350): the next input of the range is injected at its TIME, and what the device has produced is
compared with what the range records. -/

namespace Sys2Proof.Machine

/-! ### Comparing (R350, Table 17.9) -/

/-- A kind whose records are compared. -/
def FolRec.output (r : FolRec) : Bool := r.is 0x06 || r.is 0x08 || r.is 0x0C

/-- TIME in the extended count, nearest the count now. -/
def Dev.extend (s : Dev) (t : Word) : Nat := ((s.now : Int) + (t - s.rlg.time).toInt).toNat

/-- The recorded output that one produced answers: of a packet's port the next, of a completion ring the record of the same
entry, which may have another position there (R105, Table 17.1), and of the digests the next. -/
def FolRec.answers (p r : FolRec) : Bool :=
  p.kind == r.kind &&
    (if p.is 0x06 then slice p.body 72 1 == slice r.body 72 1
     else if p.is 0x08 then slice p.body 0 2 == slice r.body 0 2 && slice p.body 20 2 == slice r.body 20 2 && slice p.body 24 4 == slice r.body 24 4
     else true)

/-- Whether two outputs agree in bits. Of a packet's header, the bits that links and the way change do not count; of a
completion, its position and the PHASE that follows from it do not. -/
def FolRec.sameBits (p r : FolRec) : Bool :=
  if p.is 0x06 then hdrStill p.hdr == hdrStill r.hdr && slice p.body 64 8 == slice r.body 64 8
  else if p.is 0x08 then leAt p.body 16 32 / 2 == leAt r.body 16 32 / 2
  else p.body == r.body

/-- A COPY's completion is compared in bits only (Table 17.1); the opcode is in byte 2 of the record. -/
def FolRec.timeless (p : FolRec) : Bool := p.is 0x08 && leAt p.body 18 1 == 0x30

/-- The fret and cycle of an output: a packet's on its port, another's on the clock port. -/
def Dev.fretOf (s : Dev) (p : FolRec) (t : Nat) : Option (Nat × Nat) :=
  (s.fretAt (if p.is 0x06 then leAt p.body 72 1 else s.clockPort) t).map fun x => (x.1, x.2.1)

/-- The code of a disagreement; 0 for none. -/
def Dev.outputCode (s : Dev) (p r : FolRec) : Byte :=
  if !p.sameBits r then (if p.is 0x0C then 0x0A else 0x08)
  else if !p.timeless && s.fretOf p (s.extend p.time) != s.fretOf p (s.extend r.time) then 0x09
  else 0

/-- DIVERGED, with the reason and the record. -/
def Dev.diverge (s : Dev) (code : Byte) (r : FolRec) : Dev :=
  { s with fol := { s.fol with
    st := .diverged, replayResult := code, replayPos := r.seq.setWidth 64, recs := [], produced := [] } }

/-- A record consumed. -/
def Dev.consume (s : Dev) (r : FolRec) : Dev :=
  { s with fol := { s.fol with recs := eraseFirst (· == r) s.fol.recs, replayPos := r.seq.setWidth 64 } }

/-- One thing produced: an output is compared with the first record it answers; a MATCH or ATOMIC uses the one that fixed it. -/
def Dev.compare (s : Dev) (p : FolRec) : Dev :=
  if s.fol.st ≠ .replaying then s
  else if p.output then
    match s.fol.recs.find? p.answers with
    | none => s
    | some r => if s.outputCode p r = 0 then s.consume r else s.diverge (s.outputCode p r) r
  else if p.is 0x0A || p.is 0x0B then
    match s.fol.recs.find? fun r => r.kind == p.kind && r.body.take (if p.is 0x0A then 12 else 8) == p.body.take (if p.is 0x0A then 12 else 8) with
    | none => s
    | some r => s.consume r
  else s

/-- Everything produced since the last comparison. -/
def Dev.compareAll (s : Dev) : Dev :=
  let l := s.fol.produced
  l.foldl Dev.compare { s with fol := { s.fol with produced := [] } }

/-- A recorded output whose fret has passed without it. -/
def Dev.lateOutput (s : Dev) : Option FolRec :=
  s.fol.recs.find? fun r => r.output && !r.timeless &&
    match s.fretOf r (s.extend r.time), s.fretOf r s.now with
    | some a, some b => decide (a.1 < b.1) || (a.1 == b.1 && decide (a.2 < b.2))
    | _, _ => false

/-! ### Injecting -/

def folView (fn : Nat) : View := if h : 0 < fn ∧ fn < 64 then .vf ⟨fn, h.2⟩ else .pf

/-- HOST_WRITE. -/
def Dev.injectWrite (s : Dev) (f : Flash) (env : Env) (b : List Byte) : Dev :=
  let a : Access := { view := folView (leAt b 0 2), off := BitVec.ofNat 22 (leAt b 4 4), size := leAt b 3 1, data := some (BitVec.ofNat 64 (leAt b 8 8)) }
  s.access f env a

/-- DESCRIPTOR: the entry is taken. -/
def Dev.injectEntry (s : Dev) (env : Env) (b : List Byte) : Dev :=
  let r := leAt b 0 2 % 16384
  let x := s.ring r
  let units := (List.range ((b.length - 16) / 64)).map fun i => BitVec.ofNat 512 (leAt b (16 + 64 * i) 64)
  let ent : Entry := { pos := BitVec.ofNat 32 (leAt b 4 4), seq := BitVec.ofNat 16 (bits (units.headD 0) 47 32), units := units }
  let s := s.setRing r { x with
    taken := x.taken ++ [ent]
    fetchPos := ent.pos + BitVec.ofNat 32 units.length
    fetchSeq := ent.seq + 1 }
  (s.settleHead 256 env r).settle

/-- A packet that has arrived for this device, by its type. -/
def Dev.arrive (s : Dev) (env : Env) (port : Nat) (p : Packet) : Dev :=
  let s := s.toLocal p port
  if isPluck p then (if p.ptype == 0x25 || p.ptype == 0x26 then s.rxPhase port p else s.rxPluck port p)
  else if isChord p then s.rxChord env port p
  else if isStrum p then s.rxStrum env p
  else s.receive env p

/-- PKT_RX, with the PAYLOAD that follows it. -/
def Dev.injectPacket (s : Dev) (env : Env) (b : List Byte) (payload : List Byte) : Dev :=
  let hdr := BitVec.ofNat 512 (leAt b 0 64)
  (s.arrive env (leAt b 72 1) { hdr := hdr, payload := payload.take ({ hdr := hdr } : Packet).plen }).settle

/-- The PAYLOAD of a PKT_RX. -/
def payloadAfter (l : List FolRec) (r : FolRec) : Option FolRec :=
  match (l.dropWhile fun x => x != r).drop 1 with
  | q :: _ => if q.is 0x07 then some q else none
  | [] => none

/-- One input record. -/
def Dev.inject (s : Dev) (f : Flash) (env : Env) (r : FolRec) : Dev :=
  let pay := payloadAfter s.fol.recs r
  let s := s.consume r
  match r.kind.toNat with
  | 0x02 => let k := leAt r.body 0 2 % 16384; s.setRing k { s.ring k with doorbells := satAdd (s.ring k).doorbells 1 }
  | 0x03 => s.injectEntry env r.body
  | 0x04 => s.injectWrite f env r.body
  | _ => match pay with
    | some q => (s.consume q).injectPacket env r.body q.body
    | none => s.injectPacket env r.body []

/-- The range is consumed once no input and no output is left. -/
def Dev.replayOver (s : Dev) : Dev :=
  if s.fol.st = .replaying ∧ s.fol.recs.all (fun r => !r.input && !r.output) then
    { s with fol := { s.fol with st := .replayDone, replayResult := 0x01, recs := [], produced := [] } }
  else s

/-- The next input, at its TIME. -/
def Dev.injectNext (s : Dev) (f : Flash) (env : Env) : Dev :=
  if s.fol.st ≠ .replaying then s
  else match s.fol.recs.find? FolRec.input with
    | none => s
    | some r => if s.extend r.time ≤ s.now then s.inject f env r else s

/-- What is overdue ends the replay. -/
def Dev.checkLate (s : Dev) : Dev :=
  if s.fol.st ≠ .replaying then s
  else match s.lateOutput with
    | some r => s.diverge 0x09 r
    | none => s

/-- REPLAY_INJECT. -/
def Dev.replayInject (s : Dev) (f : Flash) (env : Env) : Dev :=
  if s.fol.st ≠ .replaying then s
  else (((((s.enter env).compareAll.injectNext f env).compareAll).checkLate).replayOver)

def execReplayInject (env : Env) (s : State) : Host.Outcome State Fault Refusal := onDevF (fun f s => s.replayInject f env) s

end Sys2Proof.Machine
end

