-- ==== Sys2Proof/Machine/Rumos.lean ====
section
/-! DEFINITION. The Rumos requests that reach the registers, the staging area, telemetry and the journal (R383, R384). -/

namespace Sys2Proof.Machine

/-- The size of BAR0. -/
def bar0Size : Nat := 4 * 2 ^ 20

/-- STATUS values of a reply (Table 19.6). -/
def rumosOk : Nat := 0
def rumosRange : Nat := 1
def rumosFormat : Nat := 3
def rumosState : Nat := 4

/-! ### REG_READ -/

/-- `n` words read in offset order. -/
def Dev.regWords : Nat → Dev → Flash → Nat → List Byte → Dev × List Byte
  | 0, s, _, _, acc => (s, acc)
  | n + 1, s, f, off, acc =>
    let (s, w) := s.viewRead f {} .port .both off
    Dev.regWords n s f (off + 8) (acc ++ leBytes 8 w.toNat)

def Dev.regReadReq (s : Dev) (f : Flash) (r : Rumos) : Dev :=
  let off := leAt r.body 0 4
  let n := leAt r.body 4 2
  if r.body.length ≠ 8 then s.answer f r rumosFormat []
  else if off % 8 ≠ 0 ∨ n = 0 ∨ 200 < n ∨ bar0Size < off + 8 * n then s.answer f r rumosRange []
  else
    let (s, b) := Dev.regWords n s f off []
    s.answer f r rumosOk b

/-! ### REG_WRITE -/

/-- The entries in order, to the first whose offset is refused, and how many were applied. -/
def Dev.regEntries : List (List Byte) → Dev → Flash → Env → Nat → Dev × Nat × Bool
  | [], s, _, _, k => (s, k, true)
  | e :: rest, s, f, env, k =>
    let off := leAt e 0 4
    if off % 8 ≠ 0 ∨ bar0Size < off + 8 then (s, k, false)
    else Dev.regEntries rest (s.viewWrite f env .port .both off (BitVec.ofNat 64 (leAt e 8 8))) f env (k + 1)

def entriesOf (b : List Byte) : List (List Byte) := (List.range (b.length / 16)).map fun i => slice b (16 * i) 16

def appliedBody (n : Nat) : List Byte := leBytes 2 n ++ zeros 6

def Dev.regWriteReq (s : Dev) (f : Flash) (env : Env) (r : Rumos) : Dev :=
  if r.body.length % 16 ≠ 0 then s.answer f r rumosFormat []
  else if r.body.length = 0 ∨ 1600 < r.body.length then s.answer f r rumosRange (appliedBody 0)
  else
    let (s, n, ok) := Dev.regEntries (entriesOf r.body) s f env 0
    s.answer f r (if ok then rumosOk else rumosRange) (appliedBody n)

/-! ### STAGE_DATA -/

/-- The bytes of a write that fall in the 64-byte line at `l`, the write beginning at `off`. -/
def linePart (off : Nat) (b : List Byte) (l : Nat) : Nat × List Byte :=
  let lo := max l off
  (lo, slice b (lo - off) (min (l + 64) (off + b.length) - lo))

/-- Bytes written into the staging area at an offset. -/
def Dev.stageBytes (s : Dev) (env : Env) (off : Nat) (b : List Byte) : Dev × Bool :=
  (linesOf off b.length).foldl (fun (q : Dev × Bool) l =>
    let (lo, part) := linePart off b l
    if q.2 then q.1.extWrite env true q.1.stagingSel lo part else q) (s, true)

def Dev.stageReq (s : Dev) (f : Flash) (env : Env) (r : Rumos) : Dev :=
  let region := leAt r.body 0 1
  let off := leAt r.body 4 4
  let n := leAt r.body 8 2
  let size := if region = 0 then 128 * 2 ^ 20 else 16 * 2 ^ 20
  if r.body.length < 16 then s.answer f r rumosFormat []
  else if 1 < region ∨ n = 0 ∨ 1536 < n ∨ size < off + n then s.answer f r rumosRange []
  else if r.body.length ≠ 16 + n then s.answer f r rumosFormat []
  else if !s.stagingThere then s.answer f r rumosState []
  else
    let (s, ok) := s.stageBytes env (off + (if region = 0 then 0 else fwRegion)) (r.body.drop 16)
    s.answer f r (if ok then rumosOk else rumosState) []

/-! ### TELEM_READ -/

/-- A histogram's management-plane copy, cleared. -/
def Dev.telemHist (s : Dev) (f : Flash) (r : Rumos) : Dev :=
  let sel := leAt r.body 4 4
  let q := sel % 2 ^ 14
  let k := sel / 2 ^ 16 % 2
  let t := s.sch.histMgmt
  let s : Dev := { s with sch := { s.sch with histMgmt := histClear t q k } }
  s.answer f r rumosOk (leBytes 8 (histWord t q k 0).toNat ++ leBytes 8 (histWord t q k 4).toNat)

/-- The records the management plane's copy of the map keeps. -/
def Dev.cmapKept (s : Dev) : Nat := min 1024 (s.rte.cmapNext - s.rte.cmapMgmt).toNat

/-- Of the newest `n` records, those from the first the copy has, up to one that the tap discarded (R18): how many back it
lies, and how many follow from it. -/
def Dev.cmapRun (s : Dev) : Nat → Nat × Nat
  | 0 => (0, 0)
  | n + 1 =>
    let has := fun (k : Nat) => !s.rte.cmapGone.contains (s.rte.cmapNext - BitVec.ofNat 32 k)
    if has (n + 1) then (n + 1, (((List.range (n + 1)).map fun i => n + 1 - i).takeWhile has).length) else s.cmapRun n

/-- The first SEQ returned where `want` is the first wanted, and how many records follow from it: an overwritten or discarded
one gives way to the oldest kept after it, one not yet taken returns none. -/
def Dev.cmapFrom (s : Dev) (want : BitVec 32) : BitVec 32 × Nat :=
  let behind := (s.rte.cmapNext - want).toNat
  if s.cmapKept < behind && 2 ^ 31 ≤ behind then (want, 0)
  else
    let (back, n) := s.cmapRun (min behind s.cmapKept)
    (s.rte.cmapNext - BitVec.ofNat 32 back, n)

def Dev.telemMap (s : Dev) (f : Flash) (r : Rumos) : Dev :=
  let n := leAt r.body 8 2
  if n = 0 ∨ 30 < n then s.answer f r rumosRange []
  else
    let (q, k) := s.cmapFrom (BitVec.ofNat 32 (leAt r.body 4 4))
    let m := min n k
    s.answer f r rumosOk (leBytes 4 q.toNat ++ leBytes 2 m ++ zeros 2
      ++ (List.range m).flatMap fun i => (s.cmapSlot (q.toNat + i)).bytes)

def Dev.telemReq (s : Dev) (f : Flash) (r : Rumos) : Dev :=
  if r.body.length ≠ 16 then s.answer f r rumosFormat []
  else match leAt r.body 0 1 with
    | 0 => s.telemHist f r
    | 1 => s.telemMap f r
    | _ => s.answer f r rumosRange []

/-! ### JOURNAL_READ and TRIGGER -/

def Dev.journalReq (s : Dev) (f : Flash) (r : Rumos) : Dev :=
  let off := leAt r.body 0 8
  let n := leAt r.body 8 2
  if r.body.length ≠ 16 then s.answer f r rumosFormat []
  else if n = 0 ∨ 1536 < n then s.answer f r rumosRange []
  else match s.folRegion with
    | none => s.answer f r rumosState []
    | some g =>
      if g.size < off + n then s.answer f r rumosRange []
      else match s.inkRead false (g.base + off) n with
        | (s, .ok, b) => s.answer f r rumosOk b
        | (s, _, _) => s.answer f r rumosState []

def Dev.triggerReq (s : Dev) (f : Flash) (r : Rumos) : Dev :=
  if r.body.isEmpty then (s.folTrigger 0x5 0).answer f r rumosOk [] else s.answer f r rumosFormat []

/-! ### The commands -/

def execRegRead (s : State) : Host.Outcome State Fault Refusal := onDevF (fun f s => s.rumosTake f 2 fun s r => s.regReadReq f r) s
def execRegWrite (env : Env) (s : State) : Host.Outcome State Fault Refusal :=
  onDevF (fun f s => s.rumosTake f 3 fun s r => s.regWriteReq f env r) s
def execStageData (env : Env) (s : State) : Host.Outcome State Fault Refusal :=
  onDevF (fun f s => (s.enter env).rumosTake f 4 fun s r => s.stageReq f env r) s
def execTelemRead (s : State) : Host.Outcome State Fault Refusal := onDevF (fun f s => s.rumosTake f 5 fun s r => s.telemReq f r) s
def execJournalRead (env : Env) (s : State) : Host.Outcome State Fault Refusal :=
  onDevF (fun f s => (s.enter env).rumosTake f 6 fun s r => s.journalReq f r) s
def execRumosTrigger (s : State) : Host.Outcome State Fault Refusal := onDevF (fun f s => s.rumosTake f 7 fun s r => s.triggerReq f r) s

end Sys2Proof.Machine
end

