-- ==== Sys2Proof/Machine/Dispatch.lean ====
section
/-! DEFINITION. The dispatch: one arm per command, each one call of the command's meaning. -/

namespace Sys2Proof.Machine

def exec (i : Instr) (s : State) : Host.Outcome State Fault Refusal :=
  match i with
  | .registerWrite a env => Sys2Proof.Machine.execRegisterWrite a env s
  | .shadowWrite a => Sys2Proof.Machine.execShadowWrite a s
  | .rlgTabDataAccess r => Sys2Proof.Machine.execRlgTabDataAccess r s
  | .schTblDataAccess r => Sys2Proof.Machine.execSchTblDataAccess r s
  | .rteTblDataAccess r => Sys2Proof.Machine.execRteTblDataAccess r s
  | .chdDefDataAccess r => Sys2Proof.Machine.execChdDefDataAccess r s
  | .inkLayoutDataAccess r => Sys2Proof.Machine.execInkLayoutDataAccess r s
  | .ptnLayoutDataAccess r => Sys2Proof.Machine.execPtnLayoutDataAccess r s
  | .errorQueueSpace => Sys2Proof.Machine.execErrorQueueSpace s
  | .rlgSnap => Sys2Proof.Machine.execRlgSnap s
  | .rlgSet time => Sys2Proof.Machine.execRlgSet time s
  | .epochWrap => Sys2Proof.Machine.execEpochWrap s
  | .lctlSend port => Sys2Proof.Machine.execLctlSend port s
  | .lctl port d => Sys2Proof.Machine.execLctl port d s
  | .rulingLoss port => Sys2Proof.Machine.execRulingLoss port s
  | .timestampFlitSend port fine => Sys2Proof.Machine.execTimestampFlitSend port fine s
  | .tstamp port d fine => Sys2Proof.Machine.execTstamp port d fine s
  | .holdoverLimitExceeded => Sys2Proof.Machine.execHoldoverLimitExceeded s
  | .fretBoundary port => Sys2Proof.Machine.execFretBoundary port s
  | .idlePeriodSample port => Sys2Proof.Machine.execIdlePeriodSample port s
  | .histRead v => Sys2Proof.Machine.execHistRead v s
  | .load v w => Sys2Proof.Machine.execLoad v w s
  | .loadDone env => Sys2Proof.Machine.execLoadDone env s
  | .loadFw v env => Sys2Proof.Machine.execLoadFw v env s
  | .check v => Sys2Proof.Machine.execCheck v s
  | .checkDone => Sys2Proof.Machine.execCheckDone s
  | .arm v => Sys2Proof.Machine.execArm v s
  | .disarm v => Sys2Proof.Machine.execDisarm v s
  | .discard v => Sys2Proof.Machine.execDiscard v s
  | .store v => Sys2Proof.Machine.execStore v s
  | .applyNow v => Sys2Proof.Machine.execApplyNow v s
  | .drainOpen => Sys2Proof.Machine.execDrainOpen s
  | .capoApply => Sys2Proof.Machine.execCapoApply s
  | .fwCopyDone => Sys2Proof.Machine.execFwCopyDone s
  | .fingerprintDone => Sys2Proof.Machine.execFingerprintDone s
  | .doorbell d => Sys2Proof.Machine.execDoorbell d s
  | .ringScan ring env => Sys2Proof.Machine.execRingScan ring env s
  | .scanResume ring env => Sys2Proof.Machine.execScanResume ring env s
  | .tornReread ring env => Sys2Proof.Machine.execTornReread ring env s
  | .inval v w => Sys2Proof.Machine.execInval v w s
  | .ringResume v w => Sys2Proof.Machine.execRingResume v w s
  | .ringDiscardDone ring => Sys2Proof.Machine.execRingDiscardDone ring s
  | .ringEnable v w => Sys2Proof.Machine.execRingEnable v w s
  | .ringDisable v w => Sys2Proof.Machine.execRingDisable v w s
  | .cqEnable v w => Sys2Proof.Machine.execCqEnable v w s
  | .cqDisable v w => Sys2Proof.Machine.execCqDisable v w s
  | .ringCtrWrite v w => Sys2Proof.Machine.execRingCtrWrite v w s
  | .cqHeadRead cq env => Sys2Proof.Machine.execCqHeadRead cq env s
  | .cqHeadReread cq env => Sys2Proof.Machine.execCqHeadReread cq env s
  | .entryComplete ring pos env => Sys2Proof.Machine.execEntryComplete ring pos env s
  | .nop ring => Sys2Proof.Machine.execNop ring s
  | .write ring => Sys2Proof.Machine.execWrite ring s
  | .read ring => Sys2Proof.Machine.execRead ring s
  | .send ring => Sys2Proof.Machine.execSend ring s
  | .recv ring => Sys2Proof.Machine.execRecv ring s
  | .recvFlush ring => Sys2Proof.Machine.execRecvFlush ring s
  | .atomicFadd ring env => Sys2Proof.Machine.execAtomicFadd ring env s
  | .atomicCas ring env => Sys2Proof.Machine.execAtomicCas ring env s
  | .fence ring => Sys2Proof.Machine.execFence ring s
  | .ctrAdd ring => Sys2Proof.Machine.execCtrAdd ring s
  | .ctrSet ring => Sys2Proof.Machine.execCtrSet ring s
  | .keyRegister ring => Sys2Proof.Machine.execKeyRegister ring s
  | .keyInvalidate ring => Sys2Proof.Machine.execKeyInvalidate ring s
  | .copy ring env => Sys2Proof.Machine.execCopy ring env s
  | .cipherVerify ring env => Sys2Proof.Machine.execCipherVerify ring env s
  | .chdReduce ring env => Sys2Proof.Machine.execChdReduce ring env s
  | .chdAllreduce ring env => Sys2Proof.Machine.execChdAllreduce ring env s
  | .chdBroadcast ring env => Sys2Proof.Machine.execChdBroadcast ring env s
  | .chdReduceScatter ring env => Sys2Proof.Machine.execChdReduceScatter ring env s
  | .chdAllgather ring env => Sys2Proof.Machine.execChdAllgather ring env s
  | .chdShift ring env => Sys2Proof.Machine.execChdShift ring env s
  | .plkBarrier ring => Sys2Proof.Machine.execPlkBarrier ring s
  | .plkScalar ring env => Sys2Proof.Machine.execPlkScalar ring env s
  | .stmPermute ring env => Sys2Proof.Machine.execStmPermute ring env s
  | .stmAlltoall ring env => Sys2Proof.Machine.execStmAlltoall ring env s
  | .writePkt p env => Sys2Proof.Machine.execWritePkt p env s
  | .sendPkt p env => Sys2Proof.Machine.execSendPkt p env s
  | .readReq p env => Sys2Proof.Machine.execReadReq p env s
  | .readResp p env => Sys2Proof.Machine.execReadResp p env s
  | .atomicReq p env => Sys2Proof.Machine.execAtomicReq p env s
  | .atomicResp p env => Sys2Proof.Machine.execAtomicResp p env s
  | .blotDone conn => Sys2Proof.Machine.execBlotDone conn s
  | .ack p => Sys2Proof.Machine.execAck p s
  | .nak p => Sys2Proof.Machine.execNak p s
  | .retransmitTimer conn => Sys2Proof.Machine.execRetransmitTimer conn s
  | .rnrWaitEnd conn => Sys2Proof.Machine.execRnrWaitEnd conn s
  | .busyWaitEnd conn => Sys2Proof.Machine.execBusyWaitEnd conn s
  | .ackDelayExpiry conn => Sys2Proof.Machine.execAckDelayExpiry conn s
  | .connEnable v w => Sys2Proof.Machine.execConnEnable v w s
  | .connAbort v w => Sys2Proof.Machine.execConnAbort v w s
  | .connReset v w => Sys2Proof.Machine.execConnReset v w s
  | .contextFetchDone conn env => Sys2Proof.Machine.execContextFetchDone conn env s
  | .portPacketStart port env => Sys2Proof.Machine.execPortPacketStart port env s
  | .keyFetchDone slot poison => Sys2Proof.Machine.execKeyFetchDone slot poison s
  | .keyRangeInitDone part => Sys2Proof.Machine.execKeyRangeInitDone part s
  | .atsEnableChange fn on => Sys2Proof.Machine.execAtsEnableChange fn on s
  | .atsInvalidation fn pasid addr size => Sys2Proof.Machine.execAtsInvalidation fn pasid addr size s
  | .atsCompletion fn pasid page a => Sys2Proof.Machine.execAtsCompletion fn pasid page a s
  | .prgResponse fn group code => Sys2Proof.Machine.execPrgResponse fn group code s
  | .priTimeout fn group => Sys2Proof.Machine.execPriTimeout fn group s
  | .xltInval v w => Sys2Proof.Machine.execXltInval v w s
  | .xltInvalDone => Sys2Proof.Machine.execXltInvalDone s
  | .cxlMemAccess a env => Sys2Proof.Machine.execCxlMemAccess a env s
  | .bar2Access a env => Sys2Proof.Machine.execBar2Access a env s
  | .systemFlushDone fn => Sys2Proof.Machine.execSystemFlushDone fn s
  | .hostLoss cause => Sys2Proof.Machine.execHostLoss cause s
  | .hostLinkUp l => Sys2Proof.Machine.execHostLinkUp l s
  | .functionLevelReset fn => Sys2Proof.Machine.execFunctionLevelReset fn s
  | .vfEnableClear => Sys2Proof.Machine.execVfEnableClear s
  | .partitionResetDone part => Sys2Proof.Machine.execPartitionResetDone part s
  | .trayFlitRx port b => Sys2Proof.Machine.execTrayFlitRx port b s
  | .trayReplayExhausted port => Sys2Proof.Machine.execTrayReplayExhausted port s
  | .rdCur port m env => Sys2Proof.Machine.execRdCur port m env s
  | .rdShared port m env => Sys2Proof.Machine.execRdShared port m env s
  | .rdOwn port m env => Sys2Proof.Machine.execRdOwn port m env s
  | .wrLine port m => Sys2Proof.Machine.execWrLine port m s
  | .wrPart port m env => Sys2Proof.Machine.execWrPart port m env s
  | .evictDirty port m => Sys2Proof.Machine.execEvictDirty port m s
  | .evictClean port m => Sys2Proof.Machine.execEvictClean port m s
  | .fenceReq port m => Sys2Proof.Machine.execFenceReq port m s
  | .snpInv port m => Sys2Proof.Machine.execSnpInv port m s
  | .snpData port m => Sys2Proof.Machine.execSnpData port m s
  | .snpCur port m => Sys2Proof.Machine.execSnpCur port m s
  | .data port m => Sys2Proof.Machine.execData port m s
  | .cmp port m => Sys2Proof.Machine.execCmp port m s
  | .snpRsp port m => Sys2Proof.Machine.execSnpRsp port m s
  | .retry port m => Sys2Proof.Machine.execRetry port m s
  | .retryReissue port tag => Sys2Proof.Machine.execRetryReissue port tag s
  | .err port m => Sys2Proof.Machine.execErr port m s
  | .trayInitSend port => Sys2Proof.Machine.execTrayInitSend port s
  | .trayInitRx port b => Sys2Proof.Machine.execTrayInitRx port b s
  | .trayPortDown port => Sys2Proof.Machine.execTrayPortDown port s
  | .trayPortEnableWrite v port w => Sys2Proof.Machine.execTrayPortEnableWrite v port w s
  | .packetLookup port p => Sys2Proof.Machine.execPacketLookup port p s
  | .adaptiveEscape port => Sys2Proof.Machine.execAdaptiveEscape port s
  | .linkUnitRx port u => Sys2Proof.Machine.execLinkUnitRx port u s
  | .linkRetryExhausted port => Sys2Proof.Machine.execLinkRetryExhausted port s
  | .linkAbort port => Sys2Proof.Machine.execLinkAbort port s
  | .recoveryRequest port d => Sys2Proof.Machine.execRecoveryRequest port d s
  | .recoveryOffer port d => Sys2Proof.Machine.execRecoveryOffer port d s
  | .recoveryRead port d => Sys2Proof.Machine.execRecoveryRead port d s
  | .recoveryData port d => Sys2Proof.Machine.execRecoveryData port d s
  | .recoveryNone port => Sys2Proof.Machine.execRecoveryNone port s
  | .fabricPortDown port => Sys2Proof.Machine.execFabricPortDown port s
  | .signalLockLoss port => Sys2Proof.Machine.execSignalLockLoss port s
  | .rtePortEnableWrite v port w => Sys2Proof.Machine.execRtePortEnableWrite v port w s
  | .telemetry p => Sys2Proof.Machine.execTelemetry p s
  | .chordData port p env => Sys2Proof.Machine.execChordData port p env s
  | .chordCredit port p env => Sys2Proof.Machine.execChordCredit port p env s
  | .chordAbort port p => Sys2Proof.Machine.execChordAbort port p s
  | .chordDeadline slot => Sys2Proof.Machine.execChordDeadline slot s
  | .chdSlotSeqWrite v w => Sys2Proof.Machine.execChdSlotSeqWrite v w s
  | .testLoad v w => Sys2Proof.Machine.execTestLoad v w s
  | .testCombine v w => Sys2Proof.Machine.execTestCombine v w s
  | .testRound v w => Sys2Proof.Machine.execTestRound v w s
  | .barUp port d => Sys2Proof.Machine.execBarUp port d s
  | .barDown port d => Sys2Proof.Machine.execBarDown port d s
  | .sclUpRaw port d => Sys2Proof.Machine.execSclUpRaw port d s
  | .sclUpExact port d => Sys2Proof.Machine.execSclUpExact port d s
  | .sclDown port d => Sys2Proof.Machine.execSclDown port d s
  | .stmUp port d => Sys2Proof.Machine.execStmUp port d s
  | .stmDown port d => Sys2Proof.Machine.execStmDown port d s
  | .pluckDeadline slot => Sys2Proof.Machine.execPluckDeadline slot s
  | .strumData p env => Sys2Proof.Machine.execStrumData p env s
  | .strumEnd p env => Sys2Proof.Machine.execStrumEnd p env s
  | .strumAbort p => Sys2Proof.Machine.execStrumAbort p s
  | .strumDeadline exch => Sys2Proof.Machine.execStrumDeadline exch s
  | .stmExchSeqWrite v w => Sys2Proof.Machine.execStmExchSeqWrite v w s
  | .cphKeyLoad v w => Sys2Proof.Machine.execCphKeyLoad v w s
  | .cphKeyErase v w => Sys2Proof.Machine.execCphKeyErase v w s
  | .inkwellTrainingDone d => Sys2Proof.Machine.execInkwellTrainingDone d s
  | .regionMoveDone region => Sys2Proof.Machine.execRegionMoveDone region s
  | .zeroFillDone => Sys2Proof.Machine.execZeroFillDone s
  | .scrubPass chan off ecc => Sys2Proof.Machine.execScrubPass chan off ecc s
  | .inkAutoFence chan cause => Sys2Proof.Machine.execInkAutoFence chan cause s
  | .channelFence v chan w => Sys2Proof.Machine.execChannelFence v chan w s
  | .quiesce v part w => Sys2Proof.Machine.execQuiesce v part w s
  | .preempt v part w => Sys2Proof.Machine.execPreempt v part w s
  | .resume v part w => Sys2Proof.Machine.execResume v part w s
  | .release v part w => Sys2Proof.Machine.execRelease v part w s
  | .start v => Sys2Proof.Machine.execStart v s
  | .stop v => Sys2Proof.Machine.execStop v s
  | .trigger v => Sys2Proof.Machine.execTrigger v s
  | .folioPostEnd => Sys2Proof.Machine.execFolioPostEnd s
  | .rearm v => Sys2Proof.Machine.execRearm v s
  | .mark v => Sys2Proof.Machine.execMark v s
  | .replayEnter v => Sys2Proof.Machine.execReplayEnter v s
  | .replayStart v env => Sys2Proof.Machine.execReplayStart v env s
  | .replayInject env => Sys2Proof.Machine.execReplayInject env s
  | .replayExit v => Sys2Proof.Machine.execReplayExit v s
  | .detGenCounterWrite v w => Sys2Proof.Machine.execDetGenCounterWrite v w s
  | .lockAcquired port wl => Sys2Proof.Machine.execLockAcquired port wl s
  | .lockSeekTimeout port wl => Sys2Proof.Machine.execLockSeekTimeout port wl s
  | .lockLost port wl => Sys2Proof.Machine.execLockLost port wl s
  | .rxPowerLow port wl => Sys2Proof.Machine.execRxPowerLow port wl s
  | .txPowerLow port => Sys2Proof.Machine.execTxPowerLow port s
  | .berWindowEnd port bers corr uncorr => Sys2Proof.Machine.execBerWindowEnd port bers corr uncorr s
  | .portFence v port => Sys2Proof.Machine.execPortFence v port s
  | .portUnfence v port => Sys2Proof.Machine.execPortUnfence v port s
  | .lsmInsert bay eeprom => Sys2Proof.Machine.execLsmInsert bay eeprom s
  | .lsmCheckDone bay answer => Sys2Proof.Machine.execLsmCheckDone bay answer s
  | .lsmRemove bay => Sys2Proof.Machine.execLsmRemove bay s
  | .lsmInterlockOpen bay => Sys2Proof.Machine.execLsmInterlockOpen bay s
  | .lsmInterlockClose bay => Sys2Proof.Machine.execLsmInterlockClose bay s
  | .lsmRelease v bay => Sys2Proof.Machine.execLsmRelease v bay s
  | .lsmLifeTick bay current => Sys2Proof.Machine.execLsmLifeTick bay current s
  | .lsmEepromLifeWrite bay => Sys2Proof.Machine.execLsmEepromLifeWrite bay s
  | .lsmFlashLifeWrite => Sys2Proof.Machine.execLsmFlashLifeWrite s
  | .lsmOverload bay => Sys2Proof.Machine.execLsmOverload bay s
  | .ethFrameRx port f => Sys2Proof.Machine.execEthFrameRx port f s
  | .rdmaWrite port env => Sys2Proof.Machine.execRdmaWrite port env s
  | .rdmaWriteWithImmediate port env => Sys2Proof.Machine.execRdmaWriteWithImmediate port env s
  | .rdmaReadRequest port env => Sys2Proof.Machine.execRdmaReadRequest port env s
  | .cnp port => Sys2Proof.Machine.execCnp port s
  | .ratePeriodExpiry port qp => Sys2Proof.Machine.execRatePeriodExpiry port qp s
  | .arpRequest port f => Sys2Proof.Machine.execArpRequest port f s
  | .neighborSolicitation port f => Sys2Proof.Machine.execNeighborSolicitation port f s
  | .qpEnable v w => Sys2Proof.Machine.execQpEnable v w s
  | .qpReset v w => Sys2Proof.Machine.execQpReset v w s
  | .msegFrameRx f => Sys2Proof.Machine.execMsegFrameRx f s
  | .backoffExpiry => Sys2Proof.Machine.execBackoffExpiry s
  | .plcaTransmitOpportunity => Sys2Proof.Machine.execPlcaTransmitOpportunity s
  | .pause f => Sys2Proof.Machine.execPause f s
  | .pauseEnd => Sys2Proof.Machine.execPauseEnd s
  | .hello => Sys2Proof.Machine.execHello s
  | .regRead => Sys2Proof.Machine.execRegRead s
  | .regWrite env => Sys2Proof.Machine.execRegWrite env s
  | .stageData env => Sys2Proof.Machine.execStageData env s
  | .telemRead => Sys2Proof.Machine.execTelemRead s
  | .journalRead env => Sys2Proof.Machine.execJournalRead env s
  | .rumosTrigger => Sys2Proof.Machine.execRumosTrigger s
  | .keySet => Sys2Proof.Machine.execKeySet s
  | .msegKeyWrite v word w => Sys2Proof.Machine.execMsegKeyWrite v word w s
  | .powerOn => Sys2Proof.Machine.execPowerOn s
  | .powerFail => Sys2Proof.Machine.execPowerFail s
  | .overVoltage => Sys2Proof.Machine.execOverVoltage s
  | .modReset => Sys2Proof.Machine.execModReset s
  | .thermalTrip => Sys2Proof.Machine.execThermalTrip s
  | .warmReset v => Sys2Proof.Machine.execWarmReset v s
  | .shutdown v => Sys2Proof.Machine.execShutdown v s
  | .domainRelease => Sys2Proof.Machine.execDomainRelease s
  | .trimLoadPass crcOk => Sys2Proof.Machine.execTrimLoadPass crcOk s
  | .blockReset v w => Sys2Proof.Machine.execBlockReset v w s
  | .blockIdle idle => Sys2Proof.Machine.execBlockIdle idle s
  | .rstWdtKick v => Sys2Proof.Machine.execRstWdtKick v s
  | .watchdogExpiry intact => Sys2Proof.Machine.execWatchdogExpiry intact s
  | .bootRomStart => Sys2Proof.Machine.execBootRomStart s
  | .mailboxGo v env => Sys2Proof.Machine.execMailboxGo v env s
  | .mailboxWaitExpiry => Sys2Proof.Machine.execMailboxWaitExpiry s
  | .recoveryTimeout => Sys2Proof.Machine.execRecoveryTimeout s
  | .firmwareStart tStart => Sys2Proof.Machine.execFirmwareStart tStart s
  | .flashWriteStart v0 v1 => Sys2Proof.Machine.execFlashWriteStart v0 v1 s
  | .flashUnitDone => Sys2Proof.Machine.execFlashUnitDone s
  | .flashRetry => Sys2Proof.Machine.execFlashRetry s
  | .nonce v => Sys2Proof.Machine.execNonce v s
  | .enterDiag v env => Sys2Proof.Machine.execEnterDiag v env s
  | .exitDiag v => Sys2Proof.Machine.execExitDiag v s
  | .secure v => Sys2Proof.Machine.execSecure v s
  | .retire v env => Sys2Proof.Machine.execRetire v env s
  | .attest v env => Sys2Proof.Machine.execAttest v env s
  | .provision v env => Sys2Proof.Machine.execProvision v env s
  | .sstRun v w => Sys2Proof.Machine.execSstRun v w s
  | .sstTestDone r => Sys2Proof.Machine.execSstTestDone r s
  | .errorRecordLogged => Sys2Proof.Machine.execErrorRecordLogged s
  | .errReadWrite v w => Sys2Proof.Machine.execErrReadWrite v w s
  | .errLogRead v => Sys2Proof.Machine.execErrLogRead v s
  | .priEnableChange fn on => Sys2Proof.Machine.execPriEnableChange fn on s
  | .fabricLinkUp port => Sys2Proof.Machine.execFabricLinkUp port s
  | .trayPortTrained port => Sys2Proof.Machine.execTrayPortTrained port s
  | .ethLinkUp port => Sys2Proof.Machine.execEthLinkUp port s
  | .msegCollision => Sys2Proof.Machine.execMsegCollision s
  | .h2dSnoop kind line => Sys2Proof.Machine.execH2dSnoop kind line s
  | .stateRecordWritten conn env => Sys2Proof.Machine.execStateRecordWritten conn env s

end Sys2Proof.Machine
end

