-- ==== Sys2Proof/Safety.lean ====
section
/-! DEFINITION. What a run of the block is, and what a run that never stops is. -/

namespace Sys2Proof.Machine

/-- A step that ended in a next state: the block stopped neither in a fault nor in a refusal. -/
def Goes (o : Host.Outcome State Fault Refusal) : Prop := ∃ t, o = .next t

/-- The states a run from `s` can be in: `s` itself, what a step of a reached state answers, and a reached state with
another command put behind those that wait. -/
inductive Reached (s : State) : State → Prop where
  | start : Reached s s
  | step (t u : State) : Reached s t → Sys2Proof.Machine.step t = .next u → Reached s u
  | command (t : State) (c : Instr) : Reached s t → Reached s { t with pending := t.pending ++ [c] }

/-- A run is safe where every state it reaches can go on. -/
def SafeFrom (s : State) : Prop := ∀ t, Reached s t → Goes (Sys2Proof.Machine.step t)

/-- The device once the journal has its copy of an 8-byte write of the register at `off` through a view (R346): the device
itself where the write is in no scope. -/
def State.tapped (s : State) (v : View) (off : Nat) (w : Word) : Dev := s.dev.tapWrite v (viewOff v off) 8 w

/-- A register that holds what is written to it, and whose write does nothing else (R10, R26): none of the registers whose write
also acts or may be refused, and none with staged fields. -/
def holdsOnly (off : Nat) : Bool :=
  (regRow false off).isSome && (regRow true off).isNone && (windowAt off).isNone &&
    !([Reg.capoApplyAt, Reg.capoApplyAtEpoch, Reg.capoStagingBase, Reg.rstMboxCtl, Reg.detGenCounter].contains off ||
      (List.range 4).any fun k => off == Reg.trayPortCfg k)

/-- A register of staged fields alone, no window's DATA (R61, R442). -/
def stagedOnly (off : Nat) : Bool := (regRow true off).isSome && (regRow false off).isNone && (windowAt off).isNone

/-- The device once the entry `e` at ring r's launch point has left the prefetch cache, the launch tree's counters being
those of `d` (R90, R152). -/
def Dev.launched (s : Dev) (r : Nat) (e : Entry) (d : Drr) : Dev :=
  ({ s with sch := { s.sch with launchDeficit := d.deficit, launchFresh := d.fresh, launchCur := d.cur } }).take r e

/-- Every condition of R90 holds for the entry `e` of opcode `code`, alone at ring r's launch point, the scheduler selects
the ring, and the counter it waits for, where it waits, has not FAILED. -/
structure Dev.Launches (s : Dev) (r code : Nat) (e : Entry) (d : Drr) : Prop where
  ready : s.ready r = some e
  opcode : e.opcode = code
  picked : s.launchPick = some (r, d)
  sound : s.depFailed r e = false
  alone : (s.ring r).taken = [e]
  fresh : s.op? r e.pos = none

/-- The device once the entry `e` of ring r, launched and complete at once, is gone and nothing waits for it: it asks for no record
and no signal. -/
def Dev.ended (s : Dev) (r : Nat) (e : Entry) (ops : List Op) : Dev :=
  let q := (s.ring r).cq
  let x : Cq := { s.cq q with reserved := (s.cq q).reserved - 1 }
  ({ s.unwait (· == opWho r e.pos) with ops := ops }).setCq q { x with rereadAt := if x.free then none else x.rereadAt }

/-- The entry asks for no record and no signal, no scope of the journal holds it, no answer on a tray port is due to it, and no
record of a failed ring waits for a slot. -/
structure Dev.Unasked (s : Dev) (r : Nat) (e : Entry) : Prop where
  record : e.complete = false
  signal : e.signalEn = false
  scope : s.folMatch (e.attrs r) = none
  answers : s.trayOwes r e.pos e.scopeSys = false
  owed : (s.cq (s.ring r).cq).owed = []

/-- The cells of the running tables after an apply: the shadow's, but for the Tablature period where the staged Capo carries no
section 3, which goes on (R48). -/
def Dev.edgeCells (s : Dev) : Tbl Word :=
  if s.capo.sections.contains 3 then s.shadow else tset stReset s.shadow Reg.rlgTabPeriod (s.st Reg.rlgTabPeriod)

/-- The device once the connection packet `p`, in whole by a port, has left the list of packets for local processing and the
journal has its copy of it (R125). -/
def Dev.delivered (s : Dev) (env : Env) (p : Packet) (port : Nat) (a : Arrival) : Dev :=
  let s := s.enter env
  let s : Dev := { s with rte := { s.rte with local_ := eraseFirst (· == (p, port, a)) s.rte.local_ } }
  s.folPkt false ((s.connPart p.dconn).getD 0x3F) port (s.connAttrs p.dconn) p

/-- The packet `p` finds its connection's context in the cache, ACTIVE, and no packet waiting before it (R138). -/
structure Dev.Meets (s : Dev) (p : Packet) : Prop where
  vc : p.vc < 12
  plen : p.plen ≤ 4096
  cached : s.ctxCached p.dconn = true
  marked : s.markHeld p.dconn = false
  waiting : (s.conn p.dconn).holding = []
  active : (s.conn p.dconn).st = .active
  blot : (s.conn p.dconn).blotEnd = 0

/-- The request message `m` from tray port k, which is UP, is no doorbell and names lines of partition n's Inkwell share: its
partition's meter, which was `u` after it, lets it pass GREEN, the port may reach the partition, and no agent holds or is
asked for a line. `g` is the device once it has been metered (R155, R192, R193). -/
structure Dev.Serves (s : Dev) (k : Nat) (m : TrayMsg) (n : Nat) (u g : Dev) : Prop where
  up : (s.trayPort k).st = .up
  bell : m.isBell = false
  part : s.trayPart m = some n
  meter : s.meter (2 * n) m.load = (u, .green)
  counted : g = u.meterCount (2 * n) m.load .green
  allowed : bit (g.st (Reg.trayPortPtn k)) n = true
  asked : ∀ p ∈ g.tray, p.2.snoops = []

/-- Nothing is arriving at fabric port p or queued for it, no collective runs, and no connection has a packet to send. -/
structure Dev.Lone (s : Dev) (p : Nat) : Prop where
  arriving : (s.link p).rx = none
  queued : ∀ x ∈ s.sch.q, x.port = p → x.kind2 = true
  slots : s.slots = []
  exchs : s.exchs = []
  offers : ∀ c ∈ s.conns, s.nextTx c.1 = none

/-- The device once fabric port p, alone, has gone down: its DOWN bit is 1, which counts and posts where it was 0, and its link
is off (R72, R225). -/
def Dev.wentDown (s : Dev) (p code : Nat) : Dev :=
  let down := s.capo.down ||| BitVec.ofNat 16 (2 ^ p)
  let a : Dev := { s with capo := { s.capo with down := down } }
  let b := if s.portDown p then s else (a.bump Reg.capoLocalCount).postErr Reg.rteCfg 0x09 code (p + at_ 16 down.toNat) 1
  if (b.link p).up then b.linkOff p else b

/-- The device once optical port p is fenced for a cause: its rings that were not LOCKED are DARK, and, where it was not fenced
before, the fence is counted and posted, and the port is down (R359, R360). -/
def Dev.fencedFor (s : Dev) (p : Nat) (cause : Byte) (wl ber : Nat) : Dev :=
  let o := (s.optPort p).eachWl Wl.fence
  let a := (s.setOpt p { o with fenced := true, cause := cause, fences := satAdd o.fences 1 }).optErr p cause.toNat wl ber 2
  if (s.optPort p).fenced then s.setOpt p o
  else if a.isEth p then a.setEth (p - 14) { a.ethPort (p - 14) with link := false, pcsLock := false } else a.wentDown p 5

/-- An authentic Rumos request `r` is the only frame received: the management core runs and takes it up (R383). -/
structure Dev.Asked (s : Dev) (f : Flash) (r : Rumos) : Prop where
  core : s.rst.coreUp = true
  frame : ∃ b, s.mseg.rx = [(b, false)] ∧ r = rumosOf b ∧ s.rumosIn f b false = .request r

/-- A RETIRED device holds no identity private key (R407). -/
def State.RetiredIsEmpty (s : State) : Prop := s.flash.state = 4 → s.flash.idPriv = []

end Sys2Proof.Machine
end

