-- ==== Sys2Proof/WellFormed.lean ====
section
/-! DEFINITION. Which commands are well formed: what a sender outside the block can put into a command's operands. -/

namespace Sys2Proof

/-- R26: the data of a 4-byte access stands in the addressed half. -/
def RegOp.wf (r : RegOp) : Bool :=
  match r.data with
  | none => true
  | some v =>
    match r.half with
    | .both => true
    | .low => v.toNat < 2 ^ 32
    | .high => v.toNat % 2 ^ 32 == 0

/-- A packet's payload is at most 4,096 bytes and a 16-byte tag (R119, R301). -/
def Packet.wf (p : Packet) : Bool := p.payload.length ≤ 4112

/-- A Tray Link message carries at most four lines (R190). -/
def TrayMsg.wf (m : TrayMsg) : Bool := m.data.length ≤ 256

/-- A Tray Link flit has 256 bytes (R190). -/
def flitWf (b : List Byte) : Bool := b.length == 256

/-- An access to BAR0 is of at least one byte. -/
def Access.wf (a : Access) : Bool := 0 < a.size

/-- What a command's operands satisfy. -/
def Instr.wf (c : Instr) : Bool :=
  match c with
  | .registerWrite a _ | .shadowWrite a => a.wf
  | .rlgTabDataAccess r | .schTblDataAccess r | .rteTblDataAccess r | .chdDefDataAccess r
  | .inkLayoutDataAccess r | .ptnLayoutDataAccess r => r.wf
  | .writePkt p _ | .sendPkt p _ | .readReq p _ | .readResp p _ | .atomicReq p _ | .atomicResp p _
  | .ack p | .nak p | .packetLookup _ p | .telemetry p | .chordData _ p _ | .chordCredit _ p _ | .chordAbort _ p
  | .strumData p _ | .strumEnd p _ | .strumAbort p => p.wf
  | .trayFlitRx _ b | .trayInitRx _ b => flitWf b
  | .rdCur _ m _ | .rdShared _ m _ | .rdOwn _ m _ | .wrLine _ m | .wrPart _ m _ | .evictDirty _ m
  | .evictClean _ m | .fenceReq _ m | .snpInv _ m | .snpData _ m | .snpCur _ m | .data _ m | .cmp _ m
  | .snpRsp _ m | .retry _ m | .err _ m => m.wf
  | .errorQueueSpace | .rlgSnap | .rlgSet _ | .epochWrap | .lctlSend _ | .lctl _ _ | .rulingLoss _ | .timestampFlitSend _ _
  | .tstamp _ _ _ | .holdoverLimitExceeded | .fretBoundary _ | .idlePeriodSample _ | .histRead _ | .load _ _ | .loadDone _
  | .loadFw _ _ | .check _ | .checkDone | .arm _ | .disarm _ | .discard _ | .store _ | .applyNow _ | .drainOpen | .capoApply
  | .fwCopyDone | .fingerprintDone | .doorbell _ | .ringScan _ _ | .scanResume _ _ | .tornReread _ _ | .inval _ _
  | .ringResume _ _ | .ringDiscardDone _ | .ringEnable _ _ | .ringDisable _ _ | .cqEnable _ _ | .cqDisable _ _
  | .ringCtrWrite _ _ | .cqHeadRead _ _ | .cqHeadReread _ _ | .entryComplete _ _ _ | .nop _ | .write _ | .read _ | .send _
  | .recv _ | .recvFlush _ | .atomicFadd _ _ | .atomicCas _ _ | .fence _ | .ctrAdd _ | .ctrSet _ | .keyRegister _
  | .keyInvalidate _ | .copy _ _ | .cipherVerify _ _ | .chdReduce _ _ | .chdAllreduce _ _ | .chdBroadcast _ _
  | .chdReduceScatter _ _ | .chdAllgather _ _ | .chdShift _ _ | .plkBarrier _ | .plkScalar _ _ | .stmPermute _ _
  | .stmAlltoall _ _ | .blotDone _ | .retransmitTimer _ | .rnrWaitEnd _ | .busyWaitEnd _ | .ackDelayExpiry _
  | .connEnable _ _ | .connAbort _ _ | .connReset _ _ | .contextFetchDone _ _ | .portPacketStart _ _ | .keyFetchDone _ _
  | .keyRangeInitDone _ | .atsEnableChange _ _ | .atsInvalidation _ _ _ _ | .atsCompletion _ _ _ _ | .prgResponse _ _ _
  | .priTimeout _ _ | .xltInval _ _ | .xltInvalDone | .cxlMemAccess _ _ | .bar2Access _ _ | .systemFlushDone _ | .hostLoss _
  | .hostLinkUp _ | .functionLevelReset _ | .vfEnableClear | .partitionResetDone _ | .trayReplayExhausted _
  | .retryReissue _ _ | .trayInitSend _ | .trayPortDown _ | .trayPortEnableWrite _ _ _ | .adaptiveEscape _
  | .linkUnitRx _ _ | .linkRetryExhausted _ | .linkAbort _ | .recoveryRequest _ _ | .recoveryOffer _ _ | .recoveryRead _ _
  | .recoveryData _ _ | .recoveryNone _ | .fabricPortDown _ | .signalLockLoss _ | .rtePortEnableWrite _ _ _
  | .chordDeadline _ | .chdSlotSeqWrite _ _ | .testLoad _ _ | .testCombine _ _ | .testRound _ _ | .barUp _ _ | .barDown _ _
  | .sclUpRaw _ _ | .sclUpExact _ _ | .sclDown _ _ | .stmUp _ _ | .stmDown _ _ | .pluckDeadline _ | .strumDeadline _
  | .stmExchSeqWrite _ _ | .cphKeyLoad _ _ | .cphKeyErase _ _ | .inkwellTrainingDone _ | .regionMoveDone _ | .zeroFillDone
  | .scrubPass _ _ _ | .inkAutoFence _ _ | .channelFence _ _ _ | .quiesce _ _ _ | .preempt _ _ _ | .resume _ _ _
  | .release _ _ _ | .start _ | .stop _ | .trigger _ | .folioPostEnd | .rearm _ | .mark _ | .replayEnter _ | .replayStart _ _
  | .replayInject _ | .replayExit _ | .detGenCounterWrite _ _ | .lockAcquired _ _ | .lockSeekTimeout _ _ | .lockLost _ _
  | .rxPowerLow _ _ | .txPowerLow _ | .berWindowEnd _ _ _ _ | .portFence _ _ | .portUnfence _ _ | .lsmInsert _ _
  | .lsmCheckDone _ _ | .lsmRemove _ | .lsmInterlockOpen _ | .lsmInterlockClose _ | .lsmRelease _ _ | .lsmLifeTick _ _
  | .lsmEepromLifeWrite _ | .lsmFlashLifeWrite | .lsmOverload _ | .ethFrameRx _ _ | .rdmaWrite _ _
  | .rdmaWriteWithImmediate _ _ | .rdmaReadRequest _ _ | .cnp _ | .ratePeriodExpiry _ _ | .arpRequest _ _
  | .neighborSolicitation _ _ | .qpEnable _ _ | .qpReset _ _ | .msegFrameRx _ | .backoffExpiry | .plcaTransmitOpportunity
  | .pause _ | .pauseEnd | .hello | .regRead | .regWrite _ | .stageData _ | .telemRead | .journalRead _ | .rumosTrigger
  | .keySet | .msegKeyWrite _ _ _ | .powerOn | .powerFail | .overVoltage | .modReset | .thermalTrip | .warmReset _
  | .shutdown _ | .domainRelease | .trimLoadPass _ | .blockReset _ _ | .blockIdle _ | .rstWdtKick _ | .watchdogExpiry _
  | .bootRomStart | .mailboxGo _ _ | .mailboxWaitExpiry | .recoveryTimeout | .firmwareStart _ | .flashWriteStart _ _
  | .flashUnitDone | .flashRetry | .nonce _ | .enterDiag _ _ | .exitDiag _ | .secure _ | .retire _ _ | .attest _ _
  | .provision _ _ | .sstRun _ _ | .sstTestDone _ | .errorRecordLogged | .errReadWrite _ _ | .errLogRead _
  | .priEnableChange _ _ | .fabricLinkUp _ | .trayPortTrained _ | .ethLinkUp _ | .msegCollision | .h2dSnoop _ _
  | .stateRecordWritten _ _ => true

end Sys2Proof
end

