-- ==== Sys2Proof/Certificates/Slice0/Obligations.lean ====
section
/-! DEFINITION. The statements for the provers. Each says, of named commands, for which states they take a next state and
what that state holds. -/

open Sys2Proof Sys2Proof.Machine

/-- A step on a queue that begins with c is exec of c on the state with the queue's rest; on an empty queue one tick of the
reference oscillator passes (DESIGN CHOICE, assumption 1). -/
def Obligations.StepRunsTheFrontCommand : Prop :=
  (∀ (c : Instr) (rest : List Instr) (s : State), s.pending = c :: rest →
    step s = exec c { s with pending := rest }) ∧
  (∀ s : State, s.pending = [] → step s = .next { s with dev := s.dev.idle s.flash })

/-- From every state a step answers a next state, and a command leaves the commands behind it as they wait. -/
def Obligations.NoStepStops : Prop :=
  (∀ s : State, ∃ t, step s = .next t ∧ t.pending = s.pending.tail)

/-- RLG_SNAP, RLG_SET and EPOCH_WRAP (R31, R32, R44). TIMESTAMP_FLIT_SEND (Table 2.1) and TSTAMP at a device that steers to
nobody. FRET_BOUNDARY, IDLE_PERIOD_SAMPLE (R153, R232) and HIST_READ (R154). -/
def Obligations.RulingTimeFlitsAndSamples : Prop :=
  ((∀ s : State, exec .rlgSnap s = .next { s with dev := { s.dev with rlg := { s.dev.rlg with
     snapTime := s.dev.rlg.time, snapEpoch := s.dev.rlg.epoch } } }) ∧
   (∀ (w : Word) (s : State), s.dev.rlg.lock = .source → s.dev.rlg.served = false →
     exec (.rlgSet w) s = .next { s with dev := { s.dev with rlg := { s.dev.rlg with
       time := w, epoch := (s.dev.reg Reg.rlgSetEpoch).setWidth 32 } } }) ∧
   (∀ (w : Word) (s : State), ¬ (s.dev.rlg.lock = .source ∧ s.dev.rlg.served = false) →
     ∃ t, exec (.rlgSet w) s = .next t ∧ t.dev.err ≠ s.dev.err ∧
       t = { s with dev := { s.dev with err := t.dev.err } }) ∧
   (∀ s : State, s.dev.rlgRuns = true → 2 ^ 64 - s.dev.rlg.time.toNat ≤ 8192 →
     ∃ t, exec .epochWrap s = .next t ∧ t.dev.rlg = { s.dev.rlg with time := 0, epoch := s.dev.rlg.epoch + 1 } ∧
       t.flash = s.flash ∧ t.dev.conns = s.dev.conns ∧ t.dev.rings = s.dev.rings ∧ t.dev.capo = s.dev.capo)) ∧
  ((∀ (p : Fin 16) (fine : BitVec 13) (s : State), s.dev.portUp p = true →
     ∃ (t : State) (d : BitVec 512), exec (.timestampFlitSend p fine) s = .next t ∧ t.dev.out = s.dev.out ++ [.unit p d (linkTag 4 (s.dev.link p).nextSeq d)] ∧
       bits d 95 0 = s.dev.fineNow fine.toNat % 2 ^ 96 ∧ bits d 103 96 = s.dev.beaconState ∧
       bits d 111 104 = s.dev.rlgDepth % 256 ∧ bits d 127 112 = (s.dev.rlgPort p).txSeq.toNat ∧
       bits d 191 128 = (s.dev.rlgPort p).lastTx.toNat ∧ bits d 255 192 = (s.dev.rlgPort p).lastRx.toNat ∧
       bits d 271 256 = (s.dev.rlgPort p).lastSeq.toNat ∧
       t = { s with dev := { s.dev with
         out := t.dev.out, rlg := { s.dev.rlg with ports := t.dev.rlg.ports } } }) ∧
   (∀ (p : Fin 16) (d : BitVec 512) (fine : BitVec 13) (s : State), s.dev.portUp p = true → s.dev.rlg.lock = .source →
     s.dev.rlg.parent = none →
     let u : Dev := s.dev.setRlgPort p { s.dev.rlgPort p with
       lastTx := d.setWidth 64, lastRx := s.dev.rlg.time + fine.setWidth 64, lastSeq := (d >>> 112).setWidth 16
       nbState := (d >>> 96).setWidth 3, nbDepth := (d >>> 104).setWidth 8 }
     let served := s.dev.rlg.served || (bits d 98 96 == 1 && decide (s.dev.rlgDepth < bits d 111 104) && !s.dev.det.replay)
     exec (.tstamp p d fine) s = .next { s with dev := { u with rlg := { u.rlg with served := served } } })) ∧
  ((∀ (p : Fin 16) (s : State) (c i a : Nat), s.dev.fretAt p s.dev.now = some (c, i, a) → (s.dev.rlgPort p).fret ≠ (c + 1, i) →
     ∃ t, exec (.fretBoundary p) s = .next t ∧
       t.dev.rlg = (s.dev.setRlgPort p { s.dev.rlgPort p with fret := (c + 1, i) }).rlg ∧ t.flash = s.flash) ∧
   (∀ (p : Fin 16) (s : State), s.dev.tabCount p = 0 → 0 < bits (s.dev.st Reg.schHistCfg) 19 0 →
     tget (fun _ => 0) s.dev.sch.idleAt p + nsTicks (bits (s.dev.st Reg.schHistCfg) 19 0) ≤ s.dev.osc →
     ∃ t, exec (.idlePeriodSample p) s = .next t ∧
       t.dev.sch.idleAt = tset (fun _ => 0) s.dev.sch.idleAt p s.dev.osc ∧ t.dev.rlg = s.dev.rlg ∧ t.flash = s.flash) ∧
   (∀ (v : View) (s : State), (v = .pf ∨ v = .port) → s.dev.inReset Reg.schHistData0 = false →
     let q := bits (s.dev.reg Reg.schHistSel) 13 0
     let k := bits (s.dev.reg Reg.schHistSel) 16 16
     let d : Dev := { s.dev with sch := { s.dev.sch with
       snap1 := histWord s.dev.sch.hist q k 4, hist := histClear s.dev.sch.hist q k } }
     exec (.histRead v) s = .next { s with dev := d.emit (.value (histWord s.dev.sch.hist q k 0)) }))

/-- LCTL_SEND and LCTL (R33, R44, R221, R222, Table 10.22). RULING_LOSS (R34, R72) and HOLDOVER_LIMIT_EXCEEDED (R38, R64). -/
def Obligations.LinkControlAndRulingLoss : Prop :=
  ((∀ (p : Fin 16) (s : State), s.dev.portUp p = true →
     ∃ d : BitVec 512, exec (.lctlSend p) s = .next { s with dev := (s.dev.setLink p { s.dev.link p with
         requests := (s.dev.link p).requests + if (s.dev.link p).lost then 1 else 0 }).emit (.unit p d (linkTag 3 (s.dev.link p).nextSeq d)) } ∧
       bits d 7 0 = s.dev.beaconState ∧ bits d 15 8 = s.dev.rlgDepth % 256 ∧ bits d 31 16 = (s.dev.link p).exp.toNat ∧
       bit d 48 = (s.dev.link p).lost ∧ ((s.dev.link p).lost = true → bits d 47 32 = (s.dev.link p).exp.toNat) ∧
       ∀ v < 12, bits d (79 + 16 * v) (64 + 16 * v) = (tget (fun _ => 0) (s.dev.link p).grant v).toNat) ∧
   (∀ (p : Fin 16) (d : BitVec 512) (s : State), s.dev.portUp p = true → s.dev.rlg.lock = .source →
     s.dev.rlg.parent = none → bit d 48 = false → bits d 2 0 < 6 →
     ∃ t, exec (.lctl p d) s = .next t ∧
       t.dev.rte = (s.dev.setLink p { (s.dev.link p).takeLimits d with
         held := (s.dev.link p).held.filter fun u => !seqBefore u.1 (BitVec.ofNat 16 (bits d 31 16)) }).rte ∧
       t.dev.rlg.ports = (s.dev.setRlgPort p { s.dev.rlgPort p with
         nbState := BitVec.ofNat 3 (bits d 2 0), nbDepth := BitVec.ofNat 8 (bits d 15 8)
         beaconAt := some s.dev.osc, lossDeclared := false }).rlg.ports ∧
       t.dev.rlg.served = (s.dev.rlg.served || (bits d 2 0 == 1 && decide (s.dev.rlgDepth < bits d 15 8) && !s.dev.det.replay)) ∧
       t = { s with dev := { s.dev with
         rte := t.dev.rte, rlg := { s.dev.rlg with ports := t.dev.rlg.ports, served := t.dev.rlg.served } } })) ∧
  ((∀ (p : Fin 16) (s : State) (b : Nat), s.dev.isEth p = false → (s.dev.rlgPort p).beaconAt = some b →
     (s.dev.rlgPort p).lossDeclared = false → max b (s.dev.link p).upAt + 25 ≤ s.dev.osc →
     (s.dev.link p).rx = none → s.dev.sch.q = [] → s.dev.slots = [] → s.dev.exchs = [] → (∀ c ∈ s.dev.conns, c.2.tx = []) →
     ∃ t, exec (.rulingLoss p) s = .next t ∧ t.dev.portDown p = true ∧
       t.dev.count (Reg.rlgPortBeaconLoss p) =
         tget (fun _ => 0) (s.dev.bump (Reg.rlgPortBeaconLoss p)).cnt (Reg.rlgPortBeaconLoss p) ∧
       t.flash = s.flash ∧ t.dev.mem = s.dev.mem ∧ t.dev.conns = s.dev.conns ∧ t.dev.rings = s.dev.rings ∧
       t.dev.rlg.time = s.dev.rlg.time ∧ t.dev.rlg.epoch = s.dev.rlg.epoch) ∧
   (∀ s : State, s.dev.rlg.lock = .holdover → s.dev.holdoverLimit < s.dev.rlg.holdErr → s.dev.firstCandidate = none →
     ∃ t, exec .holdoverLimitExceeded s = .next t ∧ t.dev.rlg.lock = .stale ∧ t.dev.rlg.parent = none ∧
       t.dev.rlg.time = s.dev.rlg.time ∧ t.dev.rlg.epoch = s.dev.rlg.epoch ∧
       (s.dev.capo.st = .armed ∨ s.dev.capo.st = .draining → t.dev.capo = { s.dev.capo with st := .passed, armResult := 0x05 }) ∧
       (s.dev.capo.st ≠ .armed ∧ s.dev.capo.st ≠ .draining → t.dev.capo = s.dev.capo) ∧
       t = { s with dev := { s.dev with rlg := t.dev.rlg, capo := t.dev.capo, err := t.dev.err } }))

/-- R36, R41 over TSTAMP: a correction moves the count forward by at most 2^63 ru or not at all. -/
def Obligations.TimestampNeverMovesTimeBack : Prop :=
  ∀ (p : Fin 16) (d : BitVec 512) (fine : BitVec 13) (s t : State), s.dev.capoArmed = false →
    s.dev.now + 2 ^ 64 < 2 ^ 96 → exec (.tstamp p d fine) s = .next t →
    s.dev.now ≤ t.dev.now ∧ (s.dev.rlg.lock = .locked → (s.dev.rlg.bad < 15) → t.dev.now = s.dev.now)

/-- REGISTER_WRITE and SHADOW_WRITE (R10, R15, R26, R57, R61, R186). RLG_TAB_DATA_ACCESS, SCH_TBL_DATA_ACCESS,
RTE_TBL_DATA_ACCESS, CHD_DEF_DATA_ACCESS, INK_LAYOUT_DATA_ACCESS and PTN_LAYOUT_DATA_ACCESS: reads. The windows: writes (R57,
R61, R442). -/
def Obligations.RegisterAndWindowAccesses : Prop :=
  ((∀ (w : Word) (env : Env) (s : State), s.dev.inReset Reg.schHistSel = false →
     exec (.registerWrite { view := .port, off := BitVec.ofNat 22 Reg.schHistSel, size := 8, data := some w } env) s =
       .next { s with dev := s.dev.setReg Reg.schHistSel (w &&& 0x13FFF) }) ∧
   (∀ (env : Env) (s : State), s.dev.inReset Reg.schHistSel = false →
     exec (.registerWrite { view := .port, off := BitVec.ofNat 22 Reg.schHistSel, size := 8, data := none } env) s =
       .next { s with dev := s.dev.emit (.value (s.dev.reg Reg.schHistSel)) }) ∧
   (∀ (a : Access) (env : Env) (s : State), (a.view = .pf ∨ a.view = .port) → accOk a = true →
     let off := (accPart a).1
     let h := (accPart a).2
     holdsOnly off = true →
     (∀ (w : Word) (r : RegRow), a.data = some w → regRow false off = some r →
       let d := s.dev.tapPart a.view off h (accPlaced h w)
       d.inReset off = false →
       exec (.registerWrite a env) s = .next { s with dev := d.setReg off (writeFields r.fields h (d.reg off) (accPlaced h w)) }) ∧
     (a.data = none → s.dev.inReset off = false →
       exec (.registerWrite a env) s = .next { s with dev := s.dev.emit (.value (accReturned h (halfOf h (s.dev.reg off)))) })) ∧
   (∀ (a : Access) (env : Env) (s : State) (n : Fin 64), a.view = .vf n → accOk a = true →
     let off := (accPart a).1
     let h := (accPart a).2
     vfReg off = none → off ≠ 0x30000 → runIdx 0x34000 8 32 off = none → runIdx 0x38000 8 4096 off = none →
     (∀ w : Word, a.data = some w →
       exec (.registerWrite a env) s = .next { s with dev := s.dev.tapPart a.view off h (accPlaced h w) }) ∧
     (a.data = none → exec (.registerWrite a env) s = .next { s with dev := s.dev.emit (.value 0) })) ∧
   (∀ (a : Access) (env : Env) (s : State), a.size ≠ 4 → a.size ≠ 8 →
     ∃ t, exec (.registerWrite a env) s = .next t ∧ t.dev.err ≠ s.dev.err ∧
       t.dev.out = s.dev.out ++ (if a.data.isNone then [.value 0] else []) ∧
       t = { s with dev := { s.dev with err := t.dev.err, out := t.dev.out } }) ∧
   (∀ (a : Access) (s : State) (w : Word), (a.view = .pf ∨ a.view = .port) → accOk a = true → a.data = some w →
     let off := (accPart a).1
     let h := (accPart a).2
     let d := s.dev.tapPart a.view off h (accPlaced h w)
     stagedOnly off = true → d.inReset off = false →
     (cellReached off h = true → d.capoBusy = false →
       exec (.shadowWrite a) s = .next { s with dev :=
         (d.setShadow off (cellWrite off h (d.sh off) (accPlaced h w))).directStage (regSections off) }) ∧
     (cellReached off h = true → d.capoBusy = true →
       exec (.shadowWrite a) s = .next { s with dev := d.hostErr a.view off 0x02 (accPlaced h w) }) ∧
     (cellReached off h = false → exec (.shadowWrite a) s = .next { s with dev := d })) ∧
   (∀ (w : Word) (s : State), s.dev.inReset Reg.rlgCfg = false → s.dev.capoBusy = false →
     ∃ t, exec (.shadowWrite { view := .port, off := BitVec.ofNat 22 Reg.rlgCfg, size := 8, data := some w }) s = .next t ∧
       bits (tget stReset t.dev.shadow Reg.rlgCfg) 63 32 % 2 ^ 8 = bits w 39 32 ∧ t.dev.run = s.dev.run ∧
       t.dev.capo = { s.dev.capo with isUnsigned := true, st := .staged, checkCode := 0xFF } ∧
       t = { s with dev := { s.dev with shadow := t.dev.shadow, capo := t.dev.capo } })) ∧
  (∀ (v : View) (h : Half) (s : State), (v = .pf ∨ v = .port) →
     let a := fun (x : Window) => s.dev.reg x.access
     let cell := fun (x : Window) => if bit (a x) x.shadow then s.dev.sh else s.dev.st
     let val := fun (x : Window) => match x.read (cell x) (a x) with | some c => cell x c | none => 0
     let after := fun (x : Window) =>
       ({ s with dev := (s.dev.setReg x.access (x.next (a x))).emit (.value (halfOf h (val x))) } : State)
     (s.dev.inReset Reg.rlgTabData = false →
       exec (.rlgTabDataAccess { view := v, data := none, half := h }) s = .next (after rlgTabWindow)) ∧
     (s.dev.inReset Reg.schTblData = false →
       exec (.schTblDataAccess { view := v, data := none, half := h }) s = .next (after schWindow)) ∧
     (s.dev.inReset Reg.rteTblData = false →
       exec (.rteTblDataAccess { view := v, data := none, half := h }) s = .next (after rteWindow)) ∧
     (s.dev.inReset Reg.chdDefData = false →
       exec (.chdDefDataAccess { view := v, data := none, half := h }) s = .next (after chdWindow)) ∧
     (s.dev.inReset Reg.inkLayoutData = false →
       exec (.inkLayoutDataAccess { view := v, data := none, half := h }) s = .next (after inkWindow)) ∧
     (s.dev.inReset Reg.ptnLayoutData = false →
       exec (.ptnLayoutDataAccess { view := v, data := none, half := h }) s = .next (after ptnWindow))) ∧
  (∀ (v : View) (h : Half) (w : Word) (s : State), (v = .pf ∨ v = .port) →
     let d := fun (x : Window) => s.dev.tapPart v x.data h w
     let a := fun (x : Window) => (d x).reg x.access
     let put := fun (x : Window) =>
       match if bit (a x) x.shadow then x.write (d x).sh (a x) else none with
       | some c =>
         if cellReached c h = false then d x
         else if (d x).capoBusy = true then (d x).hostErr v x.data 0x02 w
         else ((d x).setShadow c (cellWrite c h ((d x).sh c) w)).directStage x.mark
       | none => d x
     let after := fun (x : Window) => ({ s with dev := (put x).setReg x.access (x.next (a x)) } : State)
     ((d rlgTabWindow).inReset Reg.rlgTabData = false →
       exec (.rlgTabDataAccess { view := v, data := some w, half := h }) s = .next (after rlgTabWindow)) ∧
     ((d schWindow).inReset Reg.schTblData = false →
       exec (.schTblDataAccess { view := v, data := some w, half := h }) s = .next (after schWindow)) ∧
     ((d rteWindow).inReset Reg.rteTblData = false →
       exec (.rteTblDataAccess { view := v, data := some w, half := h }) s = .next (after rteWindow)) ∧
     ((d chdWindow).inReset Reg.chdDefData = false →
       exec (.chdDefDataAccess { view := v, data := some w, half := h }) s = .next (after chdWindow)) ∧
     ((d inkWindow).inReset Reg.inkLayoutData = false →
       exec (.inkLayoutDataAccess { view := v, data := some w, half := h }) s = .next (after inkWindow)) ∧
     ((d ptnWindow).inReset Reg.ptnLayoutData = false →
       exec (.ptnLayoutDataAccess { view := v, data := some w, half := h }) s = .next (after ptnWindow)))

/-- ERROR_QUEUE_SPACE (R17), ERROR_RECORD_LOGGED, ERR_READ_WRITE, ERR_LOG_READ (R422 to R425). SST_RUN and SST_TEST_DONE
(R419). -/
def Obligations.ErrorRecordsAndSelfTests : Prop :=
  ((∀ (b n : Nat) (r : BitVec 256) (s : State), b < 256 → s.dev.err.first = [(b, { held := some r, lost := n })] →
     s.dev.err.queue.length < 63 →
     exec .errorQueueSpace s = .next { s with dev := { s.dev with err := { s.dev.err with
       queue := s.dev.err.queue ++ [r, s.dev.summary r n], first := [] } } }) ∧
   (∀ (r : BitVec 256) (l : List (BitVec 256)) (s : State), s.dev.err.queue = r :: l → bits r 5 0 ≠ 0x0B →
     bit (s.dev.reg Reg.errCfg) 16 = false → bit (s.dev.reg Reg.folTrigErr) (bits r 5 0) = false →
     ∃ t, exec .errorRecordLogged s = .next t ∧ t.dev.err.queue = l ∧ t.dev.err.head = s.dev.err.head + 1 ∧
       t.dev.err.log = tset (fun _ => 0) s.dev.err.log (s.dev.err.head.toNat % 4096) r ∧
       t.dev.cnt = (s.dev.bump (Reg.errClassCount (bits r 5 0))).cnt ∧
       t = { s with dev := { s.dev with err := t.dev.err, cnt := t.dev.cnt } }) ∧
   (∀ (w : Word) (s : State), ∃ t, exec (.errReadWrite .port w) s = .next t ∧
       t.dev.err.read.toNat = min (max w.toNat s.dev.err.read.toNat) s.dev.err.head.toNat ∧
       t = { s with dev := { s.dev with err := t.dev.err } }) ∧
   (∀ (v : View) (s : State), (v = .pf ∨ v = .port) → ∃ t, exec (.errLogRead v) s = .next t ∧
       t.dev.err.snap = (if s.dev.err.kept (s.dev.reg Reg.errLogSel).toNat
         then tget (fun _ => 0) s.dev.err.log ((s.dev.reg Reg.errLogSel).toNat % 4096) else 0) ∧
       t.dev.out = s.dev.out ++ [.value (t.dev.err.snap.setWidth 64)] ∧
       t = { s with dev := { s.dev with err := t.dev.err, out := t.dev.out } })) ∧
  ((∀ (v : View) (w : Word) (s : State), (v = .pf ∨ v = .port) →
     let a := s.tapped v Reg.sstCtl w
     (2 ≤ bits w 7 0 → exec (.sstRun v w) s = .next { s with dev := a.hostErr v Reg.sstCtl 0x03 w }) ∧
     (bits w 7 0 = 1 →
       let code := a.sstCode s.flash (bits w 15 8) (bits w 23 16)
       let b : Dev := { a with sst := { a.sst with result := code } }
       (code = 0 → exec (.sstRun v w) s = .next { s with dev := { b with sst := { b.sst with run := some (bits w 15 8, bits w 23 16) } } }) ∧
       (code ≠ 0 → exec (.sstRun v w) s = .next { s with dev := b.hostErr v Reg.sstCtl 0x02 w }))) ∧
   (∀ (r : List (BitVec 2)) (s : State) (test target : Nat), s.dev.sst.run = some (test, target) →
     ∃ t, exec (.sstTestDone r) s = .next t ∧ t.dev.sst.run = none ∧ t.dev.sst.result = s.dev.sst.result ∧
       t = { s with dev := { s.dev with sst := t.dev.sst } }))

/-- LOAD, LOAD_DONE (R56) and LOAD_FW (R73, R403). DRAIN_OPEN (R69), STORE (R74), FW_COPY_DONE (R73) and FINGERPRINT_DONE
(R341). -/
def Obligations.CapoLoadsAndEngine : Prop :=
  ((∀ (v : View) (w : Word) (s : State), (v = .pf ∨ v = .port) → bits w 7 0 = 1 →
     let d := s.tapped v Reg.capoCtl w
     d.loadGate scoreMax = none →
     exec (.load v w) s = .next { s with dev := { d with capo := { d.capo with
       loadPrev := d.capo.st, st := .loading, loadSrc := d.reg Reg.capoLoadSrc, loadLen := (d.reg Reg.capoLoadLen).toNat } } }) ∧
   (∀ (env : Env) (s : State) (u : Dev) (img : List Byte), s.dev.capo.st = .loading → s.dev.rst.coreUp = true →
     s.dev.rst.bootScore ≠ 2 →
     (s.dev.enter env).copyIn (ceilDiv s.dev.capo.loadLen 64) env s.dev.capo.loadSrc 0 0 s.dev.capo.loadLen [] = (u, some img) →
     u.scoreCode s.flash img s.dev.capo.loadLen = 0 →
     ∃ t, exec (.loadDone env) s = .next t ∧ t = { s with dev := (u.stageImage img s.dev.capo.loadLen).loadEnds 0 } ∧
       t.dev.capo.st = .staged ∧ t.dev.capo.loadResult = 0 ∧ t.dev.capo.isUnsigned = false ∧ t.dev.run = u.run) ∧
   (∀ (v : View) (env : Env) (s : State) (u : Dev) (img : List Byte), (v = .pf ∨ v = .port) →
     let d := s.tapped v Reg.capoCtl 2
     let n := (d.reg Reg.capoLoadLen).toNat
     d.loadGate fwMax = none →
     (d.enter env).copyIn (ceilDiv n 64) env (d.reg Reg.capoLoadSrc) fwRegion 0 n [] = (u, some img) → fwCode s.flash img n = 0 →
     exec (.loadFw v env) s = .next { s with dev := { u with capo := { u.capo with
       fwStaged := true, fw := some (fwImageOf img), st := .staged, checkCode := 0xFF, loadResult := 0 } } })) ∧
  ((∀ s : State, s.dev.capo.st = .armed → s.dev.capo.drainMask ≠ 0 → s.dev.capo.applyAt ≤ s.dev.now + s.dev.drainWindow →
     exec .drainOpen s = .next { s with dev := { s.dev with capo := { s.dev.capo with st := .draining } } }) ∧
   (∀ (v : View) (s : State) (n : Nat) (g : BitVec 256) (u : Dev) (img : List Byte), (v = .pf ∨ v = .port) →
     let d := s.tapped v Reg.capoCtl 7
     s.dev.capo.runImage = some (n, g) → s.dev.capo.unsignedRun = false → d.stagingRead {} 0 n = (u, some img) →
     digest256 img = g →
     exec (.store v) s = .next { s with dev := { u with rst := { u.rst with jobs := u.rst.jobs ++
       [{ what := .score img u.stagingBase, left := ceilDiv n 65536 + 1 }] } } }) ∧
   (∀ (s : State) (w : FwImage), s.dev.capo.coreHeld = true → s.dev.capo.fw = some w →
     ∃ t, exec .fwCopyDone s = .next t ∧ t.dev.rst.coreUp = true ∧ t.dev.rst.coreImage = some w ∧
       t.dev.capo = { s.dev.capo with coreHeld := false } ∧
       t.dev.rst.jobs = s.dev.rst.jobs ++ [{ what := .firmware w.bytes, left := ceilDiv w.bytes.length 65536 + 1 }] ∧
       t.flash = s.flash ∧ t.dev.mem = s.dev.mem ∧ t.dev.run = s.dev.run) ∧
   (∀ s : State, s.dev.det.fpPending = true →
     ∃ t, exec .fingerprintDone s = .next t ∧ t.dev.det.fpPending = false ∧ t.dev.det.fpValid = true ∧
       t.dev.det.fingerprint.toNat = ofLe (shake256 8 (s.dev.fpInput s.flash)) % 2 ^ 64 ∧
       t = { s with dev := { s.dev with det := t.dev.det } }))

/-- CHECK, CHECK_DONE (R60), ARM (R63), DISARM and DISCARD (R67). -/
def Obligations.CapoCommands : Prop :=
  (∀ (v : View) (s : State), (v = .pf ∨ v = .port) →
    (s.dev.capo.st = .staged ∨ s.dev.capo.st = .passed ∨ s.dev.capo.st = .failed) →
    let d := s.tapped v Reg.capoCtl 3
    exec (.check v) s = .next { s with dev := { d with capo := { s.dev.capo with st := .checking } } }) ∧
  (∀ s : State, s.dev.capo.st = .checking → s.dev.rst.bootScore ≠ 2 →
    ∃ t, exec .checkDone s = .next t ∧ t.dev.capo.st = (if s.dev.checkAll = [] then .passed else .failed) ∧
      (∀ k < 32, bit t.dev.capo.checkFail k = s.dev.checkAll.any fun x => x.1 == k) ∧
      t = { s with dev := { s.dev with capo := t.dev.capo } }) ∧
  (∀ (v : View) (s : State), (v = .pf ∨ v = .port) → s.dev.capo.st = .passed → s.dev.rlg.lock.stampOk = true →
    s.dev.now + s.dev.drainWindow + 1024000 ≤ s.dev.applyInstant →
    let d := s.tapped v Reg.capoCtl 4
    exec (.arm v) s = .next { s with dev := { d with capo := { s.dev.capo with
      st := .armed, applyAt := s.dev.applyInstant, armResult := 0x01 } } }) ∧
  (∀ (v : View) (s : State), (v = .pf ∨ v = .port) → (s.dev.capo.st = .armed ∨ s.dev.capo.st = .draining) →
    let d := s.tapped v Reg.capoCtl 5
    exec (.disarm v) s = .next { s with dev := { d with capo := { s.dev.capo with st := .passed, armResult := 0x06 } } }) ∧
  (∀ (v : View) (s : State), (v = .pf ∨ v = .port) → s.dev.capoBusy = false →
    let d := s.tapped v Reg.capoCtl 6
    ∃ t, exec (.discard v) s = .next t ∧ t.dev.shadow = s.dev.run ∧ t.dev.run = s.dev.run ∧ t.dev.capo.st = .idle ∧
      t = { s with dev := { d with shadow := s.dev.run, capo := s.dev.capo.noStage } })

/-- CAPO_APPLY and APPLY_NOW (R16, R65, R68). -/
def Obligations.ApplyMovesEveryShadow : Prop :=
  (∀ s : State, s.dev.capoArmed = true → s.dev.capo.applyAt ≤ s.dev.now →
    ∃ t, exec .capoApply s = .next t ∧ t.dev.run = s.dev.edgeCells ∧ t.dev.capo.st = .idle ∧ t.dev.capo.armResult = 0x07 ∧
      t.dev.capo.lastApply = s.dev.rlg.time ∧ t.dev.capo.lastApplyEpoch = s.dev.rlg.epoch ∧ t.flash = s.flash) ∧
  (∀ (v : View) (s : State), (v = .pf ∨ v = .port) → s.dev.capo.st = .passed →
    (s.dev.rlg.lock = .free ∨ s.dev.rlg.lock = .source ∧ s.dev.rlg.served = false) →
    ∃ t, exec (.applyNow v) s = .next t ∧ t.dev.run = s.dev.edgeCells ∧ t.dev.capo.st = .idle ∧ t.dev.capo.armResult = 0x09 ∧
      t.dev.capo.lastApply = s.dev.rlg.time ∧ t.dev.capo.lastApplyEpoch = s.dev.rlg.epoch ∧ t.flash = s.flash)

/-- DOORBELL (R28, R82), RING_SCAN (R83) and SCAN_RESUME (R87). R83, R85: one entry of a scan. -/
def Obligations.DoorbellsAndScans : Prop :=
  ((∀ (d : Doorbell) (s : State), d.read = true → exec (.doorbell d) s = .next { s with dev := s.dev.emit (.value 0) }) ∧
   (∀ (d : Doorbell) (s : State), d.read = false → s.dev.inReset Reg.ringSel = false → d.tray = none → (d.size = 4 ∨ d.size = 8) →
     let r := doorbellRing d
     s.dev.ringHeld r = true → s.dev.det.replay = false → s.dev.folMatch [(0, ringPart r), (1, r)] = none →
     let x := s.dev.ring r
     let y : Ring := { x with doorbells := satAdd x.doorbells 1 }
     let z : Ring := if x.st ≠ .enabled then y
       else if x.held = true ∨ x.discarding = true ∨ x.scanning = true then { y with dbPending := true }
       else { y with scanning := true }
     exec (.doorbell d) s = .next { s with dev := s.dev.setRing r z }) ∧
   (∀ (ring : Fin 16384) (env : Env) (s : State) (u : Dev) (h : BitVec 512) (c : Instr),
     (c = .ringScan ring env ∨ c = .scanResume ring env) →
     let d := s.dev.enter env
     let x := d.ring ring
     d.mayFetch ring = true → x.scanning = true → x.taken = [] → d.readUnit env ring x.fetchPos = (u, .ok h) →
     bits h 0 0 ≠ phaseAt (sizeLog2 x.cfg) x.fetchPos.toNat →
     let y := u.ring ring
     exec c s = .next { s with dev :=
       (u.setRing ring { y with
         scanning := y.dbPending, dbPending := false, changed := if y.torn then y.changed else [] }).settle }) ∧
   (∀ (ring : Fin 16384) (env : Env) (s : State) (d u v : Dev) (h k : BitVec 512) (c : Instr),
     let a := s.dev.enter env
     let t := a.ring ring
     (c = .ringScan ring env ∨ c = .scanResume ring env) ∧ t.scanning = true ∧ d = a ∨
       c = .tornReread ring env ∧ t.torn = true ∧ t.scanning = false ∧ t.tornTries < 16 ∧ t.tornAt ≤ a.now ∧
         d = a.setRing ring { t with scanning := true, tornTries := t.tornTries + 1 } →
     let x := d.ring ring
     let p := x.fetchPos
     a.mayFetch ring = true → d.readUnit env ring p = (u, .ok h) → u.ring ring = x →
     bits h 0 0 = phaseAt (sizeLog2 x.cfg) p.toNat → bits h 7 4 = 1 → bits h 47 32 = x.fetchSeq.toNat →
     x.fetched + 1 ≤ x.prefetch → u.cachedUnits + 1 ≤ 65536 →
     let e : Entry := { pos := p, seq := x.fetchSeq, units := [h] }
     let e : Entry := { e with scoreChanged := decide (e.cls = .chord) && x.changed.contains e.slot }
     let w := (u.setRing ring { x with
       taken := x.taken ++ [e], fetchPos := p + 1, fetchSeq := x.fetchSeq + 1, torn := false, tornTries := 0 }).folEvent 0x03
         (ringPart ring) (e.attrs ring) (leBytes 2 ring ++ zeros 2 ++ leBytes 4 p.toNat ++ zeros 8 ++ leBytes 64 h.toNat)
     let z := w.ring ring
     w.readUnit env ring z.fetchPos = (v, .ok k) → bits k 0 0 ≠ phaseAt (sizeLog2 z.cfg) z.fetchPos.toNat →
     let y := v.ring ring
     exec c s = .next { s with dev :=
       ((v.setRing ring { y with
         scanning := y.dbPending, dbPending := false, changed := if y.torn then y.changed else [] }).settleHead 256 env ring).settle })) ∧
  (∀ (fuel r : Nat) (env : Env) (s u : Dev) (h : BitVec 512),
     let x := s.ring r
     let p := x.fetchPos
     s.readUnit env r p = (u, .ok h) → u.ring r = x → bits h 0 0 = phaseAt (sizeLog2 x.cfg) p.toNat → bits h 7 4 = 1 →
     x.fetched + 1 ≤ x.prefetch → u.cachedUnits + 1 ≤ 65536 →
     let e : Entry := { pos := p, seq := x.fetchSeq, units := [h] }
     let e : Entry := { e with scoreChanged := decide (e.cls = .chord) && x.changed.contains e.slot }
     (bits h 47 32 = x.fetchSeq.toNat →
       s.scanLoop (fuel + 1) env r =
         ((u.setRing r { x with taken := x.taken ++ [e], fetchPos := p + 1, fetchSeq := x.fetchSeq + 1, torn := false,
                                tornTries := 0 }).folEvent 0x03 (ringPart r) (e.attrs r)
           (leBytes 2 r ++ zeros 2 ++ leBytes 4 p.toNat ++ zeros 8 ++ leBytes 64 h.toNat)).scanLoop fuel env r) ∧
     (bits h 47 32 ≠ x.fetchSeq.toNat →
       s.scanLoop (fuel + 1) env r = u.ringError env r 0x01 p h (malformed 0x01 4)))

/-- TORN_REREAD (R84), INVAL, RING_RESUME and RING_DISCARD_DONE (R88). -/
def Obligations.TornEntriesAndInvalidation : Prop :=
  (∀ (ring : Fin 16384) (env : Env) (s : State) (u u' : Dev) (h k : BitVec 512),
    let d := s.dev.enter env
    let x := d.ring ring
    let p := x.fetchPos
    x.torn = true → x.scanning = false → x.tornTries < 16 → x.tornAt ≤ d.now → x.taken = [] → d.mayFetch ring = true →
    let d := d.setRing ring { x with scanning := true, tornTries := x.tornTries + 1 }
    d.readUnit env ring p = (u, .ok h) → u.ring ring = d.ring ring →
    bits h 0 0 = phaseAt (sizeLog2 x.cfg) p.toNat → bits h 7 4 = 2 →
    2 ≤ x.prefetch → u.cachedUnits + 2 ≤ 65536 → u.readUnit env ring (p + 1) = (u', .ok k) → u'.ring ring = d.ring ring →
    bits k 0 0 ≠ phaseAt (sizeLog2 x.cfg) (p + 1).toNat →
    let y : Ring := { x with scanning := true, tornTries := x.tornTries + 1, tornAt := u'.now + 1024000 }
    exec (.tornReread ring env) s = .next { s with dev :=
      ((u'.setRing ring y).setRing ring { y with scanning := x.dbPending, dbPending := false }).settle }) ∧
  (∀ (v : View) (w : Word) (s : State), (v = .pf ∨ v = .port) → bit w 0 = true →
    let d := s.tapped v Reg.ringInval w
    let r := d.selRing v
    d.inReset Reg.ringInval = false → d.selKind v = false → (d.ring r).st = .enabled →
    let y : Ring := { d.ring r with discarding := true, resumeAfter := bit w 1, scanning := false }
    exec (.inval v w) s = .next { s with dev := d.setRing r y }) ∧
  (∀ (v : View) (w : Word) (s : State), (v = .pf ∨ v = .port) → bit w 0 = false → bit w 1 = true →
    let d := s.tapped v Reg.ringInval w
    let r := d.selRing v
    d.inReset Reg.ringInval = false → d.selKind v = false →
    let x := d.ring r
    let y : Ring := if x.st ≠ .enabled then { x with held := false }
      else if x.discarding = true then { x with resumeAfter := true }
      else { x with held := false, scanning := true, dbPending := false }
    exec (.ringResume v w) s = .next { s with dev := d.setRing r y }) ∧
  (∀ (ring : Fin 16384) (s : State), (s.dev.ring ring).discarding = true → (s.dev.ring ring).st = .enabled →
    let x := s.dev.ring ring
    let y : Ring := { x with
      taken := [], discarding := false, torn := false, changed := x.marked
      fetchPos := BitVec.ofNat 32 (bits x.head 31 0), fetchSeq := BitVec.ofNat 16 (bits x.head 47 32) }
    let z : Ring := if x.resumeAfter = true
      then { y with held := false, resumeAfter := false, scanning := true, dbPending := false }
      else { y with held := true }
    exec (.ringDiscardDone ring) s = .next { s with dev := s.dev.setRing ring z })

/-- RING_ENABLE, RING_DISABLE (R99), CQ_ENABLE and CQ_DISABLE (R100). -/
def Obligations.RingStates : Prop :=
  ∀ (v : View) (w : Word) (s : State), (v = .pf ∨ v = .port) →
    let d := s.tapped v Reg.ringCtl w
    let r := d.selRing v
    let x := d.ring r
    let q := d.cq r
    let placed := fun (base cfg : Word) (unit : Nat) =>
      bits base 11 10 = 2 ∧ d.inShare (ringPart r) (bits base 63 12 * 4096) (2 ^ sizeLog2 cfg * unit) = true
    d.inReset Reg.ringCtl = false →
    (bits w 7 0 = 1 → d.selKind v = false → x.st = .disabled → d.ringHeld r = true → placed x.base x.cfg 64 →
      6 ≤ sizeLog2 x.cfg → sizeLog2 x.cfg ≤ 20 → ringPart x.cq = ringPart r → (d.cq x.cq).st = .enabled →
      (d.ptn (ringPart r)).st.refuses = false →
      exec (.ringEnable v w) s = .next { s with dev := d.setRing r { x with
        st := .enabled, enableResult := 0, errCode := 0, held := false, torn := false, dbPending := false, scanning := true,
        discarding := false, resumeAfter := false, head := x.start, taken := [],
        fetchPos := BitVec.ofNat 32 (bits x.start 31 0), fetchSeq := BitVec.ofNat 16 (bits x.start 47 32) } }) ∧
    (bits w 7 0 = 1 → d.selKind v = false → x.st ≠ .disabled →
      exec (.ringEnable v w) s = .next { s with dev := d.setRing r { x with enableResult := 0x01 } }) ∧
    (bits w 7 0 = 2 → d.selKind v = false → x.st = .enabled →
      exec (.ringDisable v w) s = .next { s with dev := d.setRing r { x with
        st := .disabling, discarding := true, scanning := false, resumeAfter := false } }) ∧
    (bits w 7 0 = 1 → d.selKind v = true → q.st = .disabled → d.cqHeld r = true → placed q.base q.cfg 32 →
      7 ≤ sizeLog2 q.cfg → sizeLog2 q.cfg ≤ 22 → (d.ptn (ringPart r)).st.refuses = false →
      exec (.cqEnable v w) s = .next { s with dev := d.setCq r { q with
        st := .enabled, enableResult := 0, errCode := 0, reserved := 0, owed := [], rereadAt := none
        tail := BitVec.ofNat 32 (bits q.start 31 0), head := BitVec.ofNat 32 (bits q.start 31 0) } }) ∧
    (bits w 7 0 = 2 → d.selKind v = true → (∀ p ∈ d.rings, p.2.cq = r → p.2.st = .disabled) →
      exec (.cqDisable v w) s = .next { s with dev := d.setCq r { q with st := .disabled } })

/-- RING_CTR_WRITE (R93), CQ_HEAD_READ and CQ_HEAD_REREAD (R97). -/
def Obligations.CountersAndHeads : Prop :=
  (∀ (v : View) (w : Word) (s : State), (v = .pf ∨ v = .port) →
    let d := s.tapped v Reg.ringCtr w
    d.inReset Reg.ringCtr = false →
    let y : EvCtr := { value := BitVec.ofNat 48 (bits w 47 0), failed := bit w 63 }
    exec (.ringCtrWrite v w) s = .next { s with dev := d.setCtr (bits (d.sel v Reg.ringCtrSel) 15 0) y }) ∧
  (∀ (cq : Fin 16384) (env : Env) (s : State) (u : Dev) (b : List Byte) (c : Instr),
    let d := s.dev.enter env
    let x := d.cq cq
    (c = .cqHeadRead cq env ∧ x.free = false ∧ x.rereadAt = none ∨
      c = .cqHeadReread cq env ∧ d.cqWanted cq = true ∧ ∃ t, x.rereadAt = some t ∧ t ≤ d.now) → x.st = .enabled →
    d.ringRead env (ringPart cq) x.base (bits x.headAddr 63 3 * 8) 4 = (u, .ok b) → u.cq cq = x →
    let h := BitVec.ofNat 32 (ofLe b)
    (x.tail - h).toNat ≤ x.size →
    let y : Cq := { x with head := h }
    let z : Cq := { y with rereadAt := if y.free then none else some (u.now + 1024000) }
    exec c s = .next { s with dev := (u.setCq cq z).cqOwed env cq x.owed.length })

/-- ENTRY_COMPLETE (R92, R94 to R96). -/
def Obligations.EntryCompletes : Prop :=
  ∀ (ring : Fin 16384) (pos : BitVec 32) (env : Env) (s : State) (o : Op) (d : Done) (u1 u2 : Dev),
    let a := s.dev.enter env
    a.op? ring pos = some o → o.fin = some d → d.status = 0 → o.flushWait = false → a.orderMet o = true → o.reach = 0 →
    o.zero = [] → a.trayOwes ring pos o.entry.scopeSys = false →
    o.entry.complete = true → a.folMatch (o.entry.attrs ring) = none →
    let n := o.entry
    let q := (a.ring ring).cq
    let x := a.cq q
    x.st = .enabled → (x.tail - x.head).toNat < x.size → bit x.cfg 8 = false →
    let y : Cq := { x with reserved := x.reserved - 1 }
    let y : Cq := { y with rereadAt := if y.free then none else x.rereadAt }
    let b := (a.dropOp o).setCq q y
    let record := recordBytes (phaseAt (sizeLog2 x.cfg) x.tail.toNat) 0 n.opcode (b2n (n.scopeSys || o.scopeSys)) (b2n n.solicit)
      ring n.seq.toNat n.pos.toNat n.len d.bytes.toNat d.detail.toNat
    let at0 := bits x.base 63 12 * 4096 + x.tail.toNat % x.size * 32
    b.ringWrite env (ringPart q) x.base (at0 + 8) (record.drop 8) = (u1, true) →
    u1.ringWrite env (ringPart q) x.base at0 (record.take 8) = (u2, true) →
    let u := (u2.setCq q { y with tail := x.tail + 1 }).cqOwed env q x.owed.length
    let z := if n.signalEn && n.signalIdx < u.ctrsOf o.part then u.ctrSignal o.part n.signalIdx false else u
    exec (.entryComplete ring pos env) s = .next { s with dev := z.settle }

/-- NOP (R104), RECV_FLUSH (R110), CTR_ADD and CTR_SET (R112). -/
def Obligations.EntriesThatEndAtLaunch : Prop :=
  ∀ (ring : Fin 16384) (s : State) (e : Entry) (d : Drr) (code : Nat), s.dev.Launches ring code e d → s.dev.Unasked ring e →
    let u := s.dev.launched ring e d
    let part := ringPart ring
    let i := e.f 137 128
    let c := u.ctr (part * 1024 + i)
    let pool := e.f 133 128
    (code = 0x00 → exec (.nop ring) s = .next { s with dev := (u.ended ring e s.dev.ops).settle }) ∧
    (code = 0x14 → pool < u.poolCount part → u.pool (part * 64 + pool) = [] →
      exec (.recvFlush ring) s = .next { s with dev := ((u.setPool (part * 64 + pool) []).ended ring e s.dev.ops).settle }) ∧
    (code = 0x21 → i < u.ctrsOf part →
      let c' : EvCtr := { c with value := c.value + BitVec.ofNat 48 (e.f 239 192) }
      exec (.ctrAdd ring) s = .next { s with dev := ((u.setCtr (part * 1024 + i) c').ended ring e s.dev.ops).settle }) ∧
    (code = 0x22 → i < u.ctrsOf part →
      let c' : EvCtr := { value := BitVec.ofNat 48 (e.f 239 192), failed := e.f 144 144 == 1 }
      exec (.ctrSet ring) s = .next { s with dev := ((u.setCtr (part * 1024 + i) c').ended ring e s.dev.ops).settle })

/-- WRITE (R108), SEND (R109), READ (R133), ATOMIC_FADD and ATOMIC_CAS at a peer (R111, R134). R119, R132: packetization. -/
def Obligations.ConnectionEntriesQueuePackets : Prop :=
  ((∀ (ring : Fin 16384) (s : State) (e : Entry) (d : Drr) (code : Nat), s.dev.Launches ring code e d →
     let u := s.dev.launched ring e d
     u.connPart e.conn = some (ringPart ring) → (u.conn e.conn).st = .active →
     let h := u.setOp ring e.pos fun o => { o with keys := e.lkey :: o.keys }
     let idx := if e.f 400 400 = 1 then e.f 393 384 else 0
     let op := some (ring.val, e.pos)
     let src := (e.lkey, BitVec.ofNat 64 e.laddr)
     (code = 0x10 → exec (.write ring) s = .next { s with dev := ((h.opPackets ring e (packetCount e.length)).sendData e.conn 0x01
       src e.length e.rkey.toNat e.raddr idx idx (e.f 400 400 == 1) e.scopeSys op none).settle }) ∧
     (code = 0x12 → exec (.send ring) s = .next { s with dev := ((h.opPackets ring e (packetCount e.length)).sendData e.conn 0x02
       src e.length 0 0 e.length 0 false e.scopeSys op none).settle }) ∧
     (code = 0x11 → exec (.read ring) s = .next { s with dev := ((h.opPackets ring e 1).sendImm e.conn 0x03
       (leBytes 4 e.lkey.toNat ++ zeros 4 ++ leBytes 8 e.laddr) e.rkey.toNat e.raddr e.length e.scopeSys op none).settle })) ∧
   (∀ (ring : Fin 16384) (env : Env) (s : State) (e : Entry) (d : Drr) (cas : Bool),
     (s.dev.enter env).Launches ring (if cas then 0x19 else 0x18) e d → e.f 159 159 = 0 →
     let u := (s.dev.enter env).launched ring e d
     u.connPart e.conn = some (ringPart ring) → (u.conn e.conn).st = .active → e.laddr % 8 = 0 → e.raddr % 8 = 0 →
     let h := (u.setOp ring e.pos fun o => { o with keys := e.lkey :: o.keys }).opPackets ring e 1
     let x := u.conn e.conn
     let body := leBytes 8 (e.f 415 352) ++ leBytes 8 (if cas then e.f 479 416 else 0) ++ leBytes 4 e.lkey.toNat ++ zeros 4 ++
       leBytes 8 e.laddr
     exec (if cas then .atomicCas ring env else .atomicFadd ring env) s = .next { s with dev :=
       ((h.setConn e.conn { x with atomicOut := x.atomicOut + 1 }).sendImm e.conn 0x05 body e.rkey.toNat e.raddr (b2n cas)
         e.scopeSys (some (ring.val, e.pos)) none).settle })) ∧
  (∀ (s : Dev) (c ptype len rkey raddr aux auxAll : Nat) (src : BitVec 32 × Word) (rsig sys : Bool)
     (op : Option (Nat × BitVec 32)) (req : Option (BitVec 32)) (i : Nat) (p : TxPkt),
     let n := packetCount len
     let plen := min 4096 (len - i * 4096)
     let l := ((s.sendData c ptype src len rkey raddr aux auxAll rsig sys op req).conn c).tx.drop (s.conn c).tx.length
     (s.conn c).st = .active → ptype < 256 → n ≤ 2 ^ 20 → c < 2 ^ 20 → rkey < 2 ^ 32 → aux < 2 ^ 32 → auxAll < 2 ^ 32 →
     l[i]? = some p →
       l.length = n ∧ i < n ∧ p.sent = false ∧ p.op = op ∧ p.sys = sys ∧ p.src = (if plen = 0 then .empty else
         .mem src.1 (src.2 + BitVec.ofNat 64 (i * 4096))) ∧
       bits p.hdr 71 64 = ptype ∧ bits p.hdr 211 192 = i ∧ bits p.hdr 132 120 = plen ∧ bit p.hdr 113 = decide (i = 0) ∧
       bit p.hdr 114 = decide (i + 1 = n) ∧ (i = 0 → bits p.hdr 252 232 = n))

/-- RECV (R109), FENCE (R199), KEY_REGISTER, KEY_INVALIDATE (R113), COPY (R114), CIPHER_VERIFY (R115), local atomics (R111).
COPY (R114), atomics (R111, R202), CIPHER_VERIFY (R307). -/
def Obligations.LocalEntries : Prop :=
  ((∀ (ring : Fin 16384) (s : State) (e : Entry) (d : Drr) (code : Nat), s.dev.Launches ring code e d →
     let u := s.dev.launched ring e d
     let part := ringPart ring
     let pool := e.f 133 128
     let i := e.f 149 128
     let b : PoolBuf := { ring := ring, pos := e.pos, key := e.lkey, addr := BitVec.ofNat 64 e.laddr, len := BitVec.ofNat 32 e.length }
     (code = 0x13 → pool < u.poolCount part →
       exec (.recv ring) s = .next { s with dev := ((u.setOp ring e.pos fun o => { o with keys := [e.lkey] }).setPool
         (part * 64 + pool) (u.pool (part * 64 + pool) ++ [b])).settle }) ∧
     (code = 0x20 → e.f 129 128 = 0 →
       exec (.fence ring) s = .next { s with dev := (u.finish ring e.pos {}).settle }) ∧
     (code = 0x20 → e.f 129 128 = 1 →
       exec (.fence ring) s = .next { s with dev := (u.setOp ring e.pos fun o =>
         { o with scopeSys := true, reach := (u.ring ring).reach ||| (u.ptn part).reach }).settle }) ∧
     (code = 0x28 → s.dev.Unasked ring e → u.registerField part e = none → u.keyPart i = some part →
       let k := u.keyLoad i
       (k.keyBad i = true ∨ keyValid (k.keyEntry i) = false ∧ keyGen (k.keyEntry i) ≠ e.f 159 152) →
       let a := ((k.keepPast i).setKeyEntry i (keyEntryOf part e)).dropXlat i
       let others := a.xlt.atsKeys.filter (· != i)
       let x : Xlt := { a.xlt with
         keyPoison := a.xlt.keyPoison.filter (· != i)
         atsKeys := if e.f 169 168 == 0 && (k.fn part).ats then i :: others else others }
       let a : Dev := { a with xlt := x }
       exec (.keyRegister ring) s = .next { s with dev := ((a.keyTouch i).ended ring e s.dev.ops).settle }) ∧
     (code = 0x29 → u.keyPart i = some part →
       let k := u.keyLoad i
       let x := k.keyEntry i
       keyValid x = true → k.keyBad i = false → keyGen x = e.f 159 152 → keyClass x = e.f 151 150 →
       exec (.keyInvalidate ring) s = .next { s with dev := (k.keyDrop i).settle })) ∧
   (∀ (ring : Fin 16384) (env : Env) (s : State) (e : Entry) (d : Drr) (code : Nat), (s.dev.enter env).Launches ring code e d →
     let u := (s.dev.enter env).launched ring e d
     let part := ringPart ring
     let held := fun (k : Dev) (key : BitVec 32) => k.setOp ring e.pos fun o => { o with keys := key :: o.keys }
     (∀ k : Dev, code = 0x30 → u.keyCheck e.lkey part e.laddr e.length rR = (k, none) → e.length ≠ 0 →
       exec (.copy ring env) s = .next { s with dev := ((held k e.lkey).copyLines (e.length / 64 + 3) env ring e 0).settle }) ∧
     (∀ k k' : Dev, code = 0x30 → u.keyCheck e.lkey part e.laddr e.length rR = (k, none) → e.length = 0 →
       (held k e.lkey).keyCheck e.rkey part e.raddr e.length rW = (k', none) →
       exec (.copy ring env) s = .next { s with dev :=
         (((held k' e.rkey).setOp ring e.pos fun o => { o with checked := true }).finish ring e.pos {}).settle }) ∧
     (∀ k : Dev, code = 0x31 → u.connPart e.conn = some part → (u.conn e.conn).enc = true →
       (u.cphEntry (u.conn e.conn).cphKey).isSome = true → e.f 359 352 ≤ 32 →
       u.keyCheck e.lkey part e.laddr (e.f 287 256) rR = (k, none) →
       exec (.cipherVerify ring env) s = .next { s with dev := ((held k e.lkey).runVerify env ring e).settle }) ∧
     (∀ (k : Dev) (cas : Bool), code = (if cas then 0x19 else 0x18) → e.f 159 159 = 1 → e.laddr % 8 = 0 → e.raddr % 8 = 0 →
       u.keyCheck e.rkey part e.raddr 8 rAT = (k, none) →
       exec (if cas then .atomicCas ring env else .atomicFadd ring env) s = .next { s with dev :=
         ((held k e.rkey).runLocalAtomic env ring e cas).settle }))) ∧
  ((∀ (fuel r off : Nat) (env : Env) (s u c k u' : Dev) (e : Entry) (b : List Byte), off < e.length →
     let a := s.setOp r e.pos fun o => { o with offset := off, respBytes := off }
     let n := min (e.length - off) (64 - (e.raddr + off) % 64)
     a.regionRead env e.lkey (e.laddr + off) n (opWho r e.pos) = (u, .ok b) →
     ((u.op? r e.pos).any (·.checked) = true ∧ c = u ∨
       (u.op? r e.pos).any (·.checked) = false ∧ u.keyCheck e.rkey (ringPart r) e.raddr e.length rW = (k, none) ∧
       c = (k.setOp r e.pos fun o => { o with keys := e.rkey :: o.keys }).setOp r e.pos fun o => { o with checked := true }) →
     c.folMatch (e.attrs r) = none → c.regionWrite env e.rkey (e.raddr + off) b (opWho r e.pos) = (u', .ok []) →
     s.copyLines (fuel + 1) env r e off = (u'.opReached r e.pos e.rkey n).copyLines fuel env r e (off + n)) ∧
   (∀ (fuel r off : Nat) (env : Env) (s : Dev) (e : Entry), e.length ≤ off →
     s.copyLines (fuel + 1) env r e off = s.finish r e.pos { status := 0, detail := 0, bytes := BitVec.ofNat 64 e.length }) ∧
   (∀ (env : Env) (s u u' : Dev) (fix b : List Byte) (key : BitVec 32) (who a : Nat) (cas : Bool) (operand compare : Word),
     keyTarget (s.region key) = 2 → s.regionRead env key a 8 who 0x03 = (u, .ok b) → u.replayFix 0x0B fix = none →
     let old := BitVec.ofNat 64 (ofLe b)
     u.regionWrite env key a (leBytes 8 (if cas then (if old = compare then operand else old) else old + operand).toNat) who true = (u', .ok []) →
     s.atomicOn env who fix key a cas operand compare = (u', .ok b)) ∧
   (∀ (env : Env) (s u : Dev) (r : Nat) (e : Entry) (ct : List Byte) (key : BitVec 256), env.cipherFault = false →
     s.regionRead env e.lkey e.laddr (e.f 287 256) (opWho r e.pos) = (u, .ok ct) → u.folMatch (e.attrs r) = none →
     u.cphEntry (u.conn e.conn).cphKey = some key →
     let ok := gcmTag (aesExpand ((leBytes 32 key.toNat).map (·.toNat))) (leBytes 4 (u.conn e.conn).salt ++ leBytes 8 (e.f 351 288))
       ((leBytes 32 (e.f 831 576)).take (e.f 359 352)) ct = leBytes 16 (e.f 511 384)
     (ok → s.runVerify env r e = (u.bump (Reg.cphCounts 7)).finish r e.pos {}) ∧
     (¬ ok → s.runVerify env r e = (u.bump (Reg.cphCounts 8)).finish r e.pos { status := 0x08 })))

/-- The ten collective commands (R116 to R118, R238, R242, R244, R280, R286). -/
def Obligations.GroupCommandsStart : Prop :=
  ∀ (ring : Fin 16384) (env : Env) (s : State) (e : Entry) (dr : Drr) (code : Nat) (d : ChdDef),
    let a := s.dev.enter env
    a.Launches ring code e dr →
    let u := a.launched ring e dr
    let k := e.slot
    let ex := e.isExch
    let x := u.grp ex k
    let sig := if ex then e.stmSig x.nextSeq.toNat else if code = 0x48 ∨ code = 0x49 then e.plkSig x.nextSeq.toNat
      else e.chdSig x.nextSeq.toNat
    let bad := if ex then e.stmBad (some d) else if code = 0x48 ∨ code = 0x49 then e.plkBad (some d) else e.chdBad (some d)
    e.scoreChanged = false → u.grpDef ex k = some d → d.part = ringPart ring →
    (ex = true ∨ (if e.onRing then d.ring else d.tree) = true) → (∀ p ∈ x.pend, p.seq ≠ x.nextSeq) →
    (∀ y ∈ x.early, y.sig = sig ∧ ∀ q ∈ y.others, q.1 = sig) → (∀ f ∈ x.flits, f.2.2.2.2 = sig) → bad = none →
    let run : ChdRun := { ring := ring, pos := e.pos, opcode := BitVec.ofNat 8 e.opcode, seq := x.nextSeq, sig := sig, began := u.now }
    let y : Slot := { x with nextSeq := x.nextSeq + 1, run := some run, pend := x.pend.filter fun p => p.seq != x.nextSeq }
    let b := u.setGrp ex k y
    let go := fun (z : Dev) => z.pluckProgress env k d
    let expected := fun (f : Nat × Nat × Nat × BitVec 256 × Word) =>
      match pluckCount d e f.1 f.2.1 with | some n => decide (f.2.2.1 < n) | none => false
    let flits := b.dropEarly false k expected fun v => v.bump (Reg.plkCounts 4)
    let z := if ex then (b.dropEarly true k (fun f => f.2.2.1 ≤ 1) fun v => v.grpBump true .stale).stmStart env ring e d
      else if code = 0x49 then flits.grpOperand false k d ring e.pos e.plkKey e.plkAddr (8 * e.nval) rW go
      else if code = 0x48 then go flits else b.chdStart env ring e d
    (z.ring ring).taken = [] →
    let starts := fun (n : Nat) (c : Instr) => code = n → exec c s = .next { s with dev := z.settle }
    starts 0x40 (.chdReduce ring env) ∧ starts 0x41 (.chdAllreduce ring env) ∧ starts 0x42 (.chdBroadcast ring env) ∧
      starts 0x43 (.chdReduceScatter ring env) ∧ starts 0x44 (.chdAllgather ring env) ∧ starts 0x45 (.chdShift ring env) ∧
      starts 0x49 (.plkScalar ring env) ∧ starts 0x50 (.stmPermute ring env) ∧ starts 0x51 (.stmAlltoall ring env) ∧
      (env = {} → starts 0x48 (.plkBarrier ring))

/-- CHORD_DATA (R239, R243) and CHORD_CREDIT (R240). Table 11.4 (R238, R239, R262). -/
def Obligations.ChordPacketsAndSteps : Prop :=
  (∀ (port : Fin 16) (p : Packet) (env : Env) (s : State) (u : Dev) (d : ChdDef) (e : Nat),
     let k := p.f 267 256
     let a := s.dev.enter env
     a.grpDef false k = some d → a.takeLocal port p d.part = some u → icrcOk p = true → u.grpDef false k = some d →
     d.edgeOf p.src = some e →
     let x := u.slot k
     let n := p.f 287 272
     let credit := u.setSlot k { x with credit := tset (fun _ => 0) x.credit (stepKey e (p.f 303 296)) (p.f 383 352) }
     (∀ r : ChdRun, p.ptype = 0x10 → x.run = some r → n = r.seq.toNat → p.f 511 448 = r.sig.toNat →
       u.segWanted k e p r (u.runEntry r) d = true →
       exec (.chordData port p env) s = .next { s with dev := (u.stage k e p).chdProgress env k d }) ∧
     (p.ptype = 0x10 → x.run = none → n = x.nextSeq.toNat → u.earlyRoom k e p = true →
       exec (.chordData port p env) s = .next { s with dev := u.stage k e p }) ∧
     (p.ptype = 0x10 → x.seqCase n = .ahead →
       exec (.chordData port p env) s = .next { s with dev := u.bump (Reg.chdCounts 6) }) ∧
     (p.ptype = 0x10 → x.seqCase n = .stale →
       exec (.chordData port p env) s = .next { s with dev := u.bump (Reg.chdCounts 5) }) ∧
     (p.ptype = 0x11 → x.seqCase n = .cur →
       exec (.chordCredit port p env) s = .next { s with dev := credit.chdProgress env k d }) ∧
     (p.ptype = 0x11 → x.seqCase n = .next →
       exec (.chordCredit port p env) s = .next { s with dev := credit })) ∧
  ((∀ (s u : Dev) (env : Env) (k : Nat) (d : ChdDef) (r : ChdRun) (e : Entry) (raw : List Byte),
     d.kids = [] → d.isRoot = false → e.opcode ≠ 0x42 → r.next < e.segs → (s.slot k).credited d d.parent r.next = true →
     s.chdRead env d r e (e.segAt r.next).1 (e.segAt r.next).2 = (u, .ok raw) →
     let v := u.setRun false k fun r' => { r' with next := r.next + 1 }
     let z := v.sendSeg k d r d.parent (d.outStep d.parent) 0 0 r.next raw
     s.treeStep env k d r e = some (if (z.slot k).run.isNone then z else z.grantTree k d r e false)) ∧
   (∀ (s u : Dev) (env : Env) (k : Nat) (d : ChdDef) (r : ChdRun) (e : Entry) (raw : List Byte),
     2 ≤ d.members → (e.opcode = 0x43 ∨ e.opcode = 0x45) → (s.slot k).early = [] → r.next < e.segs →
     e.ringStarts d (s.slot k) r = true →
     let block := e.blockOut d.members d.me
     s.chdRead env d r e (if e.opcode = 0x43 then e.blockAt block r.next else (e.segAt r.next).1) (e.segAt r.next).2 = (u, .ok raw) →
     let v := u.setRun false k fun r' => { r' with next := r.next + 1 }
     s.ringStep env k d r e = some (v.sendSeg k d r (e.ringOut d) d.rstep 0 block r.next raw)) ∧
   (∀ (s u w : Dev) (env : Env) (k : Nat) (d : ChdDef) (r : ChdRun) (e : Entry) (raw : List Byte),
     2 ≤ d.members → e.opcode = 0x44 → (s.slot k).early = [] → r.next < e.segs → e.ringStarts d (s.slot k) r = true →
     s.chdRead env d r e (e.segAt r.next).1 (e.segAt r.next).2 = (u, .ok raw) →
     (u.setRun false k fun r' => { r' with next := r.next + 1 }).chdPlace env k d e (e.blockAt d.me r.next) (e.segAt r.next).2 raw =
       (w, none) →
     s.ringStep env k d r e = some (w.sendSeg k d r (e.ringOut d) d.rstep 0 d.me r.next raw)))

/-- CHORD_DEADLINE (R245), PLUCK_DEADLINE (R283), STRUM_DEADLINE (R283, R291), CHORD_ABORT and STRUM_ABORT (R246, R250). -/
def Obligations.DeadlinesAndAborts : Prop :=
  (∀ (slot : BitVec 12) (s : State) (d : ChdDef) (r : ChdRun) (w : Wait) (ex : Bool) (c : Instr), let k := slot.toNat
    s.dev.grpDef ex k = some d → (s.dev.grp ex k).run = some r →
    (r.waits.find? fun w => w.deadline ≤ s.dev.now && r.waits.all fun v => w.deadline ≤ v.deadline) = some w →
    (ex = false ∧ r.opcode.toNat < 0x48 ∧ c = .chordDeadline slot ∨ ex = false ∧ 0x48 ≤ r.opcode.toNat ∧ c = .pluckDeadline slot ∨
      ex = true ∧ (s.dev.stmRun k).phase ≠ .data ∧ c = .strumDeadline slot) →
    let z : GrpEnd := { st := 0x0B, code := 2, off := d.member w.edge, step := w.step, abort := true, issuer := true }
    exec c s = .next { s with dev := s.dev.grpStop ex k d z }) ∧
  (∀ (slot : BitVec 12) (s : State) (d : ChdDef) (r : ChdRun) (i : StmIn), let k := slot.toNat
    let step := d.steps.length - 1
    s.dev.grpDef true k = some d → (s.dev.exch k).run = some r → (s.dev.stmRun k).phase = .data →
    ((s.dev.stmRun k).ins.find? fun i => !i.done && s.dev.deadline d step i.began ≤ s.dev.now) = some i →
    let z : GrpEnd := { st := 0x0B, code := 2, off := i.member, step := step, abort := true, issuer := true }
    exec (.strumDeadline slot) s = .next { s with dev := s.dev.grpStop true k d z }) ∧
  (∀ (port : Fin 16) (p : Packet) (s : State) (u : Dev) (d : ChdDef) (ex : Bool) (c : Instr),
    let k := p.f 267 256
    let n := p.f 287 272
    let code := p.f 431 428
    let from_ := if ex then (match s.dev.rte.local_.find? fun q => q.1 == p with | some q => q.2.1 | none => 16) else port.val
    (ex = false ∧ p.ptype = 0x12 ∧ c = .chordAbort port p ∨ ex = true ∧ p.ptype = 0x2A ∧ c = .strumAbort p) →
    (s.dev.enter {}).grpDef ex k = some d → (s.dev.enter {}).takeLocal from_ p d.part = some u → icrcOk p = true →
    u.grpDef ex k = some d → 1 ≤ code → code ≤ 4 →
    let b := u.grpBump ex .abortRx
    ((u.grp ex k).seqCase n = .cur →
      let z : GrpEnd := {
        st := abortStatus code (p.f 447 432) d.me, code := code, off := p.f 447 432, step := p.f 303 296, abort := true
        skip := d.edgeOf p.src }
      exec c s = .next { s with dev := b.grpStop ex k d z }) ∧
    ((u.grp ex k).seqCase n ∈ [.next, .nextBusy, .ahead] →
      let q : Pend := { seq := BitVec.ofNat 16 n, code := BitVec.ofNat 4 code, offender := BitVec.ofNat 16 (p.f 447 432), step := BitVec.ofNat 8 (p.f 303 296) }
      exec c s = .next { s with dev := b.recordAbort ex k d q }))

/-- CHD_SLOT_SEQ_WRITE (R250, R253) and STM_EXCH_SEQ_WRITE (R294). -/
def Obligations.SequencesWrittenWhileIdle : Prop :=
  ∀ (v : View) (w : Word) (s : State) (ex : Bool), (v = .pf ∨ v = .port) →
    let off := if ex then Reg.stmExchSeq else Reg.chdSlotSeq
    let c : Instr := if ex then .stmExchSeqWrite v w else .chdSlotSeqWrite v w
    let a := s.tapped v off w
    let k := bits (a.reg (if ex then Reg.stmExchSel else Reg.chdSlotSel)) 11 0
    let x := a.grp ex k
    a.inReset off = false →
    (a.grpDef ex k = none ∨ x.run.isSome = true → exec c s = .next { s with dev := a.hostErr v off 0x02 w }) ∧
    (∀ d : ChdDef, a.grpDef ex k = some d → x.run = none →
      let b := a.setGrp ex k { x with nextSeq := BitVec.ofNat 16 (bits w 15 0), pend := [], early := [], flits := [], credit := [] }
      exec c s = .next { s with dev := if ex then b else b.firstCredit k d (d.part * 256) })

/-- R259, R261: the order of combination. -/
def Obligations.SumIsOrderFree : Prop :=
  ∀ (d : DType) (op : Rop) (x : Acc) (l l' : List Acc), (op = .sum ∨ op = .and ∨ op = .or ∨ op = .xor) → l.Perm l' →
    l.foldl (combine d op) x = l'.foldl (combine d op) x

/-- TEST_LOAD, TEST_COMBINE and TEST_ROUND (R275). -/
def Obligations.ReductionTests : Prop :=
  ∀ (v : View) (w : Word) (s : State) (d o : DType) (op : Rop), (v = .pf ∨ v = .port) →
    let a := s.tapped v Reg.redTestCtl w
    a.inReset Reg.redTestCtl = false → a.redBusy = false → redTypes w = some (d, o, op) →
    ∃ b : Nat, b ≤ a.osc + nsTicks 100 ∧
      let z := fun (r : RedTest) => { s with dev := { a with free := a.free + 1, red := { r with err := false, busyUntil := b } } }
      (bits w 7 0 = 1 → exec (.testLoad v w) s = .next (z { a.red with acc := a.redIn d })) ∧
      (bits w 7 0 = 2 → exec (.testCombine v w) s = .next (z { a.red with acc := combine d op a.red.acc (a.redIn d) })) ∧
      (bits w 7 0 = 3 → exec (.testRound v w) s = .next (z { a.red with out := a.redOut d o op (bits w 29 28) (bit w 30) }))

/-- BAR_UP, BAR_DOWN, SCL_UP_RAW, SCL_UP_EXACT, SCL_DOWN (R277, R280), STM_UP and STM_DOWN (R288, R289). -/
def Obligations.FlitsArrive : Prop :=
  ∀ (port : Fin 16) (h : BitVec 512) (s : State),
    let p := pluckOf h
    let k := p.pluckSlot
    let joins := fun (ex : Bool) (ptype : Nat) (c : Instr) => ∀ (u : Dev) (d : ChdDef) (y : Nat),
      p.ptype = ptype → s.dev.grpDef ex k = some d → s.dev.takeLocal port p d.part = some u → u.grpDef ex k = some d →
      d.edgeOf p.src = some y →
      let b := u.bump (Reg.plkCounts 1)
      let x := u.grp ex k
      let held := b.holdFlit ex k y p
      (∀ r : ChdRun, x.run = some r → p.pluckSeq = r.seq.toNat → p.pluckSig = r.sig.toNat →
        (if ex then p.pluckFlit ≤ 1 else ∃ n, pluckCount d (b.runEntry r) y ptype = some n ∧ p.pluckFlit < n) →
        exec c s = .next { s with dev := if ex then held.strumProgress {} k d else held.pluckProgress {} k d }) ∧
      (x.run = none → p.pluckSeq = x.nextSeq.toNat → exec c s = .next { s with dev := held }) ∧
      (x.seqCase p.pluckSeq = .stale →
        exec c s = .next { s with dev := if ex then b.grpBump true .stale else b.bump (Reg.plkCounts 4) })
    joins false 0x20 (.barUp port h) ∧ joins false 0x21 (.barDown port h) ∧ joins false 0x22 (.sclUpRaw port h) ∧
      joins false 0x23 (.sclUpExact port h) ∧ joins false 0x24 (.sclDown port h) ∧ joins true 0x25 (.stmUp port h) ∧
      joins true 0x26 (.stmDown port h)

/-- STRUM_DATA and STRUM_END (R287 to R290). -/
def Obligations.StrumPackets : Prop :=
  ∀ (p : Packet) (env : Env) (s : State) (u v : Dev) (d : ChdDef) (data : Bool),
    let k := p.f 267 256
    let m := p.f 319 304
    let a := s.dev.enter env
    let port := match s.dev.rte.local_.find? fun q => q.1 == p with | some q => q.2.1 | none => 16
    let c : Instr := if data then .strumData p env else .strumEnd p env
    p.ptype = (if data then 0x28 else 0x29) → a.grpDef true k = some d → a.takeLocal port p d.part = some u → icrcOk p = true →
    u.grpDef true k = some d →
    (∀ r : ChdRun, (u.exch k).run = some r → p.f 287 272 = r.seq.toNat → p.f 511 448 = r.sig.toNat →
      ((u.stmRun k).ins.any fun i => i.member == m) = true →
      (if data then u.stmPlace env k (u.runEntry r) m (p.f 383 352) p.payload else u.stmTotal env k (u.runEntry r) m (p.f 383 352)) =
        (v, none) →
      exec c s = .next { s with dev := v.strumProgress env k d }) ∧
    ((u.exch k).run = none → p.f 287 272 = (u.exch k).nextSeq.toNat →
      exec c s = .next { s with dev := u.grpBump true .stale })

/-- CPH_KEY_LOAD and CPH_KEY_ERASE (R296, R297, R310). -/
def Obligations.CipherKeys : Prop :=
  (∀ (w : Word) (s : State) (load : Bool), bits w 7 0 = (if load then 1 else 2) →
    let c : Instr := if load then .cphKeyLoad .pf w else .cphKeyErase .pf w
    let a := s.tapped .pf Reg.cphKeyCtl w
    let i := bits (a.reg Reg.cphKeySel) 15 0
    a.inReset Reg.cphKeyCtl = false →
    let code : Byte := if a.cphPart i = none then 0x02 else if a.cphUsers i ≠ 0 then 0x01 else 0x00
    ∃ t, exec c s = .next t ∧ t.dev.cph.data = [] ∧ t.dev.cph.result = tset (fun _ => 0) a.cph.result i code ∧
      (code = 0 → t.dev.cph.keys = tset (fun _ => none) a.cph.keys i (if load then some a.cphData else none)) ∧
      (code ≠ 0 → t.dev.cph.keys = a.cph.keys) ∧ t = { s with dev := { a with cph := t.dev.cph } }) ∧
  (∀ (v : View) (w : Word) (s : State) (load : Bool), v ≠ .pf → bits w 7 0 = (if load then 1 else 2) →
    exec (if load then .cphKeyLoad v w else .cphKeyErase v w) s =
      .next { s with dev := (s.tapped v Reg.cphKeyCtl w).hostErr v Reg.cphKeyCtl 0x05 w })

/-- WRITE, SEND, READ_REQ, READ_RESP, ATOMIC_REQ and ATOMIC_RESP packets (R124 to R127, R130). -/
def Obligations.DataPacketsAreReceived : Prop :=
  ∀ (p : Packet) (env : Env) (s : State) (port : Nat) (arr : Arrival),
    let received := fun (ptype : Nat) (c : Instr) => p.ptype = ptype →
      let n := p.dconn
      let d := s.dev.enter env
      (d.rte.local_.find? fun q => q.1 == p && d.whole q.2.1 p) = some (p, port, arr) →
      let a := s.dev.delivered env p port arr
      a.Meets p →
      let b := a.ctxTouch n
      let x := b.conn n
      let dist := psnDiff (BitVec.ofNat 32 p.psn) x.rcvNxt
      let checked : Arrival := { arr with verified := true }
      (∀ q, b.connPart n = some q → (b.ptn q).st = .active) →
      (b.stale p arr = true → exec c s = .next { s with dev := b.bump (Reg.connDrops 1) }) ∧
      (b.stale p arr = false →
        (∀ k u : Dev, dist = 0 → x.rcvMap = 0 → x.rnrActive = false →
          (arr.verified = true ∨ x.enc = false ∧ p.enc = false ∧ p.icrc = icrcConn p) →
          (p.ptype = 1 → b.keyCachedAt (BitVec.ofNat 32 p.rkey) = true) →
          (if p.ptype = 1 then b.keyCheck (BitVec.ofNat 32 p.rkey) ((b.connPart n).getD 0) p.raddr p.payload.length (rW + rRM)
            else (b, none)) = (k, none) →
          let z := k.conn n
          (z.msgs.filter fun m => m.count != 0).length < 16 →
          ((k.setConn n (if p.first then k.openMsg z p else z)).noteMsg n p).process env n p = (u, .ok) → (u.conn n).rcvMap = 0 →
          (u.conn n).st = .active →
          let v := u.acceptOne n p
          let y := v.conn n
          let w := (v.setConn n { y with
            rcvNxt := y.rcvNxt + 1, rcvHi := if y.rcvNxt + 1 = 0 then y.rcvHi + 1 else y.rcvHi, rcvMap := 0 }).noteRx n p checked
          exec c s = .next { s with dev := ((w.ackRule n p).closeMsgs n).settle }) ∧
        (-65536 ≤ dist → dist < 0 →
          exec c s = .next { s with dev := (((b.bump Reg.connDup).noteDup n p arr).sendAck n) }) ∧
        (65536 ≤ dist → exec c s = .next { s with dev := b.bump (Reg.connDrops 2) }))
    received 1 (.writePkt p env) ∧ received 2 (.sendPkt p env) ∧ received 3 (.readReq p env) ∧ received 4 (.readResp p env) ∧
      received 5 (.atomicReq p env) ∧ received 6 (.atomicResp p env)

/-- Step 7 of R125 (R108, R133, R134). -/
def Obligations.PacketsArePlaced : Prop :=
  (∀ (p : Packet) (env : Env) (s u : Dev) (c : Nat) (b : List Byte), p.ptype = 1 →
    let key := BitVec.ofNat 32 p.rkey
    s.regionWrite env key p.raddr p.payload (pktWho c p.psn) = (u, .ok b) →
    let v := u.connReached c key p.payload.length
    s.process env c p = (v.setConn c ((v.conn c).setMsg (firstPsnOf p) fun m =>
      { m with blot := widen m.blot key p.raddr p.payload.length }), .ok)) ∧
  (∀ (p : Packet) (env : Env) (s u : Dev) (c : Nat), p.ptype = 3 →
    let key := BitVec.ofNat 32 p.rkey
    (∀ q, s.connPart c = some q → (s.ptn q).st.refuses = false) → s.keyCachedAt key = true →
    s.keyCheck key ((s.connPart c).getD 0) p.raddr p.aux (rR + rRM) = (u, none) →
    keyTarget (u.region key) ≠ 0 → u.keyReach (u.region key) p.raddr p.aux = none →
    s.process env c p = (u.sendData c 0x04 (key, BitVec.ofNat 64 p.raddr) p.aux (leAt p.payload 0 4) (leAt p.payload 8 8) p.psn 0
      false p.sys none (some (BitVec.ofNat 32 p.psn)), .ok)) ∧
  (∀ (p : Packet) (env : Env) (s : Dev) (c : Nat), p.ptype = 5 → 8 ≤ (s.conn c).atomics.length →
    (∀ q, s.connPart c = some q → (s.ptn q).st.refuses = false) → s.keyCachedAt (BitVec.ofNat 32 p.rkey) = true →
    s.process env c p = (s, .rnr 1000)) ∧
  (∀ (p : Packet) (env : Env) (s a u : Dev) (c : Nat) (rq : BitVec 32) (o : Op) (b : List Byte), p.ptype = 4 →
    s.respOp c p = some (rq, o) → o.respFault = none → s.respCheck o = (a, none) →
    a.regionWrite env o.entry.lkey p.raddr p.payload (pktWho c p.psn) = (u, .ok b) →
    let v := u.trayServes (pktWho c p.psn) fun r => { r with op := some (o.ring, o.entry.pos) }
    s.process env c p = ((v.opReached o.ring o.entry.pos o.entry.lkey p.payload.length).setOp o.ring o.entry.pos fun o => { o with
      respBytes := if o.entry.opcode == 0x11 then o.respBytes + p.payload.length else o.respBytes }, .ok)) ∧
  (∀ (p : Packet) (env : Env) (s : Dev) (c : Nat), (p.ptype = 4 ∨ p.ptype = 6) → s.respOp c p = none →
    s.process env c p = (s.bump (Reg.connDrops 8), .ok))

/-- ACK and NAK (R131, R445). -/
def Obligations.AcksAndNaks : Prop :=
  (∀ (p : Packet) (s : State) (port : Nat) (arr : Arrival), p.ptype = 7 → p.icrc = icrcConn p →
    let n := p.dconn
    let d := s.dev.enter {}
    (d.rte.local_.find? fun q => q.1 == p && d.whole q.2.1 p) = some (p, port, arr) →
    let a := s.dev.delivered {} p port arr
    a.Meets p → a.stale p arr = false →
    let b := a.ctxTouch n
    let x := b.conn n
    let psn := BitVec.ofNat 32 p.psn
    0 ≤ psnDiff psn x.sndUna → 0 ≤ psnDiff x.sndNxt psn →
    ∃ t, exec (.ack p) s = .next t ∧ (t.dev.conn n).sndUna = psn ∧ (t.dev.conn n).sackTx = BitVec.ofNat 128 (p.f 383 256) ∧
      (t.dev.conn n).tx.length = (x.tx.filter fun u => !(u.sent && psnDiff u.psn psn < 0)).length ∧
      (∀ u ∈ (t.dev.conn n).tx, u.sent = true → 0 ≤ psnDiff u.psn psn) ∧
      (psn ≠ x.sndUna → (t.dev.conn n).retryCount = 0 ∧ (t.dev.conn n).rnrCount = 0 ∧ (t.dev.conn n).busyCount = 0) ∧
      t.dev.mem = b.mem ∧ t.dev.run = b.run ∧ t.flash = s.flash) ∧
  (∀ (p : Packet) (s : State) (port : Nat) (arr : Arrival), p.ptype = 8 → p.icrc = icrcConn p →
    let n := p.dconn
    let d := s.dev.enter {}
    (d.rte.local_.find? fun q => q.1 == p && d.whole q.2.1 p) = some (p, port, arr) →
    let a := s.dev.delivered {} p port arr
    a.Meets p → a.stale p arr = false →
    let code := p.f 263 256
    let psn := BitVec.ofNat 32 (p.f 351 320)
    let b := a.ctxTouch n
    let x : Conn := { b.conn n with lastNak := BitVec.ofNat 8 code }
    0 ≤ psnDiff psn x.sndUna → psnDiff psn x.sndNxt < 0 →
    let b := b.setConn n x
    (code = 0x01 → tfind x.seqRetxAt psn.toNat = none →
      let y := x.resend (· == psn)
      let old := x.seqRetxAt.filter fun r => x.srtt.toNat > (b.rlg.time - r.2).toNat
      exec (.nak p) s = .next { s with dev := b.setConn n { y with seqRetxAt := tput old psn.toNat b.rlg.time } }) ∧
    (code = 0x02 → x.wait = none →
      exec (.nak p) s = .next { s with dev := b.setConn n { x with wait := some (false, b.osc + nsTicks (p.f 319 288), psn) } }) ∧
    (code = 0x03 → x.wait = none → ∃ at_ ≥ b.osc,
      exec (.nak p) s = .next { s with dev := b.setConn n { x with wait := some (true, at_, psn) } }) ∧
    (4 ≤ code → code ≤ 0x0D →
      exec (.nak p) s = .next { s with dev :=
        (b.endConn n .error (nakStatus code) (some psn) (b.nakDetail n code (p.f 319 288) psn)).settle }))

/-- RETRANSMIT_TIMER, RNR_WAIT_END, BUSY_WAIT_END (R131) and ACK_DELAY_EXPIRY (R130). -/
def Obligations.ConnectionTimers : Prop :=
  (∀ (c : BitVec 20) (s : State), let n := c.toNat
    let x := s.dev.conn n
    x.st = .active → s.dev.ctxCached n = true → x.rtoDeadline ≠ 0 → x.rtoDeadline.toNat ≤ s.dev.rlg.time.toNat →
    let rto := min (2 * x.rto.toNat) x.rtoMax
    let y := x.resend fun psn => !x.sacked psn
    let cwnd := BitVec.ofNat 32 (s.dev.clampCwnd x (s.dev.cwndMin x))
    let d := s.dev.setConn n { x with inflight := 0, cwnd := cwnd, lastDec := s.dev.rlg.time }
    (x.retryCount.toNat ≠ x.retryLimit →
      exec (.retransmitTimer c) s = .next { s with dev := s.dev.setConn n { y with
        retryCount := x.retryCount + 1, rto := BitVec.ofNat 48 rto, rtoDeadline := s.dev.rlg.time + BitVec.ofNat 64 rto
        inflight := 0, cwnd := cwnd, lastDec := s.dev.rlg.time } }) ∧
    (x.retryCount.toNat = x.retryLimit →
      exec (.retransmitTimer c) s = .next { s with dev :=
        (d.endConn n .error (if x.refused then 0x07 else 0x06) (some x.sndUna) (d.ownDetail n)).settle })) ∧
  (∀ (c : BitVec 20) (s : State) (t : Nat) (psn : BitVec 32) (busy : Bool), let n := c.toNat
    let x := s.dev.conn n
    x.st = .active → s.dev.ctxCached n = true → x.wait = some (busy, t, psn) → t ≤ s.dev.osc →
    let m := (if busy then x.busyCount.toNat else x.rnrCount.toNat) + 1
    let limit := if busy then x.busyLimit else x.rnrLimit
    limit = 255 ∨ m ≤ limit →
    let y := x.resend fun q => 0 ≤ psnDiff q psn
    let k := BitVec.ofNat 8 (min m 255)
    let z : Conn := if busy then { y with wait := none, busyCount := k } else { y with wait := none, rnrCount := k }
    exec (if busy then .busyWaitEnd c else .rnrWaitEnd c) s = .next { s with dev := s.dev.setConn n z }) ∧
  (∀ (c : BitVec 20) (s : State) (t : Nat), let n := c.toNat
    let x := s.dev.conn n
    x.st = .active → x.ackSince = some t → x.ackPending ≠ 0 → t + nsTicks s.dev.ackDelay ≤ s.dev.osc →
    let h := s.dev.replyHdr n x.echo 0x07 x.peerNode x.peerConn [(256, x.rcvMap.toNat)]
    let z : Conn := { x with
      ackPending := 0, ecnCount := 0, ackSince := none, ackOwed := x.ackOwed.filter fun p => psnDiff x.rcvNxt p < 0 }
    let owed : Conn := { x with ackOwed := x.ackOwed.filter (· != x.rcvNxt) ++ [x.rcvNxt] }
    (s.dev.ackView n = (x.rcvNxt, x.rcvMap) →
      exec (.ackDelayExpiry c) s = .next { s with dev := ((s.dev.placesAcked n).setConn n z).queueControl (some n) { hdr := h } }) ∧
    (s.dev.ackView n ≠ (x.rcvNxt, x.rcvMap) →
      exec (.ackDelayExpiry c) s = .next { s with dev := s.dev.setConn n owed }))

/-- CONN_ENABLE, CONN_ABORT, CONN_RESET (R122, R123), CONTEXT_FETCH_DONE (R138), KEY_FETCH_DONE (R163) and BLOT_DONE (R304,
R305). -/
def Obligations.ConnectionCommands : Prop :=
  (∀ (v : View) (w : Word) (s : State), (v = .pf ∨ v = .port) →
    let a := s.tapped v Reg.connCtl w
    let n := a.selConn v
    let x := a.conn n
    a.inReset Reg.connCtl = false →
    (bits w 7 0 = 1 → a.connEnableCode n = 0 → exec (.connEnable v w) s = .next { s with dev := a.connOpen n }) ∧
    (bits w 7 0 = 1 → x.st ≠ .reset →
      exec (.connEnable v w) s = .next { s with dev := a.setConn n { x with enableResult := 0x01 } }) ∧
    (bits w 7 0 = 2 → x.st = .active →
      exec (.connAbort v w) s = .next { s with dev := (a.endConn n .error stDependency none 0).settle }) ∧
    (bits w 7 0 = 3 → (x.st = .error ∨ x.st = .hostLost ∨ x.st = .quiesced) →
      let y := a.setConn n { x with
        st := .reset, errStatus := 0, resetAt := a.rlg.time, fetching := false, tx := [], holding := []
        cfg := if x.ctxLost then 0 else x.cfg, ctxLost := false }
      exec (.connReset v w) s = .next { s with dev := if x.ctxLost then y.ctxStore n else y })) ∧
  (∀ (c : BitVec 20) (env : Env) (s : State), let n := c.toNat
    let a := s.dev.enter env
    let d := a.ctxAsk n
    let x := d.conn n
    (a.conn n).fetching = true → a.inkMoving 3 = false → a.fetchCtx env n = .ok →
    let y := (((d.setConn n { x with fetching := false, rtoDue := false, waitDue := false }).ctxTouch n).ctxLoad env n).drain env n
    let z := if x.rtoDue then y.timerExpiry n else y
    exec (.contextFetchDone c env) s = .next { s with dev := if x.waitDue then (z.waitEnd n true).waitEnd n false else z }) ∧
  (∀ (k : BitVec 22) (s : State), s.dev.xlt.keyFetch.contains k.toNat = true → s.dev.inkMoving 4 = false →
    let x : Xlt := { s.dev.xlt with keyFetch := s.dev.xlt.keyFetch.filter (· != k.toNat) }
    let d : Dev := { s.dev with xlt := x }
    exec (.keyFetchDone k false) s = .next { s with dev := (d.keyLoad k.toNat).drainAll {} }) ∧
  (∀ (c : BitVec 20) (s : State), let n := c.toNat
    let x := s.dev.conn n
    x.blotEnd ≠ 0 → x.blotting = [] → x.msgs = [] →
    let u := s.dev.sendNak n x.blotEcho x.peerNode x.peerConn x.blotPsn (statusNak x.blotEnd.toNat) 0
    exec (.blotDone c) s = .next { s with dev :=
      (u.endConn n .error x.blotEnd.toNat none (connStatusDetail n x.blotPsn)).settle })

/-- PACKET_LOOKUP (R213 to R215, R227) and ADAPTIVE_ESCAPE (R217). -/
def Obligations.PacketsAreRouted : Prop :=
  (∀ (port : Fin 16) (k : Packet) (s : State), s.dev.isEth port = false → s.dev.inReset Reg.rteCfg = false →
    let a := s.dev.setLink port ((s.dev.link port).lookedUp k)
    a.isEth port = false → a.inReset Reg.rteCfg = false → a.portDown port = false → a.portCarries port = true →
    (isPluck k = false ∨ k.vc ≠ 11) →
    let arr := some (a.portDir port, k.vc % 3)
    let b := a.returnCredit port k.vc (a.arrived port k)
    (a.capo.nodeSet = true → k.dst = a.node → ptypeOk k.ptype = true → k.vc < 12 → k.plen ≤ 4096 →
      let r : Rte := { b.rte with local_ := b.rte.local_ ++ [(k, port.val, b.arrival port k)] }
      exec (.packetLookup port k) s = .next { s with dev := { b with rte := r } }) ∧
    (∀ q vc : Nat, a.capo.nodeSet = false ∨ k.dst ≠ a.node → a.route arr k (k.vc % 3 == 2) = .det q vc →
      a.escapesNow arr k (k.vc % 3 == 2) = false →
      let x : QPkt := {
        port := q, vc := vc, leaf := .transit k.tc k.vc, pkt := { k with hdr := setHdr k.hdr 75 72 vc }, at_ := a.rlg.time
        since := (a.arrival port k).at_, inPort := some port.val, arrVc := k.vc, arrDir := a.portDir port }
      exec (.packetLookup port k) s = .next { s with dev := a.rest x })) ∧
  (∀ (port : Fin 16) (s : State) (x : QPkt) (q vc : Nat), s.dev.sch.q = [x] → x.kind2 = true → x.inPort.getD port = port.val →
    x.escapeAt ≤ s.dev.osc → s.dev.adaptPort (s.dev.queuedBytes · x.vc) x.looked x.vc (flitsOf x.pkt) = none →
    ({ s.dev with sch := { s.dev.sch with q := [] } } : Dev).escapeRoute x.looked x.pkt = .det q vc →
    let d := s.dev.bump Reg.rteEscapes
    exec (.adaptiveEscape port) s = .next { s with dev := { d with sch := { d.sch with q := [x.toward q vc] } } })

/-- R209, R213 to R215. -/
def Obligations.RoutesLeaveByUsablePorts : Prop :=
  ∀ (s : Dev) (arr : Option (Nat × Nat)) (k : Packet) (adaptive : Bool) (q vc : Nat),
    (∀ a, arr = some a → a.2 < 3) → s.route arr k adaptive = .det q vc →
    let cls := match arr with | some _ => k.vc / 3 | none => (ptypeClass k.ptype).getD 0
    let e := s.routeEntry (s.nodeIndex k.dst)
    s.usable q = true ∧ s.portDir q = detDir e cls ∧ detDir e cls < 8 ∧ (∀ a, arr = some a → a.1 ≠ s.portDir q) ∧
      (vc = 3 * cls ∨ vc = 3 * cls + 1) ∧ ¬ (s.capo.nodeSet = true ∧ k.dst = s.node)

/-- PORT_PACKET_START (R146 to R151). -/
def Obligations.PortsStartPackets : Prop :=
  (∀ (port : Fin 16) (env : Env) (s : State) (x : QPkt), let p := port.val
    let b := (s.dev.enter env).enter env
    b.isEth p = false → (s.dev.enter env).isEth p = false → b.exchs = [] → b.conns = [] → (∀ y ∈ b.sch.q, y.kind2 = false) →
    (∀ y ∈ b.queued p, isPluck y.pkt = false) → b.usable p = true → b.portBusy p = false → b.choose p = some (x, none) → x.leaf = .control →
    x.conn = none → b.curFret p = none →
    let cw := b.st (Reg.schPortCtrl p)
    let c := b.charge (shaperKey p 1) (bits cw 17 0) (bits cw 33 18 * 64) (b.slen p x.len)
    let left : Sch := { c.sch with q := eraseFirst (· == x) c.sch.q }
    exec (.portPacketStart port env) s = .next { s with dev := (({ c with sch := left } : Dev).depart p x x.pkt).settle }) ∧
  (∀ (port : Fin 16) (env : Env) (s : State) (f : List Byte) (rest : List (List Byte)), let p := port.val
    let b := s.dev.enter env
    s.dev.isEth p = true → b.isEth p = true → b.replaying = false → (b.ethPort (p - 14)).link = true →
    (b.ethPort (p - 14)).frames = f :: rest →
    let cw := b.st (Reg.schPortCtrl p)
    b.shaperOk (shaperKey p 1) (bits cw 17 0) (bits cw 33 18 * 64) = true →
    let c := (b.setEth (p - 14) { b.ethPort (p - 14) with frames := rest }).charge (shaperKey p 1) (bits cw 17 0) (bits cw 33 18 * 64)
      (b.slen p f.length)
    exec (.portPacketStart port env) s = .next { s with dev := (c.bump (Reg.ethCounts (p - 14) 1)).emit (.eth p f) })

/-- LINK_UNIT_RX (R221), FABRIC_LINK_UP (R222), LINK_RETRY_EXHAUSTED, SIGNAL_LOCK_LOSS, FABRIC_PORT_DOWN (R225) and
LINK_ABORT (R223). -/
def Obligations.LinksUpAndDown : Prop :=
  (∀ (port : Fin 16) (u : LinkUnit) (s : State), s.dev.portUp port = true →
    let l := s.dev.link port
    let sequenced := u.kind = 1 ∨ u.kind = 2 ∨ u.kind = 5 ∨ u.kind = 6
    let intact := u.crcOk = true ∧ u.kind.toNat < 7
    (¬ intact → exec (.linkUnitRx port u) s = .next { s with dev := s.dev.setLink port { l with lost := true } }) ∧
    (intact → ¬ sequenced → u.seq = l.exp → l.requests ≠ 0 →
      exec (.linkUnitRx port u) s = .next { s with dev := s.dev.setLink port { l with lost := false, requests := 0 } }) ∧
    (intact → ¬ sequenced → u.seq ≠ l.exp ∨ l.requests = 0 → exec (.linkUnitRx port u) s = .next s) ∧
    (intact → sequenced → u.seq = l.exp →
      let m : Link := { l with exp := l.exp + 1, lost := false, requests := 0 }
      let a := s.dev.setLink port m
      let b := a.setLink port (m.takeFlit { at_ := s.dev.rlg.time, valid := s.dev.rlg.lock.stampOk } u.data)
      exec (.linkUnitRx port u) s = .next { s with dev := if u.kind ≠ 1 then a else match l.rx with
        | some (h, _, _ + 1, true) => b.flitOn port h u.data
        | _ => b }) ∧
    (intact → sequenced → seqBefore l.exp u.seq = true →
      exec (.linkUnitRx port u) s = .next { s with dev := s.dev.setLink port { l with lost := true } }) ∧
    (intact → sequenced → u.seq ≠ l.exp → seqBefore l.exp u.seq = false → exec (.linkUnitRx port u) s = .next s)) ∧
  (∀ (port : Fin 16) (s : State), s.dev.isEth port = false → s.dev.portEnabled port = true → (s.dev.optPort port).fenced = false →
    (s.dev.optPort port).locked = true → s.dev.inReset Reg.rteCfg = false → (s.dev.link port).up = false →
    let limits : Tbl (BitVec 16) := (List.range 11).map fun v => (v, if v < 9 then 2048 else 32)
    let x := s.dev.rlgPort port
    exec (.fabricLinkUp port) s = .next { s with dev :=
      (s.dev.setLink port { up := true, limit := limits, grant := limits, upAt := s.dev.osc }).setRlgPort port { x with
        beaconAt := none, lossDeclared := false, nbState := 0, nbDepth := 0, sent := [] } }) ∧
  (∀ (port : Fin 16) (s : State) (c : Instr) (code : Nat),
    (c = .linkRetryExhausted port ∧ code = 2 ∧ 16 ≤ (s.dev.link port).requests ∨ c = .signalLockLoss port ∧ code = 3 ∨
      c = .fabricPortDown port ∧ code = (if (s.dev.optPort port).fenced then 5 else if s.dev.portEnabled port = false then 4
        else if 16 ≤ (s.dev.link port).requests then 2 else 3)) →
    s.dev.isEth port = false → (s.dev.link port).up = true → s.dev.Lone port →
    exec c s = .next { s with dev := s.dev.wentDown port code }) ∧
  (∀ (port : Fin 16) (s : State), (s.dev.link port).rx = none → exec (.linkAbort port) s = .next s) ∧
  (∀ (port : Fin 16) (s : State) (h : BitVec 512) (b : List Byte) (n : Nat) (seen : Bool), s.dev.portUp port = true →
    (s.dev.link port).rx = some (h, b, n + 1, seen) →
    let l := s.dev.link port
    let k : Packet := { hdr := h }
    let a := s.dev.setLink port { l with rx := none, cut := none }
    let ours := a.capo.nodeSet = true ∧ k.dst = a.node
    let mine := fun (x : QPkt) => x.inPort == some port.val && hdrStill x.pkt.hdr == hdrStill h
    let ends := fun (d : Dev) => exec (.linkAbort port) s = .next { s with dev := d }
    (seen = false → (∀ x ∈ a.sch.q, mine x = false) → ¬ ours → l.cut = none → ends (a.returnCredit port k.vc (1 + b.length / 64))) ∧
    (seen = true → (∀ x ∈ a.sch.q, mine x = false) → ours →
      let kept := eraseFirst (fun q => hdrStill q.1.hdr == hdrStill h && q.2.1 == port.val) a.rte.local_
      ends ((({ a with rte := { a.rte with local_ := kept } } : Dev).bump (Reg.rteDrops 4)).pathLost k)) ∧
    (∀ x : QPkt, seen = true → a.sch.q = [x] → mine x = true → ¬ ours →
      let c := if x.shared then a else a.returnCredit port k.vc (1 + b.length / 64)
      ends { c with sch := { c.sch with q := [] } }) ∧
    (∀ q v : Nat, seen = true → (∀ x ∈ a.sch.q, mine x = false) → ¬ ours → l.cut = some (q, v) →
      ends ((a.sendUnit q 5 (BitVec.ofNat 512 v)).emit (.abort q))))

/-- RTE_PORT_ENABLE_WRITE (R225) and TELEMETRY (R234). -/
def Obligations.PortEnableAndTelemetry : Prop :=
  (∀ (port : Fin 16) (w : Word) (s : State), s.dev.inReset (Reg.rtePortCfg port) = false → s.dev.capoBusy = false →
    s.dev.isEth port = false → twf rwReset s.dev.rw = true →
    let a := s.dev.writePlain .port .both (Reg.rtePortCfg port) w
    (s.dev.portEnabled port = true → bit w 5 = false →
      exec (.rtePortEnableWrite .port port w) s = .next { s with dev := a.goDown port 4 }) ∧
    (s.dev.portEnabled port = false ∨ bit w 5 = true →
      exec (.rtePortEnableWrite .port port w) s = .next { s with dev := a })) ∧
  (∀ (k : Packet) (s : State), k.ptype = 0x30 → s.dev.rte.local_.any (fun q => q.1 == k && s.dev.whole q.2.1 k) = true →
    let r : Rte := { s.dev.rte with local_ := eraseFirst (fun q => q.1 == k) s.dev.rte.local_ }
    let a : Dev := { s.dev with rte := r }
    let w := a.reg Reg.rteTelemRx
    (∀ u : Dev, icrcOk k = true → bit w 9 = true → bit w 8 = true →
      a.inkWrite false (bits w 63 16 * 65536 + (a.count Reg.rteTelemRxCount).toNat % 2 ^ min 16 (bits w 4 0) * 8192)
        (hdrBytes k.hdr ++ k.payload) = (u, .ok) →
      exec (.telemetry k) s = .next { s with dev := u.bump Reg.rteTelemRxCount }) ∧
    (bit w 9 = false → exec (.telemetry k) s = .next { s with dev := a.bump (Reg.rteDrops 5) }))

/-- RECOVERY_REQUEST and RECOVERY_READ (R224). RECOVERY_OFFER, RECOVERY_DATA, RECOVERY_NONE and RECOVERY_TIMEOUT (R224,
R404). -/
def Obligations.FirmwareRecovery : Prop :=
  (∀ (port : Fin 16) (d : BitVec 512) (s : State), s.dev.portUp port = true →
     (∀ img : List Byte, bits d 7 0 = 1 → s.flash.fw = some img → s.dev.rst.coreUp = true → leAt img 6 1 &&& bits d 15 8 ≠ 0 →
       let offer := recovUnit 2 (leAt img 6 1) 0 (img.length + at_ 32 (digest256 img).toNat)
       exec (.recoveryRequest port d) s = .next { s with dev := (s.dev.setRecov port { serving := true }).sendRecovery port offer }) ∧
     (bits d 7 0 = 1 → s.flash.fw = none →
       exec (.recoveryRequest port d) s = .next { s with dev := (s.dev.setRecov port {}).sendRecovery port (recovUnit 5 0 0 0) }) ∧
     (∀ img : List Byte, bits d 7 0 = 3 → s.flash.fw = some img → s.dev.rst.coreUp = true → (s.dev.recov port).serving = true →
       let off := bits d 63 32
       let len := bits d 95 64
       0 < len → len ≤ 57344 → off + len ≤ img.length →
       let l := s.dev.link port
       let unit := fun (i : Nat) => recovUnit 4 0 (off + 56 * i) (ofLe ((slice img off len).drop (56 * i) |>.take 56))
       ∃ t, exec (.recoveryRead port d) s = .next t ∧
         t.dev.out = s.dev.out ++ (List.range (ceilDiv len 56)).map (fun i => .unit port (unit i)
           (linkTag 6 (l.nextSeq + BitVec.ofNat 16 i) (unit i))) ∧
         (t.dev.link port).held = l.held ++ (List.range (ceilDiv len 56)).map (fun i => (l.nextSeq + BitVec.ofNat 16 i, 6, unit i)) ∧
         (∀ q : Fin 16, q ≠ port → t.dev.link q = s.dev.link q) ∧
         (let w : Rte := { s.dev.rte with links := t.dev.rte.links }
          t = { s with dev := { s.dev with out := t.dev.out, rte := w } }))) ∧
  (∀ (port : Fin 16) (d : BitVec 512) (s : State), s.dev.asking port = true →
     let x := s.dev.recov port
     let total := x.total.toNat
     let gone := s.dev.setRecov port {}
     let next : Dev := match (List.range 16).find? fun q => port.val + 1 ≤ q && gone.portUp q with
       | some q =>
         let a := (gone.setRecov q {}).sendRecovery q (recovUnit 1 (2 ^ s.flash.stepping.toNat) 0 0)
         { a with rst := { a.rst with recovering := true, recoveryPort := q, recoveryAt := a.osc + secTicks 2 } }
       | none => { gone with rst := { gone.rst with boot := .recovery, recovering := false, recoveryAt := gone.osc + secTicks 1 } }
     (bits d 7 0 = 2 → 0 < bits d 95 64 → bits d 95 64 ≤ fwMax →
       let y : Recov := { total := BitVec.ofNat 32 (bits d 95 64), digest := BitVec.ofNat 256 (bits d 351 96) }
       exec (.recoveryOffer port d) s = .next { s with dev := Dev.askReads 4 (s.dev.setRecov port y).answered port }) ∧
     (bits d 7 0 = 4 → bits d 63 32 = x.bytes.length → x.bytes.length < x.asked → total ≤ x.bytes.length + 56 → x.bytes.length < total →
       let img := x.bytes ++ (leBytes 56 (bits d 511 64)).take (total - x.bytes.length)
       digest256 img = x.digest → fwCode s.flash img total = 0 →
       let a : Dev := { gone with rst := { gone.rst with boot := .firmware, coreImage := some (fwImageOf img), recovering := false } }
       let job : FlashJob := { what := .firmware img, left := ceilDiv img.length 65536 + 1 }
       let b : Dev := { a with rst := { a.rst with jobs := a.rst.jobs ++ [job], fwRecovered := true } }
       exec (.recoveryData port d) s = .next { s with dev := b.postErr Reg.rstCtl 0x10 0x10 b.rst.holdup.toNat 1 }) ∧
     exec (.recoveryNone port) s = .next { s with dev := next } ∧
     (s.dev.rst.recoveryAt ≤ s.dev.osc → exec .recoveryTimeout s = .next { s with dev := next }))

/-- BOOT_ROM_START (R403), MAILBOX_GO, MAILBOX_WAIT_EXPIRY (R404) and FIRMWARE_START (R405). -/
def Obligations.BootGoesOn : Prop :=
  (∀ s : State, 4 ≤ s.dev.rst.released → s.dev.rst.boot = .rom → s.flash.state ≠ 0 → s.flash.state ≠ 4 →
    (∀ img : List Byte, s.flash.fw = some img → fwCode s.flash img img.length = 0 →
      let r : Rst := { s.dev.rst with boot := .firmware, coreImage := some (fwImageOf img), recovering := false }
      exec .bootRomStart s = .next { s with dev := { s.dev with rst := r } }) ∧
    (s.flash.fw = none →
      let r : Rst := { s.dev.rst with boot := .recovery, recovering := false, recoveryAt := s.dev.osc + secTicks 1 }
      exec .bootRomStart s = .next { s with dev := { s.dev with rst := r } })) ∧
  (∀ (v : View) (env : Env) (s : State), (v = .pf ∨ v = .port) →
    let t := s.tapped v Reg.rstMboxCtl 1
    let a := t.setReg Reg.rstMboxCtl (t.reg Reg.rstMboxCtl ||| 1)
    let n := (a.reg Reg.rstMboxLen).toNat
    a.rst.boot = .recovery → a.rst.recovering = false → a.hst.dlActive = true →
    (∀ (u : Dev) (img : List Byte), n ≤ fwMax →
      Dev.extReadAll (ceilDiv n 64) (a.enter env) env 0 (a.reg Reg.rstMboxAddr).toNat n [] = (u, some img) → fwCode s.flash img n = 0 →
      exec (.mailboxGo v env) s = .next { s with dev := (u.setReg Reg.rstMboxCtl 2).recoveredStart img }) ∧
    (fwMax < n → exec (.mailboxGo v env) s = .next { s with dev := (a.setReg Reg.rstMboxCtl 6).askFrom s.flash 0 })) ∧
  (∀ s : State, s.dev.rst.boot = .recovery → s.dev.rst.recovering = false → s.dev.rst.recoveryAt ≤ s.dev.osc →
    exec .mailboxWaitExpiry s = .next { s with dev := s.dev.askFrom s.flash 0 }) ∧
  (∀ (t : BitVec 16) (s : State) (w : FwImage), s.dev.rst.boot = .firmware → s.dev.rst.coreImage = some w → s.dev.rst.started = true →
    let a := s.dev.measure 2 w.digest w.version
    let r : Rst := { a.rst with coreUp := true, kickAt := a.osc, boot := .done }
    let b : Dev := { a with rst := r, det := { a.det with fwDigest := w.digest } }
    exec (.firmwareStart t) s = .next { s with dev := b.fpStart.checkStarts s.flash })

/-- RST_WDT_KICK, WATCHDOG_EXPIRY (R398), BLOCK_RESET and BLOCK_IDLE (R397). -/
def Obligations.WatchdogAndBlockReset : Prop :=
  (∀ (v : View) (s : State), (v = .pf ∨ v = .port) →
    let a := s.tapped v Reg.rstWdtKick 0
    exec (.rstWdtKick v) s = .next { s with dev := { a with rst := { a.rst with kickAt := a.osc } } }) ∧
  (∀ (intact : Bool) (s : State), let c := s.dev.reg Reg.rstWdtCfg
    bit c 16 = true → s.dev.rst.coreUp = true → s.dev.rst.kickAt + msTicks (max 1 (bits c 15 0)) ≤ s.dev.osc →
    s.dev.rst.shutting = false →
    let r : Rst := { s.dev.rst with coreUp := false, boot := if intact then .firmware else .rom }
    let a : Dev := { s.dev with rst := r }
    exec (.watchdogExpiry intact) s = .next { s with dev := (a.bump (Reg.rstCounts 3)).postErr Reg.rstCtl 0x11 0x02 0 1 }) ∧
  (∀ (v : View) (w : Word) (s : State), (v = .pf ∨ v = .port) →
    let a := s.tapped v Reg.rstBlockCtl w
    let t := bits (a.reg Reg.rstIdleTimeout) 15 0
    (a.rst.block ≠ none → exec (.blockReset v w) s = .next { s with dev := a.hostErr v Reg.rstBlockCtl 0x02 w }) ∧
    (a.rst.block = none → 1 ≤ bits w 7 0 → bits w 7 0 ≤ 6 → (bits w 7 0 = 2 → bits w 9 8 < 2) → t ≠ 0 →
      let r : Rst := { a.rst with block := some (BitVec.ofNat 8 (bits w 7 0), BitVec.ofNat 2 (bits w 9 8), a.osc + usTicks t) }
      exec (.blockReset v w) s = .next { s with dev := { a with rst := r } })) ∧
  (∀ (code : Byte) (arg : BitVec 2) (t : Nat) (s : State), s.dev.rst.block = some (code, arg, t) →
    (let a := s.dev.resetBlock code.toNat arg.toNat false
     let b : Dev := { a with rst := { a.rst with block := none, blockForced := false } }
     exec (.blockIdle true) s = .next { s with dev := b.bump (Reg.rstCounts 4) }) ∧
    (s.dev.osc < t → exec (.blockIdle false) s = .next s))

/-- POWER_ON (R387, R388), MOD_RESET (R392), POWER_FAIL (R388), OVER_VOLTAGE (R430) and THERMAL_TRIP (R389). TRIM_LOAD_PASS
(R399, R400, R410) and DOMAIN_RELEASE (R395). -/
def Obligations.ResetsTrimAndRelease : Prop :=
  ((∀ s : State, s.flash.state ≠ 3 →
     exec .powerOn s = .next { s with dev := {
       osc := s.dev.osc, out := s.dev.out, free := s.dev.free, mem := outsideMem s.dev.mem, cnt := [(Reg.rstCounts 0, 1)]
       rst := { cause := if s.dev.rst.powerFail then 0x02 else 0x01 } } } ∧
     (s.dev.rst.powerFail = false → exec .modReset s = .next { s with dev := {
       osc := s.dev.osc, out := s.dev.out, free := s.dev.free, mem := outsideMem s.dev.mem, cnt := [(Reg.rstCounts 1, 1)]
       rst := { cause := 0x03 } } })) ∧
   (∀ s : State, s.flash.state = 3 → ∃ t, exec .powerOn s = .next t ∧ t.flash = { s.flash with state := 2 } ∧
     t.dev.lcs.entries.length = 1 ∧ t.dev.rst = { cause := if s.dev.rst.powerFail then 0x02 else 0x01 }) ∧
   (∀ s : State, s.dev.rst.powerFail = true → exec .modReset s = .next s) ∧
   (∀ (s : State) (c : Instr), c = .powerFail ∨ c = .overVoltage →
     exec c s = .next { s with dev := {
       osc := s.dev.osc, out := s.dev.out, free := s.dev.free, mem := outsideMem s.dev.mem, cnt := rstCnt s.dev.cnt
       rst := { cause := 0x02, powerFail := true, holdup := s.dev.rst.holdup, holdupAt := s.dev.rst.holdupAt,
                jobs := s.dev.rst.jobs.filter (·.running) } } } ∧
     ∃ t, exec c s = .next t ∧ t.dev.alertLow = true ∧ t.dev.readyLow = false ∧ ∀ b, (t.dev.bay b).enLow = false) ∧
   (∀ s : State, s.dev.rst.powerFail = false → ∃ t, exec .thermalTrip s = .next t ∧ t.dev.thermLow = true ∧
     t.dev.rst = { cause := 0x04, boot := .dark, therm := true, holdup := s.dev.rst.holdup, holdupAt := s.dev.rst.holdupAt } ∧
     t.dev.mem = outsideMem s.dev.mem ∧ t.dev.run = [] ∧ t.dev.rw = [] ∧ t.dev.rings = [] ∧ t.dev.conns = [] ∧ t.flash = s.flash)) ∧
  ((∀ s : State, s.dev.rst.powerFail = false → s.dev.rst.boot = .trim → s.dev.rst.trimValid = false → s.dev.rst.trimFails < 8 →
     (let r : Rst := { s.dev.rst with trimFails := s.dev.rst.trimFails + 1 }
      exec (.trimLoadPass false) s = .next { s with dev := { s.dev with rst := r } }) ∧
     (∃ t, exec (.trimLoadPass true) s = .next t ∧
       t.dev.rst = { s.dev.rst with trimValid := true, trimFails := 0, released := 1 } ∧ t.dev.det.trimClass = s.flash.trimClass ∧
       t.dev.mseg = { s.dev.mseg with mac := s.flash.mac } ∧
       t = { s with dev := { s.dev with rst := t.dev.rst, det := t.dev.det, mseg := t.dev.mseg, lcs := t.dev.lcs } })) ∧
   (∀ s : State, let n := s.dev.rst.released
     1 ≤ n → n ≤ 8 → s.dev.rst.shutting = false → (∀ t, s.dev.rst.warmAt = some t → t ≤ s.dev.osc) → (n = 5 → s.dev.ink.trained = true) →
     let r : Rst := { s.dev.rst with released := n + 1, warmAt := none, boot := if n = 3 then .rom else s.dev.rst.boot }
     let c : Capo := if n = 5 then { s.dev.capo with down := 0xFFFF } else s.dev.capo
     exec .domainRelease s = .next { s with dev := { s.dev with rst := r, capo := c } }))

/-- WARM_RESET (R396, Table 20.4) and SHUTDOWN (R389). -/
def Obligations.WarmResetAndShutdown : Prop :=
  ∀ (v : View) (s : State), (v = .pf ∨ v = .port) →
    (let a := s.tapped v Reg.rstCtl 1
     (a.rst.boot = .done → a.rst.shutting = false →
      ∃ t, exec (.warmReset v) s = .next t ∧ t.dev.rst.cause = 0x05 ∧ t.dev.rst.released = 4 ∧ t.dev.rst.ready = false ∧
        t.dev.rst.warmAt = some (a.osc + usTicks 10) ∧ t.dev.ops = [] ∧ t.dev.pools = [] ∧ t.dev.connCache = [] ∧
        t.dev.xlt.misses = [] ∧ t.dev.sch.q = [] ∧ (∀ p ∈ t.dev.slots, p.2.run = none) ∧ (∀ p ∈ t.dev.exchs, p.2.run = none) ∧
        t.dev.run = a.run ∧ t.dev.shadow = a.shadow ∧ (a.fol.st.inReplay = false → t.dev.rlg = a.rlg) ∧ t.flash = s.flash) ∧
     (a.rst.boot ≠ .done ∨ a.rst.shutting = true →
      exec (.warmReset v) s = .next { s with dev := a.hostErr v Reg.rstCtl 0x02 1 })) ∧
    (let a := s.tapped v Reg.rstCtl 2
     (a.rst.boot = .done → a.rst.shutting = false →
      ∃ t, exec (.shutdown v) s = .next t ∧ t.dev.rst.cause = 0x06 ∧ t.dev.ops = [] ∧ t.dev.pools = [] ∧
        (t.dev.rst.boot = .dark ∨ t.dev.rst.shutting = true ∧ t.dev.rst.jobs ≠ []) ∧ t.flash = s.flash) ∧
     (a.rst.boot ≠ .done ∨ a.rst.shutting = true →
      exec (.shutdown v) s = .next { s with dev := a.hostErr v Reg.rstCtl 0x02 2 }))

/-- FLASH_WRITE_START, FLASH_UNIT_DONE and FLASH_RETRY (R401, R402, R406). -/
def Obligations.FlashEngine : Prop :=
  (∀ (v0 v1 : BitVec 17) (s : State) (i n : Nat), s.dev.jobAt = some i → holdupE v0.toNat v1.toNat = some n → s.dev.rst.coreUp = true →
    s.dev.rst.powerFail = false →
    let j := s.dev.job i
    j.running = false → j.retryAt = none → j.done = 0 →
    let r : Rst := { s.dev.rst with holdup := cap24 n, holdupAt := s.dev.osc }
    let a : Dev := { s.dev with rst := r }
    ((cap24 n).toNat < j.what.needs →
      exec (.flashWriteStart v0 v1) s = .next { s with dev := a.jobRefused s.flash i }) ∧
    (∀ c : Word, j.what = .startCount c → j.what.needs ≤ (cap24 n).toNat →
      exec (.flashWriteStart v0 v1) s = .next { s with dev := a.setJob i { j with running := true } })) ∧
  (∀ (s : State) (i : Nat), ((List.range s.dev.rst.jobs.length).find? fun i => (s.dev.job i).running) = some i →
    let j := s.dev.job i
    (2 ≤ j.left →
      let k : FlashJob := { j with
        done := j.done + 1, left := j.left - 1
        running := (j.done + 1) % 64 != 0 && s.dev.rst.coreUp && !s.dev.rst.powerFail }
      exec .flashUnitDone s = .next { s with dev := s.dev.setJob i k }) ∧
    (∀ c : Word, j.left ≤ 1 → j.what = .startCount c → s.dev.rst.shutting = false →
      let r : Rst := { s.dev.rst with jobs := s.dev.rst.jobs.eraseIdx i, startWritten := true }
      exec .flashUnitDone s = .next { s with dev := { s.dev with rst := r }, flash := { s.flash with startCount := some c } }) ∧
    (∀ c : Word, j.left ≤ 1 → j.what = .nonce c → s.dev.rst.shutting = false →
      ∃ t, exec .flashUnitDone s = .next t ∧ t.flash = { s.flash with nonce := c } ∧ t.dev.lcs.nonceFresh = true ∧
        t.dev.lcs.cmd = none ∧ t.dev.lcs.result = 0)) ∧
  (∀ s : State, let due := fun (j : FlashJob) => if j.retryAt.any (fun t => t ≤ s.dev.osc) then { j with retryAt := none } else j
    let r : Rst := { s.dev.rst with jobs := s.dev.rst.jobs.map due }
    exec .flashRetry s = .next { s with dev := { s.dev with rst := r } })

/-- NONCE, ENTER_DIAG, EXIT_DIAG, SECURE, RETIRE, ATTEST and PROVISION (R407 to R412). -/
def Obligations.LifecycleCommands : Prop :=
  ∀ (v : View) (env : Env) (s : State), (v = .pf ∨ v = .port) →
    let t := fun (n : Nat) => s.tapped v Reg.lcsCtl (BitVec.ofNat 64 n)
    let f := s.flash
    let ends := fun (a : Dev) (r : Byte) => { s with dev := { a with lcs := { a.lcs with result := r, cmd := none } } }
    let asks := fun (a : Dev) (code : Byte) (w : FlashWhat) => { s with dev := { a with
      lcs := { a.lcs with cmd := some code }, rst := { a.rst with jobs := a.rst.jobs ++ [{ what := w, left := 2 }] } } }
    (∀ (n : Nat) (c : Instr), (n, c) ∈ [(1, .nonce v), (2, .enterDiag v env), (3, .exitDiag v), (4, .secure v), (5, .retire v env),
        (6, .attest v env), (7, .provision v env)] →
      (t n).lcs.cmd ≠ none → exec c s = .next { s with dev := (t n).hostErr v Reg.lcsCtl 0x02 (BitVec.ofNat 64 n) }) ∧
    (s.dev.lcs.cmd = none →
      exec (.nonce v) s = .next (asks (t 1) 1 (.nonce (f.nonce + 1))) ∧
      (f.state = 3 → exec (.exitDiag v) s = .next (asks (t 3) 3 (.state 2))) ∧
      (f.state ≠ 3 → exec (.exitDiag v) s = .next (ends (t 3) 0x01)) ∧
      (f.state = 1 → f.secureReady = true → exec (.secure v) s = .next (asks (t 4) 4 (.state 2))) ∧
      (f.state ≠ 1 → exec (.secure v) s = .next (ends (t 4) 0x01)) ∧
      (∀ (diag : Bool) (u : Dev) (b : List Byte), f.state = 2 ∨ diag = false ∧ f.state = 3 →
        let n := if diag then 2 else 5
        let dest : BitVec 4 := if diag then 3 else 4
        let a := t n
        Dev.extReadAll (ceilDiv tokenLen 64) (a.enter env) env (a.reg Reg.lcsReqAddr) 0 tokenLen [] = (u, some b) →
        let used : Dev := { u with lcs := { u.lcs with nonceFresh := false } }
        let c : Instr := if diag then .enterDiag v env else .retire v env
        (u.tokenCode f b dest.toNat = 0 → exec c s = .next (asks used (BitVec.ofNat 8 n) (.state dest))) ∧
        (u.tokenCode f b dest.toNat ≠ 0 → exec c s = .next (ends used (u.tokenCode f b dest.toNat)))) ∧
      (∀ (u : Dev) (b : List Byte), f.state = 1 →
        Dev.extReadAll 32 ((t 7).enter env) env ((t 7).reg Reg.lcsReqAddr) 0 2048 [] = (u, some b) →
        1 ≤ leAt b 0 1 → leAt b 0 1 ≤ 10 → bit f.provisioned (leAt b 0 1 - 1) = false →
        exec (.provision v env) s = .next (asks u 7 (.provision (leAt b 0 1) (BitVec.ofNat 256 (leAt b 8 32))))) ∧
      (∀ u : Dev, f.state ≠ 4 → ((t 6).report f).length ≤ ((t 6).reg Reg.lcsReqLen).toNat →
        ((t 6).enter env).extWriteAll env (((t 6).enter env).reg Reg.lcsReqAddr) ((t 6).report f) = (u, true) →
        exec (.attest v env) s = .next (ends u 0)))

/-- ATS_ENABLE_CHANGE, ATS_INVALIDATION, ATS_COMPLETION (R170, R174, R175), PRG_RESPONSE, PRI_TIMEOUT, PRI_ENABLE_CHANGE
(R176), XLT_INVAL, XLT_INVAL_DONE (R183) and KEY_RANGE_INIT_DONE (R162). -/
def Obligations.TranslationMessages : Prop :=
  (∀ (fn : Fin 64) (on : Bool) (s : State), fn.val ≤ s.dev.hst.numVf.toNat → (s.dev.fn fn).ats ≠ on → s.dev.xlt.misses = [] → s.dev.ops = [] →
    let a := s.dev.setFn fn { s.dev.fn fn with ats := on }
    let x : Xlt := { a.xlt with cache := a.xlt.cache.filter fun y => y.part != fn.val }
    let h : Hst := { a.hst with xlate := a.hst.xlate.filter fun y => y.1 != fn.val }
    let b : Dev := { a with xlt := x, hst := h }
    exec (.atsEnableChange fn on) s = .next { s with dev := if on then b else b.settle }) ∧
  (∀ (fn : Fin 64) (pasid : Option (BitVec 20)) (addr : Word) (size : BitVec 6) (s : State),
    let n := 4096 * 2 ^ size.toNat
    let lo := addr.toNat / n * n
    ∃ t, exec (.atsInvalidation fn pasid addr size) s = .next t ∧
      (∀ y : XltEnt, y ∈ t.dev.xlt.cache ↔ y ∈ s.dev.xlt.cache ∧ ¬ (y.part = fn.val ∧ (∀ p, pasid = some p → y.pasid = p) ∧
        ∃ a, y.ask = some a ∧ a < lo + n ∧ lo < a + y.size)) ∧
      (∀ y, y ∈ t.dev.hst.xlate ↔ y ∈ s.dev.hst.xlate ∧ ¬ (pasid = none ∧ y.1 = fn.val ∧ y.2.1 < lo + n ∧ lo < y.2.1 + 4096)) ∧
      t.dev.out = s.dev.out ++ [.ats 2 fn (pasid.getD 0) lo size.toNat false] ∧ t.dev.cnt = (s.dev.bump Reg.xltAtsInvals).cnt ∧
      (let x : Xlt := { s.dev.xlt with cache := t.dev.xlt.cache }
       let h : Hst := { s.dev.hst with xlate := t.dev.hst.xlate }
       t = { s with dev := { s.dev with xlt := x, hst := h, out := t.dev.out, cnt := t.dev.cnt } })) ∧
  (∀ (fn : Fin 64) (page : BitVec 52) (m : Miss) (s : State), s.dev.xlt.misses = [m] → s.dev.ops = [] → m.fn = fn.val →
    m.page = page.toNat * 4096 → m.st = .ats ∨ m.st = .again →
    let ended := s.dev.setMisses []
    let faulted : Dev := { ended with xlt := { ended.xlt with
      faulted := ended.xlt.faulted ++ m.who.map fun w => (w, m.key, m.page) } }
    let e := s.dev.region m.key
    (∀ (r w : Bool) (size : Nat) (addr : Word), r = true ∨ w = true → (m.write = true → w = true) →
      let n := max size 4096
      let y : XltEnt := {
        part := fn.val, index := keyIndex m.key, gen := BitVec.ofNat 8 (keyGen e), page := m.page / n * n, size := n
        final := addr.toNat / n * n, write := w, pasid := m.pasid, sticky := keyClass e == 1, ask := some (m.page / n * n) }
      let after := if (ended.xltRoom (keyClass e) y).isSome then ended.xltInsert (keyClass e) y else ended.xltHold y m.write
      exec (.atsCompletion fn m.pasid page (.grant r w size addr)) s = .next { s with dev := after.settle }) ∧
    (∀ a : AtsAnswer, a = .error ∨ a = .none →
      (m.st = .again ∨ (s.dev.fn fn).pri = false → exec (.atsCompletion fn m.pasid page a) s = .next { s with dev := faulted.settle }) ∧
      (m.st = .ats → (s.dev.fn fn).pri = true → ((s.dev.fn fn).priAlloc = 0 ∨ ∀ g < 512, (fn.val, g) ∈ s.dev.xlt.lateGroups) →
        exec (.atsCompletion fn m.pasid page a) s = .next { s with dev := (s.dev.setMisses [{ m with st := .pend }]).settle }) ∧
      (m.st = .ats → (s.dev.fn fn).pri = true → 0 < (s.dev.fn fn).priAlloc → (∃ g < 512, (fn.val, g) ∉ s.dev.xlt.lateGroups) →
        ∃ t x, exec (.atsCompletion fn m.pasid page a) s = .next t ∧ t.dev.xlt.misses = [x] ∧
          x = { m with st := .pri, group := x.group, deadline := s.dev.osc + s.dev.priTimeout } ∧
          x.group < 512 ∧ (fn.val, x.group) ∉ s.dev.xlt.lateGroups ∧
          t.dev.out = s.dev.out ++ [.ats 1 fn m.pasid m.page x.group m.write] ∧ t.dev.cnt = (s.dev.bump Reg.xltPriReqs).cnt))) ∧
  (∀ (fn : Fin 64) (group : BitVec 9) (code : BitVec 4) (m : Miss) (s : State), s.dev.xlt.misses = [m] → s.dev.ops = [] → m.fn = fn.val →
    m.st = .pri → m.group = group.toNat →
    let ended := s.dev.setMisses []
    let lost := ended.xlt.faulted ++ m.who.map fun w => (w, m.key, m.page)
    ((fn.val, group.toNat) ∉ s.dev.xlt.lateGroups →
      (code = 0 → exec (.prgResponse fn group code) s = .next { s with dev :=
        (((s.dev.setMisses [{ m with st := .again }]).bump Reg.xltAtsReqs).emit (.ats 0 fn m.pasid m.page 0 m.write)).settle }) ∧
      (code = 1 →
        let a : Dev := { ended with xlt := { ended.xlt with faulted := lost } }
        exec (.prgResponse fn group code) s = .next { s with dev := a.settle }) ∧
      (2 ≤ code.toNat →
        let x : Xlt := { ended.xlt with faulted := lost, stopped := ended.xlt.stopped ||| BitVec.ofNat 64 (2 ^ fn.val) }
        let a : Dev := { ended with xlt := x }
        exec (.prgResponse fn group code) s = .next { s with dev := (a.postErr Reg.keySel 0x06 0x02 fn 2 (some fn)).settle })) ∧
    (m.deadline ≤ s.dev.osc →
      let x : Xlt := { ended.xlt with faulted := lost, lateGroups := ended.xlt.lateGroups ++ [(fn.val, group.toNat)] }
      let a : Dev := { ended with xlt := x }
      exec (.priTimeout fn group) s = .next { s with dev := a.settle })) ∧
  (∀ (fn : Fin 64) (group : BitVec 9) (code : BitVec 4) (s : State), (fn.val, group.toNat) ∈ s.dev.xlt.lateGroups →
    let x : Xlt := { s.dev.xlt with lateGroups := s.dev.xlt.lateGroups.filter (· != (fn.val, group.toNat)) }
    exec (.prgResponse fn group code) s = .next { s with dev := { s.dev with xlt := x } }) ∧
  (∀ (fn : Fin 64) (s : State), fn.val ≤ s.dev.hst.numVf.toNat →
    ((s.dev.fn fn).pri = false →
      let a := s.dev.setFn fn { s.dev.fn fn with pri := true }
      ∃ t, exec (.priEnableChange fn true) s = .next t ∧ (∀ i < 64, bit t.dev.xlt.stopped i = (bit s.dev.xlt.stopped i && i != fn.val)) ∧
        (let x : Xlt := { a.xlt with stopped := t.dev.xlt.stopped }
         t = { s with dev := { a with xlt := x } })) ∧
    ((s.dev.fn fn).pri = true →
      let a := s.dev.setFn fn { s.dev.fn fn with pri := false }
      let x : Xlt := { a.xlt with lateGroups := a.xlt.lateGroups.filter fun g => g.1 != fn.val }
      exec (.priEnableChange fn false) s = .next { s with dev := { a with xlt := x } })) ∧
  (∀ (v : View) (w : Word) (s : State), (v = .pf ∨ v = .port) →
    let a := s.tapped v Reg.xltInval w
    a.inReset Reg.xltInval = false →
    (a.xlt.invalBusy = true → exec (.xltInval v w) s = .next { s with dev := a.hostErr v Reg.xltInval 0x02 w }) ∧
    (a.xlt.invalBusy = false → ∃ t, exec (.xltInval v w) s = .next t ∧ t.dev.xlt.invalBusy = true ∧
      (let x : Xlt := { a.xlt with invalBusy := true, cache := t.dev.xlt.cache, keyCached := t.dev.xlt.keyCached }
       t = { s with dev := { a with xlt := x } }) ∧
      (bit w 32 = true → (∀ y, y ∈ t.dev.xlt.cache ↔ y ∈ a.xlt.cache ∧ y.part ≠ bits w 29 24) ∧
        ∀ k, k ∈ t.dev.xlt.keyCached ↔ k ∈ a.xlt.keyCached ∧ a.keyPart k ≠ some (bits w 29 24)) ∧
      (bit w 32 = false → t.dev.xlt.keyCached = a.xlt.keyCached ∧
        ∀ y, y ∈ t.dev.xlt.cache ↔ y ∈ a.xlt.cache ∧ ¬ (y.index = bits w 21 0 ∧ a.keyPart (bits w 21 0) = some (bits w 29 24))))) ∧
  (∀ s : State, let x : Xlt := { s.dev.xlt with invalBusy := false }
    exec .xltInvalDone s = .next { s with dev := { s.dev with xlt := x } }) ∧
  (∀ (part : Fin 64) (s : State), part.val ∈ s.dev.xlt.rangeInit → s.dev.rings = [] →
    let mine := fun (k : Nat) => inRange (recKeyFirst (s.dev.ptnRec part)) (recKeyCount (s.dev.ptnRec part)) k
    ∃ t, exec (.keyRangeInitDone part) s = .next t ∧ part.val ∉ t.dev.xlt.rangeInit ∧
      (∀ e, e ∈ t.dev.xlt.keys ↔ e ∈ s.dev.xlt.keys ∧ mine e.1 = false) ∧ (∀ y, y ∈ t.dev.xlt.cache ↔ y ∈ s.dev.xlt.cache ∧ mine y.index = false) ∧
      (∀ b, b ∈ t.dev.mem ↔ b ∈ s.dev.mem ∧ ∀ k, s.dev.slotOfKey part b.1 = some k → mine k = false) ∧
      t = { s with dev := { s.dev.setPtn part { s.dev.ptn part with initPending := false } with xlt := t.dev.xlt, mem := t.dev.mem } })

/-- CXL_MEM_ACCESS (R187, R189), BAR2_ACCESS (R27, R319), H2D_SNOOP (R187), SYSTEM_FLUSH_DONE (R201), HOST_LOSS (R203, R204)
and HOST_LINK_UP (R205). -/
def Obligations.HostAccessesAndLoss : Prop :=
  (∀ (a : MemAccess) (env : Env) (s : State), a.fn = 0 → s.dev.hst.cxlMem = true → s.dev.hst.dlActive = true → s.dev.hst.dir = [] →
    s.dev.hst.hostOrder = [] →
    let e := s.dev.enter env
    let x := a.addr.toNat
    (a.data = none → a.len ≤ 4096 →
      (let none_ := (e.bumpBy Reg.inkUnmapped (linesOf x a.len).length).emit (.bytes (zeros a.len))
       e.hdmSize < x + a.len → exec (.cxlMemAccess a env) s = .next { s with dev := none_ }) ∧
      (∀ (u : Dev) (b : List Byte), x + a.len ≤ e.hdmSize → e.inkRead false x a.len = (u, .ok, b) →
        ∃ t, exec (.cxlMemAccess a env) s = .next t ∧ t.dev.out = u.out ++ [.bytes b] ∧ t.dev.mem = u.mem ∧
          (∀ l ∈ linesOf x a.len, u.inkPlace l ≠ none → t.dev.dirLine 0 l = .e) ∧
          (let h : Hst := { u.hst with dir := t.dev.hst.dir, hostOrder := t.dev.hst.hostOrder }
           t = { s with dev := { u with hst := h, out := t.dev.out } }))) ∧
    (∀ b : List Byte, a.data = some b → a.poison = false →
      (e.hdmSize < x + b.length →
        exec (.cxlMemAccess a env) s = .next { s with dev := e.bumpBy Reg.inkUnmapped (linesOf x b.length).length }) ∧
      (∀ u : Dev, x + b.length ≤ e.hdmSize → e.inkWrite false x b = (u, .ok) →
        exec (.cxlMemAccess a env) s = .next { s with dev := u }))) ∧
  (∀ (a : MemAccess) (env : Env) (s : State), a.fn = 0 → s.dev.hst.dlActive = true → a.addr.toNat < 2 ^ 32 →
    let e := s.dev.enter env
    let x := bits (e.reg Reg.inkWindowBase) 41 16 * 65536 + a.addr.toNat
    (∀ (u : Dev) (b : List Byte), a.data = none → x < 2 ^ 42 → e.inkRead false x a.len = (u, .ok, b) →
      exec (.bar2Access a env) s = .next { s with dev := u.emit (.bytes b) }) ∧
    (let none_ := (e.bumpBy Reg.inkUnmapped (linesOf x a.len).length).emit (.bytes (zeros a.len))
     a.data = none → 2 ^ 42 ≤ x → exec (.bar2Access a env) s = .next { s with dev := none_ }) ∧
    (∀ (u : Dev) (b : List Byte), a.data = some b → a.poison = false → x < 2 ^ 42 → e.inkWrite false x b = (u, .ok) →
      exec (.bar2Access a env) s = .next { s with dev := u })) ∧
  (∀ (kind : BitVec 2) (line : Word) (s : State), s.dev.hst.cxlCache = true →
    let st : Line := if line.toNat ∈ s.dev.hst.cacheLines then .s else .i
    (kind = 0 ∨ kind = 2 → exec (.h2dSnoop kind line) s = .next { s with dev := s.dev.emit (.snoop line.toNat st) }) ∧
    (kind = 1 → ∃ t, exec (.h2dSnoop kind line) s = .next t ∧ t.dev.out = s.dev.out ++ [.snoop line.toNat .i] ∧
      (∀ l, l ∈ t.dev.hst.cacheLines ↔ l ∈ s.dev.hst.cacheLines ∧ l ≠ line.toNat) ∧
      (let h : Hst := { s.dev.hst with cacheLines := t.dev.hst.cacheLines }
       t = { s with dev := { s.dev with hst := h, out := t.dev.out } }))) ∧
  (∀ (fn : Fin 64) (f : Nat × Nat × Nat) (s : State), s.dev.hst.flushDue.find? (fun p => p.1 == fn.val && p.2.1 ≤ s.dev.osc) = some f →
    s.dev.reach fn .host = true → s.dev.ops = [] → s.dev.conns = [] →
    let a := s.dev.bump Reg.hstFlushes
    let h : Hst := { a.hst with flushDue := a.hst.flushDue.filter (· != f) }
    exec (.systemFlushDone fn) s = .next { s with dev := { a with hst := h } }) ∧
  (∀ (cause : BitVec 2) (s : State), cause ≠ 3 → s.dev.hst.lost = false → s.dev.ops = [] → s.dev.conns = [] →
    twf (fun _ => {}) s.dev.rings = true →
    ∃ t, exec (.hostLoss cause) s = .next t ∧ t.dev.hst.lost = true ∧ t.dev.hst.dlActive = false ∧ t.dev.hst.cxlMem = false ∧
      t.dev.hst.epoch = s.dev.hst.epoch + 1 ∧ t.dev.hst.lossAt = s.dev.rlg.time ∧ t.dev.hst.numVf = 0 ∧ t.dev.hst.fns = [] ∧
      t.dev.xlt.cache = [] ∧ t.dev.xlt.misses = [] ∧ t.dev.hst.xlate = [] ∧ t.dev.hst.flushDue = [] ∧
      (∀ r, (s.dev.ring r).st = .enabled → baseTgt (s.dev.ring r).base = .host → (t.dev.ring r).st = .hostLost) ∧
      t.dev.mem = s.dev.mem ∧ t.flash = s.flash) ∧
  (∀ (l : HostLink) (s : State), l.width = 1 ∨ l.width = 4 ∨ l.width = 8 ∨ l.width = 16 → 1 ≤ l.rate.toNat → l.rate.toNat ≤ 7 →
    (l.flit = true ∨ l.rate.toNat ≤ 5) → s.dev.hst.dlActive = false → s.dev.inReset Reg.hstStatus = false →
    let h : Hst := { s.dev.hst with
      lost := false, dlActive := true, cxlCache := l.cxlCache && l.flit, cxlMem := l.cxlMem && l.flit && s.dev.ink.populated != 0
      cacheNeg := l.cxlCache && l.flit, memNeg := l.cxlMem && l.flit && s.dev.ink.populated != 0
      flit := l.flit, width := l.width, rate := l.rate }
    exec (.hostLinkUp l) s = .next { s with dev := { s.dev with hst := h } })

/-- QUIESCE, PREEMPT, RELEASE, RESUME (R330 to R333), FUNCTION_LEVEL_RESET, VF_ENABLE_CLEAR and PARTITION_RESET_DONE (R334 to
R336). -/
def Obligations.PartitionStates : Prop :=
  (∀ (v : View) (part : Fin 64) (s : State), (v = .pf ∨ v = .port) → twf ptnReset s.dev.ptns = true → twf (fun _ => {}) s.dev.rings = true →
    let a := fun (w : Word) => s.tapped v (Reg.ptnCtl part) w
    let was := (s.dev.ptn part).st
    (∀ w, (a w).inReset (Reg.ptnCtl part) = false) →
    (was = .active → ∃ t, exec (.preempt v part 2) s = .next t ∧
      t.dev.ptn part = (if (a 2).chordsRun part = 0 then { s.dev.ptn part with st := .preempted, preemptAt := s.dev.rlg.time }
        else { s.dev.ptn part with st := .preempting }) ∧
      t = { s with dev := { a 2 with ptns := t.dev.ptns } } ∧ ∀ n, n ≠ part.val → t.dev.ptn n = s.dev.ptn n) ∧
    (was = .preempting ∨ was = .preempted →
      let on := (a 8).setPtn part { s.dev.ptn part with st := .active }
      exec (.resume v part 8) s = .next { s with dev := on.settleHeads part } ∧
      ((∀ r, ringPart r = part.val → (s.dev.ring r).taken = []) → on.settleHeads part = on)) ∧
    (was = .active ∨ was = .preempting ∨ was = .preempted → ∃ t, exec (.quiesce v part 1) s = .next t ∧
      ((t.dev.ptn part).st = .quiescing ∨ (t.dev.ptn part).st = .quiesced) ∧
      (∀ r, ringPart r = part.val → (s.dev.ring r).st = .enabled → (t.dev.ring r).st = .quiesced ∧ (t.dev.ring r).discarding = true) ∧
      (∀ p < 64, t.dev.pool (part.val * 64 + p) = []) ∧
      ((∀ p < 64, s.dev.pool (part.val * 64 + p) = []) → ∀ r, ringPart r ≠ part.val → t.dev.ring r = s.dev.ring r) ∧ t.flash = s.flash) ∧
    (was = .quiesced → ∃ t, exec (.release v part 4) s = .next t ∧ (t.dev.ptn part).st = .active ∧
      (∀ r, ringPart r = part.val → (s.dev.ring r).st = .quiesced → (t.dev.ring r).st = .disabled ∧ (t.dev.ring r).taken = []) ∧
      (∀ r, ringPart r ≠ part.val ∨ (s.dev.ring r).st ≠ .quiesced → t.dev.ring r = s.dev.ring r) ∧
      t = { s with dev := { a 4 with ptns := t.dev.ptns, rings := t.dev.rings } }) ∧
    (∀ (w : Word) (c : Instr), (w, c) ∈ [(2, .preempt v part 2), (8, .resume v part 8), (1, .quiesce v part 1), (4, .release v part 4)] →
      (w = 2 ∧ was ≠ .active ∨ w = 8 ∧ was ≠ .preempting ∧ was ≠ .preempted ∨
        w = 1 ∧ was ≠ .active ∧ was ≠ .preempting ∧ was ≠ .preempted ∨ w = 4 ∧ was ≠ .quiesced) →
      exec c s = .next { s with dev := (a w).hostErr v (Reg.ptnCtl part) 0x02 w })) ∧
  (∀ (fn : Fin 64) (s : State), fn.val ≤ s.dev.hst.numVf.toNat → twf ptnReset s.dev.ptns = true →
    ∃ t, exec (.functionLevelReset fn) s = .next t ∧ (t.dev.ptn fn).st = .resetting ∧ (∀ n, n ≠ fn.val → t.dev.ptn n = s.dev.ptn n) ∧
      ((s.dev.ptn fn).st ≠ .quiesced → (s.dev.ptn fn).st ≠ .resetting → (t.dev.ptn fn).forced = true ∧ (∀ o ∈ t.dev.ops, o.part ≠ fn.val) ∧
        ∀ o ∈ s.dev.ops, o.part ≠ fn.val → o ∈ t.dev.ops) ∧
      t.dev.mem = s.dev.mem ∧ t.dev.run = s.dev.run ∧ t.flash = s.flash) ∧
  (∀ s : State, twf ptnReset s.dev.ptns = true → ∃ t, exec .vfEnableClear s = .next t ∧ t.dev.hst.numVf = 0 ∧
    (∀ n, 1 ≤ n → n ≤ s.dev.hst.numVf.toNat → (t.dev.ptn n).st = .resetting) ∧
    (∀ n, n = 0 ∨ s.dev.hst.numVf.toNat < n → t.dev.ptn n = s.dev.ptn n) ∧ t.dev.mem = s.dev.mem ∧ t.flash = s.flash) ∧
  (∀ (part : Fin 64) (s : State), (s.dev.ptn part).st = .resetting → twf ptnReset s.dev.ptns = true →
    ∃ t, exec (.partitionResetDone part) s = .next t ∧
      t.dev.ptn part = { s.dev.ptn part with st := .quiesced, quiesceAt := s.dev.rlg.time, reach := 0, forced := false } ∧
      (∀ r, ringPart r = part.val → (t.dev.ring r).st = .disabled ∧ (t.dev.cq r).st = .disabled) ∧
      (∀ c ∈ t.dev.ctrs, c.1 / 1024 ≠ part.val) ∧ (∀ c ∈ t.dev.pools, c.1 / 64 ≠ part.val) ∧ (∀ y ∈ t.dev.xlt.cache, y.part ≠ part.val) ∧
      (∀ c ∈ s.dev.ctrs, c.1 / 1024 ≠ part.val → c ∈ t.dev.ctrs) ∧
      (let r := s.dev.ptnRec part
       (∀ e ∈ s.dev.xlt.keys, keyValid e.2 = true → inRange (recKeyFirst r) (recKeyCount r) e.1 = false) → t.dev.mem = s.dev.mem) ∧
      t.flash = s.flash)

/-- RD_CUR, RD_SHARED, RD_OWN, WR_LINE, WR_PART, EVICT_DIRTY, EVICT_CLEAN, FENCE_REQ (R192, R193), SNP_INV, SNP_DATA, SNP_CUR
(R187), TRAY_FLIT_RX (R190) and TRAY_REPLAY_EXHAUSTED (R191). -/
def Obligations.TrayRequestsAreServed : Prop :=
  (∀ (port : Fin 4) (m : TrayMsg) (env : Env) (s : State) (n : Nat) (v g : Dev), (s.dev.enter env).Serves port m n v g → g.hst.dir = [] →
    let held := fun (u : Dev) => m.lineList.foldl (fun s l => s.setDir (port + 1) l .e) u
    (∀ (u : Dev) (b : List Byte), g.inkRead false m.laddr (64 * m.lines) = (u, .ok, b) →
      (m.opc = 1 → exec (.rdCur port m env) s = .next { s with dev := u.traySend port (trayReply m 0x20 0 b) }) ∧
      (m.opc = 2 → exec (.rdShared port m env) s = .next { s with dev := (held u).traySend port (trayReply m 0x20 2 b) }) ∧
      (m.opc = 3 → exec (.rdOwn port m env) s = .next { s with dev := (held u).traySend port (trayReply m 0x20 2 b) })) ∧
    (∀ u : Dev, env = {} → m.opc = 4 → g.inkWrite false m.laddr (m.data.take (64 * m.lines)) = (u, .ok) →
      exec (.wrLine port m) s = .next { s with dev := u.traySend port (trayReply m 0x21 2 []) }) ∧
    (∀ u : Dev, m.opc = 5 → g.inkWrite false (m.laddr + m.start) (slice m.data m.start (min m.cnt (64 - m.start))) = (u, .ok) →
      exec (.wrPart port m env) s = .next { s with dev := u.traySend port (trayReply m 0x21 2 []) })) ∧
  (∀ (port : Fin 4) (m : TrayMsg) (s : State) (n : Nat) (v g : Dev), s.dev.Serves port m n v g → m.lines = 1 → g.dirLine 0 m.laddr = .i →
    let given := g.setDir (port + 1) m.laddr .i
    (∀ u : Dev, m.opc = 6 → g.dirLine (port + 1) m.laddr ≠ .i → given.inkWrite false m.laddr (m.data.take 64) = (u, .ok) →
      exec (.evictDirty port m) s = .next { s with dev := u.traySend port (trayReply m 0x21 2 []) }) ∧
    (m.opc = 6 → g.dirLine (port + 1) m.laddr = .i →
      exec (.evictDirty port m) s = .next { s with dev := g.traySend port (trayReply m 0x21 2 []) }) ∧
    (m.opc = 7 → exec (.evictClean port m) s = .next { s with dev := given })) ∧
  (∀ (port : Fin 4) (m : TrayMsg) (env : Env) (s : State), (s.dev.trayPort port).st = .up →
    let x := s.dev.trayPort port
    (m.opc = 8 → x.waiting = [] → exec (.fenceReq port m) s = .next { s with dev := s.dev.traySend port (trayReply m 0x21 1 []) }) ∧
    (m.opc = 1 → (s.dev.enter env).trayPart m = none →
      exec (.rdCur port m env) s = .next { s with dev := ((s.dev.enter env).bump (Reg.trayErrTx port)).traySend port (trayReply m 0x24 1 []) }) ∧
    (let keys := m.lineList.map fun a => trayKey port a / 64
     let had := keys.any fun l => s.dev.hst.cacheLines.contains l
     let h : Hst := { s.dev.hst with cacheLines := s.dev.hst.cacheLines.filter fun l => !keys.contains l }
     let dropped : Dev := { s.dev with hst := h }
     (m.opc = 0x10 → exec (.snpInv port m) s = .next { s with dev := dropped.traySend port (trayReply m 0x22 0 []) }) ∧
     (m.opc = 0x11 → exec (.snpData port m) s = .next { s with dev := s.dev.traySend port (trayReply m 0x22 (if had then 2 else 0) []) }) ∧
     (m.opc = 0x12 → exec (.snpCur port m) s = .next { s with dev := s.dev.traySend port (trayReply m 0x22 (if had then 2 else 0) []) })) ∧
    (∀ b : List Byte,
      (let asks := (s.dev.setTray port { x with replays := x.replays + 1 }).trayIdle port true (0, 0, 0)
       flitCrcOk b = false ∨ leAt b 0 2 < 4096 ∧ (∃ d ∈ (flitOf b).slots, d ≠ 0) ∧ (flitOf b).seq ≠ x.rxSeq.toNat ∧
         halfBefore 12 x.rxSeq.toNat (flitOf b).seq = true → exec (.trayFlitRx port b) s = .next { s with dev := asks }) ∧
      (flitCrcOk b = true → leAt b 0 2 < 4096 →
        ((∀ d ∈ (flitOf b).slots, d = 0) → exec (.trayFlitRx port b) s = .next { s with dev := s.dev.trayAck port (flitOf b) }) ∧
        ((∃ d ∈ (flitOf b).slots, d ≠ 0) → (flitOf b).seq ≠ x.rxSeq.toNat → halfBefore 12 x.rxSeq.toNat (flitOf b).seq = false →
          exec (.trayFlitRx port b) s = .next s) ∧
        ((∃ d ∈ (flitOf b).slots, d ≠ 0) → (flitOf b).seq = x.rxSeq.toNat → ∃ t, exec (.trayFlitRx port b) s = .next t ∧
          (t.dev.trayPort port).rxSeq = x.rxSeq + 1 ∧ (t.dev.trayPort port).replays = 0 ∧ (t.dev.trayPort port).st = .up ∧
          t.dev.mem = s.dev.mem ∧ t.flash = s.flash))) ∧
    (16 ≤ x.replays → exec (.trayReplayExhausted port) s = .next { s with dev := s.dev.setTray port { x with st := .training } }))

/-- DATA, CMP, RETRY, RETRY_REISSUE, ERR (R194), SNP_RSP (R192), TRAY_INIT_SEND, TRAY_INIT_RX (R196), TRAY_PORT_TRAINED,
TRAY_PORT_DOWN and TRAY_PORT_ENABLE_WRITE (R195). -/
def Obligations.TrayAnswersAndPorts : Prop :=
  (∀ (port : Fin 4) (m : TrayMsg) (r : TrayReq) (s : State), let x := s.dev.trayPort port
    x.reqs = [r] → r.sent = true → m.tag = r.tag → r.op = none → r.who = 0 →
    let ended := { s with dev := s.dev.setTray port { x with reqs := [] } }
    (m.opc = 0x20 → 1 ≤ r.msg.opc → r.msg.opc ≤ 3 → exec (.data port m) s = .next ended) ∧
    (m.opc = 0x21 → m.arg = 1 ∨ m.arg = 2 → exec (.cmp port m) s = .next ended) ∧
    (m.opc = 0x21 → m.arg = 0 →
      exec (.cmp port m) s = .next { s with dev := s.dev.setTray port { x with reqs := [{ r with path := true }] } }) ∧
    (m.opc = 0x23 → 64 ≤ r.retries → exec (.retry port m) s = .next ended) ∧
    (m.opc = 0x23 → r.retries < 64 →
      let again : TrayReq := { r with retries := r.retries + 1, reissueAt := some (s.dev.osc + nsTicks (16 * m.delay)) }
      exec (.retry port m) s = .next { s with dev := s.dev.setTray port { x with reqs := [again] } }) ∧
    (∀ at_ : Nat, r.reissueAt = some at_ → at_ ≤ s.dev.osc →
      let a := s.dev.setTray port { x with reqs := [{ r with reissueAt := none }] }
      exec (.retryReissue port r.tag) s = .next { s with dev := a.traySend port r.msg }) ∧
    (m.opc = 0x24 → m.arg ≠ 2 → exec (.err port m) s = .next ended) ∧
    (m.opc = 0x24 → m.arg = 2 →
      let a := s.dev.postErr (Reg.trayPortStatus 0) 0x08 0x02 (port + r.msg.laddr) 1
      exec (.err port m) s = .next { s with dev := a.setTray port { x with reqs := [] } })) ∧
  (∀ (port : Fin 4) (m : TrayMsg) (line opc : Nat) (s : State), let x := s.dev.trayPort port
    m.opc = 0x22 → x.snoops = [(m.tag, line, opc)] → (∀ p ∈ s.dev.tray, p.2.waiting = []) → twf (fun _ => {}) s.dev.tray = true →
    twf (fun _ => .i) s.dev.hst.dir = true →
    ∃ t, exec (.snpRsp port m) s = .next t ∧ (t.dev.trayPort port).snoops = [] ∧
      t.dev.dirLine (port + 1) (line * 64) =
        (if opc = 0x12 then s.dev.dirLine (port + 1) (line * 64) else if m.arg / 2 % 4 = 1 then .s else .i) ∧ t.dev.mem = s.dev.mem ∧
      (∀ k, k ≠ dirKey (port + 1) (line * 64) → tget (fun _ => .i) t.dev.hst.dir k = tget (fun _ => .i) s.dev.hst.dir k)) ∧
  (∀ (port : Fin 4) (s : State), let x := s.dev.trayPort port
    (x.st = .init → x.txq = [] → x.slots = [] → x.reqs = [] →
      let a := s.dev.emit (.trayFlit port (initFlit s.flash.serial))
      exec (.trayInitSend port) s = .next { s with dev := if x.gotInit then a.setTray port { x with st := .up } else a }) ∧
    (∀ b : List Byte, flitCrcOk b = false ∨ leAt b 0 2 ≠ 0xF000 → exec (.trayInitRx port b) s = .next s) ∧
    (∀ b : List Byte, flitCrcOk b = true → leAt b 0 2 = 0xF000 → x.st = .init ∨ x.st = .up → x.firstFlit = false → x.gotInit = false →
      (leAt b 8 1 = 2 → leAt b 9 1 = 1 →
        let y : TrayPort := { x with
          gotInit := true, peerVersion := 1, peerTags := leAt b 10 2 % 4096 + 1
          credits := (leAt b 4 4 % 1024, leAt b 4 4 / 1024 % 1024, leAt b 4 4 / 1048576 % 1024) }
        exec (.trayInitRx port b) s = .next { s with dev := s.dev.setTray port y }) ∧
      (leAt b 8 1 ≠ 2 ∨ leAt b 9 1 ≠ 1 →
        let a := (s.dev.setTray port { x with peerVersion := BitVec.ofNat 8 (leAt b 9 1), badInit := true }).bump (Reg.trayBadMsg port)
        let posted := a.postErr (Reg.trayPortStatus 0) 0x08 0x04 (port + at_ 8 (leAt b 8 1) + at_ 16 (leAt b 9 1)) 1
        exec (.trayInitRx port b) s = .next { s with dev := if x.badInit then a else posted })) ∧
    (s.dev.inReset (Reg.trayPortStatus 0) = false → bit (s.dev.reg (Reg.trayPortCfg port)) 0 = true → x.st = .down ∨ x.st = .training →
      let n := (Config.freeValue s.dev.free).toNat % (x.unacked.length + 1)
      ∃ t, exec (.trayPortTrained port) s = .next t ∧ (t.dev.trayPort port).st = .init ∧ (t.dev.trayPort port).txSeq = 0 ∧
        (t.dev.trayPort port).rxSeq = 0 ∧ (t.dev.trayPort port).gotInit = false ∧
        (t.dev.trayPort port).unacked = [] ∧ (t.dev.trayPort port).slots = (x.unacked.drop n).flatMap (·.2) ++ x.slots ∧ t = { s with dev := { s.dev with tray := t.dev.tray, free := s.dev.free + 1 } }) ∧
    (x.st ≠ .down → (∀ p ∈ s.dev.tray, p.2.waiting = []) → x.reqs = [] → twf (fun _ => {}) s.dev.tray = true →
      twf (fun _ => 0) s.dev.cnt = true →
      ∃ t, exec (.trayPortDown port) s = .next t ∧ (t.dev.trayPort port).st = .down ∧
        t.dev.count (Reg.trayPortDowns port) = satAdd (s.dev.count (Reg.trayPortDowns port)) 1 ∧
        (∀ l ∈ t.dev.hst.cacheLines, l / 2 ^ 58 ≠ port + 1) ∧ t.dev.mem = s.dev.mem ∧ t.flash = s.flash) ∧
    (∀ (v : View) (w : Word), (v = .pf ∨ v = .port) →
      let a := s.tapped v (Reg.trayPortCfg port) w
      let r := Reg.trayPortCfg port
      a.inReset r = false → (bit w 0 = true ∨ (a.trayPort port).st = .down) →
      exec (.trayPortEnableWrite v port w) s =
        .next { s with dev := a.setReg r (setBits (setBits (a.reg r) 31 16 (bits w 31 16)) 0 0 (bits w 0 0)) }))

/-- INKWELL_TRAINING_DONE (R312), REGION_MOVE_DONE, ZERO_FILL_DONE (R315, R316), SCRUB_PASS (R320, R321), INK_AUTO_FENCE and
CHANNEL_FENCE (R322). -/
def Obligations.InkwellUpkeep : Prop :=
  (∀ (d : Dimms) (s : State), s.dev.ink.trained = false → 5 ≤ s.dev.rst.released → twf (fun _ => {}) s.dev.ink.chans = true →
    let at12 := fun (c : Nat) => d.chans.getD c (0, false, false)
    let all := (List.range 12).map at12
    ∃ t, exec (.inkwellTrainingDone d) s = .next t ∧ t.dev.ink.trained = true ∧ t.dev.ink.reference = reference all ∧
      (∀ c < 12, (t.dev.chan c).present = ((at12 c).1 != 0)) ∧
      (∀ c < 12, (∃ x ∈ all, x.1 ≠ 0) → (s.dev.chan c).fenced = false →
        let code : Byte := if (at12 c).1 = 0 then 0x01 else if dimmOk (at12 c) = false ∨ (at12 c).1 ≠ reference all then 0x02
          else if (at12 c).2.2 = false then 0x03 else 0
        (t.dev.chan c).fenced = (code != 0) ∧ (code ≠ 0 → (t.dev.chan c).cause = code)) ∧
      (let k : Ink := { t.dev.ink with trained := s.dev.ink.trained, reference := s.dev.ink.reference, fitted := s.dev.ink.fitted, chans := s.dev.ink.chans }
       k = s.dev.ink) ∧ t.dev.mem = s.dev.mem ∧ t.flash = s.flash) ∧
  (∀ (region : BitVec 7) (s : State),
    let k : Ink := { s.dev.ink with move := s.dev.ink.move.filter (· != region.toNat) }
    exec (.regionMoveDone region) s = .next { s with dev := { s.dev with ink := k } }) ∧
  (∀ (s : State) (r : Nat) (l : List Nat) (q : Region), s.dev.ink.move = [] → s.dev.ink.fill = r :: l →
    s.dev.regions.find? (fun q => q.idx == r) = some q →
    ∃ t, exec .zeroFillDone s = .next t ∧ t.dev.ink.fill = l ∧
      (∀ e, e ∈ t.dev.mem ↔ e ∈ s.dev.mem ∧ q.ofKey e.1 = none) ∧
      (∀ p, p ∈ t.dev.ink.poison ↔ p ∈ s.dev.ink.poison ∧ q.ofKey (64 * p) = none) ∧
      (let k : Ink := { s.dev.ink with fill := l, poison := t.dev.ink.poison, errors := t.dev.ink.errors }
       t = { s with dev := { s.dev with ink := k, mem := t.dev.mem } })) ∧
  (∀ (chan : Fin 12) (off : Word) (ecc : BitVec 2) (s : State), let x := s.dev.chan chan
    s.dev.ink.scrubPeriod ≠ 0 → s.dev.osc < s.dev.ink.scrubAt + secTicks (3600 * s.dev.ink.scrubPeriod) → x.present = true → x.fenced = false →
    off.toNat < s.dev.ink.reference → twf (fun _ => {}) s.dev.ink.chans = true →
    ∃ t, exec (.scrubPass chan off ecc) s = .next t ∧ t.dev.mem = s.dev.mem ∧ (t.dev.chan chan).scrubbing = true ∧
      (ecc = 1 → t.dev.cnt = (s.dev.bump (Reg.inkCe chan)).cnt ∧ t.dev.ink.poison = s.dev.ink.poison) ∧
      (2 ≤ ecc.toNat → t.dev.cnt = (s.dev.bump (Reg.inkUe chan)).cnt ∧ t.dev.ink.poison = lineKey chan off.toNat :: s.dev.ink.poison ∧
        (t.dev.chan chan).lastUe = BitVec.ofNat 64 (off.toNat / 64 * 64)) ∧ t.flash = s.flash) ∧
  (∀ (chan : Fin 12) (cause : Byte) (s : State), let x := s.dev.chan chan
    x.present = true → x.fenced = false → cause = 0x04 ∨ cause = 0x05 →
    exec (.inkAutoFence chan cause) s = .next { s with dev := (s.dev.setChan chan { x with
      fenced := true, cause := cause, scrubbing := false }).postErr Reg.inkStatus 0x0C cause.toNat chan 3 }) ∧
  (∀ (v : View) (chan : Fin 12) (w : Word) (s : State), (v = .pf ∨ v = .port) →
    let a := s.tapped v (Reg.inkChanCtl chan) w
    let x := a.chan chan
    a.inReset (Reg.inkChanCtl chan) = false → x.fenced = false → bit w 0 = true →
    exec (.channelFence v chan w) s = .next { s with dev := (a.setChan chan { x with
      fenced := true, cause := 0x07, scrubbing := false }).postErr Reg.inkStatus 0x0C 0x07 chan 3 })

/-- START, STOP, TRIGGER, REARM, FOLIO_POST_END (R347), MARK, STATE_RECORD_WRITTEN (R348), REPLAY_ENTER, REPLAY_START,
REPLAY_INJECT, REPLAY_EXIT (R349 to R351) and DET_GEN_COUNTER_WRITE (R353). -/
def Obligations.FolioCommands : Prop :=
  (∀ (v : View) (s : State), (v = .pf ∨ v = .port) →
    let a := fun (n : Nat) => s.tapped v Reg.folCtl (BitVec.ofNat 64 n)
    let refused := fun (n : Nat) => { s with dev := (a n).hostErr v Reg.folCtl 0x02 (BitVec.ofNat 64 n) }
    ((a 1).fol.st = .idle → ∃ t, exec (.start v) s = .next t ∧ t.dev.fol.st = .capture ∧ t.dev.rlg = s.dev.rlg ∧ t.flash = s.flash) ∧
    ((a 1).fol.st ≠ .idle → exec (.start v) s = .next (refused 1)) ∧
    ((a 2).fol.st = .capture →
      let g := (a 2).folGap
      let f : Fol := { g.fol with st := .idle }
      exec (.stop v) s = .next { s with dev := { g with fol := f } }) ∧
    ((a 2).fol.st = .post →
      let g := (a 2).folGap
      let f : Fol := { g.fol with st := .frozen, freezeHead := g.fol.head }
      exec (.stop v) s = .next { s with dev := { g with fol := f } }) ∧
    ((a 2).fol.st ≠ .capture → (a 2).fol.st ≠ .post → exec (.stop v) s = .next (refused 2)) ∧
    ((a 3).fol.st = .capture → ∃ t, exec (.trigger v) s = .next t ∧ t.dev.fol.freezeAt = s.dev.rlg.time ∧
      t.dev.fol.st = (if bits (s.dev.reg Reg.folCfg) 63 32 = 0 then .frozen else .post) ∧
      t.dev.fol.postLeft = bits (s.dev.reg Reg.folCfg) 63 32 * 1024 ∧ t.flash = s.flash) ∧
    ((a 3).fol.st = .post ∨ (a 3).fol.st = .frozen → exec (.trigger v) s = .next { s with dev := (a 3).bump Reg.folTrigLost }) ∧
    ((a 4).fol.st = .frozen →
      let f : Fol := { (a 4).fol with st := .idle }
      exec (.rearm v) s = .next { s with dev := { a 4 with fol := f } }) ∧
    ((a 4).fol.st ≠ .frozen → exec (.rearm v) s = .next (refused 4)) ∧
    ((a 5).fol.st = .capture → (a 5).folScopes = [] →
      exec (.mark v) s = .next { s with dev := (a 5).folPut 0x12 0x3F s.dev.rlg.time (zeros 16) }) ∧
    ((a 5).fol.st ≠ .capture → exec (.mark v) s = .next (refused 5)) ∧
    ((a 6).replayMay = true → ∃ t, exec (.replayEnter v) s = .next t ∧ t.dev.fol.st = .replayReady ∧ t.dev.det.replay = true ∧
      t.dev.capo.down = 0xFFFF ∧ t.flash = s.flash) ∧
    ((a 6).replayMay = false → exec (.replayEnter v) s = .next (refused 6)) ∧
    (∀ (env : Env) (u : Dev) (b : List Byte) (l : List FolRec) (m : FolRec), (a 7).fol.st = .replayReady ∨ (a 7).fol.st = .replayDone ∨
        (a 7).fol.st = .diverged →
      let n := ((a 7).reg Reg.folReplayLen).toNat
      Dev.extReadAll (ceilDiv n 64) ((a 7).enter env) env ((a 7).reg Reg.folReplaySrc) 0 n [] = (u, some b) →
      folParse (b.length / 16 + 1) b none [] = some l → u.replayCode l = 0 → l.find? (fun r => r.is 0x12) = some m →
      ∃ t, exec (.replayStart v env) s = .next t ∧ t.dev.fol.st = .replaying ∧ t.dev.rlg.time = m.time - 102400000 ∧
        t.dev.rlg.replayRun = true ∧ t.dev.fol.recs = (l.dropWhile fun r => !r.is 0x12).filter FolRec.consumed ∧ t.flash = s.flash) ∧
    (∀ (env : Env) (u : Dev), (a 7).fol.st = .replayReady ∨ (a 7).fol.st = .replayDone ∨ (a 7).fol.st = .diverged →
      let n := ((a 7).reg Reg.folReplayLen).toNat
      Dev.extReadAll (ceilDiv n 64) ((a 7).enter env) env ((a 7).reg Reg.folReplaySrc) 0 n [] = (u, none) →
      let f : Fol := { u.fol with replayResult := 0x02 }
      exec (.replayStart v env) s = .next { s with dev := { u with fol := f } }) ∧
    ((a 8).fol.st.inReplay = true → ∃ t, exec (.replayExit v) s = .next t ∧ t.dev.det.replay = false ∧
      t.dev.fol.st = (if (a 8).folRegion.isSome then .idle else .unavailable) ∧ (s.dev.rlg.lock = .free → t.dev.rlg.time = 0) ∧
      (s.dev.rlg.lock ≠ .free → t.dev.rlg.time = s.dev.rlg.time) ∧ t.dev.mem = (a 8).mem ∧ t.flash = s.flash) ∧
    ((a 8).fol.st.inReplay = false → exec (.replayExit v) s = .next (refused 8)) ∧
    (∀ w : Word, let b := (s.tapped v Reg.detGenCounter w).setReg Reg.detGenCounter w
      let r := arx10 (BitVec.ofNat 128 ((b.reg Reg.detGenKey0).toNat + at_ 64 (b.reg Reg.detGenKey1).toNat)) (b.reg Reg.detGenStream) w
      ∃ t, exec (.detGenCounterWrite v w) s = .next t ∧ t.dev.det.out1 ++ t.dev.det.out0 = r ∧
        t = { s with dev := { b with det := { b.det with out0 := t.dev.det.out0, out1 := t.dev.det.out1 } } })) ∧
  (∀ s : State, s.dev.fol.st = .post → s.dev.fol.postLeft = 0 →
    let g := s.dev.folGap
    let f : Fol := { g.fol with st := .frozen, freezeHead := g.fol.head }
    exec .folioPostEnd s = .next { s with dev := { g with fol := f } }) ∧
  (∀ (conn : BitVec 20) (env : Env) (s : State) (b : List Byte), let c := conn.toNat
    s.dev.fol.markImg = [(2, c, b)] → (s.dev.conn c).holding = [] → twf (fun _ => {}) s.dev.conns = true →
    let w := s.dev.folState ((s.dev.connPart c).getD 0x3F) 2 c b
    let f : Fol := { w.fol with markImg := [] }
    let u : Dev := { w with fol := f }
    exec (.stateRecordWritten conn env) s = .next { s with dev := (u.enter env).settle }) ∧
  (∀ (s : State) (r : FolRec), s.dev.fol.st = .replaying → s.dev.fol.produced = [] → s.dev.fol.recs = [r] → r.kind = 0x02 →
    s.dev.extend r.time ≤ s.dev.now →
    let k := leAt r.body 0 2 % 16384
    let a := s.dev.setRing k { s.dev.ring k with doorbells := satAdd (s.dev.ring k).doorbells 1 }
    let f : Fol := { a.fol with st := .replayDone, replayResult := 0x01, recs := [], produced := [], replayPos := r.seq.setWidth 64 }
    exec (.replayInject {}) s = .next { s with dev := { a with fol := f } })

/-- The optical commands (R357 to R360, R369) and those of the laser source modules (R362 to R367, R370, R438). -/
def Obligations.OpticsAndLasers : Prop :=
  (∀ (port : Fin 16) (s : State), s.dev.isEth port = true ∨ s.dev.Lone port → let p := port.val
    let o := s.dev.optPort p
    (∀ wl : Fin 8, let x := o.wl wl
      let lost := s.dev.setOpt p (o.setWl wl { x with lock := .lost })
      (x.lock = .seek → exec (.lockAcquired port wl) s = .next { s with dev := s.dev.setOpt p (o.setWl wl { x with lock := .locked }) }) ∧
      (x.lock = .seek → x.seekFrom + msTicks 60 ≤ s.dev.osc →
        exec (.lockSeekTimeout port wl) s = .next { s with dev := lost.fencedFor p 0x06 wl 0 }) ∧
      (x.lock = .locked → exec (.lockLost port wl) s = .next { s with dev := lost.fencedFor p 0x06 wl 0 }) ∧
      (x.lock ≠ .dark → exec (.rxPowerLow port wl) s =
        .next { s with dev := (s.dev.setOpt p { o with rxLow := true }).fencedFor p 0x07 wl 0 })) ∧
    ((s.dev.bay p).lit = true → exec (.txPowerLow port) s =
      .next { s with dev := (s.dev.setOpt p { o with txLow := true }).fencedFor p 0x08 0 0 }) ∧
    (∀ (bers : List Nat) (corr uncorr : Nat), bers.length = 8 → (∀ b ∈ bers, b ≤ 0xFFFF) → twf (fun _ => {}) o.wls = true →
      twf (fun _ => {}) s.dev.opt = true → let th := s.dev.reg Reg.optThresh
      ∃ t, exec (.berWindowEnd port bers corr uncorr) s = .next t ∧
        (∀ w < 8, ((t.dev.optPort p).wl w).berExp.toNat = bers.getD w 0) ∧
        (t.dev.optPort p).fecCorr = satAdd o.fecCorr corr ∧ (t.dev.optPort p).fecUncorr = satAdd o.fecUncorr uncorr ∧
        ((∀ b ∈ bers, bits th 31 16 ≤ b ∧ bits th 15 0 ≤ b) → (t.dev.optPort p).fenced = o.fenced ∧
          t = { s with dev := { s.dev with opt := t.dev.opt } }) ∧
        ((∃ b ∈ bers, b < bits th 31 16) → (t.dev.optPort p).fenced = true ∧ (o.fenced = false → (t.dev.optPort p).cause = 0x09))) ∧
    (∀ v : View, (v = .pf ∨ v = .port) →
      (let a := s.tapped v Reg.optPortCtl 1
       a.inReset Reg.optPortCtl = false → exec (.portFence v port) s = .next { s with dev := a.fencedFor p 0x01 0 0 }) ∧
      (let a := s.tapped v Reg.optPortCtl 2
       let b := a.bay p
       let clear := a.setOpt p { o with fenced := false, cause := 0, rxLow := false, txLow := false }
       a.inReset Reg.optPortCtl = false → o.fenced = true →
       (b.present = true → b.interlock = true → b.refused = false → b.released = false → b.overload = false → o.berBad = false →
         o.rxLow = false → o.txLow = false →
         exec (.portUnfence v port) s = .next { s with dev := if b.lit then clear.seekPort p else clear }) ∧
       (b.present = false → exec (.portUnfence v port) s = .next { s with dev := a.hostErr v Reg.optPortCtl 0x02 2 })))) ∧
  (∀ (bay : Fin 16) (s : State), s.dev.isEth bay = true ∨ s.dev.Lone bay → twf (fun _ => {}) s.dev.bays = true →
    twf (fun _ => {}) s.dev.opt = true →
    let b := s.dev.bay bay
    let dark := fun (t : State) => (t.dev.bay bay).lit = false ∧ (t.dev.optPort bay).fenced = true ∧ t.dev.mem = s.dev.mem ∧ t.flash = s.flash
    (∀ e : List Byte, b.present = false → ∃ t, exec (.lsmInsert bay e) s = .next t ∧ (t.dev.bay bay).present = true ∧
      (t.dev.bay bay).checked = false ∧ (t.dev.bay bay).lit = false ∧ (t.dev.bay bay).serial = BitVec.ofNat 128 (leAt e 0 16) ∧
      (t.dev.bay bay).rated = BitVec.ofNat 64 (leAt e 24 8) ∧ (t.dev.bay bay).insertions = satAdd b.insertions 1 ∧
      leAt e 32 8 * 1000000 ≤ (t.dev.bay bay).life ∧ t.dev.mem = s.dev.mem ∧ t.flash = s.flash) ∧
    (∀ answer : List Byte, b.checking = true → s.dev.rst.coreUp = true →
      (moduleOk s.flash b answer = true → ∃ t, exec (.lsmCheckDone bay answer) s = .next t ∧ (t.dev.bay bay).checked = true ∧
        (t.dev.bay bay).checking = false ∧
        (t.dev.bay bay).lit = (b.interlock && b.present && !b.overload && !s.dev.lasersOff) ∧ t.dev.mem = s.dev.mem ∧ t.flash = s.flash) ∧
      (moduleOk s.flash b answer = false → ∃ t, exec (.lsmCheckDone bay answer) s = .next t ∧ (t.dev.bay bay).refused = true ∧
        (t.dev.bay bay).checking = false ∧ (t.dev.optPort bay).fenced = true ∧ t.dev.mem = s.dev.mem ∧ t.flash = s.flash)) ∧
    (b.present = true → ∃ t, exec (.lsmRemove bay) s = .next t ∧ (t.dev.bay bay).present = false ∧
      t.dev.lives.head? = some (b.serial, BitVec.ofNat 64 b.lifeSecs) ∧ dark t) ∧
    (b.interlock = true → ∃ t, exec (.lsmInterlockOpen bay) s = .next t ∧ (t.dev.bay bay).interlock = false ∧ dark t) ∧
    (∃ t, exec (.lsmInterlockClose bay) s = .next t ∧ (t.dev.bay bay).interlock = true ∧
      (t.dev.bay bay).lit = (b.present && b.checked && !b.released && !b.overload && !s.dev.lasersOff) ∧ t.dev.mem = s.dev.mem ∧
      t.flash = s.flash) ∧
    (∀ v : View, (v = .pf ∨ v = .port) → let a := s.tapped v Reg.lsmCtl 1
      ∃ t, exec (.lsmRelease v bay) s = .next t ∧ (t.dev.bay bay).released = true ∧ (t.dev.bay bay).lit = false ∧
        (t.dev.optPort bay).fenced = true ∧ t.dev.mem = a.mem ∧ t.flash = s.flash) ∧
    (b.present = true → ∃ t, exec (.lsmOverload bay) s = .next t ∧ (t.dev.bay bay).overload = true ∧ dark t) ∧
    (∀ current : BitVec 32, b.lit = true → ∃ t, exec (.lsmLifeTick bay current) s = .next t ∧ (t.dev.bay bay).current = current ∧
      (t.dev.bay bay).life = b.life + 1000000 * current.toNat * current.toNat / (b.iNom.toNat * b.iNom.toNat) ∧
      t = { s with dev := { s.dev with bays := t.dev.bays, err := t.dev.err } }) ∧
    (b.present = true → b.overload = false → exec (.lsmEepromLifeWrite bay) s =
      .next { s with dev := s.dev.setBay bay { b with eepromLife := BitVec.ofNat 64 b.lifeSecs } }) ∧
    (s.dev.rst.coreUp = true → let l := s.dev.lifeRecords s.flash
      exec .lsmFlashLifeWrite s = .next { s with dev := s.dev.addJob (.life l) (ceilDiv (24 * l.length) 4096) }))

/-- ETH_FRAME_RX (R374, R376), ARP_REQUEST, NEIGHBOR_SOLICITATION (R373), RDMA_WRITE, RDMA_WRITE_WITH_IMMEDIATE,
RDMA_READ_REQUEST (R375, R377), CNP, RATE_PERIOD_EXPIRY (R378), QP_ENABLE, QP_RESET (R386) and ETH_LINK_UP (R372). -/
def Obligations.EthernetAndRdma : Prop :=
  (∀ (port : Fin 2) (f : List Byte) (s : State), s.dev.isEth (14 + port) = true → (s.dev.ethPort port).link = true → 64 ≤ f.length →
    let c := s.dev.ethCfg port
    let a := s.dev.bump (Reg.ethCounts port 0)
    let good := crc32 (f.take (f.length - 4)) = leAt f (f.length - 4) 4
    let ours := slice f 0 6 = c.mac ∨ slice f 0 6 = ethBroadcast
    (9216 < f.length → exec (.ethFrameRx port f) s = .next { s with dev := s.dev.bump (Reg.ethCounts port 3) }) ∧
    (f.length ≤ 9216 → ¬ good → exec (.ethFrameRx port f) s = .next { s with dev := s.dev.bump (Reg.ethCounts port 2) }) ∧
    (f.length ≤ 9216 → good → ¬ ours → exec (.ethFrameRx port f) s = .next { s with dev := a.bump (Reg.ethCounts port 4) }) ∧
    (f.length ≤ 9216 → good → ours → c.isArp f = true →
      exec (.arpRequest port f) s = .next { s with dev := a.ethQueue port (c.arpReply f) }) ∧
    (f.length ≤ 9216 → good → ours → c.isNs f = true →
      exec (.neighborSolicitation port f) s = .next { s with dev := a.ethQueue port (c.naReply f) }) ∧
    (∀ u : Nat, f.length ≤ 9216 → good → ours → c.isArp f = false → c.isNs f = false → c.udp f = some u →
      let r := c.roce f u
      let q := s.dev.qp (r.qpn - 0x1000)
      rocev2Icrc c.ipv6 f c.l3off u = leAt f (f.length - 8) 4 → r.op ∈ roceOps → 0x1000 ≤ r.qpn → r.qpn < 0x2000 → Qp.port q = port.val →
      q.st = .rts → bit (s.dev.st (Reg.polMeterCfg1 (2 * Qp.part q + 1))) 57 = false →
      ((s.dev.ethPort port).ingress.map fun y => y.1.length).sum + f.length ≤ ingressCap →
      ∃ t, exec (.ethFrameRx port f) s = .next t ∧ (t.dev.ethPort port).ingress = (s.dev.ethPort port).ingress ++ [(f, false)] ∧
        t = { s with dev := { s.dev with eth := t.dev.eth, cnt := t.dev.cnt } })) ∧
  (∀ (port : Fin 2) (env : Env) (s : State) (f : List Byte) (l : List (List Byte × Bool)), (s.dev.ethPort port).ingress = (f, false) :: l → twf (fun _ => {}) s.dev.eth = true →
    let c := s.dev.ethCfg port
    let r := c.roce f ((c.udp f).getD 0)
    let k := r.qpn - 0x1000
    let q := s.dev.qp k
    let a := (s.dev.setEth port { s.dev.ethPort port with ingress := l }).enter env
    q.st = .rts → r.ce = false →
    (let first := r.op = 0x06 ∨ r.op = 0x0A ∨ r.op = 0x0B
     let last := r.op = 0x08 ∨ r.op = 0x09 ∨ r.op = 0x0A ∨ r.op = 0x0B
     let imm := r.op = 0x09 ∨ r.op = 0x0B
     let x := if first then r.rest.drop 16 else r.rest
     let y := if imm then x.drop 4 else x
     let b := y.take (y.length - r.pad)
     let key : BitVec 32 := if first then BitVec.ofNat 32 (beAt r.rest 8 4) else q.openKey
     let at_ := if first then beAt r.rest 0 8 else q.openAddr.toNat
     ∀ u : Dev, BitVec.ofNat 24 r.psn = q.epsn → (first ∨ q.openMsg = true) → a.rocePlace env q.part key at_ b = (u, none) →
       r.op ∈ [0x06, 0x07, 0x08, 0x0A, 0x09, 0x0B] →
       ∃ t, exec (if imm then .rdmaWriteWithImmediate port env else .rdmaWrite port env) s = .next t ∧
         (t.dev.qp k).epsn = q.epsn + 1 ∧ (t.dev.qp k).msn = (if last then q.msn + 1 else q.msn) ∧ (t.dev.qp k).openMsg = (!decide last) ∧
         (t.dev.qp k).openAddr = BitVec.ofNat 64 (at_ + b.length) ∧
         (t.dev.qp k).lastImm = (if imm then BitVec.ofNat 32 (beAt x 0 4) else q.lastImm) ∧ (t.dev.qp k).st = .rts ∧
         (t.dev.ethPort port).frames.length = (s.dev.ethPort port).frames.length + (if last ∨ r.ackReq = true then 1 else 0) ∧
         t.dev.mem = u.mem ∧ t.flash = s.flash) ∧
    (let at_ := beAt r.rest 0 8
     let key : BitVec 32 := BitVec.ofNat 32 (beAt r.rest 8 4)
     let len := beAt r.rest 12 4
     let n := max 1 (ceilDiv len c.mtu)
     ∀ (u v : Dev) (b : List Byte), r.op = 0x0C → BitVec.ofNat 24 r.psn = q.epsn → a.keyCheck key q.part at_ len (rR ||| rRM) = (u, none) →
       u.onDemandStop key at_ len = none → u.regionRead env key at_ len = (v, .ok b) → b.length = len →
       ∃ t, exec (.rdmaReadRequest port env) s = .next t ∧ (t.dev.qp k).epsn = q.epsn + BitVec.ofNat 24 n ∧ (t.dev.qp k).msn = q.msn + 1 ∧
         (t.dev.qp k).resp.length = q.resp.length + n ∧ (t.dev.qp k).st = .rts ∧ t.dev.mem = v.mem ∧ t.flash = s.flash) ∧
    (r.op = 0x81 → (q.cnpRxAt.any fun t => s.dev.osc < t + nsTicks c.cnpInterval) = false →
      ∃ t, exec (.cnp port) s = .next t ∧ (t.dev.qp k).rate = BitVec.ofNat 32 (max c.rateMin (q.rate.toNat / 2)) ∧
        (t.dev.qp k).cnpRxAt = some s.dev.osc ∧ (t.dev.ethPort port).frames = (s.dev.ethPort port).frames ∧
        t.dev.cnt = (s.dev.bump (Reg.ethCounts port 9)).cnt ∧
        t = { s with dev := { s.dev with eth := t.dev.eth, qps := t.dev.qps, cnt := t.dev.cnt } })) ∧
  (∀ (port : Fin 2) (qp : Fin 4096) (s : State), let q := s.dev.qp qp
    q.st = .rts → Qp.port q = port.val → q.periodAt + nsTicks (s.dev.ethCfg port).ratePeriod ≤ s.dev.osc →
    exec (.ratePeriodExpiry port qp) s = .next { s with dev := s.dev.setQp qp { q with
      periodAt := s.dev.osc, rate := BitVec.ofNat 32 (min 100000 (q.rate.toNat + (s.dev.ethCfg port).rateAi)) } }) ∧
  (∀ (v : View) (w : Word) (s : State), (v = .pf ∨ v = .port) →
    let a := s.tapped v Reg.ethQpCtl w
    let k := a.selQp
    let q := a.qp k
    a.inReset Reg.ethQpCtl = false →
    (bits w 7 0 = 1 → q.st = .reset → a.ptnRec q.part ≠ 0 → (a.ptn q.part).st = .active →
      exec (.qpEnable v w) s = .next { s with dev := a.setQp k { q with
        st := .rts, rate := 100000, periodAt := a.osc, sendAt := a.osc, cnpTxAt := none, cnpRxAt := none } }) ∧
    (bits w 7 0 = 1 → q.st ≠ .reset → exec (.qpEnable v w) s = .next { s with dev := a.hostErr v Reg.ethQpCtl 0x02 w }) ∧
    (bits w 7 0 = 2 → q.st ≠ .reset → exec (.qpReset v w) s = .next { s with dev := a.setQp k q.toReset }) ∧
    (bits w 7 0 = 2 → q.st = .reset → exec (.qpReset v w) s = .next { s with dev := a.hostErr v Reg.ethQpCtl 0x02 w })) ∧
  (∀ (port : Fin 2) (s : State), let o := s.dev.optPort (14 + port)
    s.dev.isEth (14 + port) = true → o.fenced = false → (∀ w < 8, (o.wl w).lock = .locked) → s.dev.inReset (Reg.ethPortStatus 0) = false →
    exec (.ethLinkUp port) s = .next { s with dev := s.dev.setEth port { s.dev.ethPort port with link := true, pcsLock := true } })

/-- MSEG_FRAME_RX (R381), PAUSE, PAUSE_END (R382), BACKOFF_EXPIRY, PLCA_TRANSMIT_OPPORTUNITY, MSEG_COLLISION (R380), HELLO,
REG_READ, REG_WRITE, STAGE_DATA, TELEM_READ, JOURNAL_READ, TRIGGER, KEY_SET (R383, R384) and MSEG_KEY_WRITE (R385). -/
def Obligations.ManagementSegment : Prop :=
  (∀ (f : List Byte) (s : State), 4 ≤ s.dev.rst.released → s.dev.msegFor f = true → f.length ≤ 2048 →
    let kept : Mseg := { s.dev.mseg with rx := s.dev.mseg.rx ++ [(f, false)] }
    let a : Dev := { s.dev with mseg := kept }
    (goodFcs f = true → isPause f = false → s.dev.msegStored + f.length ≤ 65536 →
      exec (.msegFrameRx f) s = .next { s with dev := a.bump (Reg.msegCounts 0) }) ∧
    (goodFcs f = false → exec (.msegFrameRx f) s = .next { s with dev := s.dev.bump (Reg.msegCounts 4) }) ∧
    (goodFcs f = true → isPause f = true →
      let b := s.dev.bump (Reg.msegCounts 7)
      let q := beAt f 16 2
      let m : Mseg := { b.mseg with pausedUntil := if q = 0 then none else some (s.dev.osc + 6400 * q) }
      exec (.pause f) s = .next { s with dev := if bit (s.dev.reg Reg.msegCfg) 0 then b else { b with mseg := m } })) ∧
  (∀ (s : State) (at_ : Nat), s.dev.mseg.pausedUntil = some at_ → at_ ≤ s.dev.osc →
    let m : Mseg := { s.dev.mseg with pausedUntil := none }
    exec .pauseEnd s = .next { s with dev := { s.dev with mseg := m } }) ∧
  (∀ (s : State) (at_ : Nat) (f : List Byte) (l : List (List Byte)), s.dev.mseg.tx = f :: l → 4 ≤ s.dev.rst.released →
    s.dev.mseg.pausedUntil = none →
    (s.dev.plcaOn = false → s.dev.mseg.backoffUntil = some at_ → at_ ≤ s.dev.osc →
      let m : Mseg := { s.dev.mseg with
        backoffUntil := none, tx := l, collisions := 0, attempts := s.dev.mseg.attempts + 1,
        sending := if l.isEmpty then 0 else s.dev.mseg.sending - 1 }
      let a : Dev := { s.dev with mseg := m }
      exec .backoffExpiry s = .next { s with dev := (a.bump (Reg.msegCounts 1)).emit (.mseg f) }) ∧
    (s.dev.plcaOn = true →
      let m : Mseg := { s.dev.mseg with
        plcaActive := true, tx := l, collisions := 0, attempts := s.dev.mseg.attempts + 1,
        sending := if l.isEmpty then 0 else bits (s.dev.reg Reg.msegCfg) 39 32 }
      let a : Dev := { s.dev with mseg := m }
      exec .plcaTransmitOpportunity s = .next { s with dev := (a.bump (Reg.msegCounts 1)).emit (.mseg f) }) ∧
    (s.dev.msegMay = true → let n := s.dev.mseg.collisions + 1
      ∃ t, exec .msegCollision s = .next t ∧ t.dev.mseg.attempts = s.dev.mseg.attempts + 1 ∧ t.dev.out = s.dev.out ∧
        (16 ≤ n → t.dev.mseg.tx = l ∧ t.dev.mseg.collisions = 0) ∧
        (n < 16 → t.dev.mseg.tx = f :: l ∧ t.dev.mseg.collisions = n ∧ t.dev.cnt = (s.dev.bump (Reg.msegCounts 5)).cnt) ∧
        (n < 16 → s.dev.plcaOn = false → ∃ j < 2 ^ (min n 10), t.dev.mseg.backoffUntil = some (s.dev.osc + 6400 * j)) ∧
        t = { s with dev := { s.dev with mseg := t.dev.mseg, cnt := t.dev.cnt } })) ∧
  (∀ (s : State) (r : Rumos) (env : Env), let a := dropHead s.dev
    let e := dropHead (s.dev.enter env)
    let f := s.flash
    s.dev.Asked f r →
    (r.type = 1 → r.body = [] →
      let m : Mseg := { s.dev.mseg with rx := [], tx := s.dev.mseg.tx ++ [s.dev.rumosReply f r 0 (s.dev.helloBody f)] }
      exec .hello s = .next { s with dev := { s.dev with mseg := m } }) ∧
    (∀ (u : Dev) (b : List Byte), let off := leAt r.body 0 4
      let n := leAt r.body 4 2
      r.type = 2 → r.body.length = 8 → off % 8 = 0 → 1 ≤ n → n ≤ 200 → off + 8 * n ≤ bar0Size → Dev.regWords n a f off [] = (u, b) →
      exec .regRead s = .next { s with dev := u.answer f r 0 b }) ∧
    (∀ (u : Dev) (n : Nat) (ok : Bool), r.type = 3 → r.body.length % 16 = 0 → 0 < r.body.length → r.body.length ≤ 1600 →
      Dev.regEntries (entriesOf r.body) a f env 0 = (u, n, ok) →
      exec (.regWrite env) s = .next { s with dev := u.answer f r (if ok then 0 else 1) (leBytes 2 n ++ zeros 6) }) ∧
    (∀ (u : Dev) (ok : Bool), let region := leAt r.body 0 1
      let off := leAt r.body 4 4
      let n := leAt r.body 8 2
      (s.dev.enter env).Asked f r → r.type = 4 → r.body.length = 16 + n → region ≤ 1 → 1 ≤ n → n ≤ 1536 →
      off + n ≤ (if region = 0 then 128 * 2 ^ 20 else 16 * 2 ^ 20) → e.stagingThere = true →
      e.stageBytes env (off + (if region = 0 then 0 else fwRegion)) (r.body.drop 16) = (u, ok) →
      exec (.stageData env) s = .next { s with dev := u.answer f r (if ok then 0 else 4) [] }) ∧
    (r.type = 5 → r.body.length = 16 → leAt r.body 0 1 = 0 →
      let q := leAt r.body 4 4 % 2 ^ 14
      let k := leAt r.body 4 4 / 2 ^ 16 % 2
      let h := a.sch.histMgmt
      let c : Sch := { a.sch with histMgmt := histClear h q k }
      let b : Dev := { a with sch := c }
      exec .telemRead s = .next { s with dev := b.answer f r 0 (leBytes 8 (histWord h q k 0).toNat ++ leBytes 8 (histWord h q k 4).toNat) }) ∧
    (∀ (g : Region) (u : Dev) (b : List Byte), let off := leAt r.body 0 8
      let n := leAt r.body 8 2
      (s.dev.enter env).Asked f r → r.type = 6 → r.body.length = 16 → 1 ≤ n → n ≤ 1536 → e.folRegion = some g → off + n ≤ g.size →
      e.inkRead false (g.base + off) n = (u, .ok, b) →
      exec (.journalRead env) s = .next { s with dev := u.answer f r 0 b }) ∧
    (r.type = 7 → r.body = [] → exec .rumosTrigger s = .next { s with dev := (a.folTrigger 0x5 0).answer f r 0 [] }) ∧
    (r.type = 8 → r.body.length = 32 → s.dev.mseg.keyPend = none → ∃ t, exec .keySet s = .next t ∧ t.dev.mseg.rx = [] ∧
      t.dev.mseg.keyPend = some (BitVec.ofNat 256 (ofLe r.body)) ∧ t.dev.mseg.keyReq = some r ∧ t.dev.mseg.tx = s.dev.mseg.tx ∧
      t.dev.rst.jobs = s.dev.rst.jobs ++ [{ what := .rackKey (BitVec.ofNat 256 (ofLe r.body)), left := 2 }] ∧ t.flash = s.flash)) ∧
  (∀ (word : Fin 4) (w : Word) (s : State),
    (let a := s.tapped .pf (Reg.msegKey word) w
     let words := tset (fun _ => 0) a.mseg.keyWords word w
     (word ≠ 3 →
       let m : Mseg := { a.mseg with keyWords := words }
       exec (.msegKeyWrite .pf word w) s = .next { s with dev := { a with mseg := m } }) ∧
     (word = 3 →
       let key := BitVec.ofNat 256 ((List.range 4).foldl (fun x i => x + at_ (64 * i) (tget (fun _ => 0) words i).toNat) 0)
       let m : Mseg := { a.mseg with keyWords := words, keyPend := some key }
       let b : Dev := { a with mseg := m }
       exec (.msegKeyWrite .pf word w) s = .next { s with dev := b.addJob (.rackKey key) 1 })) ∧
    (∀ v : View, v ≠ .pf → exec (.msegKeyWrite v word w) s =
      .next { s with dev := (s.tapped v (Reg.msegKey word) w).hostErr v (Reg.msegKey word) 0x05 w }))

/-- R32. -/
def Obligations.SnapCopiesTimeAndEpoch : Prop :=
  ∀ s : State, ∃ t, exec .rlgSnap s = .next t ∧ t.dev.rlg.snapTime = s.dev.rlg.time ∧ t.dev.rlg.snapEpoch = s.dev.rlg.epoch ∧
    (let r : Rlg := { s.dev.rlg with snapTime := t.dev.rlg.snapTime, snapEpoch := t.dev.rlg.snapEpoch }
     t = { s with dev := { s.dev with rlg := r } })

/-- R168, as Table 8.5 uses it. -/
def Obligations.KeyBounds : Prop :=
  ∀ (s : Dev) (k : BitVec 32) (part a n need : Nat), let e := s.keyEntry (keyIndex k)
    keyValid e = true → (s.keyLoad (keyIndex k)).keyBad (keyIndex k) = false → keyGen e = bits k 31 24 → keyClass e = bits k 23 22 →
    keyPtn e = part →
    ((s.keyCheck k part a n need).2 = some stKeyBounds ↔ ¬ (keyBase e ≤ a ∧ a + n ≤ keyBase e + keyLast e + 1)) ∧
    (n = 0 → a = keyBase e + keyLast e + 1 → (s.keyCheck k part a n need).2 ≠ some stKeyBounds)

/-- R394. -/
def Obligations.ResetCommandsActOnlyWhenBooted : Prop :=
  (∀ (v : View) (s : State), (v = .pf ∨ v = .port) → s.dev.rst.boot ≠ .done →
    exec (.warmReset v) s = .next { s with dev := (s.tapped v Reg.rstCtl 1).hostErr v Reg.rstCtl 0x02 1 } ∧
    exec (.shutdown v) s = .next { s with dev := (s.tapped v Reg.rstCtl 2).hostErr v Reg.rstCtl 0x02 2 }) ∧
  (∀ (v : View) (s : State), (v = .pf ∨ v = .port) → s.dev.rst.boot = .done → s.dev.rst.shutting = false →
    (∃ t, exec (.warmReset v) s = .next t ∧ t.dev.rst.cause = 0x05 ∧ t.dev.ops = []) ∧
    ∃ t, exec (.shutdown v) s = .next t ∧ t.dev.rst.cause = 0x06 ∧ t.dev.ops = []) ∧
  (∀ (n : Fin 64) (s : State), exec (.warmReset (.vf n)) s = .next { s with dev := s.tapped (.vf n) Reg.rstCtl 1 } ∧
    exec (.shutdown (.vf n)) s = .next { s with dev := s.tapped (.vf n) Reg.rstCtl 2 })

/-- R401, R407, R408: RETIRED overwrites the identity private key, and OTP bits are not cleared. -/
def Obligations.FlashAndIdentityStand : Prop :=
  (∀ (c : Instr) (s t : State), exec c s = .next t → (∀ v0 v1, c ≠ .flashWriteStart v0 v1) → c ≠ .flashUnitDone → c ≠ .powerOn →
    c ≠ .modReset → t.flash = s.flash) ∧
  (∀ s t : State, s.RetiredIsEmpty → step s = .next t → t.RetiredIsEmpty ∧ t.flash.serial = s.flash.serial ∧
    t.flash.stepping = s.flash.stepping ∧ t.flash.trimClass = s.flash.trimClass ∧ t.flash.mac = s.flash.mac ∧
    t.flash.idPub = s.flash.idPub ∧ (∀ i < 10, bit s.flash.provisioned i = true → bit t.flash.provisioned i = true) ∧
    (s.flash.idPriv = [] → t.flash.idPriv = []))

/-- The invariant of FlashAndIdentityStand holds after reset. -/
def Obligations.ResetHoldsTheInvariant : Prop :=
  State.reset.RetiredIsEmpty ∧ State.reset.pending = [] ∧ State.reset.dev.mem = [] ∧ Memory.wf State.reset.dev.mem = true
end

