-- ==== Sys2Proof/Laws/State.lean ====
section
/-! SUPPORT. What each named update of the device leaves as it was: one fact for every update and field. -/

namespace Sys2Proof.Machine

/-! ### Dev.setShadow changes `shadow` alone -/

@[simp] theorem Dev.setShadow_osc (s : Dev) (c : Nat) (v : Word) : (s.setShadow c v).osc = s.osc := rfl
@[simp] theorem Dev.setShadow_rlg (s : Dev) (c : Nat) (v : Word) : (s.setShadow c v).rlg = s.rlg := rfl
@[simp] theorem Dev.setShadow_capo (s : Dev) (c : Nat) (v : Word) : (s.setShadow c v).capo = s.capo := rfl
@[simp] theorem Dev.setShadow_run (s : Dev) (c : Nat) (v : Word) : (s.setShadow c v).run = s.run := rfl
@[simp] theorem Dev.setShadow_rw (s : Dev) (c : Nat) (v : Word) : (s.setShadow c v).rw = s.rw := rfl
@[simp] theorem Dev.setShadow_cnt (s : Dev) (c : Nat) (v : Word) : (s.setShadow c v).cnt = s.cnt := rfl
@[simp] theorem Dev.setShadow_rings (s : Dev) (c : Nat) (v : Word) : (s.setShadow c v).rings = s.rings := rfl
@[simp] theorem Dev.setShadow_cqs (s : Dev) (c : Nat) (v : Word) : (s.setShadow c v).cqs = s.cqs := rfl
@[simp] theorem Dev.setShadow_ctrs (s : Dev) (c : Nat) (v : Word) : (s.setShadow c v).ctrs = s.ctrs := rfl
@[simp] theorem Dev.setShadow_pools (s : Dev) (c : Nat) (v : Word) : (s.setShadow c v).pools = s.pools := rfl
@[simp] theorem Dev.setShadow_ops (s : Dev) (c : Nat) (v : Word) : (s.setShadow c v).ops = s.ops := rfl
@[simp] theorem Dev.setShadow_launches (s : Dev) (c : Nat) (v : Word) : (s.setShadow c v).launches = s.launches := rfl
@[simp] theorem Dev.setShadow_connBacked (s : Dev) (c : Nat) (v : Word) : (s.setShadow c v).connBacked = s.connBacked := rfl
@[simp] theorem Dev.setShadow_connCache (s : Dev) (c : Nat) (v : Word) : (s.setShadow c v).connCache = s.connCache := rfl
@[simp] theorem Dev.setShadow_conns (s : Dev) (c : Nat) (v : Word) : (s.setShadow c v).conns = s.conns := rfl
@[simp] theorem Dev.setShadow_sch (s : Dev) (c : Nat) (v : Word) : (s.setShadow c v).sch = s.sch := rfl
@[simp] theorem Dev.setShadow_xlt (s : Dev) (c : Nat) (v : Word) : (s.setShadow c v).xlt = s.xlt := rfl
@[simp] theorem Dev.setShadow_hst (s : Dev) (c : Nat) (v : Word) : (s.setShadow c v).hst = s.hst := rfl
@[simp] theorem Dev.setShadow_tray (s : Dev) (c : Nat) (v : Word) : (s.setShadow c v).tray = s.tray := rfl
@[simp] theorem Dev.setShadow_rte (s : Dev) (c : Nat) (v : Word) : (s.setShadow c v).rte = s.rte := rfl
@[simp] theorem Dev.setShadow_slots (s : Dev) (c : Nat) (v : Word) : (s.setShadow c v).slots = s.slots := rfl
@[simp] theorem Dev.setShadow_exchs (s : Dev) (c : Nat) (v : Word) : (s.setShadow c v).exchs = s.exchs := rfl
@[simp] theorem Dev.setShadow_red (s : Dev) (c : Nat) (v : Word) : (s.setShadow c v).red = s.red := rfl
@[simp] theorem Dev.setShadow_stm (s : Dev) (c : Nat) (v : Word) : (s.setShadow c v).stm = s.stm := rfl
@[simp] theorem Dev.setShadow_cph (s : Dev) (c : Nat) (v : Word) : (s.setShadow c v).cph = s.cph := rfl
@[simp] theorem Dev.setShadow_ink (s : Dev) (c : Nat) (v : Word) : (s.setShadow c v).ink = s.ink := rfl
@[simp] theorem Dev.setShadow_mem (s : Dev) (c : Nat) (v : Word) : (s.setShadow c v).mem = s.mem := rfl
@[simp] theorem Dev.setShadow_ptns (s : Dev) (c : Nat) (v : Word) : (s.setShadow c v).ptns = s.ptns := rfl
@[simp] theorem Dev.setShadow_det (s : Dev) (c : Nat) (v : Word) : (s.setShadow c v).det = s.det := rfl
@[simp] theorem Dev.setShadow_fol (s : Dev) (c : Nat) (v : Word) : (s.setShadow c v).fol = s.fol := rfl
@[simp] theorem Dev.setShadow_opt (s : Dev) (c : Nat) (v : Word) : (s.setShadow c v).opt = s.opt := rfl
@[simp] theorem Dev.setShadow_bays (s : Dev) (c : Nat) (v : Word) : (s.setShadow c v).bays = s.bays := rfl
@[simp] theorem Dev.setShadow_lives (s : Dev) (c : Nat) (v : Word) : (s.setShadow c v).lives = s.lives := rfl
@[simp] theorem Dev.setShadow_qps (s : Dev) (c : Nat) (v : Word) : (s.setShadow c v).qps = s.qps := rfl
@[simp] theorem Dev.setShadow_eth (s : Dev) (c : Nat) (v : Word) : (s.setShadow c v).eth = s.eth := rfl
@[simp] theorem Dev.setShadow_mseg (s : Dev) (c : Nat) (v : Word) : (s.setShadow c v).mseg = s.mseg := rfl
@[simp] theorem Dev.setShadow_rst (s : Dev) (c : Nat) (v : Word) : (s.setShadow c v).rst = s.rst := rfl
@[simp] theorem Dev.setShadow_lcs (s : Dev) (c : Nat) (v : Word) : (s.setShadow c v).lcs = s.lcs := rfl
@[simp] theorem Dev.setShadow_sst (s : Dev) (c : Nat) (v : Word) : (s.setShadow c v).sst = s.sst := rfl
@[simp] theorem Dev.setShadow_err (s : Dev) (c : Nat) (v : Word) : (s.setShadow c v).err = s.err := rfl
@[simp] theorem Dev.setShadow_out (s : Dev) (c : Nat) (v : Word) : (s.setShadow c v).out = s.out := rfl
@[simp] theorem Dev.setShadow_free (s : Dev) (c : Nat) (v : Word) : (s.setShadow c v).free = s.free := rfl

/-! ### Dev.setReg changes `rw` alone -/

@[simp] theorem Dev.setReg_osc (s : Dev) (off : Nat) (v : Word) : (s.setReg off v).osc = s.osc := rfl
@[simp] theorem Dev.setReg_rlg (s : Dev) (off : Nat) (v : Word) : (s.setReg off v).rlg = s.rlg := rfl
@[simp] theorem Dev.setReg_capo (s : Dev) (off : Nat) (v : Word) : (s.setReg off v).capo = s.capo := rfl
@[simp] theorem Dev.setReg_run (s : Dev) (off : Nat) (v : Word) : (s.setReg off v).run = s.run := rfl
@[simp] theorem Dev.setReg_shadow (s : Dev) (off : Nat) (v : Word) : (s.setReg off v).shadow = s.shadow := rfl
@[simp] theorem Dev.setReg_cnt (s : Dev) (off : Nat) (v : Word) : (s.setReg off v).cnt = s.cnt := rfl
@[simp] theorem Dev.setReg_rings (s : Dev) (off : Nat) (v : Word) : (s.setReg off v).rings = s.rings := rfl
@[simp] theorem Dev.setReg_cqs (s : Dev) (off : Nat) (v : Word) : (s.setReg off v).cqs = s.cqs := rfl
@[simp] theorem Dev.setReg_ctrs (s : Dev) (off : Nat) (v : Word) : (s.setReg off v).ctrs = s.ctrs := rfl
@[simp] theorem Dev.setReg_pools (s : Dev) (off : Nat) (v : Word) : (s.setReg off v).pools = s.pools := rfl
@[simp] theorem Dev.setReg_ops (s : Dev) (off : Nat) (v : Word) : (s.setReg off v).ops = s.ops := rfl
@[simp] theorem Dev.setReg_launches (s : Dev) (off : Nat) (v : Word) : (s.setReg off v).launches = s.launches := rfl
@[simp] theorem Dev.setReg_connBacked (s : Dev) (off : Nat) (v : Word) : (s.setReg off v).connBacked = s.connBacked := rfl
@[simp] theorem Dev.setReg_connCache (s : Dev) (off : Nat) (v : Word) : (s.setReg off v).connCache = s.connCache := rfl
@[simp] theorem Dev.setReg_conns (s : Dev) (off : Nat) (v : Word) : (s.setReg off v).conns = s.conns := rfl
@[simp] theorem Dev.setReg_sch (s : Dev) (off : Nat) (v : Word) : (s.setReg off v).sch = s.sch := rfl
@[simp] theorem Dev.setReg_xlt (s : Dev) (off : Nat) (v : Word) : (s.setReg off v).xlt = s.xlt := rfl
@[simp] theorem Dev.setReg_hst (s : Dev) (off : Nat) (v : Word) : (s.setReg off v).hst = s.hst := rfl
@[simp] theorem Dev.setReg_tray (s : Dev) (off : Nat) (v : Word) : (s.setReg off v).tray = s.tray := rfl
@[simp] theorem Dev.setReg_rte (s : Dev) (off : Nat) (v : Word) : (s.setReg off v).rte = s.rte := rfl
@[simp] theorem Dev.setReg_slots (s : Dev) (off : Nat) (v : Word) : (s.setReg off v).slots = s.slots := rfl
@[simp] theorem Dev.setReg_exchs (s : Dev) (off : Nat) (v : Word) : (s.setReg off v).exchs = s.exchs := rfl
@[simp] theorem Dev.setReg_red (s : Dev) (off : Nat) (v : Word) : (s.setReg off v).red = s.red := rfl
@[simp] theorem Dev.setReg_stm (s : Dev) (off : Nat) (v : Word) : (s.setReg off v).stm = s.stm := rfl
@[simp] theorem Dev.setReg_cph (s : Dev) (off : Nat) (v : Word) : (s.setReg off v).cph = s.cph := rfl
@[simp] theorem Dev.setReg_ink (s : Dev) (off : Nat) (v : Word) : (s.setReg off v).ink = s.ink := rfl
@[simp] theorem Dev.setReg_mem (s : Dev) (off : Nat) (v : Word) : (s.setReg off v).mem = s.mem := rfl
@[simp] theorem Dev.setReg_ptns (s : Dev) (off : Nat) (v : Word) : (s.setReg off v).ptns = s.ptns := rfl
@[simp] theorem Dev.setReg_det (s : Dev) (off : Nat) (v : Word) : (s.setReg off v).det = s.det := rfl
@[simp] theorem Dev.setReg_fol (s : Dev) (off : Nat) (v : Word) : (s.setReg off v).fol = s.fol := rfl
@[simp] theorem Dev.setReg_opt (s : Dev) (off : Nat) (v : Word) : (s.setReg off v).opt = s.opt := rfl
@[simp] theorem Dev.setReg_bays (s : Dev) (off : Nat) (v : Word) : (s.setReg off v).bays = s.bays := rfl
@[simp] theorem Dev.setReg_lives (s : Dev) (off : Nat) (v : Word) : (s.setReg off v).lives = s.lives := rfl
@[simp] theorem Dev.setReg_qps (s : Dev) (off : Nat) (v : Word) : (s.setReg off v).qps = s.qps := rfl
@[simp] theorem Dev.setReg_eth (s : Dev) (off : Nat) (v : Word) : (s.setReg off v).eth = s.eth := rfl
@[simp] theorem Dev.setReg_mseg (s : Dev) (off : Nat) (v : Word) : (s.setReg off v).mseg = s.mseg := rfl
@[simp] theorem Dev.setReg_rst (s : Dev) (off : Nat) (v : Word) : (s.setReg off v).rst = s.rst := rfl
@[simp] theorem Dev.setReg_lcs (s : Dev) (off : Nat) (v : Word) : (s.setReg off v).lcs = s.lcs := rfl
@[simp] theorem Dev.setReg_sst (s : Dev) (off : Nat) (v : Word) : (s.setReg off v).sst = s.sst := rfl
@[simp] theorem Dev.setReg_err (s : Dev) (off : Nat) (v : Word) : (s.setReg off v).err = s.err := rfl
@[simp] theorem Dev.setReg_out (s : Dev) (off : Nat) (v : Word) : (s.setReg off v).out = s.out := rfl
@[simp] theorem Dev.setReg_free (s : Dev) (off : Nat) (v : Word) : (s.setReg off v).free = s.free := rfl

/-! ### Dev.bumpBy changes `cnt` alone -/

@[simp] theorem Dev.bumpBy_osc (s : Dev) (off n : Nat) : (s.bumpBy off n).osc = s.osc := rfl
@[simp] theorem Dev.bumpBy_rlg (s : Dev) (off n : Nat) : (s.bumpBy off n).rlg = s.rlg := rfl
@[simp] theorem Dev.bumpBy_capo (s : Dev) (off n : Nat) : (s.bumpBy off n).capo = s.capo := rfl
@[simp] theorem Dev.bumpBy_run (s : Dev) (off n : Nat) : (s.bumpBy off n).run = s.run := rfl
@[simp] theorem Dev.bumpBy_shadow (s : Dev) (off n : Nat) : (s.bumpBy off n).shadow = s.shadow := rfl
@[simp] theorem Dev.bumpBy_rw (s : Dev) (off n : Nat) : (s.bumpBy off n).rw = s.rw := rfl
@[simp] theorem Dev.bumpBy_rings (s : Dev) (off n : Nat) : (s.bumpBy off n).rings = s.rings := rfl
@[simp] theorem Dev.bumpBy_cqs (s : Dev) (off n : Nat) : (s.bumpBy off n).cqs = s.cqs := rfl
@[simp] theorem Dev.bumpBy_ctrs (s : Dev) (off n : Nat) : (s.bumpBy off n).ctrs = s.ctrs := rfl
@[simp] theorem Dev.bumpBy_pools (s : Dev) (off n : Nat) : (s.bumpBy off n).pools = s.pools := rfl
@[simp] theorem Dev.bumpBy_ops (s : Dev) (off n : Nat) : (s.bumpBy off n).ops = s.ops := rfl
@[simp] theorem Dev.bumpBy_launches (s : Dev) (off n : Nat) : (s.bumpBy off n).launches = s.launches := rfl
@[simp] theorem Dev.bumpBy_connBacked (s : Dev) (off n : Nat) : (s.bumpBy off n).connBacked = s.connBacked := rfl
@[simp] theorem Dev.bumpBy_connCache (s : Dev) (off n : Nat) : (s.bumpBy off n).connCache = s.connCache := rfl
@[simp] theorem Dev.bumpBy_conns (s : Dev) (off n : Nat) : (s.bumpBy off n).conns = s.conns := rfl
@[simp] theorem Dev.bumpBy_sch (s : Dev) (off n : Nat) : (s.bumpBy off n).sch = s.sch := rfl
@[simp] theorem Dev.bumpBy_xlt (s : Dev) (off n : Nat) : (s.bumpBy off n).xlt = s.xlt := rfl
@[simp] theorem Dev.bumpBy_hst (s : Dev) (off n : Nat) : (s.bumpBy off n).hst = s.hst := rfl
@[simp] theorem Dev.bumpBy_tray (s : Dev) (off n : Nat) : (s.bumpBy off n).tray = s.tray := rfl
@[simp] theorem Dev.bumpBy_rte (s : Dev) (off n : Nat) : (s.bumpBy off n).rte = s.rte := rfl
@[simp] theorem Dev.bumpBy_slots (s : Dev) (off n : Nat) : (s.bumpBy off n).slots = s.slots := rfl
@[simp] theorem Dev.bumpBy_exchs (s : Dev) (off n : Nat) : (s.bumpBy off n).exchs = s.exchs := rfl
@[simp] theorem Dev.bumpBy_red (s : Dev) (off n : Nat) : (s.bumpBy off n).red = s.red := rfl
@[simp] theorem Dev.bumpBy_stm (s : Dev) (off n : Nat) : (s.bumpBy off n).stm = s.stm := rfl
@[simp] theorem Dev.bumpBy_cph (s : Dev) (off n : Nat) : (s.bumpBy off n).cph = s.cph := rfl
@[simp] theorem Dev.bumpBy_ink (s : Dev) (off n : Nat) : (s.bumpBy off n).ink = s.ink := rfl
@[simp] theorem Dev.bumpBy_mem (s : Dev) (off n : Nat) : (s.bumpBy off n).mem = s.mem := rfl
@[simp] theorem Dev.bumpBy_ptns (s : Dev) (off n : Nat) : (s.bumpBy off n).ptns = s.ptns := rfl
@[simp] theorem Dev.bumpBy_det (s : Dev) (off n : Nat) : (s.bumpBy off n).det = s.det := rfl
@[simp] theorem Dev.bumpBy_fol (s : Dev) (off n : Nat) : (s.bumpBy off n).fol = s.fol := rfl
@[simp] theorem Dev.bumpBy_opt (s : Dev) (off n : Nat) : (s.bumpBy off n).opt = s.opt := rfl
@[simp] theorem Dev.bumpBy_bays (s : Dev) (off n : Nat) : (s.bumpBy off n).bays = s.bays := rfl
@[simp] theorem Dev.bumpBy_lives (s : Dev) (off n : Nat) : (s.bumpBy off n).lives = s.lives := rfl
@[simp] theorem Dev.bumpBy_qps (s : Dev) (off n : Nat) : (s.bumpBy off n).qps = s.qps := rfl
@[simp] theorem Dev.bumpBy_eth (s : Dev) (off n : Nat) : (s.bumpBy off n).eth = s.eth := rfl
@[simp] theorem Dev.bumpBy_mseg (s : Dev) (off n : Nat) : (s.bumpBy off n).mseg = s.mseg := rfl
@[simp] theorem Dev.bumpBy_rst (s : Dev) (off n : Nat) : (s.bumpBy off n).rst = s.rst := rfl
@[simp] theorem Dev.bumpBy_lcs (s : Dev) (off n : Nat) : (s.bumpBy off n).lcs = s.lcs := rfl
@[simp] theorem Dev.bumpBy_sst (s : Dev) (off n : Nat) : (s.bumpBy off n).sst = s.sst := rfl
@[simp] theorem Dev.bumpBy_err (s : Dev) (off n : Nat) : (s.bumpBy off n).err = s.err := rfl
@[simp] theorem Dev.bumpBy_out (s : Dev) (off n : Nat) : (s.bumpBy off n).out = s.out := rfl
@[simp] theorem Dev.bumpBy_free (s : Dev) (off n : Nat) : (s.bumpBy off n).free = s.free := rfl

/-! ### Dev.bump changes `cnt` alone -/

@[simp] theorem Dev.bump_osc (s : Dev) (off : Nat) : (s.bump off).osc = s.osc := rfl
@[simp] theorem Dev.bump_rlg (s : Dev) (off : Nat) : (s.bump off).rlg = s.rlg := rfl
@[simp] theorem Dev.bump_capo (s : Dev) (off : Nat) : (s.bump off).capo = s.capo := rfl
@[simp] theorem Dev.bump_run (s : Dev) (off : Nat) : (s.bump off).run = s.run := rfl
@[simp] theorem Dev.bump_shadow (s : Dev) (off : Nat) : (s.bump off).shadow = s.shadow := rfl
@[simp] theorem Dev.bump_rw (s : Dev) (off : Nat) : (s.bump off).rw = s.rw := rfl
@[simp] theorem Dev.bump_rings (s : Dev) (off : Nat) : (s.bump off).rings = s.rings := rfl
@[simp] theorem Dev.bump_cqs (s : Dev) (off : Nat) : (s.bump off).cqs = s.cqs := rfl
@[simp] theorem Dev.bump_ctrs (s : Dev) (off : Nat) : (s.bump off).ctrs = s.ctrs := rfl
@[simp] theorem Dev.bump_pools (s : Dev) (off : Nat) : (s.bump off).pools = s.pools := rfl
@[simp] theorem Dev.bump_ops (s : Dev) (off : Nat) : (s.bump off).ops = s.ops := rfl
@[simp] theorem Dev.bump_launches (s : Dev) (off : Nat) : (s.bump off).launches = s.launches := rfl
@[simp] theorem Dev.bump_connBacked (s : Dev) (off : Nat) : (s.bump off).connBacked = s.connBacked := rfl
@[simp] theorem Dev.bump_connCache (s : Dev) (off : Nat) : (s.bump off).connCache = s.connCache := rfl
@[simp] theorem Dev.bump_conns (s : Dev) (off : Nat) : (s.bump off).conns = s.conns := rfl
@[simp] theorem Dev.bump_sch (s : Dev) (off : Nat) : (s.bump off).sch = s.sch := rfl
@[simp] theorem Dev.bump_xlt (s : Dev) (off : Nat) : (s.bump off).xlt = s.xlt := rfl
@[simp] theorem Dev.bump_hst (s : Dev) (off : Nat) : (s.bump off).hst = s.hst := rfl
@[simp] theorem Dev.bump_tray (s : Dev) (off : Nat) : (s.bump off).tray = s.tray := rfl
@[simp] theorem Dev.bump_rte (s : Dev) (off : Nat) : (s.bump off).rte = s.rte := rfl
@[simp] theorem Dev.bump_slots (s : Dev) (off : Nat) : (s.bump off).slots = s.slots := rfl
@[simp] theorem Dev.bump_exchs (s : Dev) (off : Nat) : (s.bump off).exchs = s.exchs := rfl
@[simp] theorem Dev.bump_red (s : Dev) (off : Nat) : (s.bump off).red = s.red := rfl
@[simp] theorem Dev.bump_stm (s : Dev) (off : Nat) : (s.bump off).stm = s.stm := rfl
@[simp] theorem Dev.bump_cph (s : Dev) (off : Nat) : (s.bump off).cph = s.cph := rfl
@[simp] theorem Dev.bump_ink (s : Dev) (off : Nat) : (s.bump off).ink = s.ink := rfl
@[simp] theorem Dev.bump_mem (s : Dev) (off : Nat) : (s.bump off).mem = s.mem := rfl
@[simp] theorem Dev.bump_ptns (s : Dev) (off : Nat) : (s.bump off).ptns = s.ptns := rfl
@[simp] theorem Dev.bump_det (s : Dev) (off : Nat) : (s.bump off).det = s.det := rfl
@[simp] theorem Dev.bump_fol (s : Dev) (off : Nat) : (s.bump off).fol = s.fol := rfl
@[simp] theorem Dev.bump_opt (s : Dev) (off : Nat) : (s.bump off).opt = s.opt := rfl
@[simp] theorem Dev.bump_bays (s : Dev) (off : Nat) : (s.bump off).bays = s.bays := rfl
@[simp] theorem Dev.bump_lives (s : Dev) (off : Nat) : (s.bump off).lives = s.lives := rfl
@[simp] theorem Dev.bump_qps (s : Dev) (off : Nat) : (s.bump off).qps = s.qps := rfl
@[simp] theorem Dev.bump_eth (s : Dev) (off : Nat) : (s.bump off).eth = s.eth := rfl
@[simp] theorem Dev.bump_mseg (s : Dev) (off : Nat) : (s.bump off).mseg = s.mseg := rfl
@[simp] theorem Dev.bump_rst (s : Dev) (off : Nat) : (s.bump off).rst = s.rst := rfl
@[simp] theorem Dev.bump_lcs (s : Dev) (off : Nat) : (s.bump off).lcs = s.lcs := rfl
@[simp] theorem Dev.bump_sst (s : Dev) (off : Nat) : (s.bump off).sst = s.sst := rfl
@[simp] theorem Dev.bump_err (s : Dev) (off : Nat) : (s.bump off).err = s.err := rfl
@[simp] theorem Dev.bump_out (s : Dev) (off : Nat) : (s.bump off).out = s.out := rfl
@[simp] theorem Dev.bump_free (s : Dev) (off : Nat) : (s.bump off).free = s.free := rfl

/-! ### Dev.setRlgPort changes `rlg` alone -/

@[simp] theorem Dev.setRlgPort_osc (s : Dev) (p : Nat) (x : RlgPort) : (s.setRlgPort p x).osc = s.osc := rfl
@[simp] theorem Dev.setRlgPort_capo (s : Dev) (p : Nat) (x : RlgPort) : (s.setRlgPort p x).capo = s.capo := rfl
@[simp] theorem Dev.setRlgPort_run (s : Dev) (p : Nat) (x : RlgPort) : (s.setRlgPort p x).run = s.run := rfl
@[simp] theorem Dev.setRlgPort_shadow (s : Dev) (p : Nat) (x : RlgPort) : (s.setRlgPort p x).shadow = s.shadow := rfl
@[simp] theorem Dev.setRlgPort_rw (s : Dev) (p : Nat) (x : RlgPort) : (s.setRlgPort p x).rw = s.rw := rfl
@[simp] theorem Dev.setRlgPort_cnt (s : Dev) (p : Nat) (x : RlgPort) : (s.setRlgPort p x).cnt = s.cnt := rfl
@[simp] theorem Dev.setRlgPort_rings (s : Dev) (p : Nat) (x : RlgPort) : (s.setRlgPort p x).rings = s.rings := rfl
@[simp] theorem Dev.setRlgPort_cqs (s : Dev) (p : Nat) (x : RlgPort) : (s.setRlgPort p x).cqs = s.cqs := rfl
@[simp] theorem Dev.setRlgPort_ctrs (s : Dev) (p : Nat) (x : RlgPort) : (s.setRlgPort p x).ctrs = s.ctrs := rfl
@[simp] theorem Dev.setRlgPort_pools (s : Dev) (p : Nat) (x : RlgPort) : (s.setRlgPort p x).pools = s.pools := rfl
@[simp] theorem Dev.setRlgPort_ops (s : Dev) (p : Nat) (x : RlgPort) : (s.setRlgPort p x).ops = s.ops := rfl
@[simp] theorem Dev.setRlgPort_launches (s : Dev) (p : Nat) (x : RlgPort) : (s.setRlgPort p x).launches = s.launches := rfl
@[simp] theorem Dev.setRlgPort_connBacked (s : Dev) (p : Nat) (x : RlgPort) : (s.setRlgPort p x).connBacked = s.connBacked := rfl
@[simp] theorem Dev.setRlgPort_connCache (s : Dev) (p : Nat) (x : RlgPort) : (s.setRlgPort p x).connCache = s.connCache := rfl
@[simp] theorem Dev.setRlgPort_conns (s : Dev) (p : Nat) (x : RlgPort) : (s.setRlgPort p x).conns = s.conns := rfl
@[simp] theorem Dev.setRlgPort_sch (s : Dev) (p : Nat) (x : RlgPort) : (s.setRlgPort p x).sch = s.sch := rfl
@[simp] theorem Dev.setRlgPort_xlt (s : Dev) (p : Nat) (x : RlgPort) : (s.setRlgPort p x).xlt = s.xlt := rfl
@[simp] theorem Dev.setRlgPort_hst (s : Dev) (p : Nat) (x : RlgPort) : (s.setRlgPort p x).hst = s.hst := rfl
@[simp] theorem Dev.setRlgPort_tray (s : Dev) (p : Nat) (x : RlgPort) : (s.setRlgPort p x).tray = s.tray := rfl
@[simp] theorem Dev.setRlgPort_rte (s : Dev) (p : Nat) (x : RlgPort) : (s.setRlgPort p x).rte = s.rte := rfl
@[simp] theorem Dev.setRlgPort_slots (s : Dev) (p : Nat) (x : RlgPort) : (s.setRlgPort p x).slots = s.slots := rfl
@[simp] theorem Dev.setRlgPort_exchs (s : Dev) (p : Nat) (x : RlgPort) : (s.setRlgPort p x).exchs = s.exchs := rfl
@[simp] theorem Dev.setRlgPort_red (s : Dev) (p : Nat) (x : RlgPort) : (s.setRlgPort p x).red = s.red := rfl
@[simp] theorem Dev.setRlgPort_stm (s : Dev) (p : Nat) (x : RlgPort) : (s.setRlgPort p x).stm = s.stm := rfl
@[simp] theorem Dev.setRlgPort_cph (s : Dev) (p : Nat) (x : RlgPort) : (s.setRlgPort p x).cph = s.cph := rfl
@[simp] theorem Dev.setRlgPort_ink (s : Dev) (p : Nat) (x : RlgPort) : (s.setRlgPort p x).ink = s.ink := rfl
@[simp] theorem Dev.setRlgPort_mem (s : Dev) (p : Nat) (x : RlgPort) : (s.setRlgPort p x).mem = s.mem := rfl
@[simp] theorem Dev.setRlgPort_ptns (s : Dev) (p : Nat) (x : RlgPort) : (s.setRlgPort p x).ptns = s.ptns := rfl
@[simp] theorem Dev.setRlgPort_det (s : Dev) (p : Nat) (x : RlgPort) : (s.setRlgPort p x).det = s.det := rfl
@[simp] theorem Dev.setRlgPort_fol (s : Dev) (p : Nat) (x : RlgPort) : (s.setRlgPort p x).fol = s.fol := rfl
@[simp] theorem Dev.setRlgPort_opt (s : Dev) (p : Nat) (x : RlgPort) : (s.setRlgPort p x).opt = s.opt := rfl
@[simp] theorem Dev.setRlgPort_bays (s : Dev) (p : Nat) (x : RlgPort) : (s.setRlgPort p x).bays = s.bays := rfl
@[simp] theorem Dev.setRlgPort_lives (s : Dev) (p : Nat) (x : RlgPort) : (s.setRlgPort p x).lives = s.lives := rfl
@[simp] theorem Dev.setRlgPort_qps (s : Dev) (p : Nat) (x : RlgPort) : (s.setRlgPort p x).qps = s.qps := rfl
@[simp] theorem Dev.setRlgPort_eth (s : Dev) (p : Nat) (x : RlgPort) : (s.setRlgPort p x).eth = s.eth := rfl
@[simp] theorem Dev.setRlgPort_mseg (s : Dev) (p : Nat) (x : RlgPort) : (s.setRlgPort p x).mseg = s.mseg := rfl
@[simp] theorem Dev.setRlgPort_rst (s : Dev) (p : Nat) (x : RlgPort) : (s.setRlgPort p x).rst = s.rst := rfl
@[simp] theorem Dev.setRlgPort_lcs (s : Dev) (p : Nat) (x : RlgPort) : (s.setRlgPort p x).lcs = s.lcs := rfl
@[simp] theorem Dev.setRlgPort_sst (s : Dev) (p : Nat) (x : RlgPort) : (s.setRlgPort p x).sst = s.sst := rfl
@[simp] theorem Dev.setRlgPort_err (s : Dev) (p : Nat) (x : RlgPort) : (s.setRlgPort p x).err = s.err := rfl
@[simp] theorem Dev.setRlgPort_out (s : Dev) (p : Nat) (x : RlgPort) : (s.setRlgPort p x).out = s.out := rfl
@[simp] theorem Dev.setRlgPort_free (s : Dev) (p : Nat) (x : RlgPort) : (s.setRlgPort p x).free = s.free := rfl

/-! ### Dev.setRing changes `rings` alone -/

@[simp] theorem Dev.setRing_osc (s : Dev) (r : Nat) (x : Ring) : (s.setRing r x).osc = s.osc := rfl
@[simp] theorem Dev.setRing_rlg (s : Dev) (r : Nat) (x : Ring) : (s.setRing r x).rlg = s.rlg := rfl
@[simp] theorem Dev.setRing_capo (s : Dev) (r : Nat) (x : Ring) : (s.setRing r x).capo = s.capo := rfl
@[simp] theorem Dev.setRing_run (s : Dev) (r : Nat) (x : Ring) : (s.setRing r x).run = s.run := rfl
@[simp] theorem Dev.setRing_shadow (s : Dev) (r : Nat) (x : Ring) : (s.setRing r x).shadow = s.shadow := rfl
@[simp] theorem Dev.setRing_rw (s : Dev) (r : Nat) (x : Ring) : (s.setRing r x).rw = s.rw := rfl
@[simp] theorem Dev.setRing_cnt (s : Dev) (r : Nat) (x : Ring) : (s.setRing r x).cnt = s.cnt := rfl
@[simp] theorem Dev.setRing_cqs (s : Dev) (r : Nat) (x : Ring) : (s.setRing r x).cqs = s.cqs := rfl
@[simp] theorem Dev.setRing_ctrs (s : Dev) (r : Nat) (x : Ring) : (s.setRing r x).ctrs = s.ctrs := rfl
@[simp] theorem Dev.setRing_pools (s : Dev) (r : Nat) (x : Ring) : (s.setRing r x).pools = s.pools := rfl
@[simp] theorem Dev.setRing_ops (s : Dev) (r : Nat) (x : Ring) : (s.setRing r x).ops = s.ops := rfl
@[simp] theorem Dev.setRing_launches (s : Dev) (r : Nat) (x : Ring) : (s.setRing r x).launches = s.launches := rfl
@[simp] theorem Dev.setRing_connBacked (s : Dev) (r : Nat) (x : Ring) : (s.setRing r x).connBacked = s.connBacked := rfl
@[simp] theorem Dev.setRing_connCache (s : Dev) (r : Nat) (x : Ring) : (s.setRing r x).connCache = s.connCache := rfl
@[simp] theorem Dev.setRing_conns (s : Dev) (r : Nat) (x : Ring) : (s.setRing r x).conns = s.conns := rfl
@[simp] theorem Dev.setRing_sch (s : Dev) (r : Nat) (x : Ring) : (s.setRing r x).sch = s.sch := rfl
@[simp] theorem Dev.setRing_xlt (s : Dev) (r : Nat) (x : Ring) : (s.setRing r x).xlt = s.xlt := rfl
@[simp] theorem Dev.setRing_hst (s : Dev) (r : Nat) (x : Ring) : (s.setRing r x).hst = s.hst := rfl
@[simp] theorem Dev.setRing_tray (s : Dev) (r : Nat) (x : Ring) : (s.setRing r x).tray = s.tray := rfl
@[simp] theorem Dev.setRing_rte (s : Dev) (r : Nat) (x : Ring) : (s.setRing r x).rte = s.rte := rfl
@[simp] theorem Dev.setRing_slots (s : Dev) (r : Nat) (x : Ring) : (s.setRing r x).slots = s.slots := rfl
@[simp] theorem Dev.setRing_exchs (s : Dev) (r : Nat) (x : Ring) : (s.setRing r x).exchs = s.exchs := rfl
@[simp] theorem Dev.setRing_red (s : Dev) (r : Nat) (x : Ring) : (s.setRing r x).red = s.red := rfl
@[simp] theorem Dev.setRing_stm (s : Dev) (r : Nat) (x : Ring) : (s.setRing r x).stm = s.stm := rfl
@[simp] theorem Dev.setRing_cph (s : Dev) (r : Nat) (x : Ring) : (s.setRing r x).cph = s.cph := rfl
@[simp] theorem Dev.setRing_ink (s : Dev) (r : Nat) (x : Ring) : (s.setRing r x).ink = s.ink := rfl
@[simp] theorem Dev.setRing_mem (s : Dev) (r : Nat) (x : Ring) : (s.setRing r x).mem = s.mem := rfl
@[simp] theorem Dev.setRing_ptns (s : Dev) (r : Nat) (x : Ring) : (s.setRing r x).ptns = s.ptns := rfl
@[simp] theorem Dev.setRing_det (s : Dev) (r : Nat) (x : Ring) : (s.setRing r x).det = s.det := rfl
@[simp] theorem Dev.setRing_fol (s : Dev) (r : Nat) (x : Ring) : (s.setRing r x).fol = s.fol := rfl
@[simp] theorem Dev.setRing_opt (s : Dev) (r : Nat) (x : Ring) : (s.setRing r x).opt = s.opt := rfl
@[simp] theorem Dev.setRing_bays (s : Dev) (r : Nat) (x : Ring) : (s.setRing r x).bays = s.bays := rfl
@[simp] theorem Dev.setRing_lives (s : Dev) (r : Nat) (x : Ring) : (s.setRing r x).lives = s.lives := rfl
@[simp] theorem Dev.setRing_qps (s : Dev) (r : Nat) (x : Ring) : (s.setRing r x).qps = s.qps := rfl
@[simp] theorem Dev.setRing_eth (s : Dev) (r : Nat) (x : Ring) : (s.setRing r x).eth = s.eth := rfl
@[simp] theorem Dev.setRing_mseg (s : Dev) (r : Nat) (x : Ring) : (s.setRing r x).mseg = s.mseg := rfl
@[simp] theorem Dev.setRing_rst (s : Dev) (r : Nat) (x : Ring) : (s.setRing r x).rst = s.rst := rfl
@[simp] theorem Dev.setRing_lcs (s : Dev) (r : Nat) (x : Ring) : (s.setRing r x).lcs = s.lcs := rfl
@[simp] theorem Dev.setRing_sst (s : Dev) (r : Nat) (x : Ring) : (s.setRing r x).sst = s.sst := rfl
@[simp] theorem Dev.setRing_err (s : Dev) (r : Nat) (x : Ring) : (s.setRing r x).err = s.err := rfl
@[simp] theorem Dev.setRing_out (s : Dev) (r : Nat) (x : Ring) : (s.setRing r x).out = s.out := rfl
@[simp] theorem Dev.setRing_free (s : Dev) (r : Nat) (x : Ring) : (s.setRing r x).free = s.free := rfl

/-! ### Dev.setCq changes `cqs` alone -/

@[simp] theorem Dev.setCq_osc (s : Dev) (r : Nat) (x : Cq) : (s.setCq r x).osc = s.osc := rfl
@[simp] theorem Dev.setCq_rlg (s : Dev) (r : Nat) (x : Cq) : (s.setCq r x).rlg = s.rlg := rfl
@[simp] theorem Dev.setCq_capo (s : Dev) (r : Nat) (x : Cq) : (s.setCq r x).capo = s.capo := rfl
@[simp] theorem Dev.setCq_run (s : Dev) (r : Nat) (x : Cq) : (s.setCq r x).run = s.run := rfl
@[simp] theorem Dev.setCq_shadow (s : Dev) (r : Nat) (x : Cq) : (s.setCq r x).shadow = s.shadow := rfl
@[simp] theorem Dev.setCq_rw (s : Dev) (r : Nat) (x : Cq) : (s.setCq r x).rw = s.rw := rfl
@[simp] theorem Dev.setCq_cnt (s : Dev) (r : Nat) (x : Cq) : (s.setCq r x).cnt = s.cnt := rfl
@[simp] theorem Dev.setCq_rings (s : Dev) (r : Nat) (x : Cq) : (s.setCq r x).rings = s.rings := rfl
@[simp] theorem Dev.setCq_ctrs (s : Dev) (r : Nat) (x : Cq) : (s.setCq r x).ctrs = s.ctrs := rfl
@[simp] theorem Dev.setCq_pools (s : Dev) (r : Nat) (x : Cq) : (s.setCq r x).pools = s.pools := rfl
@[simp] theorem Dev.setCq_ops (s : Dev) (r : Nat) (x : Cq) : (s.setCq r x).ops = s.ops := rfl
@[simp] theorem Dev.setCq_launches (s : Dev) (r : Nat) (x : Cq) : (s.setCq r x).launches = s.launches := rfl
@[simp] theorem Dev.setCq_connBacked (s : Dev) (r : Nat) (x : Cq) : (s.setCq r x).connBacked = s.connBacked := rfl
@[simp] theorem Dev.setCq_connCache (s : Dev) (r : Nat) (x : Cq) : (s.setCq r x).connCache = s.connCache := rfl
@[simp] theorem Dev.setCq_conns (s : Dev) (r : Nat) (x : Cq) : (s.setCq r x).conns = s.conns := rfl
@[simp] theorem Dev.setCq_sch (s : Dev) (r : Nat) (x : Cq) : (s.setCq r x).sch = s.sch := rfl
@[simp] theorem Dev.setCq_xlt (s : Dev) (r : Nat) (x : Cq) : (s.setCq r x).xlt = s.xlt := rfl
@[simp] theorem Dev.setCq_hst (s : Dev) (r : Nat) (x : Cq) : (s.setCq r x).hst = s.hst := rfl
@[simp] theorem Dev.setCq_tray (s : Dev) (r : Nat) (x : Cq) : (s.setCq r x).tray = s.tray := rfl
@[simp] theorem Dev.setCq_rte (s : Dev) (r : Nat) (x : Cq) : (s.setCq r x).rte = s.rte := rfl
@[simp] theorem Dev.setCq_slots (s : Dev) (r : Nat) (x : Cq) : (s.setCq r x).slots = s.slots := rfl
@[simp] theorem Dev.setCq_exchs (s : Dev) (r : Nat) (x : Cq) : (s.setCq r x).exchs = s.exchs := rfl
@[simp] theorem Dev.setCq_red (s : Dev) (r : Nat) (x : Cq) : (s.setCq r x).red = s.red := rfl
@[simp] theorem Dev.setCq_stm (s : Dev) (r : Nat) (x : Cq) : (s.setCq r x).stm = s.stm := rfl
@[simp] theorem Dev.setCq_cph (s : Dev) (r : Nat) (x : Cq) : (s.setCq r x).cph = s.cph := rfl
@[simp] theorem Dev.setCq_ink (s : Dev) (r : Nat) (x : Cq) : (s.setCq r x).ink = s.ink := rfl
@[simp] theorem Dev.setCq_mem (s : Dev) (r : Nat) (x : Cq) : (s.setCq r x).mem = s.mem := rfl
@[simp] theorem Dev.setCq_ptns (s : Dev) (r : Nat) (x : Cq) : (s.setCq r x).ptns = s.ptns := rfl
@[simp] theorem Dev.setCq_det (s : Dev) (r : Nat) (x : Cq) : (s.setCq r x).det = s.det := rfl
@[simp] theorem Dev.setCq_fol (s : Dev) (r : Nat) (x : Cq) : (s.setCq r x).fol = s.fol := rfl
@[simp] theorem Dev.setCq_opt (s : Dev) (r : Nat) (x : Cq) : (s.setCq r x).opt = s.opt := rfl
@[simp] theorem Dev.setCq_bays (s : Dev) (r : Nat) (x : Cq) : (s.setCq r x).bays = s.bays := rfl
@[simp] theorem Dev.setCq_lives (s : Dev) (r : Nat) (x : Cq) : (s.setCq r x).lives = s.lives := rfl
@[simp] theorem Dev.setCq_qps (s : Dev) (r : Nat) (x : Cq) : (s.setCq r x).qps = s.qps := rfl
@[simp] theorem Dev.setCq_eth (s : Dev) (r : Nat) (x : Cq) : (s.setCq r x).eth = s.eth := rfl
@[simp] theorem Dev.setCq_mseg (s : Dev) (r : Nat) (x : Cq) : (s.setCq r x).mseg = s.mseg := rfl
@[simp] theorem Dev.setCq_rst (s : Dev) (r : Nat) (x : Cq) : (s.setCq r x).rst = s.rst := rfl
@[simp] theorem Dev.setCq_lcs (s : Dev) (r : Nat) (x : Cq) : (s.setCq r x).lcs = s.lcs := rfl
@[simp] theorem Dev.setCq_sst (s : Dev) (r : Nat) (x : Cq) : (s.setCq r x).sst = s.sst := rfl
@[simp] theorem Dev.setCq_err (s : Dev) (r : Nat) (x : Cq) : (s.setCq r x).err = s.err := rfl
@[simp] theorem Dev.setCq_out (s : Dev) (r : Nat) (x : Cq) : (s.setCq r x).out = s.out := rfl
@[simp] theorem Dev.setCq_free (s : Dev) (r : Nat) (x : Cq) : (s.setCq r x).free = s.free := rfl

/-! ### Dev.setCtr changes `ctrs` alone -/

@[simp] theorem Dev.setCtr_osc (s : Dev) (c : Nat) (x : EvCtr) : (s.setCtr c x).osc = s.osc := rfl
@[simp] theorem Dev.setCtr_rlg (s : Dev) (c : Nat) (x : EvCtr) : (s.setCtr c x).rlg = s.rlg := rfl
@[simp] theorem Dev.setCtr_capo (s : Dev) (c : Nat) (x : EvCtr) : (s.setCtr c x).capo = s.capo := rfl
@[simp] theorem Dev.setCtr_run (s : Dev) (c : Nat) (x : EvCtr) : (s.setCtr c x).run = s.run := rfl
@[simp] theorem Dev.setCtr_shadow (s : Dev) (c : Nat) (x : EvCtr) : (s.setCtr c x).shadow = s.shadow := rfl
@[simp] theorem Dev.setCtr_rw (s : Dev) (c : Nat) (x : EvCtr) : (s.setCtr c x).rw = s.rw := rfl
@[simp] theorem Dev.setCtr_cnt (s : Dev) (c : Nat) (x : EvCtr) : (s.setCtr c x).cnt = s.cnt := rfl
@[simp] theorem Dev.setCtr_rings (s : Dev) (c : Nat) (x : EvCtr) : (s.setCtr c x).rings = s.rings := rfl
@[simp] theorem Dev.setCtr_cqs (s : Dev) (c : Nat) (x : EvCtr) : (s.setCtr c x).cqs = s.cqs := rfl
@[simp] theorem Dev.setCtr_pools (s : Dev) (c : Nat) (x : EvCtr) : (s.setCtr c x).pools = s.pools := rfl
@[simp] theorem Dev.setCtr_ops (s : Dev) (c : Nat) (x : EvCtr) : (s.setCtr c x).ops = s.ops := rfl
@[simp] theorem Dev.setCtr_launches (s : Dev) (c : Nat) (x : EvCtr) : (s.setCtr c x).launches = s.launches := rfl
@[simp] theorem Dev.setCtr_connBacked (s : Dev) (c : Nat) (x : EvCtr) : (s.setCtr c x).connBacked = s.connBacked := rfl
@[simp] theorem Dev.setCtr_connCache (s : Dev) (c : Nat) (x : EvCtr) : (s.setCtr c x).connCache = s.connCache := rfl
@[simp] theorem Dev.setCtr_conns (s : Dev) (c : Nat) (x : EvCtr) : (s.setCtr c x).conns = s.conns := rfl
@[simp] theorem Dev.setCtr_sch (s : Dev) (c : Nat) (x : EvCtr) : (s.setCtr c x).sch = s.sch := rfl
@[simp] theorem Dev.setCtr_xlt (s : Dev) (c : Nat) (x : EvCtr) : (s.setCtr c x).xlt = s.xlt := rfl
@[simp] theorem Dev.setCtr_hst (s : Dev) (c : Nat) (x : EvCtr) : (s.setCtr c x).hst = s.hst := rfl
@[simp] theorem Dev.setCtr_tray (s : Dev) (c : Nat) (x : EvCtr) : (s.setCtr c x).tray = s.tray := rfl
@[simp] theorem Dev.setCtr_rte (s : Dev) (c : Nat) (x : EvCtr) : (s.setCtr c x).rte = s.rte := rfl
@[simp] theorem Dev.setCtr_slots (s : Dev) (c : Nat) (x : EvCtr) : (s.setCtr c x).slots = s.slots := rfl
@[simp] theorem Dev.setCtr_exchs (s : Dev) (c : Nat) (x : EvCtr) : (s.setCtr c x).exchs = s.exchs := rfl
@[simp] theorem Dev.setCtr_red (s : Dev) (c : Nat) (x : EvCtr) : (s.setCtr c x).red = s.red := rfl
@[simp] theorem Dev.setCtr_stm (s : Dev) (c : Nat) (x : EvCtr) : (s.setCtr c x).stm = s.stm := rfl
@[simp] theorem Dev.setCtr_cph (s : Dev) (c : Nat) (x : EvCtr) : (s.setCtr c x).cph = s.cph := rfl
@[simp] theorem Dev.setCtr_ink (s : Dev) (c : Nat) (x : EvCtr) : (s.setCtr c x).ink = s.ink := rfl
@[simp] theorem Dev.setCtr_mem (s : Dev) (c : Nat) (x : EvCtr) : (s.setCtr c x).mem = s.mem := rfl
@[simp] theorem Dev.setCtr_ptns (s : Dev) (c : Nat) (x : EvCtr) : (s.setCtr c x).ptns = s.ptns := rfl
@[simp] theorem Dev.setCtr_det (s : Dev) (c : Nat) (x : EvCtr) : (s.setCtr c x).det = s.det := rfl
@[simp] theorem Dev.setCtr_fol (s : Dev) (c : Nat) (x : EvCtr) : (s.setCtr c x).fol = s.fol := rfl
@[simp] theorem Dev.setCtr_opt (s : Dev) (c : Nat) (x : EvCtr) : (s.setCtr c x).opt = s.opt := rfl
@[simp] theorem Dev.setCtr_bays (s : Dev) (c : Nat) (x : EvCtr) : (s.setCtr c x).bays = s.bays := rfl
@[simp] theorem Dev.setCtr_lives (s : Dev) (c : Nat) (x : EvCtr) : (s.setCtr c x).lives = s.lives := rfl
@[simp] theorem Dev.setCtr_qps (s : Dev) (c : Nat) (x : EvCtr) : (s.setCtr c x).qps = s.qps := rfl
@[simp] theorem Dev.setCtr_eth (s : Dev) (c : Nat) (x : EvCtr) : (s.setCtr c x).eth = s.eth := rfl
@[simp] theorem Dev.setCtr_mseg (s : Dev) (c : Nat) (x : EvCtr) : (s.setCtr c x).mseg = s.mseg := rfl
@[simp] theorem Dev.setCtr_rst (s : Dev) (c : Nat) (x : EvCtr) : (s.setCtr c x).rst = s.rst := rfl
@[simp] theorem Dev.setCtr_lcs (s : Dev) (c : Nat) (x : EvCtr) : (s.setCtr c x).lcs = s.lcs := rfl
@[simp] theorem Dev.setCtr_sst (s : Dev) (c : Nat) (x : EvCtr) : (s.setCtr c x).sst = s.sst := rfl
@[simp] theorem Dev.setCtr_err (s : Dev) (c : Nat) (x : EvCtr) : (s.setCtr c x).err = s.err := rfl
@[simp] theorem Dev.setCtr_out (s : Dev) (c : Nat) (x : EvCtr) : (s.setCtr c x).out = s.out := rfl
@[simp] theorem Dev.setCtr_free (s : Dev) (c : Nat) (x : EvCtr) : (s.setCtr c x).free = s.free := rfl

/-! ### Dev.setPool changes `pools` alone -/

@[simp] theorem Dev.setPool_osc (s : Dev) (p : Nat) (x : List PoolBuf) : (s.setPool p x).osc = s.osc := rfl
@[simp] theorem Dev.setPool_rlg (s : Dev) (p : Nat) (x : List PoolBuf) : (s.setPool p x).rlg = s.rlg := rfl
@[simp] theorem Dev.setPool_capo (s : Dev) (p : Nat) (x : List PoolBuf) : (s.setPool p x).capo = s.capo := rfl
@[simp] theorem Dev.setPool_run (s : Dev) (p : Nat) (x : List PoolBuf) : (s.setPool p x).run = s.run := rfl
@[simp] theorem Dev.setPool_shadow (s : Dev) (p : Nat) (x : List PoolBuf) : (s.setPool p x).shadow = s.shadow := rfl
@[simp] theorem Dev.setPool_rw (s : Dev) (p : Nat) (x : List PoolBuf) : (s.setPool p x).rw = s.rw := rfl
@[simp] theorem Dev.setPool_cnt (s : Dev) (p : Nat) (x : List PoolBuf) : (s.setPool p x).cnt = s.cnt := rfl
@[simp] theorem Dev.setPool_rings (s : Dev) (p : Nat) (x : List PoolBuf) : (s.setPool p x).rings = s.rings := rfl
@[simp] theorem Dev.setPool_cqs (s : Dev) (p : Nat) (x : List PoolBuf) : (s.setPool p x).cqs = s.cqs := rfl
@[simp] theorem Dev.setPool_ctrs (s : Dev) (p : Nat) (x : List PoolBuf) : (s.setPool p x).ctrs = s.ctrs := rfl
@[simp] theorem Dev.setPool_ops (s : Dev) (p : Nat) (x : List PoolBuf) : (s.setPool p x).ops = s.ops := rfl
@[simp] theorem Dev.setPool_launches (s : Dev) (p : Nat) (x : List PoolBuf) : (s.setPool p x).launches = s.launches := rfl
@[simp] theorem Dev.setPool_connBacked (s : Dev) (p : Nat) (x : List PoolBuf) : (s.setPool p x).connBacked = s.connBacked := rfl
@[simp] theorem Dev.setPool_connCache (s : Dev) (p : Nat) (x : List PoolBuf) : (s.setPool p x).connCache = s.connCache := rfl
@[simp] theorem Dev.setPool_conns (s : Dev) (p : Nat) (x : List PoolBuf) : (s.setPool p x).conns = s.conns := rfl
@[simp] theorem Dev.setPool_sch (s : Dev) (p : Nat) (x : List PoolBuf) : (s.setPool p x).sch = s.sch := rfl
@[simp] theorem Dev.setPool_xlt (s : Dev) (p : Nat) (x : List PoolBuf) : (s.setPool p x).xlt = s.xlt := rfl
@[simp] theorem Dev.setPool_hst (s : Dev) (p : Nat) (x : List PoolBuf) : (s.setPool p x).hst = s.hst := rfl
@[simp] theorem Dev.setPool_tray (s : Dev) (p : Nat) (x : List PoolBuf) : (s.setPool p x).tray = s.tray := rfl
@[simp] theorem Dev.setPool_rte (s : Dev) (p : Nat) (x : List PoolBuf) : (s.setPool p x).rte = s.rte := rfl
@[simp] theorem Dev.setPool_slots (s : Dev) (p : Nat) (x : List PoolBuf) : (s.setPool p x).slots = s.slots := rfl
@[simp] theorem Dev.setPool_exchs (s : Dev) (p : Nat) (x : List PoolBuf) : (s.setPool p x).exchs = s.exchs := rfl
@[simp] theorem Dev.setPool_red (s : Dev) (p : Nat) (x : List PoolBuf) : (s.setPool p x).red = s.red := rfl
@[simp] theorem Dev.setPool_stm (s : Dev) (p : Nat) (x : List PoolBuf) : (s.setPool p x).stm = s.stm := rfl
@[simp] theorem Dev.setPool_cph (s : Dev) (p : Nat) (x : List PoolBuf) : (s.setPool p x).cph = s.cph := rfl
@[simp] theorem Dev.setPool_ink (s : Dev) (p : Nat) (x : List PoolBuf) : (s.setPool p x).ink = s.ink := rfl
@[simp] theorem Dev.setPool_mem (s : Dev) (p : Nat) (x : List PoolBuf) : (s.setPool p x).mem = s.mem := rfl
@[simp] theorem Dev.setPool_ptns (s : Dev) (p : Nat) (x : List PoolBuf) : (s.setPool p x).ptns = s.ptns := rfl
@[simp] theorem Dev.setPool_det (s : Dev) (p : Nat) (x : List PoolBuf) : (s.setPool p x).det = s.det := rfl
@[simp] theorem Dev.setPool_fol (s : Dev) (p : Nat) (x : List PoolBuf) : (s.setPool p x).fol = s.fol := rfl
@[simp] theorem Dev.setPool_opt (s : Dev) (p : Nat) (x : List PoolBuf) : (s.setPool p x).opt = s.opt := rfl
@[simp] theorem Dev.setPool_bays (s : Dev) (p : Nat) (x : List PoolBuf) : (s.setPool p x).bays = s.bays := rfl
@[simp] theorem Dev.setPool_lives (s : Dev) (p : Nat) (x : List PoolBuf) : (s.setPool p x).lives = s.lives := rfl
@[simp] theorem Dev.setPool_qps (s : Dev) (p : Nat) (x : List PoolBuf) : (s.setPool p x).qps = s.qps := rfl
@[simp] theorem Dev.setPool_eth (s : Dev) (p : Nat) (x : List PoolBuf) : (s.setPool p x).eth = s.eth := rfl
@[simp] theorem Dev.setPool_mseg (s : Dev) (p : Nat) (x : List PoolBuf) : (s.setPool p x).mseg = s.mseg := rfl
@[simp] theorem Dev.setPool_rst (s : Dev) (p : Nat) (x : List PoolBuf) : (s.setPool p x).rst = s.rst := rfl
@[simp] theorem Dev.setPool_lcs (s : Dev) (p : Nat) (x : List PoolBuf) : (s.setPool p x).lcs = s.lcs := rfl
@[simp] theorem Dev.setPool_sst (s : Dev) (p : Nat) (x : List PoolBuf) : (s.setPool p x).sst = s.sst := rfl
@[simp] theorem Dev.setPool_err (s : Dev) (p : Nat) (x : List PoolBuf) : (s.setPool p x).err = s.err := rfl
@[simp] theorem Dev.setPool_out (s : Dev) (p : Nat) (x : List PoolBuf) : (s.setPool p x).out = s.out := rfl
@[simp] theorem Dev.setPool_free (s : Dev) (p : Nat) (x : List PoolBuf) : (s.setPool p x).free = s.free := rfl

/-! ### Dev.setConn changes `conns` alone -/

@[simp] theorem Dev.setConn_osc (s : Dev) (c : Nat) (x : Conn) : (s.setConn c x).osc = s.osc := rfl
@[simp] theorem Dev.setConn_rlg (s : Dev) (c : Nat) (x : Conn) : (s.setConn c x).rlg = s.rlg := rfl
@[simp] theorem Dev.setConn_capo (s : Dev) (c : Nat) (x : Conn) : (s.setConn c x).capo = s.capo := rfl
@[simp] theorem Dev.setConn_run (s : Dev) (c : Nat) (x : Conn) : (s.setConn c x).run = s.run := rfl
@[simp] theorem Dev.setConn_shadow (s : Dev) (c : Nat) (x : Conn) : (s.setConn c x).shadow = s.shadow := rfl
@[simp] theorem Dev.setConn_rw (s : Dev) (c : Nat) (x : Conn) : (s.setConn c x).rw = s.rw := rfl
@[simp] theorem Dev.setConn_cnt (s : Dev) (c : Nat) (x : Conn) : (s.setConn c x).cnt = s.cnt := rfl
@[simp] theorem Dev.setConn_rings (s : Dev) (c : Nat) (x : Conn) : (s.setConn c x).rings = s.rings := rfl
@[simp] theorem Dev.setConn_cqs (s : Dev) (c : Nat) (x : Conn) : (s.setConn c x).cqs = s.cqs := rfl
@[simp] theorem Dev.setConn_ctrs (s : Dev) (c : Nat) (x : Conn) : (s.setConn c x).ctrs = s.ctrs := rfl
@[simp] theorem Dev.setConn_pools (s : Dev) (c : Nat) (x : Conn) : (s.setConn c x).pools = s.pools := rfl
@[simp] theorem Dev.setConn_ops (s : Dev) (c : Nat) (x : Conn) : (s.setConn c x).ops = s.ops := rfl
@[simp] theorem Dev.setConn_launches (s : Dev) (c : Nat) (x : Conn) : (s.setConn c x).launches = s.launches := rfl
@[simp] theorem Dev.setConn_connBacked (s : Dev) (c : Nat) (x : Conn) : (s.setConn c x).connBacked = s.connBacked := rfl
@[simp] theorem Dev.setConn_connCache (s : Dev) (c : Nat) (x : Conn) : (s.setConn c x).connCache = s.connCache := rfl
@[simp] theorem Dev.setConn_sch (s : Dev) (c : Nat) (x : Conn) : (s.setConn c x).sch = s.sch := rfl
@[simp] theorem Dev.setConn_xlt (s : Dev) (c : Nat) (x : Conn) : (s.setConn c x).xlt = s.xlt := rfl
@[simp] theorem Dev.setConn_hst (s : Dev) (c : Nat) (x : Conn) : (s.setConn c x).hst = s.hst := rfl
@[simp] theorem Dev.setConn_tray (s : Dev) (c : Nat) (x : Conn) : (s.setConn c x).tray = s.tray := rfl
@[simp] theorem Dev.setConn_rte (s : Dev) (c : Nat) (x : Conn) : (s.setConn c x).rte = s.rte := rfl
@[simp] theorem Dev.setConn_slots (s : Dev) (c : Nat) (x : Conn) : (s.setConn c x).slots = s.slots := rfl
@[simp] theorem Dev.setConn_exchs (s : Dev) (c : Nat) (x : Conn) : (s.setConn c x).exchs = s.exchs := rfl
@[simp] theorem Dev.setConn_red (s : Dev) (c : Nat) (x : Conn) : (s.setConn c x).red = s.red := rfl
@[simp] theorem Dev.setConn_stm (s : Dev) (c : Nat) (x : Conn) : (s.setConn c x).stm = s.stm := rfl
@[simp] theorem Dev.setConn_cph (s : Dev) (c : Nat) (x : Conn) : (s.setConn c x).cph = s.cph := rfl
@[simp] theorem Dev.setConn_ink (s : Dev) (c : Nat) (x : Conn) : (s.setConn c x).ink = s.ink := rfl
@[simp] theorem Dev.setConn_mem (s : Dev) (c : Nat) (x : Conn) : (s.setConn c x).mem = s.mem := rfl
@[simp] theorem Dev.setConn_ptns (s : Dev) (c : Nat) (x : Conn) : (s.setConn c x).ptns = s.ptns := rfl
@[simp] theorem Dev.setConn_det (s : Dev) (c : Nat) (x : Conn) : (s.setConn c x).det = s.det := rfl
@[simp] theorem Dev.setConn_fol (s : Dev) (c : Nat) (x : Conn) : (s.setConn c x).fol = s.fol := rfl
@[simp] theorem Dev.setConn_opt (s : Dev) (c : Nat) (x : Conn) : (s.setConn c x).opt = s.opt := rfl
@[simp] theorem Dev.setConn_bays (s : Dev) (c : Nat) (x : Conn) : (s.setConn c x).bays = s.bays := rfl
@[simp] theorem Dev.setConn_lives (s : Dev) (c : Nat) (x : Conn) : (s.setConn c x).lives = s.lives := rfl
@[simp] theorem Dev.setConn_qps (s : Dev) (c : Nat) (x : Conn) : (s.setConn c x).qps = s.qps := rfl
@[simp] theorem Dev.setConn_eth (s : Dev) (c : Nat) (x : Conn) : (s.setConn c x).eth = s.eth := rfl
@[simp] theorem Dev.setConn_mseg (s : Dev) (c : Nat) (x : Conn) : (s.setConn c x).mseg = s.mseg := rfl
@[simp] theorem Dev.setConn_rst (s : Dev) (c : Nat) (x : Conn) : (s.setConn c x).rst = s.rst := rfl
@[simp] theorem Dev.setConn_lcs (s : Dev) (c : Nat) (x : Conn) : (s.setConn c x).lcs = s.lcs := rfl
@[simp] theorem Dev.setConn_sst (s : Dev) (c : Nat) (x : Conn) : (s.setConn c x).sst = s.sst := rfl
@[simp] theorem Dev.setConn_err (s : Dev) (c : Nat) (x : Conn) : (s.setConn c x).err = s.err := rfl
@[simp] theorem Dev.setConn_out (s : Dev) (c : Nat) (x : Conn) : (s.setConn c x).out = s.out := rfl
@[simp] theorem Dev.setConn_free (s : Dev) (c : Nat) (x : Conn) : (s.setConn c x).free = s.free := rfl

/-! ### Dev.setTray changes `tray` alone -/

@[simp] theorem Dev.setTray_osc (s : Dev) (k : Nat) (x : TrayPort) : (s.setTray k x).osc = s.osc := rfl
@[simp] theorem Dev.setTray_rlg (s : Dev) (k : Nat) (x : TrayPort) : (s.setTray k x).rlg = s.rlg := rfl
@[simp] theorem Dev.setTray_capo (s : Dev) (k : Nat) (x : TrayPort) : (s.setTray k x).capo = s.capo := rfl
@[simp] theorem Dev.setTray_run (s : Dev) (k : Nat) (x : TrayPort) : (s.setTray k x).run = s.run := rfl
@[simp] theorem Dev.setTray_shadow (s : Dev) (k : Nat) (x : TrayPort) : (s.setTray k x).shadow = s.shadow := rfl
@[simp] theorem Dev.setTray_rw (s : Dev) (k : Nat) (x : TrayPort) : (s.setTray k x).rw = s.rw := rfl
@[simp] theorem Dev.setTray_cnt (s : Dev) (k : Nat) (x : TrayPort) : (s.setTray k x).cnt = s.cnt := rfl
@[simp] theorem Dev.setTray_rings (s : Dev) (k : Nat) (x : TrayPort) : (s.setTray k x).rings = s.rings := rfl
@[simp] theorem Dev.setTray_cqs (s : Dev) (k : Nat) (x : TrayPort) : (s.setTray k x).cqs = s.cqs := rfl
@[simp] theorem Dev.setTray_ctrs (s : Dev) (k : Nat) (x : TrayPort) : (s.setTray k x).ctrs = s.ctrs := rfl
@[simp] theorem Dev.setTray_pools (s : Dev) (k : Nat) (x : TrayPort) : (s.setTray k x).pools = s.pools := rfl
@[simp] theorem Dev.setTray_ops (s : Dev) (k : Nat) (x : TrayPort) : (s.setTray k x).ops = s.ops := rfl
@[simp] theorem Dev.setTray_launches (s : Dev) (k : Nat) (x : TrayPort) : (s.setTray k x).launches = s.launches := rfl
@[simp] theorem Dev.setTray_connBacked (s : Dev) (k : Nat) (x : TrayPort) : (s.setTray k x).connBacked = s.connBacked := rfl
@[simp] theorem Dev.setTray_connCache (s : Dev) (k : Nat) (x : TrayPort) : (s.setTray k x).connCache = s.connCache := rfl
@[simp] theorem Dev.setTray_conns (s : Dev) (k : Nat) (x : TrayPort) : (s.setTray k x).conns = s.conns := rfl
@[simp] theorem Dev.setTray_sch (s : Dev) (k : Nat) (x : TrayPort) : (s.setTray k x).sch = s.sch := rfl
@[simp] theorem Dev.setTray_xlt (s : Dev) (k : Nat) (x : TrayPort) : (s.setTray k x).xlt = s.xlt := rfl
@[simp] theorem Dev.setTray_hst (s : Dev) (k : Nat) (x : TrayPort) : (s.setTray k x).hst = s.hst := rfl
@[simp] theorem Dev.setTray_rte (s : Dev) (k : Nat) (x : TrayPort) : (s.setTray k x).rte = s.rte := rfl
@[simp] theorem Dev.setTray_slots (s : Dev) (k : Nat) (x : TrayPort) : (s.setTray k x).slots = s.slots := rfl
@[simp] theorem Dev.setTray_exchs (s : Dev) (k : Nat) (x : TrayPort) : (s.setTray k x).exchs = s.exchs := rfl
@[simp] theorem Dev.setTray_red (s : Dev) (k : Nat) (x : TrayPort) : (s.setTray k x).red = s.red := rfl
@[simp] theorem Dev.setTray_stm (s : Dev) (k : Nat) (x : TrayPort) : (s.setTray k x).stm = s.stm := rfl
@[simp] theorem Dev.setTray_cph (s : Dev) (k : Nat) (x : TrayPort) : (s.setTray k x).cph = s.cph := rfl
@[simp] theorem Dev.setTray_ink (s : Dev) (k : Nat) (x : TrayPort) : (s.setTray k x).ink = s.ink := rfl
@[simp] theorem Dev.setTray_mem (s : Dev) (k : Nat) (x : TrayPort) : (s.setTray k x).mem = s.mem := rfl
@[simp] theorem Dev.setTray_ptns (s : Dev) (k : Nat) (x : TrayPort) : (s.setTray k x).ptns = s.ptns := rfl
@[simp] theorem Dev.setTray_det (s : Dev) (k : Nat) (x : TrayPort) : (s.setTray k x).det = s.det := rfl
@[simp] theorem Dev.setTray_fol (s : Dev) (k : Nat) (x : TrayPort) : (s.setTray k x).fol = s.fol := rfl
@[simp] theorem Dev.setTray_opt (s : Dev) (k : Nat) (x : TrayPort) : (s.setTray k x).opt = s.opt := rfl
@[simp] theorem Dev.setTray_bays (s : Dev) (k : Nat) (x : TrayPort) : (s.setTray k x).bays = s.bays := rfl
@[simp] theorem Dev.setTray_lives (s : Dev) (k : Nat) (x : TrayPort) : (s.setTray k x).lives = s.lives := rfl
@[simp] theorem Dev.setTray_qps (s : Dev) (k : Nat) (x : TrayPort) : (s.setTray k x).qps = s.qps := rfl
@[simp] theorem Dev.setTray_eth (s : Dev) (k : Nat) (x : TrayPort) : (s.setTray k x).eth = s.eth := rfl
@[simp] theorem Dev.setTray_mseg (s : Dev) (k : Nat) (x : TrayPort) : (s.setTray k x).mseg = s.mseg := rfl
@[simp] theorem Dev.setTray_rst (s : Dev) (k : Nat) (x : TrayPort) : (s.setTray k x).rst = s.rst := rfl
@[simp] theorem Dev.setTray_lcs (s : Dev) (k : Nat) (x : TrayPort) : (s.setTray k x).lcs = s.lcs := rfl
@[simp] theorem Dev.setTray_sst (s : Dev) (k : Nat) (x : TrayPort) : (s.setTray k x).sst = s.sst := rfl
@[simp] theorem Dev.setTray_err (s : Dev) (k : Nat) (x : TrayPort) : (s.setTray k x).err = s.err := rfl
@[simp] theorem Dev.setTray_out (s : Dev) (k : Nat) (x : TrayPort) : (s.setTray k x).out = s.out := rfl
@[simp] theorem Dev.setTray_free (s : Dev) (k : Nat) (x : TrayPort) : (s.setTray k x).free = s.free := rfl

/-! ### Dev.setLink changes `rte` alone -/

@[simp] theorem Dev.setLink_osc (s : Dev) (p : Nat) (x : Link) : (s.setLink p x).osc = s.osc := rfl
@[simp] theorem Dev.setLink_rlg (s : Dev) (p : Nat) (x : Link) : (s.setLink p x).rlg = s.rlg := rfl
@[simp] theorem Dev.setLink_capo (s : Dev) (p : Nat) (x : Link) : (s.setLink p x).capo = s.capo := rfl
@[simp] theorem Dev.setLink_run (s : Dev) (p : Nat) (x : Link) : (s.setLink p x).run = s.run := rfl
@[simp] theorem Dev.setLink_shadow (s : Dev) (p : Nat) (x : Link) : (s.setLink p x).shadow = s.shadow := rfl
@[simp] theorem Dev.setLink_rw (s : Dev) (p : Nat) (x : Link) : (s.setLink p x).rw = s.rw := rfl
@[simp] theorem Dev.setLink_cnt (s : Dev) (p : Nat) (x : Link) : (s.setLink p x).cnt = s.cnt := rfl
@[simp] theorem Dev.setLink_rings (s : Dev) (p : Nat) (x : Link) : (s.setLink p x).rings = s.rings := rfl
@[simp] theorem Dev.setLink_cqs (s : Dev) (p : Nat) (x : Link) : (s.setLink p x).cqs = s.cqs := rfl
@[simp] theorem Dev.setLink_ctrs (s : Dev) (p : Nat) (x : Link) : (s.setLink p x).ctrs = s.ctrs := rfl
@[simp] theorem Dev.setLink_pools (s : Dev) (p : Nat) (x : Link) : (s.setLink p x).pools = s.pools := rfl
@[simp] theorem Dev.setLink_ops (s : Dev) (p : Nat) (x : Link) : (s.setLink p x).ops = s.ops := rfl
@[simp] theorem Dev.setLink_launches (s : Dev) (p : Nat) (x : Link) : (s.setLink p x).launches = s.launches := rfl
@[simp] theorem Dev.setLink_connBacked (s : Dev) (p : Nat) (x : Link) : (s.setLink p x).connBacked = s.connBacked := rfl
@[simp] theorem Dev.setLink_connCache (s : Dev) (p : Nat) (x : Link) : (s.setLink p x).connCache = s.connCache := rfl
@[simp] theorem Dev.setLink_conns (s : Dev) (p : Nat) (x : Link) : (s.setLink p x).conns = s.conns := rfl
@[simp] theorem Dev.setLink_sch (s : Dev) (p : Nat) (x : Link) : (s.setLink p x).sch = s.sch := rfl
@[simp] theorem Dev.setLink_xlt (s : Dev) (p : Nat) (x : Link) : (s.setLink p x).xlt = s.xlt := rfl
@[simp] theorem Dev.setLink_hst (s : Dev) (p : Nat) (x : Link) : (s.setLink p x).hst = s.hst := rfl
@[simp] theorem Dev.setLink_tray (s : Dev) (p : Nat) (x : Link) : (s.setLink p x).tray = s.tray := rfl
@[simp] theorem Dev.setLink_slots (s : Dev) (p : Nat) (x : Link) : (s.setLink p x).slots = s.slots := rfl
@[simp] theorem Dev.setLink_exchs (s : Dev) (p : Nat) (x : Link) : (s.setLink p x).exchs = s.exchs := rfl
@[simp] theorem Dev.setLink_red (s : Dev) (p : Nat) (x : Link) : (s.setLink p x).red = s.red := rfl
@[simp] theorem Dev.setLink_stm (s : Dev) (p : Nat) (x : Link) : (s.setLink p x).stm = s.stm := rfl
@[simp] theorem Dev.setLink_cph (s : Dev) (p : Nat) (x : Link) : (s.setLink p x).cph = s.cph := rfl
@[simp] theorem Dev.setLink_ink (s : Dev) (p : Nat) (x : Link) : (s.setLink p x).ink = s.ink := rfl
@[simp] theorem Dev.setLink_mem (s : Dev) (p : Nat) (x : Link) : (s.setLink p x).mem = s.mem := rfl
@[simp] theorem Dev.setLink_ptns (s : Dev) (p : Nat) (x : Link) : (s.setLink p x).ptns = s.ptns := rfl
@[simp] theorem Dev.setLink_det (s : Dev) (p : Nat) (x : Link) : (s.setLink p x).det = s.det := rfl
@[simp] theorem Dev.setLink_fol (s : Dev) (p : Nat) (x : Link) : (s.setLink p x).fol = s.fol := rfl
@[simp] theorem Dev.setLink_opt (s : Dev) (p : Nat) (x : Link) : (s.setLink p x).opt = s.opt := rfl
@[simp] theorem Dev.setLink_bays (s : Dev) (p : Nat) (x : Link) : (s.setLink p x).bays = s.bays := rfl
@[simp] theorem Dev.setLink_lives (s : Dev) (p : Nat) (x : Link) : (s.setLink p x).lives = s.lives := rfl
@[simp] theorem Dev.setLink_qps (s : Dev) (p : Nat) (x : Link) : (s.setLink p x).qps = s.qps := rfl
@[simp] theorem Dev.setLink_eth (s : Dev) (p : Nat) (x : Link) : (s.setLink p x).eth = s.eth := rfl
@[simp] theorem Dev.setLink_mseg (s : Dev) (p : Nat) (x : Link) : (s.setLink p x).mseg = s.mseg := rfl
@[simp] theorem Dev.setLink_rst (s : Dev) (p : Nat) (x : Link) : (s.setLink p x).rst = s.rst := rfl
@[simp] theorem Dev.setLink_lcs (s : Dev) (p : Nat) (x : Link) : (s.setLink p x).lcs = s.lcs := rfl
@[simp] theorem Dev.setLink_sst (s : Dev) (p : Nat) (x : Link) : (s.setLink p x).sst = s.sst := rfl
@[simp] theorem Dev.setLink_err (s : Dev) (p : Nat) (x : Link) : (s.setLink p x).err = s.err := rfl
@[simp] theorem Dev.setLink_out (s : Dev) (p : Nat) (x : Link) : (s.setLink p x).out = s.out := rfl
@[simp] theorem Dev.setLink_free (s : Dev) (p : Nat) (x : Link) : (s.setLink p x).free = s.free := rfl

/-! ### Dev.setSlot changes `slots` alone -/

@[simp] theorem Dev.setSlot_osc (s : Dev) (k : Nat) (x : Slot) : (s.setSlot k x).osc = s.osc := rfl
@[simp] theorem Dev.setSlot_rlg (s : Dev) (k : Nat) (x : Slot) : (s.setSlot k x).rlg = s.rlg := rfl
@[simp] theorem Dev.setSlot_capo (s : Dev) (k : Nat) (x : Slot) : (s.setSlot k x).capo = s.capo := rfl
@[simp] theorem Dev.setSlot_run (s : Dev) (k : Nat) (x : Slot) : (s.setSlot k x).run = s.run := rfl
@[simp] theorem Dev.setSlot_shadow (s : Dev) (k : Nat) (x : Slot) : (s.setSlot k x).shadow = s.shadow := rfl
@[simp] theorem Dev.setSlot_rw (s : Dev) (k : Nat) (x : Slot) : (s.setSlot k x).rw = s.rw := rfl
@[simp] theorem Dev.setSlot_cnt (s : Dev) (k : Nat) (x : Slot) : (s.setSlot k x).cnt = s.cnt := rfl
@[simp] theorem Dev.setSlot_rings (s : Dev) (k : Nat) (x : Slot) : (s.setSlot k x).rings = s.rings := rfl
@[simp] theorem Dev.setSlot_cqs (s : Dev) (k : Nat) (x : Slot) : (s.setSlot k x).cqs = s.cqs := rfl
@[simp] theorem Dev.setSlot_ctrs (s : Dev) (k : Nat) (x : Slot) : (s.setSlot k x).ctrs = s.ctrs := rfl
@[simp] theorem Dev.setSlot_pools (s : Dev) (k : Nat) (x : Slot) : (s.setSlot k x).pools = s.pools := rfl
@[simp] theorem Dev.setSlot_ops (s : Dev) (k : Nat) (x : Slot) : (s.setSlot k x).ops = s.ops := rfl
@[simp] theorem Dev.setSlot_launches (s : Dev) (k : Nat) (x : Slot) : (s.setSlot k x).launches = s.launches := rfl
@[simp] theorem Dev.setSlot_connBacked (s : Dev) (k : Nat) (x : Slot) : (s.setSlot k x).connBacked = s.connBacked := rfl
@[simp] theorem Dev.setSlot_connCache (s : Dev) (k : Nat) (x : Slot) : (s.setSlot k x).connCache = s.connCache := rfl
@[simp] theorem Dev.setSlot_conns (s : Dev) (k : Nat) (x : Slot) : (s.setSlot k x).conns = s.conns := rfl
@[simp] theorem Dev.setSlot_sch (s : Dev) (k : Nat) (x : Slot) : (s.setSlot k x).sch = s.sch := rfl
@[simp] theorem Dev.setSlot_xlt (s : Dev) (k : Nat) (x : Slot) : (s.setSlot k x).xlt = s.xlt := rfl
@[simp] theorem Dev.setSlot_hst (s : Dev) (k : Nat) (x : Slot) : (s.setSlot k x).hst = s.hst := rfl
@[simp] theorem Dev.setSlot_tray (s : Dev) (k : Nat) (x : Slot) : (s.setSlot k x).tray = s.tray := rfl
@[simp] theorem Dev.setSlot_rte (s : Dev) (k : Nat) (x : Slot) : (s.setSlot k x).rte = s.rte := rfl
@[simp] theorem Dev.setSlot_exchs (s : Dev) (k : Nat) (x : Slot) : (s.setSlot k x).exchs = s.exchs := rfl
@[simp] theorem Dev.setSlot_red (s : Dev) (k : Nat) (x : Slot) : (s.setSlot k x).red = s.red := rfl
@[simp] theorem Dev.setSlot_stm (s : Dev) (k : Nat) (x : Slot) : (s.setSlot k x).stm = s.stm := rfl
@[simp] theorem Dev.setSlot_cph (s : Dev) (k : Nat) (x : Slot) : (s.setSlot k x).cph = s.cph := rfl
@[simp] theorem Dev.setSlot_ink (s : Dev) (k : Nat) (x : Slot) : (s.setSlot k x).ink = s.ink := rfl
@[simp] theorem Dev.setSlot_mem (s : Dev) (k : Nat) (x : Slot) : (s.setSlot k x).mem = s.mem := rfl
@[simp] theorem Dev.setSlot_ptns (s : Dev) (k : Nat) (x : Slot) : (s.setSlot k x).ptns = s.ptns := rfl
@[simp] theorem Dev.setSlot_det (s : Dev) (k : Nat) (x : Slot) : (s.setSlot k x).det = s.det := rfl
@[simp] theorem Dev.setSlot_fol (s : Dev) (k : Nat) (x : Slot) : (s.setSlot k x).fol = s.fol := rfl
@[simp] theorem Dev.setSlot_opt (s : Dev) (k : Nat) (x : Slot) : (s.setSlot k x).opt = s.opt := rfl
@[simp] theorem Dev.setSlot_bays (s : Dev) (k : Nat) (x : Slot) : (s.setSlot k x).bays = s.bays := rfl
@[simp] theorem Dev.setSlot_lives (s : Dev) (k : Nat) (x : Slot) : (s.setSlot k x).lives = s.lives := rfl
@[simp] theorem Dev.setSlot_qps (s : Dev) (k : Nat) (x : Slot) : (s.setSlot k x).qps = s.qps := rfl
@[simp] theorem Dev.setSlot_eth (s : Dev) (k : Nat) (x : Slot) : (s.setSlot k x).eth = s.eth := rfl
@[simp] theorem Dev.setSlot_mseg (s : Dev) (k : Nat) (x : Slot) : (s.setSlot k x).mseg = s.mseg := rfl
@[simp] theorem Dev.setSlot_rst (s : Dev) (k : Nat) (x : Slot) : (s.setSlot k x).rst = s.rst := rfl
@[simp] theorem Dev.setSlot_lcs (s : Dev) (k : Nat) (x : Slot) : (s.setSlot k x).lcs = s.lcs := rfl
@[simp] theorem Dev.setSlot_sst (s : Dev) (k : Nat) (x : Slot) : (s.setSlot k x).sst = s.sst := rfl
@[simp] theorem Dev.setSlot_err (s : Dev) (k : Nat) (x : Slot) : (s.setSlot k x).err = s.err := rfl
@[simp] theorem Dev.setSlot_out (s : Dev) (k : Nat) (x : Slot) : (s.setSlot k x).out = s.out := rfl
@[simp] theorem Dev.setSlot_free (s : Dev) (k : Nat) (x : Slot) : (s.setSlot k x).free = s.free := rfl

/-! ### Dev.setExch changes `exchs` alone -/

@[simp] theorem Dev.setExch_osc (s : Dev) (k : Nat) (x : Slot) : (s.setExch k x).osc = s.osc := rfl
@[simp] theorem Dev.setExch_rlg (s : Dev) (k : Nat) (x : Slot) : (s.setExch k x).rlg = s.rlg := rfl
@[simp] theorem Dev.setExch_capo (s : Dev) (k : Nat) (x : Slot) : (s.setExch k x).capo = s.capo := rfl
@[simp] theorem Dev.setExch_run (s : Dev) (k : Nat) (x : Slot) : (s.setExch k x).run = s.run := rfl
@[simp] theorem Dev.setExch_shadow (s : Dev) (k : Nat) (x : Slot) : (s.setExch k x).shadow = s.shadow := rfl
@[simp] theorem Dev.setExch_rw (s : Dev) (k : Nat) (x : Slot) : (s.setExch k x).rw = s.rw := rfl
@[simp] theorem Dev.setExch_cnt (s : Dev) (k : Nat) (x : Slot) : (s.setExch k x).cnt = s.cnt := rfl
@[simp] theorem Dev.setExch_rings (s : Dev) (k : Nat) (x : Slot) : (s.setExch k x).rings = s.rings := rfl
@[simp] theorem Dev.setExch_cqs (s : Dev) (k : Nat) (x : Slot) : (s.setExch k x).cqs = s.cqs := rfl
@[simp] theorem Dev.setExch_ctrs (s : Dev) (k : Nat) (x : Slot) : (s.setExch k x).ctrs = s.ctrs := rfl
@[simp] theorem Dev.setExch_pools (s : Dev) (k : Nat) (x : Slot) : (s.setExch k x).pools = s.pools := rfl
@[simp] theorem Dev.setExch_ops (s : Dev) (k : Nat) (x : Slot) : (s.setExch k x).ops = s.ops := rfl
@[simp] theorem Dev.setExch_launches (s : Dev) (k : Nat) (x : Slot) : (s.setExch k x).launches = s.launches := rfl
@[simp] theorem Dev.setExch_connBacked (s : Dev) (k : Nat) (x : Slot) : (s.setExch k x).connBacked = s.connBacked := rfl
@[simp] theorem Dev.setExch_connCache (s : Dev) (k : Nat) (x : Slot) : (s.setExch k x).connCache = s.connCache := rfl
@[simp] theorem Dev.setExch_conns (s : Dev) (k : Nat) (x : Slot) : (s.setExch k x).conns = s.conns := rfl
@[simp] theorem Dev.setExch_sch (s : Dev) (k : Nat) (x : Slot) : (s.setExch k x).sch = s.sch := rfl
@[simp] theorem Dev.setExch_xlt (s : Dev) (k : Nat) (x : Slot) : (s.setExch k x).xlt = s.xlt := rfl
@[simp] theorem Dev.setExch_hst (s : Dev) (k : Nat) (x : Slot) : (s.setExch k x).hst = s.hst := rfl
@[simp] theorem Dev.setExch_tray (s : Dev) (k : Nat) (x : Slot) : (s.setExch k x).tray = s.tray := rfl
@[simp] theorem Dev.setExch_rte (s : Dev) (k : Nat) (x : Slot) : (s.setExch k x).rte = s.rte := rfl
@[simp] theorem Dev.setExch_slots (s : Dev) (k : Nat) (x : Slot) : (s.setExch k x).slots = s.slots := rfl
@[simp] theorem Dev.setExch_red (s : Dev) (k : Nat) (x : Slot) : (s.setExch k x).red = s.red := rfl
@[simp] theorem Dev.setExch_stm (s : Dev) (k : Nat) (x : Slot) : (s.setExch k x).stm = s.stm := rfl
@[simp] theorem Dev.setExch_cph (s : Dev) (k : Nat) (x : Slot) : (s.setExch k x).cph = s.cph := rfl
@[simp] theorem Dev.setExch_ink (s : Dev) (k : Nat) (x : Slot) : (s.setExch k x).ink = s.ink := rfl
@[simp] theorem Dev.setExch_mem (s : Dev) (k : Nat) (x : Slot) : (s.setExch k x).mem = s.mem := rfl
@[simp] theorem Dev.setExch_ptns (s : Dev) (k : Nat) (x : Slot) : (s.setExch k x).ptns = s.ptns := rfl
@[simp] theorem Dev.setExch_det (s : Dev) (k : Nat) (x : Slot) : (s.setExch k x).det = s.det := rfl
@[simp] theorem Dev.setExch_fol (s : Dev) (k : Nat) (x : Slot) : (s.setExch k x).fol = s.fol := rfl
@[simp] theorem Dev.setExch_opt (s : Dev) (k : Nat) (x : Slot) : (s.setExch k x).opt = s.opt := rfl
@[simp] theorem Dev.setExch_bays (s : Dev) (k : Nat) (x : Slot) : (s.setExch k x).bays = s.bays := rfl
@[simp] theorem Dev.setExch_lives (s : Dev) (k : Nat) (x : Slot) : (s.setExch k x).lives = s.lives := rfl
@[simp] theorem Dev.setExch_qps (s : Dev) (k : Nat) (x : Slot) : (s.setExch k x).qps = s.qps := rfl
@[simp] theorem Dev.setExch_eth (s : Dev) (k : Nat) (x : Slot) : (s.setExch k x).eth = s.eth := rfl
@[simp] theorem Dev.setExch_mseg (s : Dev) (k : Nat) (x : Slot) : (s.setExch k x).mseg = s.mseg := rfl
@[simp] theorem Dev.setExch_rst (s : Dev) (k : Nat) (x : Slot) : (s.setExch k x).rst = s.rst := rfl
@[simp] theorem Dev.setExch_lcs (s : Dev) (k : Nat) (x : Slot) : (s.setExch k x).lcs = s.lcs := rfl
@[simp] theorem Dev.setExch_sst (s : Dev) (k : Nat) (x : Slot) : (s.setExch k x).sst = s.sst := rfl
@[simp] theorem Dev.setExch_err (s : Dev) (k : Nat) (x : Slot) : (s.setExch k x).err = s.err := rfl
@[simp] theorem Dev.setExch_out (s : Dev) (k : Nat) (x : Slot) : (s.setExch k x).out = s.out := rfl
@[simp] theorem Dev.setExch_free (s : Dev) (k : Nat) (x : Slot) : (s.setExch k x).free = s.free := rfl

/-! ### Dev.setChan changes `ink` alone -/

@[simp] theorem Dev.setChan_osc (s : Dev) (c : Nat) (x : Chan) : (s.setChan c x).osc = s.osc := rfl
@[simp] theorem Dev.setChan_rlg (s : Dev) (c : Nat) (x : Chan) : (s.setChan c x).rlg = s.rlg := rfl
@[simp] theorem Dev.setChan_capo (s : Dev) (c : Nat) (x : Chan) : (s.setChan c x).capo = s.capo := rfl
@[simp] theorem Dev.setChan_run (s : Dev) (c : Nat) (x : Chan) : (s.setChan c x).run = s.run := rfl
@[simp] theorem Dev.setChan_shadow (s : Dev) (c : Nat) (x : Chan) : (s.setChan c x).shadow = s.shadow := rfl
@[simp] theorem Dev.setChan_rw (s : Dev) (c : Nat) (x : Chan) : (s.setChan c x).rw = s.rw := rfl
@[simp] theorem Dev.setChan_cnt (s : Dev) (c : Nat) (x : Chan) : (s.setChan c x).cnt = s.cnt := rfl
@[simp] theorem Dev.setChan_rings (s : Dev) (c : Nat) (x : Chan) : (s.setChan c x).rings = s.rings := rfl
@[simp] theorem Dev.setChan_cqs (s : Dev) (c : Nat) (x : Chan) : (s.setChan c x).cqs = s.cqs := rfl
@[simp] theorem Dev.setChan_ctrs (s : Dev) (c : Nat) (x : Chan) : (s.setChan c x).ctrs = s.ctrs := rfl
@[simp] theorem Dev.setChan_pools (s : Dev) (c : Nat) (x : Chan) : (s.setChan c x).pools = s.pools := rfl
@[simp] theorem Dev.setChan_ops (s : Dev) (c : Nat) (x : Chan) : (s.setChan c x).ops = s.ops := rfl
@[simp] theorem Dev.setChan_launches (s : Dev) (c : Nat) (x : Chan) : (s.setChan c x).launches = s.launches := rfl
@[simp] theorem Dev.setChan_connBacked (s : Dev) (c : Nat) (x : Chan) : (s.setChan c x).connBacked = s.connBacked := rfl
@[simp] theorem Dev.setChan_connCache (s : Dev) (c : Nat) (x : Chan) : (s.setChan c x).connCache = s.connCache := rfl
@[simp] theorem Dev.setChan_conns (s : Dev) (c : Nat) (x : Chan) : (s.setChan c x).conns = s.conns := rfl
@[simp] theorem Dev.setChan_sch (s : Dev) (c : Nat) (x : Chan) : (s.setChan c x).sch = s.sch := rfl
@[simp] theorem Dev.setChan_xlt (s : Dev) (c : Nat) (x : Chan) : (s.setChan c x).xlt = s.xlt := rfl
@[simp] theorem Dev.setChan_hst (s : Dev) (c : Nat) (x : Chan) : (s.setChan c x).hst = s.hst := rfl
@[simp] theorem Dev.setChan_tray (s : Dev) (c : Nat) (x : Chan) : (s.setChan c x).tray = s.tray := rfl
@[simp] theorem Dev.setChan_rte (s : Dev) (c : Nat) (x : Chan) : (s.setChan c x).rte = s.rte := rfl
@[simp] theorem Dev.setChan_slots (s : Dev) (c : Nat) (x : Chan) : (s.setChan c x).slots = s.slots := rfl
@[simp] theorem Dev.setChan_exchs (s : Dev) (c : Nat) (x : Chan) : (s.setChan c x).exchs = s.exchs := rfl
@[simp] theorem Dev.setChan_red (s : Dev) (c : Nat) (x : Chan) : (s.setChan c x).red = s.red := rfl
@[simp] theorem Dev.setChan_stm (s : Dev) (c : Nat) (x : Chan) : (s.setChan c x).stm = s.stm := rfl
@[simp] theorem Dev.setChan_cph (s : Dev) (c : Nat) (x : Chan) : (s.setChan c x).cph = s.cph := rfl
@[simp] theorem Dev.setChan_mem (s : Dev) (c : Nat) (x : Chan) : (s.setChan c x).mem = s.mem := rfl
@[simp] theorem Dev.setChan_ptns (s : Dev) (c : Nat) (x : Chan) : (s.setChan c x).ptns = s.ptns := rfl
@[simp] theorem Dev.setChan_det (s : Dev) (c : Nat) (x : Chan) : (s.setChan c x).det = s.det := rfl
@[simp] theorem Dev.setChan_fol (s : Dev) (c : Nat) (x : Chan) : (s.setChan c x).fol = s.fol := rfl
@[simp] theorem Dev.setChan_opt (s : Dev) (c : Nat) (x : Chan) : (s.setChan c x).opt = s.opt := rfl
@[simp] theorem Dev.setChan_bays (s : Dev) (c : Nat) (x : Chan) : (s.setChan c x).bays = s.bays := rfl
@[simp] theorem Dev.setChan_lives (s : Dev) (c : Nat) (x : Chan) : (s.setChan c x).lives = s.lives := rfl
@[simp] theorem Dev.setChan_qps (s : Dev) (c : Nat) (x : Chan) : (s.setChan c x).qps = s.qps := rfl
@[simp] theorem Dev.setChan_eth (s : Dev) (c : Nat) (x : Chan) : (s.setChan c x).eth = s.eth := rfl
@[simp] theorem Dev.setChan_mseg (s : Dev) (c : Nat) (x : Chan) : (s.setChan c x).mseg = s.mseg := rfl
@[simp] theorem Dev.setChan_rst (s : Dev) (c : Nat) (x : Chan) : (s.setChan c x).rst = s.rst := rfl
@[simp] theorem Dev.setChan_lcs (s : Dev) (c : Nat) (x : Chan) : (s.setChan c x).lcs = s.lcs := rfl
@[simp] theorem Dev.setChan_sst (s : Dev) (c : Nat) (x : Chan) : (s.setChan c x).sst = s.sst := rfl
@[simp] theorem Dev.setChan_err (s : Dev) (c : Nat) (x : Chan) : (s.setChan c x).err = s.err := rfl
@[simp] theorem Dev.setChan_out (s : Dev) (c : Nat) (x : Chan) : (s.setChan c x).out = s.out := rfl
@[simp] theorem Dev.setChan_free (s : Dev) (c : Nat) (x : Chan) : (s.setChan c x).free = s.free := rfl

/-! ### Dev.setPtn changes `ptns` alone -/

@[simp] theorem Dev.setPtn_osc (s : Dev) (n : Nat) (x : Ptn) : (s.setPtn n x).osc = s.osc := rfl
@[simp] theorem Dev.setPtn_rlg (s : Dev) (n : Nat) (x : Ptn) : (s.setPtn n x).rlg = s.rlg := rfl
@[simp] theorem Dev.setPtn_capo (s : Dev) (n : Nat) (x : Ptn) : (s.setPtn n x).capo = s.capo := rfl
@[simp] theorem Dev.setPtn_run (s : Dev) (n : Nat) (x : Ptn) : (s.setPtn n x).run = s.run := rfl
@[simp] theorem Dev.setPtn_shadow (s : Dev) (n : Nat) (x : Ptn) : (s.setPtn n x).shadow = s.shadow := rfl
@[simp] theorem Dev.setPtn_rw (s : Dev) (n : Nat) (x : Ptn) : (s.setPtn n x).rw = s.rw := rfl
@[simp] theorem Dev.setPtn_cnt (s : Dev) (n : Nat) (x : Ptn) : (s.setPtn n x).cnt = s.cnt := rfl
@[simp] theorem Dev.setPtn_rings (s : Dev) (n : Nat) (x : Ptn) : (s.setPtn n x).rings = s.rings := rfl
@[simp] theorem Dev.setPtn_cqs (s : Dev) (n : Nat) (x : Ptn) : (s.setPtn n x).cqs = s.cqs := rfl
@[simp] theorem Dev.setPtn_ctrs (s : Dev) (n : Nat) (x : Ptn) : (s.setPtn n x).ctrs = s.ctrs := rfl
@[simp] theorem Dev.setPtn_pools (s : Dev) (n : Nat) (x : Ptn) : (s.setPtn n x).pools = s.pools := rfl
@[simp] theorem Dev.setPtn_ops (s : Dev) (n : Nat) (x : Ptn) : (s.setPtn n x).ops = s.ops := rfl
@[simp] theorem Dev.setPtn_launches (s : Dev) (n : Nat) (x : Ptn) : (s.setPtn n x).launches = s.launches := rfl
@[simp] theorem Dev.setPtn_connBacked (s : Dev) (n : Nat) (x : Ptn) : (s.setPtn n x).connBacked = s.connBacked := rfl
@[simp] theorem Dev.setPtn_connCache (s : Dev) (n : Nat) (x : Ptn) : (s.setPtn n x).connCache = s.connCache := rfl
@[simp] theorem Dev.setPtn_conns (s : Dev) (n : Nat) (x : Ptn) : (s.setPtn n x).conns = s.conns := rfl
@[simp] theorem Dev.setPtn_sch (s : Dev) (n : Nat) (x : Ptn) : (s.setPtn n x).sch = s.sch := rfl
@[simp] theorem Dev.setPtn_xlt (s : Dev) (n : Nat) (x : Ptn) : (s.setPtn n x).xlt = s.xlt := rfl
@[simp] theorem Dev.setPtn_hst (s : Dev) (n : Nat) (x : Ptn) : (s.setPtn n x).hst = s.hst := rfl
@[simp] theorem Dev.setPtn_tray (s : Dev) (n : Nat) (x : Ptn) : (s.setPtn n x).tray = s.tray := rfl
@[simp] theorem Dev.setPtn_rte (s : Dev) (n : Nat) (x : Ptn) : (s.setPtn n x).rte = s.rte := rfl
@[simp] theorem Dev.setPtn_slots (s : Dev) (n : Nat) (x : Ptn) : (s.setPtn n x).slots = s.slots := rfl
@[simp] theorem Dev.setPtn_exchs (s : Dev) (n : Nat) (x : Ptn) : (s.setPtn n x).exchs = s.exchs := rfl
@[simp] theorem Dev.setPtn_red (s : Dev) (n : Nat) (x : Ptn) : (s.setPtn n x).red = s.red := rfl
@[simp] theorem Dev.setPtn_stm (s : Dev) (n : Nat) (x : Ptn) : (s.setPtn n x).stm = s.stm := rfl
@[simp] theorem Dev.setPtn_cph (s : Dev) (n : Nat) (x : Ptn) : (s.setPtn n x).cph = s.cph := rfl
@[simp] theorem Dev.setPtn_ink (s : Dev) (n : Nat) (x : Ptn) : (s.setPtn n x).ink = s.ink := rfl
@[simp] theorem Dev.setPtn_mem (s : Dev) (n : Nat) (x : Ptn) : (s.setPtn n x).mem = s.mem := rfl
@[simp] theorem Dev.setPtn_det (s : Dev) (n : Nat) (x : Ptn) : (s.setPtn n x).det = s.det := rfl
@[simp] theorem Dev.setPtn_fol (s : Dev) (n : Nat) (x : Ptn) : (s.setPtn n x).fol = s.fol := rfl
@[simp] theorem Dev.setPtn_opt (s : Dev) (n : Nat) (x : Ptn) : (s.setPtn n x).opt = s.opt := rfl
@[simp] theorem Dev.setPtn_bays (s : Dev) (n : Nat) (x : Ptn) : (s.setPtn n x).bays = s.bays := rfl
@[simp] theorem Dev.setPtn_lives (s : Dev) (n : Nat) (x : Ptn) : (s.setPtn n x).lives = s.lives := rfl
@[simp] theorem Dev.setPtn_qps (s : Dev) (n : Nat) (x : Ptn) : (s.setPtn n x).qps = s.qps := rfl
@[simp] theorem Dev.setPtn_eth (s : Dev) (n : Nat) (x : Ptn) : (s.setPtn n x).eth = s.eth := rfl
@[simp] theorem Dev.setPtn_mseg (s : Dev) (n : Nat) (x : Ptn) : (s.setPtn n x).mseg = s.mseg := rfl
@[simp] theorem Dev.setPtn_rst (s : Dev) (n : Nat) (x : Ptn) : (s.setPtn n x).rst = s.rst := rfl
@[simp] theorem Dev.setPtn_lcs (s : Dev) (n : Nat) (x : Ptn) : (s.setPtn n x).lcs = s.lcs := rfl
@[simp] theorem Dev.setPtn_sst (s : Dev) (n : Nat) (x : Ptn) : (s.setPtn n x).sst = s.sst := rfl
@[simp] theorem Dev.setPtn_err (s : Dev) (n : Nat) (x : Ptn) : (s.setPtn n x).err = s.err := rfl
@[simp] theorem Dev.setPtn_out (s : Dev) (n : Nat) (x : Ptn) : (s.setPtn n x).out = s.out := rfl
@[simp] theorem Dev.setPtn_free (s : Dev) (n : Nat) (x : Ptn) : (s.setPtn n x).free = s.free := rfl

/-! ### Dev.setOpt changes `opt` alone -/

@[simp] theorem Dev.setOpt_osc (s : Dev) (p : Nat) (x : OptPort) : (s.setOpt p x).osc = s.osc := rfl
@[simp] theorem Dev.setOpt_rlg (s : Dev) (p : Nat) (x : OptPort) : (s.setOpt p x).rlg = s.rlg := rfl
@[simp] theorem Dev.setOpt_capo (s : Dev) (p : Nat) (x : OptPort) : (s.setOpt p x).capo = s.capo := rfl
@[simp] theorem Dev.setOpt_run (s : Dev) (p : Nat) (x : OptPort) : (s.setOpt p x).run = s.run := rfl
@[simp] theorem Dev.setOpt_shadow (s : Dev) (p : Nat) (x : OptPort) : (s.setOpt p x).shadow = s.shadow := rfl
@[simp] theorem Dev.setOpt_rw (s : Dev) (p : Nat) (x : OptPort) : (s.setOpt p x).rw = s.rw := rfl
@[simp] theorem Dev.setOpt_cnt (s : Dev) (p : Nat) (x : OptPort) : (s.setOpt p x).cnt = s.cnt := rfl
@[simp] theorem Dev.setOpt_rings (s : Dev) (p : Nat) (x : OptPort) : (s.setOpt p x).rings = s.rings := rfl
@[simp] theorem Dev.setOpt_cqs (s : Dev) (p : Nat) (x : OptPort) : (s.setOpt p x).cqs = s.cqs := rfl
@[simp] theorem Dev.setOpt_ctrs (s : Dev) (p : Nat) (x : OptPort) : (s.setOpt p x).ctrs = s.ctrs := rfl
@[simp] theorem Dev.setOpt_pools (s : Dev) (p : Nat) (x : OptPort) : (s.setOpt p x).pools = s.pools := rfl
@[simp] theorem Dev.setOpt_ops (s : Dev) (p : Nat) (x : OptPort) : (s.setOpt p x).ops = s.ops := rfl
@[simp] theorem Dev.setOpt_launches (s : Dev) (p : Nat) (x : OptPort) : (s.setOpt p x).launches = s.launches := rfl
@[simp] theorem Dev.setOpt_connBacked (s : Dev) (p : Nat) (x : OptPort) : (s.setOpt p x).connBacked = s.connBacked := rfl
@[simp] theorem Dev.setOpt_connCache (s : Dev) (p : Nat) (x : OptPort) : (s.setOpt p x).connCache = s.connCache := rfl
@[simp] theorem Dev.setOpt_conns (s : Dev) (p : Nat) (x : OptPort) : (s.setOpt p x).conns = s.conns := rfl
@[simp] theorem Dev.setOpt_sch (s : Dev) (p : Nat) (x : OptPort) : (s.setOpt p x).sch = s.sch := rfl
@[simp] theorem Dev.setOpt_xlt (s : Dev) (p : Nat) (x : OptPort) : (s.setOpt p x).xlt = s.xlt := rfl
@[simp] theorem Dev.setOpt_hst (s : Dev) (p : Nat) (x : OptPort) : (s.setOpt p x).hst = s.hst := rfl
@[simp] theorem Dev.setOpt_tray (s : Dev) (p : Nat) (x : OptPort) : (s.setOpt p x).tray = s.tray := rfl
@[simp] theorem Dev.setOpt_rte (s : Dev) (p : Nat) (x : OptPort) : (s.setOpt p x).rte = s.rte := rfl
@[simp] theorem Dev.setOpt_slots (s : Dev) (p : Nat) (x : OptPort) : (s.setOpt p x).slots = s.slots := rfl
@[simp] theorem Dev.setOpt_exchs (s : Dev) (p : Nat) (x : OptPort) : (s.setOpt p x).exchs = s.exchs := rfl
@[simp] theorem Dev.setOpt_red (s : Dev) (p : Nat) (x : OptPort) : (s.setOpt p x).red = s.red := rfl
@[simp] theorem Dev.setOpt_stm (s : Dev) (p : Nat) (x : OptPort) : (s.setOpt p x).stm = s.stm := rfl
@[simp] theorem Dev.setOpt_cph (s : Dev) (p : Nat) (x : OptPort) : (s.setOpt p x).cph = s.cph := rfl
@[simp] theorem Dev.setOpt_ink (s : Dev) (p : Nat) (x : OptPort) : (s.setOpt p x).ink = s.ink := rfl
@[simp] theorem Dev.setOpt_mem (s : Dev) (p : Nat) (x : OptPort) : (s.setOpt p x).mem = s.mem := rfl
@[simp] theorem Dev.setOpt_ptns (s : Dev) (p : Nat) (x : OptPort) : (s.setOpt p x).ptns = s.ptns := rfl
@[simp] theorem Dev.setOpt_det (s : Dev) (p : Nat) (x : OptPort) : (s.setOpt p x).det = s.det := rfl
@[simp] theorem Dev.setOpt_fol (s : Dev) (p : Nat) (x : OptPort) : (s.setOpt p x).fol = s.fol := rfl
@[simp] theorem Dev.setOpt_bays (s : Dev) (p : Nat) (x : OptPort) : (s.setOpt p x).bays = s.bays := rfl
@[simp] theorem Dev.setOpt_lives (s : Dev) (p : Nat) (x : OptPort) : (s.setOpt p x).lives = s.lives := rfl
@[simp] theorem Dev.setOpt_qps (s : Dev) (p : Nat) (x : OptPort) : (s.setOpt p x).qps = s.qps := rfl
@[simp] theorem Dev.setOpt_eth (s : Dev) (p : Nat) (x : OptPort) : (s.setOpt p x).eth = s.eth := rfl
@[simp] theorem Dev.setOpt_mseg (s : Dev) (p : Nat) (x : OptPort) : (s.setOpt p x).mseg = s.mseg := rfl
@[simp] theorem Dev.setOpt_rst (s : Dev) (p : Nat) (x : OptPort) : (s.setOpt p x).rst = s.rst := rfl
@[simp] theorem Dev.setOpt_lcs (s : Dev) (p : Nat) (x : OptPort) : (s.setOpt p x).lcs = s.lcs := rfl
@[simp] theorem Dev.setOpt_sst (s : Dev) (p : Nat) (x : OptPort) : (s.setOpt p x).sst = s.sst := rfl
@[simp] theorem Dev.setOpt_err (s : Dev) (p : Nat) (x : OptPort) : (s.setOpt p x).err = s.err := rfl
@[simp] theorem Dev.setOpt_out (s : Dev) (p : Nat) (x : OptPort) : (s.setOpt p x).out = s.out := rfl
@[simp] theorem Dev.setOpt_free (s : Dev) (p : Nat) (x : OptPort) : (s.setOpt p x).free = s.free := rfl

/-! ### Dev.setBay changes `bays` alone -/

@[simp] theorem Dev.setBay_osc (s : Dev) (b : Nat) (x : Bay) : (s.setBay b x).osc = s.osc := rfl
@[simp] theorem Dev.setBay_rlg (s : Dev) (b : Nat) (x : Bay) : (s.setBay b x).rlg = s.rlg := rfl
@[simp] theorem Dev.setBay_capo (s : Dev) (b : Nat) (x : Bay) : (s.setBay b x).capo = s.capo := rfl
@[simp] theorem Dev.setBay_run (s : Dev) (b : Nat) (x : Bay) : (s.setBay b x).run = s.run := rfl
@[simp] theorem Dev.setBay_shadow (s : Dev) (b : Nat) (x : Bay) : (s.setBay b x).shadow = s.shadow := rfl
@[simp] theorem Dev.setBay_rw (s : Dev) (b : Nat) (x : Bay) : (s.setBay b x).rw = s.rw := rfl
@[simp] theorem Dev.setBay_cnt (s : Dev) (b : Nat) (x : Bay) : (s.setBay b x).cnt = s.cnt := rfl
@[simp] theorem Dev.setBay_rings (s : Dev) (b : Nat) (x : Bay) : (s.setBay b x).rings = s.rings := rfl
@[simp] theorem Dev.setBay_cqs (s : Dev) (b : Nat) (x : Bay) : (s.setBay b x).cqs = s.cqs := rfl
@[simp] theorem Dev.setBay_ctrs (s : Dev) (b : Nat) (x : Bay) : (s.setBay b x).ctrs = s.ctrs := rfl
@[simp] theorem Dev.setBay_pools (s : Dev) (b : Nat) (x : Bay) : (s.setBay b x).pools = s.pools := rfl
@[simp] theorem Dev.setBay_ops (s : Dev) (b : Nat) (x : Bay) : (s.setBay b x).ops = s.ops := rfl
@[simp] theorem Dev.setBay_launches (s : Dev) (b : Nat) (x : Bay) : (s.setBay b x).launches = s.launches := rfl
@[simp] theorem Dev.setBay_connBacked (s : Dev) (b : Nat) (x : Bay) : (s.setBay b x).connBacked = s.connBacked := rfl
@[simp] theorem Dev.setBay_connCache (s : Dev) (b : Nat) (x : Bay) : (s.setBay b x).connCache = s.connCache := rfl
@[simp] theorem Dev.setBay_conns (s : Dev) (b : Nat) (x : Bay) : (s.setBay b x).conns = s.conns := rfl
@[simp] theorem Dev.setBay_sch (s : Dev) (b : Nat) (x : Bay) : (s.setBay b x).sch = s.sch := rfl
@[simp] theorem Dev.setBay_xlt (s : Dev) (b : Nat) (x : Bay) : (s.setBay b x).xlt = s.xlt := rfl
@[simp] theorem Dev.setBay_hst (s : Dev) (b : Nat) (x : Bay) : (s.setBay b x).hst = s.hst := rfl
@[simp] theorem Dev.setBay_tray (s : Dev) (b : Nat) (x : Bay) : (s.setBay b x).tray = s.tray := rfl
@[simp] theorem Dev.setBay_rte (s : Dev) (b : Nat) (x : Bay) : (s.setBay b x).rte = s.rte := rfl
@[simp] theorem Dev.setBay_slots (s : Dev) (b : Nat) (x : Bay) : (s.setBay b x).slots = s.slots := rfl
@[simp] theorem Dev.setBay_exchs (s : Dev) (b : Nat) (x : Bay) : (s.setBay b x).exchs = s.exchs := rfl
@[simp] theorem Dev.setBay_red (s : Dev) (b : Nat) (x : Bay) : (s.setBay b x).red = s.red := rfl
@[simp] theorem Dev.setBay_stm (s : Dev) (b : Nat) (x : Bay) : (s.setBay b x).stm = s.stm := rfl
@[simp] theorem Dev.setBay_cph (s : Dev) (b : Nat) (x : Bay) : (s.setBay b x).cph = s.cph := rfl
@[simp] theorem Dev.setBay_ink (s : Dev) (b : Nat) (x : Bay) : (s.setBay b x).ink = s.ink := rfl
@[simp] theorem Dev.setBay_mem (s : Dev) (b : Nat) (x : Bay) : (s.setBay b x).mem = s.mem := rfl
@[simp] theorem Dev.setBay_ptns (s : Dev) (b : Nat) (x : Bay) : (s.setBay b x).ptns = s.ptns := rfl
@[simp] theorem Dev.setBay_det (s : Dev) (b : Nat) (x : Bay) : (s.setBay b x).det = s.det := rfl
@[simp] theorem Dev.setBay_fol (s : Dev) (b : Nat) (x : Bay) : (s.setBay b x).fol = s.fol := rfl
@[simp] theorem Dev.setBay_opt (s : Dev) (b : Nat) (x : Bay) : (s.setBay b x).opt = s.opt := rfl
@[simp] theorem Dev.setBay_lives (s : Dev) (b : Nat) (x : Bay) : (s.setBay b x).lives = s.lives := rfl
@[simp] theorem Dev.setBay_qps (s : Dev) (b : Nat) (x : Bay) : (s.setBay b x).qps = s.qps := rfl
@[simp] theorem Dev.setBay_eth (s : Dev) (b : Nat) (x : Bay) : (s.setBay b x).eth = s.eth := rfl
@[simp] theorem Dev.setBay_mseg (s : Dev) (b : Nat) (x : Bay) : (s.setBay b x).mseg = s.mseg := rfl
@[simp] theorem Dev.setBay_rst (s : Dev) (b : Nat) (x : Bay) : (s.setBay b x).rst = s.rst := rfl
@[simp] theorem Dev.setBay_lcs (s : Dev) (b : Nat) (x : Bay) : (s.setBay b x).lcs = s.lcs := rfl
@[simp] theorem Dev.setBay_sst (s : Dev) (b : Nat) (x : Bay) : (s.setBay b x).sst = s.sst := rfl
@[simp] theorem Dev.setBay_err (s : Dev) (b : Nat) (x : Bay) : (s.setBay b x).err = s.err := rfl
@[simp] theorem Dev.setBay_out (s : Dev) (b : Nat) (x : Bay) : (s.setBay b x).out = s.out := rfl
@[simp] theorem Dev.setBay_free (s : Dev) (b : Nat) (x : Bay) : (s.setBay b x).free = s.free := rfl

/-! ### Dev.setQp changes `qps` alone -/

@[simp] theorem Dev.setQp_osc (s : Dev) (q : Nat) (x : Qp) : (s.setQp q x).osc = s.osc := rfl
@[simp] theorem Dev.setQp_rlg (s : Dev) (q : Nat) (x : Qp) : (s.setQp q x).rlg = s.rlg := rfl
@[simp] theorem Dev.setQp_capo (s : Dev) (q : Nat) (x : Qp) : (s.setQp q x).capo = s.capo := rfl
@[simp] theorem Dev.setQp_run (s : Dev) (q : Nat) (x : Qp) : (s.setQp q x).run = s.run := rfl
@[simp] theorem Dev.setQp_shadow (s : Dev) (q : Nat) (x : Qp) : (s.setQp q x).shadow = s.shadow := rfl
@[simp] theorem Dev.setQp_rw (s : Dev) (q : Nat) (x : Qp) : (s.setQp q x).rw = s.rw := rfl
@[simp] theorem Dev.setQp_cnt (s : Dev) (q : Nat) (x : Qp) : (s.setQp q x).cnt = s.cnt := rfl
@[simp] theorem Dev.setQp_rings (s : Dev) (q : Nat) (x : Qp) : (s.setQp q x).rings = s.rings := rfl
@[simp] theorem Dev.setQp_cqs (s : Dev) (q : Nat) (x : Qp) : (s.setQp q x).cqs = s.cqs := rfl
@[simp] theorem Dev.setQp_ctrs (s : Dev) (q : Nat) (x : Qp) : (s.setQp q x).ctrs = s.ctrs := rfl
@[simp] theorem Dev.setQp_pools (s : Dev) (q : Nat) (x : Qp) : (s.setQp q x).pools = s.pools := rfl
@[simp] theorem Dev.setQp_ops (s : Dev) (q : Nat) (x : Qp) : (s.setQp q x).ops = s.ops := rfl
@[simp] theorem Dev.setQp_launches (s : Dev) (q : Nat) (x : Qp) : (s.setQp q x).launches = s.launches := rfl
@[simp] theorem Dev.setQp_connBacked (s : Dev) (q : Nat) (x : Qp) : (s.setQp q x).connBacked = s.connBacked := rfl
@[simp] theorem Dev.setQp_connCache (s : Dev) (q : Nat) (x : Qp) : (s.setQp q x).connCache = s.connCache := rfl
@[simp] theorem Dev.setQp_conns (s : Dev) (q : Nat) (x : Qp) : (s.setQp q x).conns = s.conns := rfl
@[simp] theorem Dev.setQp_sch (s : Dev) (q : Nat) (x : Qp) : (s.setQp q x).sch = s.sch := rfl
@[simp] theorem Dev.setQp_xlt (s : Dev) (q : Nat) (x : Qp) : (s.setQp q x).xlt = s.xlt := rfl
@[simp] theorem Dev.setQp_hst (s : Dev) (q : Nat) (x : Qp) : (s.setQp q x).hst = s.hst := rfl
@[simp] theorem Dev.setQp_tray (s : Dev) (q : Nat) (x : Qp) : (s.setQp q x).tray = s.tray := rfl
@[simp] theorem Dev.setQp_rte (s : Dev) (q : Nat) (x : Qp) : (s.setQp q x).rte = s.rte := rfl
@[simp] theorem Dev.setQp_slots (s : Dev) (q : Nat) (x : Qp) : (s.setQp q x).slots = s.slots := rfl
@[simp] theorem Dev.setQp_exchs (s : Dev) (q : Nat) (x : Qp) : (s.setQp q x).exchs = s.exchs := rfl
@[simp] theorem Dev.setQp_red (s : Dev) (q : Nat) (x : Qp) : (s.setQp q x).red = s.red := rfl
@[simp] theorem Dev.setQp_stm (s : Dev) (q : Nat) (x : Qp) : (s.setQp q x).stm = s.stm := rfl
@[simp] theorem Dev.setQp_cph (s : Dev) (q : Nat) (x : Qp) : (s.setQp q x).cph = s.cph := rfl
@[simp] theorem Dev.setQp_ink (s : Dev) (q : Nat) (x : Qp) : (s.setQp q x).ink = s.ink := rfl
@[simp] theorem Dev.setQp_mem (s : Dev) (q : Nat) (x : Qp) : (s.setQp q x).mem = s.mem := rfl
@[simp] theorem Dev.setQp_ptns (s : Dev) (q : Nat) (x : Qp) : (s.setQp q x).ptns = s.ptns := rfl
@[simp] theorem Dev.setQp_det (s : Dev) (q : Nat) (x : Qp) : (s.setQp q x).det = s.det := rfl
@[simp] theorem Dev.setQp_fol (s : Dev) (q : Nat) (x : Qp) : (s.setQp q x).fol = s.fol := rfl
@[simp] theorem Dev.setQp_opt (s : Dev) (q : Nat) (x : Qp) : (s.setQp q x).opt = s.opt := rfl
@[simp] theorem Dev.setQp_bays (s : Dev) (q : Nat) (x : Qp) : (s.setQp q x).bays = s.bays := rfl
@[simp] theorem Dev.setQp_lives (s : Dev) (q : Nat) (x : Qp) : (s.setQp q x).lives = s.lives := rfl
@[simp] theorem Dev.setQp_eth (s : Dev) (q : Nat) (x : Qp) : (s.setQp q x).eth = s.eth := rfl
@[simp] theorem Dev.setQp_mseg (s : Dev) (q : Nat) (x : Qp) : (s.setQp q x).mseg = s.mseg := rfl
@[simp] theorem Dev.setQp_rst (s : Dev) (q : Nat) (x : Qp) : (s.setQp q x).rst = s.rst := rfl
@[simp] theorem Dev.setQp_lcs (s : Dev) (q : Nat) (x : Qp) : (s.setQp q x).lcs = s.lcs := rfl
@[simp] theorem Dev.setQp_sst (s : Dev) (q : Nat) (x : Qp) : (s.setQp q x).sst = s.sst := rfl
@[simp] theorem Dev.setQp_err (s : Dev) (q : Nat) (x : Qp) : (s.setQp q x).err = s.err := rfl
@[simp] theorem Dev.setQp_out (s : Dev) (q : Nat) (x : Qp) : (s.setQp q x).out = s.out := rfl
@[simp] theorem Dev.setQp_free (s : Dev) (q : Nat) (x : Qp) : (s.setQp q x).free = s.free := rfl

/-! ### Dev.setEth changes `eth` alone -/

@[simp] theorem Dev.setEth_osc (s : Dev) (i : Nat) (x : EthPort) : (s.setEth i x).osc = s.osc := rfl
@[simp] theorem Dev.setEth_rlg (s : Dev) (i : Nat) (x : EthPort) : (s.setEth i x).rlg = s.rlg := rfl
@[simp] theorem Dev.setEth_capo (s : Dev) (i : Nat) (x : EthPort) : (s.setEth i x).capo = s.capo := rfl
@[simp] theorem Dev.setEth_run (s : Dev) (i : Nat) (x : EthPort) : (s.setEth i x).run = s.run := rfl
@[simp] theorem Dev.setEth_shadow (s : Dev) (i : Nat) (x : EthPort) : (s.setEth i x).shadow = s.shadow := rfl
@[simp] theorem Dev.setEth_rw (s : Dev) (i : Nat) (x : EthPort) : (s.setEth i x).rw = s.rw := rfl
@[simp] theorem Dev.setEth_cnt (s : Dev) (i : Nat) (x : EthPort) : (s.setEth i x).cnt = s.cnt := rfl
@[simp] theorem Dev.setEth_rings (s : Dev) (i : Nat) (x : EthPort) : (s.setEth i x).rings = s.rings := rfl
@[simp] theorem Dev.setEth_cqs (s : Dev) (i : Nat) (x : EthPort) : (s.setEth i x).cqs = s.cqs := rfl
@[simp] theorem Dev.setEth_ctrs (s : Dev) (i : Nat) (x : EthPort) : (s.setEth i x).ctrs = s.ctrs := rfl
@[simp] theorem Dev.setEth_pools (s : Dev) (i : Nat) (x : EthPort) : (s.setEth i x).pools = s.pools := rfl
@[simp] theorem Dev.setEth_ops (s : Dev) (i : Nat) (x : EthPort) : (s.setEth i x).ops = s.ops := rfl
@[simp] theorem Dev.setEth_launches (s : Dev) (i : Nat) (x : EthPort) : (s.setEth i x).launches = s.launches := rfl
@[simp] theorem Dev.setEth_connBacked (s : Dev) (i : Nat) (x : EthPort) : (s.setEth i x).connBacked = s.connBacked := rfl
@[simp] theorem Dev.setEth_connCache (s : Dev) (i : Nat) (x : EthPort) : (s.setEth i x).connCache = s.connCache := rfl
@[simp] theorem Dev.setEth_conns (s : Dev) (i : Nat) (x : EthPort) : (s.setEth i x).conns = s.conns := rfl
@[simp] theorem Dev.setEth_sch (s : Dev) (i : Nat) (x : EthPort) : (s.setEth i x).sch = s.sch := rfl
@[simp] theorem Dev.setEth_xlt (s : Dev) (i : Nat) (x : EthPort) : (s.setEth i x).xlt = s.xlt := rfl
@[simp] theorem Dev.setEth_hst (s : Dev) (i : Nat) (x : EthPort) : (s.setEth i x).hst = s.hst := rfl
@[simp] theorem Dev.setEth_tray (s : Dev) (i : Nat) (x : EthPort) : (s.setEth i x).tray = s.tray := rfl
@[simp] theorem Dev.setEth_rte (s : Dev) (i : Nat) (x : EthPort) : (s.setEth i x).rte = s.rte := rfl
@[simp] theorem Dev.setEth_slots (s : Dev) (i : Nat) (x : EthPort) : (s.setEth i x).slots = s.slots := rfl
@[simp] theorem Dev.setEth_exchs (s : Dev) (i : Nat) (x : EthPort) : (s.setEth i x).exchs = s.exchs := rfl
@[simp] theorem Dev.setEth_red (s : Dev) (i : Nat) (x : EthPort) : (s.setEth i x).red = s.red := rfl
@[simp] theorem Dev.setEth_stm (s : Dev) (i : Nat) (x : EthPort) : (s.setEth i x).stm = s.stm := rfl
@[simp] theorem Dev.setEth_cph (s : Dev) (i : Nat) (x : EthPort) : (s.setEth i x).cph = s.cph := rfl
@[simp] theorem Dev.setEth_ink (s : Dev) (i : Nat) (x : EthPort) : (s.setEth i x).ink = s.ink := rfl
@[simp] theorem Dev.setEth_mem (s : Dev) (i : Nat) (x : EthPort) : (s.setEth i x).mem = s.mem := rfl
@[simp] theorem Dev.setEth_ptns (s : Dev) (i : Nat) (x : EthPort) : (s.setEth i x).ptns = s.ptns := rfl
@[simp] theorem Dev.setEth_det (s : Dev) (i : Nat) (x : EthPort) : (s.setEth i x).det = s.det := rfl
@[simp] theorem Dev.setEth_fol (s : Dev) (i : Nat) (x : EthPort) : (s.setEth i x).fol = s.fol := rfl
@[simp] theorem Dev.setEth_opt (s : Dev) (i : Nat) (x : EthPort) : (s.setEth i x).opt = s.opt := rfl
@[simp] theorem Dev.setEth_bays (s : Dev) (i : Nat) (x : EthPort) : (s.setEth i x).bays = s.bays := rfl
@[simp] theorem Dev.setEth_lives (s : Dev) (i : Nat) (x : EthPort) : (s.setEth i x).lives = s.lives := rfl
@[simp] theorem Dev.setEth_qps (s : Dev) (i : Nat) (x : EthPort) : (s.setEth i x).qps = s.qps := rfl
@[simp] theorem Dev.setEth_mseg (s : Dev) (i : Nat) (x : EthPort) : (s.setEth i x).mseg = s.mseg := rfl
@[simp] theorem Dev.setEth_rst (s : Dev) (i : Nat) (x : EthPort) : (s.setEth i x).rst = s.rst := rfl
@[simp] theorem Dev.setEth_lcs (s : Dev) (i : Nat) (x : EthPort) : (s.setEth i x).lcs = s.lcs := rfl
@[simp] theorem Dev.setEth_sst (s : Dev) (i : Nat) (x : EthPort) : (s.setEth i x).sst = s.sst := rfl
@[simp] theorem Dev.setEth_err (s : Dev) (i : Nat) (x : EthPort) : (s.setEth i x).err = s.err := rfl
@[simp] theorem Dev.setEth_out (s : Dev) (i : Nat) (x : EthPort) : (s.setEth i x).out = s.out := rfl
@[simp] theorem Dev.setEth_free (s : Dev) (i : Nat) (x : EthPort) : (s.setEth i x).free = s.free := rfl

/-! ### Dev.setFn changes `hst` alone -/

@[simp] theorem Dev.setFn_osc (s : Dev) (f : Nat) (x : Fn) : (s.setFn f x).osc = s.osc := rfl
@[simp] theorem Dev.setFn_rlg (s : Dev) (f : Nat) (x : Fn) : (s.setFn f x).rlg = s.rlg := rfl
@[simp] theorem Dev.setFn_capo (s : Dev) (f : Nat) (x : Fn) : (s.setFn f x).capo = s.capo := rfl
@[simp] theorem Dev.setFn_run (s : Dev) (f : Nat) (x : Fn) : (s.setFn f x).run = s.run := rfl
@[simp] theorem Dev.setFn_shadow (s : Dev) (f : Nat) (x : Fn) : (s.setFn f x).shadow = s.shadow := rfl
@[simp] theorem Dev.setFn_rw (s : Dev) (f : Nat) (x : Fn) : (s.setFn f x).rw = s.rw := rfl
@[simp] theorem Dev.setFn_cnt (s : Dev) (f : Nat) (x : Fn) : (s.setFn f x).cnt = s.cnt := rfl
@[simp] theorem Dev.setFn_rings (s : Dev) (f : Nat) (x : Fn) : (s.setFn f x).rings = s.rings := rfl
@[simp] theorem Dev.setFn_cqs (s : Dev) (f : Nat) (x : Fn) : (s.setFn f x).cqs = s.cqs := rfl
@[simp] theorem Dev.setFn_ctrs (s : Dev) (f : Nat) (x : Fn) : (s.setFn f x).ctrs = s.ctrs := rfl
@[simp] theorem Dev.setFn_pools (s : Dev) (f : Nat) (x : Fn) : (s.setFn f x).pools = s.pools := rfl
@[simp] theorem Dev.setFn_ops (s : Dev) (f : Nat) (x : Fn) : (s.setFn f x).ops = s.ops := rfl
@[simp] theorem Dev.setFn_launches (s : Dev) (f : Nat) (x : Fn) : (s.setFn f x).launches = s.launches := rfl
@[simp] theorem Dev.setFn_connBacked (s : Dev) (f : Nat) (x : Fn) : (s.setFn f x).connBacked = s.connBacked := rfl
@[simp] theorem Dev.setFn_connCache (s : Dev) (f : Nat) (x : Fn) : (s.setFn f x).connCache = s.connCache := rfl
@[simp] theorem Dev.setFn_conns (s : Dev) (f : Nat) (x : Fn) : (s.setFn f x).conns = s.conns := rfl
@[simp] theorem Dev.setFn_sch (s : Dev) (f : Nat) (x : Fn) : (s.setFn f x).sch = s.sch := rfl
@[simp] theorem Dev.setFn_xlt (s : Dev) (f : Nat) (x : Fn) : (s.setFn f x).xlt = s.xlt := rfl
@[simp] theorem Dev.setFn_tray (s : Dev) (f : Nat) (x : Fn) : (s.setFn f x).tray = s.tray := rfl
@[simp] theorem Dev.setFn_rte (s : Dev) (f : Nat) (x : Fn) : (s.setFn f x).rte = s.rte := rfl
@[simp] theorem Dev.setFn_slots (s : Dev) (f : Nat) (x : Fn) : (s.setFn f x).slots = s.slots := rfl
@[simp] theorem Dev.setFn_exchs (s : Dev) (f : Nat) (x : Fn) : (s.setFn f x).exchs = s.exchs := rfl
@[simp] theorem Dev.setFn_red (s : Dev) (f : Nat) (x : Fn) : (s.setFn f x).red = s.red := rfl
@[simp] theorem Dev.setFn_stm (s : Dev) (f : Nat) (x : Fn) : (s.setFn f x).stm = s.stm := rfl
@[simp] theorem Dev.setFn_cph (s : Dev) (f : Nat) (x : Fn) : (s.setFn f x).cph = s.cph := rfl
@[simp] theorem Dev.setFn_ink (s : Dev) (f : Nat) (x : Fn) : (s.setFn f x).ink = s.ink := rfl
@[simp] theorem Dev.setFn_mem (s : Dev) (f : Nat) (x : Fn) : (s.setFn f x).mem = s.mem := rfl
@[simp] theorem Dev.setFn_ptns (s : Dev) (f : Nat) (x : Fn) : (s.setFn f x).ptns = s.ptns := rfl
@[simp] theorem Dev.setFn_det (s : Dev) (f : Nat) (x : Fn) : (s.setFn f x).det = s.det := rfl
@[simp] theorem Dev.setFn_fol (s : Dev) (f : Nat) (x : Fn) : (s.setFn f x).fol = s.fol := rfl
@[simp] theorem Dev.setFn_opt (s : Dev) (f : Nat) (x : Fn) : (s.setFn f x).opt = s.opt := rfl
@[simp] theorem Dev.setFn_bays (s : Dev) (f : Nat) (x : Fn) : (s.setFn f x).bays = s.bays := rfl
@[simp] theorem Dev.setFn_lives (s : Dev) (f : Nat) (x : Fn) : (s.setFn f x).lives = s.lives := rfl
@[simp] theorem Dev.setFn_qps (s : Dev) (f : Nat) (x : Fn) : (s.setFn f x).qps = s.qps := rfl
@[simp] theorem Dev.setFn_eth (s : Dev) (f : Nat) (x : Fn) : (s.setFn f x).eth = s.eth := rfl
@[simp] theorem Dev.setFn_mseg (s : Dev) (f : Nat) (x : Fn) : (s.setFn f x).mseg = s.mseg := rfl
@[simp] theorem Dev.setFn_rst (s : Dev) (f : Nat) (x : Fn) : (s.setFn f x).rst = s.rst := rfl
@[simp] theorem Dev.setFn_lcs (s : Dev) (f : Nat) (x : Fn) : (s.setFn f x).lcs = s.lcs := rfl
@[simp] theorem Dev.setFn_sst (s : Dev) (f : Nat) (x : Fn) : (s.setFn f x).sst = s.sst := rfl
@[simp] theorem Dev.setFn_err (s : Dev) (f : Nat) (x : Fn) : (s.setFn f x).err = s.err := rfl
@[simp] theorem Dev.setFn_out (s : Dev) (f : Nat) (x : Fn) : (s.setFn f x).out = s.out := rfl
@[simp] theorem Dev.setFn_free (s : Dev) (f : Nat) (x : Fn) : (s.setFn f x).free = s.free := rfl

/-! ### Dev.setDir changes `hst` alone -/

@[simp] theorem Dev.setDir_osc (s : Dev) (g a : Nat) (l : Line) : (s.setDir g a l).osc = s.osc := rfl
@[simp] theorem Dev.setDir_rlg (s : Dev) (g a : Nat) (l : Line) : (s.setDir g a l).rlg = s.rlg := rfl
@[simp] theorem Dev.setDir_capo (s : Dev) (g a : Nat) (l : Line) : (s.setDir g a l).capo = s.capo := rfl
@[simp] theorem Dev.setDir_run (s : Dev) (g a : Nat) (l : Line) : (s.setDir g a l).run = s.run := rfl
@[simp] theorem Dev.setDir_shadow (s : Dev) (g a : Nat) (l : Line) : (s.setDir g a l).shadow = s.shadow := rfl
@[simp] theorem Dev.setDir_rw (s : Dev) (g a : Nat) (l : Line) : (s.setDir g a l).rw = s.rw := rfl
@[simp] theorem Dev.setDir_cnt (s : Dev) (g a : Nat) (l : Line) : (s.setDir g a l).cnt = s.cnt := rfl
@[simp] theorem Dev.setDir_rings (s : Dev) (g a : Nat) (l : Line) : (s.setDir g a l).rings = s.rings := rfl
@[simp] theorem Dev.setDir_cqs (s : Dev) (g a : Nat) (l : Line) : (s.setDir g a l).cqs = s.cqs := rfl
@[simp] theorem Dev.setDir_ctrs (s : Dev) (g a : Nat) (l : Line) : (s.setDir g a l).ctrs = s.ctrs := rfl
@[simp] theorem Dev.setDir_pools (s : Dev) (g a : Nat) (l : Line) : (s.setDir g a l).pools = s.pools := rfl
@[simp] theorem Dev.setDir_ops (s : Dev) (g a : Nat) (l : Line) : (s.setDir g a l).ops = s.ops := rfl
@[simp] theorem Dev.setDir_launches (s : Dev) (g a : Nat) (l : Line) : (s.setDir g a l).launches = s.launches := rfl
@[simp] theorem Dev.setDir_connBacked (s : Dev) (g a : Nat) (l : Line) : (s.setDir g a l).connBacked = s.connBacked := rfl
@[simp] theorem Dev.setDir_connCache (s : Dev) (g a : Nat) (l : Line) : (s.setDir g a l).connCache = s.connCache := rfl
@[simp] theorem Dev.setDir_conns (s : Dev) (g a : Nat) (l : Line) : (s.setDir g a l).conns = s.conns := rfl
@[simp] theorem Dev.setDir_sch (s : Dev) (g a : Nat) (l : Line) : (s.setDir g a l).sch = s.sch := rfl
@[simp] theorem Dev.setDir_xlt (s : Dev) (g a : Nat) (l : Line) : (s.setDir g a l).xlt = s.xlt := rfl
@[simp] theorem Dev.setDir_tray (s : Dev) (g a : Nat) (l : Line) : (s.setDir g a l).tray = s.tray := rfl
@[simp] theorem Dev.setDir_rte (s : Dev) (g a : Nat) (l : Line) : (s.setDir g a l).rte = s.rte := rfl
@[simp] theorem Dev.setDir_slots (s : Dev) (g a : Nat) (l : Line) : (s.setDir g a l).slots = s.slots := rfl
@[simp] theorem Dev.setDir_exchs (s : Dev) (g a : Nat) (l : Line) : (s.setDir g a l).exchs = s.exchs := rfl
@[simp] theorem Dev.setDir_red (s : Dev) (g a : Nat) (l : Line) : (s.setDir g a l).red = s.red := rfl
@[simp] theorem Dev.setDir_stm (s : Dev) (g a : Nat) (l : Line) : (s.setDir g a l).stm = s.stm := rfl
@[simp] theorem Dev.setDir_cph (s : Dev) (g a : Nat) (l : Line) : (s.setDir g a l).cph = s.cph := rfl
@[simp] theorem Dev.setDir_ink (s : Dev) (g a : Nat) (l : Line) : (s.setDir g a l).ink = s.ink := rfl
@[simp] theorem Dev.setDir_mem (s : Dev) (g a : Nat) (l : Line) : (s.setDir g a l).mem = s.mem := rfl
@[simp] theorem Dev.setDir_ptns (s : Dev) (g a : Nat) (l : Line) : (s.setDir g a l).ptns = s.ptns := rfl
@[simp] theorem Dev.setDir_det (s : Dev) (g a : Nat) (l : Line) : (s.setDir g a l).det = s.det := rfl
@[simp] theorem Dev.setDir_fol (s : Dev) (g a : Nat) (l : Line) : (s.setDir g a l).fol = s.fol := rfl
@[simp] theorem Dev.setDir_opt (s : Dev) (g a : Nat) (l : Line) : (s.setDir g a l).opt = s.opt := rfl
@[simp] theorem Dev.setDir_bays (s : Dev) (g a : Nat) (l : Line) : (s.setDir g a l).bays = s.bays := rfl
@[simp] theorem Dev.setDir_lives (s : Dev) (g a : Nat) (l : Line) : (s.setDir g a l).lives = s.lives := rfl
@[simp] theorem Dev.setDir_qps (s : Dev) (g a : Nat) (l : Line) : (s.setDir g a l).qps = s.qps := rfl
@[simp] theorem Dev.setDir_eth (s : Dev) (g a : Nat) (l : Line) : (s.setDir g a l).eth = s.eth := rfl
@[simp] theorem Dev.setDir_mseg (s : Dev) (g a : Nat) (l : Line) : (s.setDir g a l).mseg = s.mseg := rfl
@[simp] theorem Dev.setDir_rst (s : Dev) (g a : Nat) (l : Line) : (s.setDir g a l).rst = s.rst := rfl
@[simp] theorem Dev.setDir_lcs (s : Dev) (g a : Nat) (l : Line) : (s.setDir g a l).lcs = s.lcs := rfl
@[simp] theorem Dev.setDir_sst (s : Dev) (g a : Nat) (l : Line) : (s.setDir g a l).sst = s.sst := rfl
@[simp] theorem Dev.setDir_err (s : Dev) (g a : Nat) (l : Line) : (s.setDir g a l).err = s.err := rfl
@[simp] theorem Dev.setDir_out (s : Dev) (g a : Nat) (l : Line) : (s.setDir g a l).out = s.out := rfl
@[simp] theorem Dev.setDir_free (s : Dev) (g a : Nat) (l : Line) : (s.setDir g a l).free = s.free := rfl

/-! ### Dev.emit changes `out` alone -/

@[simp] theorem Dev.emit_osc (s : Dev) (o : Out) : (s.emit o).osc = s.osc := rfl
@[simp] theorem Dev.emit_rlg (s : Dev) (o : Out) : (s.emit o).rlg = s.rlg := rfl
@[simp] theorem Dev.emit_capo (s : Dev) (o : Out) : (s.emit o).capo = s.capo := rfl
@[simp] theorem Dev.emit_run (s : Dev) (o : Out) : (s.emit o).run = s.run := rfl
@[simp] theorem Dev.emit_shadow (s : Dev) (o : Out) : (s.emit o).shadow = s.shadow := rfl
@[simp] theorem Dev.emit_rw (s : Dev) (o : Out) : (s.emit o).rw = s.rw := rfl
@[simp] theorem Dev.emit_cnt (s : Dev) (o : Out) : (s.emit o).cnt = s.cnt := rfl
@[simp] theorem Dev.emit_rings (s : Dev) (o : Out) : (s.emit o).rings = s.rings := rfl
@[simp] theorem Dev.emit_cqs (s : Dev) (o : Out) : (s.emit o).cqs = s.cqs := rfl
@[simp] theorem Dev.emit_ctrs (s : Dev) (o : Out) : (s.emit o).ctrs = s.ctrs := rfl
@[simp] theorem Dev.emit_pools (s : Dev) (o : Out) : (s.emit o).pools = s.pools := rfl
@[simp] theorem Dev.emit_ops (s : Dev) (o : Out) : (s.emit o).ops = s.ops := rfl
@[simp] theorem Dev.emit_launches (s : Dev) (o : Out) : (s.emit o).launches = s.launches := rfl
@[simp] theorem Dev.emit_connBacked (s : Dev) (o : Out) : (s.emit o).connBacked = s.connBacked := rfl
@[simp] theorem Dev.emit_connCache (s : Dev) (o : Out) : (s.emit o).connCache = s.connCache := rfl
@[simp] theorem Dev.emit_conns (s : Dev) (o : Out) : (s.emit o).conns = s.conns := rfl
@[simp] theorem Dev.emit_sch (s : Dev) (o : Out) : (s.emit o).sch = s.sch := rfl
@[simp] theorem Dev.emit_xlt (s : Dev) (o : Out) : (s.emit o).xlt = s.xlt := rfl
@[simp] theorem Dev.emit_hst (s : Dev) (o : Out) : (s.emit o).hst = s.hst := rfl
@[simp] theorem Dev.emit_tray (s : Dev) (o : Out) : (s.emit o).tray = s.tray := rfl
@[simp] theorem Dev.emit_rte (s : Dev) (o : Out) : (s.emit o).rte = s.rte := rfl
@[simp] theorem Dev.emit_slots (s : Dev) (o : Out) : (s.emit o).slots = s.slots := rfl
@[simp] theorem Dev.emit_exchs (s : Dev) (o : Out) : (s.emit o).exchs = s.exchs := rfl
@[simp] theorem Dev.emit_red (s : Dev) (o : Out) : (s.emit o).red = s.red := rfl
@[simp] theorem Dev.emit_stm (s : Dev) (o : Out) : (s.emit o).stm = s.stm := rfl
@[simp] theorem Dev.emit_cph (s : Dev) (o : Out) : (s.emit o).cph = s.cph := rfl
@[simp] theorem Dev.emit_ink (s : Dev) (o : Out) : (s.emit o).ink = s.ink := rfl
@[simp] theorem Dev.emit_mem (s : Dev) (o : Out) : (s.emit o).mem = s.mem := rfl
@[simp] theorem Dev.emit_ptns (s : Dev) (o : Out) : (s.emit o).ptns = s.ptns := rfl
@[simp] theorem Dev.emit_det (s : Dev) (o : Out) : (s.emit o).det = s.det := rfl
@[simp] theorem Dev.emit_fol (s : Dev) (o : Out) : (s.emit o).fol = s.fol := rfl
@[simp] theorem Dev.emit_opt (s : Dev) (o : Out) : (s.emit o).opt = s.opt := rfl
@[simp] theorem Dev.emit_bays (s : Dev) (o : Out) : (s.emit o).bays = s.bays := rfl
@[simp] theorem Dev.emit_lives (s : Dev) (o : Out) : (s.emit o).lives = s.lives := rfl
@[simp] theorem Dev.emit_qps (s : Dev) (o : Out) : (s.emit o).qps = s.qps := rfl
@[simp] theorem Dev.emit_eth (s : Dev) (o : Out) : (s.emit o).eth = s.eth := rfl
@[simp] theorem Dev.emit_mseg (s : Dev) (o : Out) : (s.emit o).mseg = s.mseg := rfl
@[simp] theorem Dev.emit_rst (s : Dev) (o : Out) : (s.emit o).rst = s.rst := rfl
@[simp] theorem Dev.emit_lcs (s : Dev) (o : Out) : (s.emit o).lcs = s.lcs := rfl
@[simp] theorem Dev.emit_sst (s : Dev) (o : Out) : (s.emit o).sst = s.sst := rfl
@[simp] theorem Dev.emit_err (s : Dev) (o : Out) : (s.emit o).err = s.err := rfl
@[simp] theorem Dev.emit_free (s : Dev) (o : Out) : (s.emit o).free = s.free := rfl

/-! ### Dev.setByte changes `mem` alone -/

@[simp] theorem Dev.setByte_osc (s : Dev) (k : Nat) (b : Byte) : (s.setByte k b).osc = s.osc := rfl
@[simp] theorem Dev.setByte_rlg (s : Dev) (k : Nat) (b : Byte) : (s.setByte k b).rlg = s.rlg := rfl
@[simp] theorem Dev.setByte_capo (s : Dev) (k : Nat) (b : Byte) : (s.setByte k b).capo = s.capo := rfl
@[simp] theorem Dev.setByte_run (s : Dev) (k : Nat) (b : Byte) : (s.setByte k b).run = s.run := rfl
@[simp] theorem Dev.setByte_shadow (s : Dev) (k : Nat) (b : Byte) : (s.setByte k b).shadow = s.shadow := rfl
@[simp] theorem Dev.setByte_rw (s : Dev) (k : Nat) (b : Byte) : (s.setByte k b).rw = s.rw := rfl
@[simp] theorem Dev.setByte_cnt (s : Dev) (k : Nat) (b : Byte) : (s.setByte k b).cnt = s.cnt := rfl
@[simp] theorem Dev.setByte_rings (s : Dev) (k : Nat) (b : Byte) : (s.setByte k b).rings = s.rings := rfl
@[simp] theorem Dev.setByte_cqs (s : Dev) (k : Nat) (b : Byte) : (s.setByte k b).cqs = s.cqs := rfl
@[simp] theorem Dev.setByte_ctrs (s : Dev) (k : Nat) (b : Byte) : (s.setByte k b).ctrs = s.ctrs := rfl
@[simp] theorem Dev.setByte_pools (s : Dev) (k : Nat) (b : Byte) : (s.setByte k b).pools = s.pools := rfl
@[simp] theorem Dev.setByte_ops (s : Dev) (k : Nat) (b : Byte) : (s.setByte k b).ops = s.ops := rfl
@[simp] theorem Dev.setByte_launches (s : Dev) (k : Nat) (b : Byte) : (s.setByte k b).launches = s.launches := rfl
@[simp] theorem Dev.setByte_connBacked (s : Dev) (k : Nat) (b : Byte) : (s.setByte k b).connBacked = s.connBacked := rfl
@[simp] theorem Dev.setByte_connCache (s : Dev) (k : Nat) (b : Byte) : (s.setByte k b).connCache = s.connCache := rfl
@[simp] theorem Dev.setByte_conns (s : Dev) (k : Nat) (b : Byte) : (s.setByte k b).conns = s.conns := rfl
@[simp] theorem Dev.setByte_sch (s : Dev) (k : Nat) (b : Byte) : (s.setByte k b).sch = s.sch := rfl
@[simp] theorem Dev.setByte_xlt (s : Dev) (k : Nat) (b : Byte) : (s.setByte k b).xlt = s.xlt := rfl
@[simp] theorem Dev.setByte_hst (s : Dev) (k : Nat) (b : Byte) : (s.setByte k b).hst = s.hst := rfl
@[simp] theorem Dev.setByte_tray (s : Dev) (k : Nat) (b : Byte) : (s.setByte k b).tray = s.tray := rfl
@[simp] theorem Dev.setByte_rte (s : Dev) (k : Nat) (b : Byte) : (s.setByte k b).rte = s.rte := rfl
@[simp] theorem Dev.setByte_slots (s : Dev) (k : Nat) (b : Byte) : (s.setByte k b).slots = s.slots := rfl
@[simp] theorem Dev.setByte_exchs (s : Dev) (k : Nat) (b : Byte) : (s.setByte k b).exchs = s.exchs := rfl
@[simp] theorem Dev.setByte_red (s : Dev) (k : Nat) (b : Byte) : (s.setByte k b).red = s.red := rfl
@[simp] theorem Dev.setByte_stm (s : Dev) (k : Nat) (b : Byte) : (s.setByte k b).stm = s.stm := rfl
@[simp] theorem Dev.setByte_cph (s : Dev) (k : Nat) (b : Byte) : (s.setByte k b).cph = s.cph := rfl
@[simp] theorem Dev.setByte_ink (s : Dev) (k : Nat) (b : Byte) : (s.setByte k b).ink = s.ink := rfl
@[simp] theorem Dev.setByte_ptns (s : Dev) (k : Nat) (b : Byte) : (s.setByte k b).ptns = s.ptns := rfl
@[simp] theorem Dev.setByte_det (s : Dev) (k : Nat) (b : Byte) : (s.setByte k b).det = s.det := rfl
@[simp] theorem Dev.setByte_fol (s : Dev) (k : Nat) (b : Byte) : (s.setByte k b).fol = s.fol := rfl
@[simp] theorem Dev.setByte_opt (s : Dev) (k : Nat) (b : Byte) : (s.setByte k b).opt = s.opt := rfl
@[simp] theorem Dev.setByte_bays (s : Dev) (k : Nat) (b : Byte) : (s.setByte k b).bays = s.bays := rfl
@[simp] theorem Dev.setByte_lives (s : Dev) (k : Nat) (b : Byte) : (s.setByte k b).lives = s.lives := rfl
@[simp] theorem Dev.setByte_qps (s : Dev) (k : Nat) (b : Byte) : (s.setByte k b).qps = s.qps := rfl
@[simp] theorem Dev.setByte_eth (s : Dev) (k : Nat) (b : Byte) : (s.setByte k b).eth = s.eth := rfl
@[simp] theorem Dev.setByte_mseg (s : Dev) (k : Nat) (b : Byte) : (s.setByte k b).mseg = s.mseg := rfl
@[simp] theorem Dev.setByte_rst (s : Dev) (k : Nat) (b : Byte) : (s.setByte k b).rst = s.rst := rfl
@[simp] theorem Dev.setByte_lcs (s : Dev) (k : Nat) (b : Byte) : (s.setByte k b).lcs = s.lcs := rfl
@[simp] theorem Dev.setByte_sst (s : Dev) (k : Nat) (b : Byte) : (s.setByte k b).sst = s.sst := rfl
@[simp] theorem Dev.setByte_err (s : Dev) (k : Nat) (b : Byte) : (s.setByte k b).err = s.err := rfl
@[simp] theorem Dev.setByte_out (s : Dev) (k : Nat) (b : Byte) : (s.setByte k b).out = s.out := rfl
@[simp] theorem Dev.setByte_free (s : Dev) (k : Nat) (b : Byte) : (s.setByte k b).free = s.free := rfl

/-! ### Dev.setKeyBytes changes `mem` alone -/

@[simp] theorem Dev.setKeyBytes_osc (s : Dev) (k : Nat) (b : List Byte) : (s.setKeyBytes k b).osc = s.osc := rfl
@[simp] theorem Dev.setKeyBytes_rlg (s : Dev) (k : Nat) (b : List Byte) : (s.setKeyBytes k b).rlg = s.rlg := rfl
@[simp] theorem Dev.setKeyBytes_capo (s : Dev) (k : Nat) (b : List Byte) : (s.setKeyBytes k b).capo = s.capo := rfl
@[simp] theorem Dev.setKeyBytes_run (s : Dev) (k : Nat) (b : List Byte) : (s.setKeyBytes k b).run = s.run := rfl
@[simp] theorem Dev.setKeyBytes_shadow (s : Dev) (k : Nat) (b : List Byte) : (s.setKeyBytes k b).shadow = s.shadow := rfl
@[simp] theorem Dev.setKeyBytes_rw (s : Dev) (k : Nat) (b : List Byte) : (s.setKeyBytes k b).rw = s.rw := rfl
@[simp] theorem Dev.setKeyBytes_cnt (s : Dev) (k : Nat) (b : List Byte) : (s.setKeyBytes k b).cnt = s.cnt := rfl
@[simp] theorem Dev.setKeyBytes_rings (s : Dev) (k : Nat) (b : List Byte) : (s.setKeyBytes k b).rings = s.rings := rfl
@[simp] theorem Dev.setKeyBytes_cqs (s : Dev) (k : Nat) (b : List Byte) : (s.setKeyBytes k b).cqs = s.cqs := rfl
@[simp] theorem Dev.setKeyBytes_ctrs (s : Dev) (k : Nat) (b : List Byte) : (s.setKeyBytes k b).ctrs = s.ctrs := rfl
@[simp] theorem Dev.setKeyBytes_pools (s : Dev) (k : Nat) (b : List Byte) : (s.setKeyBytes k b).pools = s.pools := rfl
@[simp] theorem Dev.setKeyBytes_ops (s : Dev) (k : Nat) (b : List Byte) : (s.setKeyBytes k b).ops = s.ops := rfl
@[simp] theorem Dev.setKeyBytes_launches (s : Dev) (k : Nat) (b : List Byte) : (s.setKeyBytes k b).launches = s.launches := rfl
@[simp] theorem Dev.setKeyBytes_connBacked (s : Dev) (k : Nat) (b : List Byte) : (s.setKeyBytes k b).connBacked = s.connBacked := rfl
@[simp] theorem Dev.setKeyBytes_connCache (s : Dev) (k : Nat) (b : List Byte) : (s.setKeyBytes k b).connCache = s.connCache := rfl
@[simp] theorem Dev.setKeyBytes_conns (s : Dev) (k : Nat) (b : List Byte) : (s.setKeyBytes k b).conns = s.conns := rfl
@[simp] theorem Dev.setKeyBytes_sch (s : Dev) (k : Nat) (b : List Byte) : (s.setKeyBytes k b).sch = s.sch := rfl
@[simp] theorem Dev.setKeyBytes_xlt (s : Dev) (k : Nat) (b : List Byte) : (s.setKeyBytes k b).xlt = s.xlt := rfl
@[simp] theorem Dev.setKeyBytes_hst (s : Dev) (k : Nat) (b : List Byte) : (s.setKeyBytes k b).hst = s.hst := rfl
@[simp] theorem Dev.setKeyBytes_tray (s : Dev) (k : Nat) (b : List Byte) : (s.setKeyBytes k b).tray = s.tray := rfl
@[simp] theorem Dev.setKeyBytes_rte (s : Dev) (k : Nat) (b : List Byte) : (s.setKeyBytes k b).rte = s.rte := rfl
@[simp] theorem Dev.setKeyBytes_slots (s : Dev) (k : Nat) (b : List Byte) : (s.setKeyBytes k b).slots = s.slots := rfl
@[simp] theorem Dev.setKeyBytes_exchs (s : Dev) (k : Nat) (b : List Byte) : (s.setKeyBytes k b).exchs = s.exchs := rfl
@[simp] theorem Dev.setKeyBytes_red (s : Dev) (k : Nat) (b : List Byte) : (s.setKeyBytes k b).red = s.red := rfl
@[simp] theorem Dev.setKeyBytes_stm (s : Dev) (k : Nat) (b : List Byte) : (s.setKeyBytes k b).stm = s.stm := rfl
@[simp] theorem Dev.setKeyBytes_cph (s : Dev) (k : Nat) (b : List Byte) : (s.setKeyBytes k b).cph = s.cph := rfl
@[simp] theorem Dev.setKeyBytes_ink (s : Dev) (k : Nat) (b : List Byte) : (s.setKeyBytes k b).ink = s.ink := rfl
@[simp] theorem Dev.setKeyBytes_ptns (s : Dev) (k : Nat) (b : List Byte) : (s.setKeyBytes k b).ptns = s.ptns := rfl
@[simp] theorem Dev.setKeyBytes_det (s : Dev) (k : Nat) (b : List Byte) : (s.setKeyBytes k b).det = s.det := rfl
@[simp] theorem Dev.setKeyBytes_fol (s : Dev) (k : Nat) (b : List Byte) : (s.setKeyBytes k b).fol = s.fol := rfl
@[simp] theorem Dev.setKeyBytes_opt (s : Dev) (k : Nat) (b : List Byte) : (s.setKeyBytes k b).opt = s.opt := rfl
@[simp] theorem Dev.setKeyBytes_bays (s : Dev) (k : Nat) (b : List Byte) : (s.setKeyBytes k b).bays = s.bays := rfl
@[simp] theorem Dev.setKeyBytes_lives (s : Dev) (k : Nat) (b : List Byte) : (s.setKeyBytes k b).lives = s.lives := rfl
@[simp] theorem Dev.setKeyBytes_qps (s : Dev) (k : Nat) (b : List Byte) : (s.setKeyBytes k b).qps = s.qps := rfl
@[simp] theorem Dev.setKeyBytes_eth (s : Dev) (k : Nat) (b : List Byte) : (s.setKeyBytes k b).eth = s.eth := rfl
@[simp] theorem Dev.setKeyBytes_mseg (s : Dev) (k : Nat) (b : List Byte) : (s.setKeyBytes k b).mseg = s.mseg := rfl
@[simp] theorem Dev.setKeyBytes_rst (s : Dev) (k : Nat) (b : List Byte) : (s.setKeyBytes k b).rst = s.rst := rfl
@[simp] theorem Dev.setKeyBytes_lcs (s : Dev) (k : Nat) (b : List Byte) : (s.setKeyBytes k b).lcs = s.lcs := rfl
@[simp] theorem Dev.setKeyBytes_sst (s : Dev) (k : Nat) (b : List Byte) : (s.setKeyBytes k b).sst = s.sst := rfl
@[simp] theorem Dev.setKeyBytes_err (s : Dev) (k : Nat) (b : List Byte) : (s.setKeyBytes k b).err = s.err := rfl
@[simp] theorem Dev.setKeyBytes_out (s : Dev) (k : Nat) (b : List Byte) : (s.setKeyBytes k b).out = s.out := rfl
@[simp] theorem Dev.setKeyBytes_free (s : Dev) (k : Nat) (b : List Byte) : (s.setKeyBytes k b).free = s.free := rfl

/-! ### Dev.draw counts a free value -/

@[simp] theorem Dev.draw_osc (s : Dev) : s.draw.1.osc = s.osc := rfl
@[simp] theorem Dev.draw_rlg (s : Dev) : s.draw.1.rlg = s.rlg := rfl
@[simp] theorem Dev.draw_capo (s : Dev) : s.draw.1.capo = s.capo := rfl
@[simp] theorem Dev.draw_run (s : Dev) : s.draw.1.run = s.run := rfl
@[simp] theorem Dev.draw_shadow (s : Dev) : s.draw.1.shadow = s.shadow := rfl
@[simp] theorem Dev.draw_rw (s : Dev) : s.draw.1.rw = s.rw := rfl
@[simp] theorem Dev.draw_cnt (s : Dev) : s.draw.1.cnt = s.cnt := rfl
@[simp] theorem Dev.draw_rings (s : Dev) : s.draw.1.rings = s.rings := rfl
@[simp] theorem Dev.draw_cqs (s : Dev) : s.draw.1.cqs = s.cqs := rfl
@[simp] theorem Dev.draw_ctrs (s : Dev) : s.draw.1.ctrs = s.ctrs := rfl
@[simp] theorem Dev.draw_pools (s : Dev) : s.draw.1.pools = s.pools := rfl
@[simp] theorem Dev.draw_ops (s : Dev) : s.draw.1.ops = s.ops := rfl
@[simp] theorem Dev.draw_launches (s : Dev) : s.draw.1.launches = s.launches := rfl
@[simp] theorem Dev.draw_connBacked (s : Dev) : s.draw.1.connBacked = s.connBacked := rfl
@[simp] theorem Dev.draw_connCache (s : Dev) : s.draw.1.connCache = s.connCache := rfl
@[simp] theorem Dev.draw_conns (s : Dev) : s.draw.1.conns = s.conns := rfl
@[simp] theorem Dev.draw_sch (s : Dev) : s.draw.1.sch = s.sch := rfl
@[simp] theorem Dev.draw_xlt (s : Dev) : s.draw.1.xlt = s.xlt := rfl
@[simp] theorem Dev.draw_hst (s : Dev) : s.draw.1.hst = s.hst := rfl
@[simp] theorem Dev.draw_tray (s : Dev) : s.draw.1.tray = s.tray := rfl
@[simp] theorem Dev.draw_rte (s : Dev) : s.draw.1.rte = s.rte := rfl
@[simp] theorem Dev.draw_slots (s : Dev) : s.draw.1.slots = s.slots := rfl
@[simp] theorem Dev.draw_exchs (s : Dev) : s.draw.1.exchs = s.exchs := rfl
@[simp] theorem Dev.draw_red (s : Dev) : s.draw.1.red = s.red := rfl
@[simp] theorem Dev.draw_stm (s : Dev) : s.draw.1.stm = s.stm := rfl
@[simp] theorem Dev.draw_cph (s : Dev) : s.draw.1.cph = s.cph := rfl
@[simp] theorem Dev.draw_ink (s : Dev) : s.draw.1.ink = s.ink := rfl
@[simp] theorem Dev.draw_mem (s : Dev) : s.draw.1.mem = s.mem := rfl
@[simp] theorem Dev.draw_ptns (s : Dev) : s.draw.1.ptns = s.ptns := rfl
@[simp] theorem Dev.draw_det (s : Dev) : s.draw.1.det = s.det := rfl
@[simp] theorem Dev.draw_fol (s : Dev) : s.draw.1.fol = s.fol := rfl
@[simp] theorem Dev.draw_opt (s : Dev) : s.draw.1.opt = s.opt := rfl
@[simp] theorem Dev.draw_bays (s : Dev) : s.draw.1.bays = s.bays := rfl
@[simp] theorem Dev.draw_lives (s : Dev) : s.draw.1.lives = s.lives := rfl
@[simp] theorem Dev.draw_qps (s : Dev) : s.draw.1.qps = s.qps := rfl
@[simp] theorem Dev.draw_eth (s : Dev) : s.draw.1.eth = s.eth := rfl
@[simp] theorem Dev.draw_mseg (s : Dev) : s.draw.1.mseg = s.mseg := rfl
@[simp] theorem Dev.draw_rst (s : Dev) : s.draw.1.rst = s.rst := rfl
@[simp] theorem Dev.draw_lcs (s : Dev) : s.draw.1.lcs = s.lcs := rfl
@[simp] theorem Dev.draw_sst (s : Dev) : s.draw.1.sst = s.sst := rfl
@[simp] theorem Dev.draw_err (s : Dev) : s.draw.1.err = s.err := rfl
@[simp] theorem Dev.draw_out (s : Dev) : s.draw.1.out = s.out := rfl
@[simp] theorem Dev.draw_free (s : Dev) : s.draw.1.free = s.free + 1 := rfl

end Sys2Proof.Machine
end

