-- ==== Sys2Proof/Laws/Tables.lean ====
section
/-! SUPPORT. Sparse tables: what a key reads after another was set, and that setting keeps the canonical form. -/

namespace Sys2Proof.Machine

variable {α : Type}

/-- A key before the first listed one reads as the default. -/
theorem tget_before (d : Nat → α) (j : Nat) (v : α) (t : Tbl α) (k : Nat) (h : k < j) : tget d ((j, v) :: t) k = d k := by
  have : j ≠ k := by omega
  simp [tget, this, h]

/-- Another key's value after an entry is put in place. -/
theorem tget_tput_ne (d : Nat → α) (t : Tbl α) (k j : Nat) (x : α) (h : j ≠ k)
    (ht : t.Pairwise fun a b => a.1 < b.1) : tget d (tput t k x) j = tget d t j := by
  induction t with
  | nil => simp [tput, tget]; omega
  | cons p t ih =>
    obtain ⟨i, v⟩ := p
    obtain ⟨hp, ht⟩ := List.pairwise_cons.mp ht
    by_cases hik : i = k
    · subst hik
      have hij : i ≠ j := fun e => h e.symm
      simp [tput, tget, hij]
    · by_cases hk : k < i
      · simp [tput, hik, hk, tget]
        by_cases h1 : k = j
        · omega
        · by_cases h2 : j < k
          · have h3 : i ≠ j := by omega
            have h4 : j < i := by omega
            simp [h1, h2, h3, h4]
          · simp [h1, h2]
      · simp [tput, hik, hk, tget, ih ht]

/-- The key's own value after an entry is put in place. -/
theorem tget_tput_same (d : Nat → α) (t : Tbl α) (k : Nat) (x : α) : tget d (tput t k x) k = x := by
  induction t with
  | nil => simp [tput, tget]
  | cons p t ih =>
    obtain ⟨i, v⟩ := p
    by_cases hik : i = k
    · subst hik; simp [tput, tget]
    · by_cases hk : k < i
      · simp [tput, hik, hk, tget]
      · simp [tput, hik, hk, tget, ih]

/-- Another key's value after an entry is taken out. -/
theorem tget_terase_ne (d : Nat → α) (t : Tbl α) (k j : Nat) (h : j ≠ k)
    (ht : t.Pairwise fun a b => a.1 < b.1) : tget d (terase t k) j = tget d t j := by
  induction t with
  | nil => rfl
  | cons p t ih =>
    obtain ⟨i, v⟩ := p
    obtain ⟨hp, ht⟩ := List.pairwise_cons.mp ht
    by_cases hik : i = k
    · subst hik
      have h1 : i ≠ j := fun e => h e.symm
      by_cases h2 : j < i
      · cases t with
        | nil => simp [terase, tget, h1]
        | cons q t =>
          have := hp q (by simp)
          simp [terase, tget, h1, h2]
          have h3 : q.1 ≠ j := by omega
          have h4 : j < q.1 := by omega
          simp [h3, h4]
      · simp [terase, tget, h1, h2]
    · by_cases hk : k < i
      · simp [terase, hik, hk]
      · simp [terase, hik, hk, tget, ih ht]

/-- The key's own value after its entry is taken out is the default. -/
theorem tget_terase_same (d : Nat → α) (t : Tbl α) (k : Nat)
    (ht : t.Pairwise fun a b => a.1 < b.1) : tget d (terase t k) k = d k := by
  induction t with
  | nil => rfl
  | cons p t ih =>
    obtain ⟨i, v⟩ := p
    obtain ⟨hp, ht⟩ := List.pairwise_cons.mp ht
    by_cases hik : i = k
    · subst hik
      cases t with
      | nil => simp [terase, tget]
      | cons q t => exact (by simpa [terase] using tget_before d q.1 q.2 t i (hp q (by simp)))
    · by_cases hk : k < i
      · simp [terase, hik, hk, tget]
      · simp [terase, hik, hk, tget, ih ht]

/-- Whatever an entry satisfies, the entries of a table with another put in satisfy. -/
theorem mem_tput (t : Tbl α) (k : Nat) (x : α) (p : Nat × α) (h : p ∈ tput t k x) : p = (k, x) ∨ p ∈ t := by
  induction t with
  | nil => simpa [tput] using h
  | cons q t ih =>
    obtain ⟨i, v⟩ := q
    by_cases hik : i = k
    · simp [tput, hik] at h; rcases h with h | h <;> simp [h]
    · by_cases hk : k < i
      · simp [tput, hik, hk] at h; rcases h with h | h | h <;> simp [h]
      · simp [tput, hik, hk] at h
        rcases h with h | h
        · simp [h]
        · rcases ih h with h | h <;> simp [h]

theorem mem_terase (t : Tbl α) (k : Nat) (p : Nat × α) (h : p ∈ terase t k) : p ∈ t := by
  induction t with
  | nil => simp [terase] at h
  | cons q t ih =>
    obtain ⟨i, v⟩ := q
    by_cases hik : i = k
    · simp [terase, hik] at h; simp [h]
    · by_cases hk : k < i
      · simpa [terase, hik, hk] using h
      · simp [terase, hik, hk] at h
        rcases h with h | h
        · simp [h]
        · simp [ih h]

theorem sorted_tput (t : Tbl α) (k : Nat) (x : α) (h : t.Pairwise fun a b => a.1 < b.1) :
    (tput t k x).Pairwise fun a b => a.1 < b.1 := by
  induction t with
  | nil => simp [tput]
  | cons q t ih =>
    obtain ⟨i, v⟩ := q
    obtain ⟨hp, ht⟩ := List.pairwise_cons.mp h
    by_cases hik : i = k
    · subst hik; simpa [tput] using h
    · by_cases hk : k < i
      · simp only [tput, hik, hk, if_true, if_false]
        refine List.pairwise_cons.mpr ⟨?_, h⟩
        intro b hb
        rcases List.mem_cons.mp hb with rfl | hb
        · exact hk
        · exact Nat.lt_trans hk (hp b hb)
      · simp only [tput, hik, hk, if_false]
        refine List.pairwise_cons.mpr ⟨?_, ih ht⟩
        intro b hb
        rcases mem_tput t k x b hb with rfl | hb
        · show i < k
          omega
        · exact hp b hb

theorem sorted_terase (t : Tbl α) (k : Nat) (h : t.Pairwise fun a b => a.1 < b.1) :
    (terase t k).Pairwise fun a b => a.1 < b.1 := by
  induction t with
  | nil => simp [terase]
  | cons q t ih =>
    obtain ⟨i, v⟩ := q
    obtain ⟨hp, ht⟩ := List.pairwise_cons.mp h
    by_cases hik : i = k
    · simpa [terase, hik] using ht
    · by_cases hk : k < i
      · simpa [terase, hik, hk] using h
      · simp only [terase, hik, hk, if_false]
        exact List.pairwise_cons.mpr ⟨fun b hb => hp b (mem_terase t k b hb), ih ht⟩

section
variable [DecidableEq α]

/-- The canonical form, in words: keys rising, and nothing listed that an unlisted key reads as. -/
theorem twf_iff (d : Nat → α) (t : Tbl α) :
    twf d t = true ↔ t.Pairwise (fun a b => a.1 < b.1) ∧ ∀ p ∈ t, p.2 ≠ d p.1 := by
  induction t with
  | nil => simp [twf]
  | cons p t ih =>
    obtain ⟨i, v⟩ := p
    cases t with
    | nil => simp [twf]
    | cons q t =>
      have key : (∀ b ∈ q :: t, i < b.1) ∨ ¬ i < q.1 ∨ ¬ (q :: t).Pairwise (fun a b => a.1 < b.1) := by
        by_cases h1 : i < q.1
        · by_cases h2 : (q :: t).Pairwise (fun a b => a.1 < b.1)
          · left
            intro b hb
            rcases List.mem_cons.mp hb with rfl | hb
            · exact h1
            · exact Nat.lt_trans h1 ((List.pairwise_cons.mp h2).1 b hb)
          · exact .inr (.inr h2)
        · exact .inr (.inl h1)
      rw [twf, Bool.and_eq_true, Bool.and_eq_true, ih]
      simp only [List.pairwise_cons (a := (i, v)), List.forall_mem_cons (a := (i, v)), decide_eq_true_eq, ne_eq]
      constructor
      · rintro ⟨⟨h1, h2⟩, h3, h4⟩
        refine ⟨⟨?_, h3⟩, h1, h4⟩
        rcases key with h | h | h
        · exact h
        · exact absurd h2 h
        · exact absurd h3 h
      · rintro ⟨⟨h1, h2⟩, h3, h4⟩
        exact ⟨⟨h3, h1 q (by simp)⟩, h2, h4⟩

theorem twf_sorted (d : Nat → α) (t : Tbl α) (h : twf d t = true) : t.Pairwise fun a b => a.1 < b.1 :=
  ((twf_iff d t).mp h).1

/-- Setting a key keeps the canonical form. -/
theorem twf_tset (d : Nat → α) (t : Tbl α) (k : Nat) (x : α) (h : twf d t = true) : twf d (tset d t k x) = true := by
  obtain ⟨h1, h2⟩ := (twf_iff d t).mp h
  refine (twf_iff d _).mpr ?_
  by_cases hx : x = d k
  · simp only [tset, hx, if_true]
    exact ⟨sorted_terase t k h1, fun p hp => h2 p (mem_terase t k p hp)⟩
  · simp only [tset, hx, if_false]
    refine ⟨sorted_tput t k x h1, fun p hp => ?_⟩
    rcases mem_tput t k x p hp with rfl | hp
    · exact hx
    · exact h2 p hp

/-- A key reads as what was set. -/
theorem tget_tset_same (d : Nat → α) (t : Tbl α) (k : Nat) (x : α) (h : twf d t = true) : tget d (tset d t k x) k = x := by
  by_cases hx : x = d k
  · simp only [tset, hx, if_true]
    exact tget_terase_same d t k (twf_sorted d t h)
  · simp only [tset, hx, if_false]
    exact tget_tput_same d t k x

/-- A key reads as before where another was set. -/
theorem tget_tset_ne (d : Nat → α) (t : Tbl α) (k j : Nat) (x : α) (hj : j ≠ k) (h : twf d t = true) :
    tget d (tset d t k x) j = tget d t j := by
  by_cases hx : x = d k
  · simp only [tset, hx, if_true]
    exact tget_terase_ne d t k j hj (twf_sorted d t h)
  · simp only [tset, hx, if_false]
    exact tget_tput_ne d t k j x hj (twf_sorted d t h)

end

end Sys2Proof.Machine
end

