-- ==== Sys2Proof/Laws/Memory.lean ====
section
/-! SUPPORT. Memory: a read after a write, what a write leaves alone, and that every memory operation keeps the
canonical form. -/

namespace Sys2Proof.Machine

/-- At reset memory has its form. -/
theorem Memory.reset_wf : Memory.wf State.reset.dev.mem = true := rfl

theorem Dev.setByte_wf (s : Dev) (k : Nat) (b : Byte) (h : Memory.wf s.mem = true) : Memory.wf (s.setByte k b).mem = true :=
  twf_tset memReset s.mem k b h

/-- A byte reads as what was stored. -/
theorem Dev.byteAt_setByte_same (s : Dev) (k : Nat) (b : Byte) (h : Memory.wf s.mem = true) :
    (s.setByte k b).byteAt k = b := tget_tset_same memReset s.mem k b h

/-- A store leaves every other byte. -/
theorem Dev.byteAt_setByte_ne (s : Dev) (k j : Nat) (b : Byte) (hj : j ≠ k) (h : Memory.wf s.mem = true) :
    (s.setByte k b).byteAt j = s.byteAt j := tget_tset_ne memReset s.mem k j b hj h

/-- The table after bytes are stored under successive keys. -/
def memStore (m : Tbl Byte) (k : Nat) : List Byte → Tbl Byte
  | [] => m
  | b :: l => memStore (tset memReset m k b) (k + 1) l

theorem foldl_memStore (b : List Byte) (m : Tbl Byte) (k : Nat) :
    (b.foldl (fun (p : Tbl Byte × Nat) x => (tset memReset p.1 p.2 x, p.2 + 1)) (m, k)).1 = memStore m k b := by
  induction b generalizing m k with
  | nil => rfl
  | cons x l ih => simpa [memStore] using ih (tset memReset m k x) (k + 1)

theorem Dev.setKeyBytes_mem (s : Dev) (k : Nat) (b : List Byte) : (s.setKeyBytes k b).mem = memStore s.mem k b :=
  foldl_memStore b s.mem k

theorem memStore_wf (m : Tbl Byte) (k : Nat) (b : List Byte) (h : Memory.wf m = true) : Memory.wf (memStore m k b) = true := by
  induction b generalizing m k with
  | nil => exact h
  | cons x l ih => exact ih _ _ (twf_tset memReset m k x h)

theorem Dev.setKeyBytes_wf (s : Dev) (k : Nat) (b : List Byte) (h : Memory.wf s.mem = true) :
    Memory.wf (s.setKeyBytes k b).mem = true := by rw [Dev.setKeyBytes_mem]; exact memStore_wf s.mem k b h

/-- Storing bytes leaves every byte outside them. -/
theorem tget_memStore_out (m : Tbl Byte) (k : Nat) (b : List Byte) (j : Nat) (hj : j < k ∨ k + b.length ≤ j)
    (h : Memory.wf m = true) : tget memReset (memStore m k b) j = tget memReset m j := by
  induction b generalizing m k with
  | nil => rfl
  | cons x l ih =>
    have hj' : j < k ∨ k + 1 + l.length ≤ j := by simp only [List.length_cons] at hj; omega
    rw [memStore, ih _ _ (by omega) (twf_tset memReset m k x h)]
    exact tget_tset_ne memReset m k j x (by omega) h

/-- Stored bytes read as stored. -/
theorem tget_memStore_in (m : Tbl Byte) (k : Nat) (b : List Byte) (i : Nat) (hi : i < b.length) (h : Memory.wf m = true) :
    tget memReset (memStore m k b) (k + i) = b[i] := by
  induction b generalizing m k i with
  | nil => simp at hi
  | cons x l ih =>
    cases i with
    | zero =>
      rw [memStore, tget_memStore_out _ _ _ _ (by omega) (twf_tset memReset m k x h)]
      exact tget_tset_same memReset m k x h
    | succ i =>
      have := ih (tset memReset m k x) (k + 1) i (by simpa using hi) (twf_tset memReset m k x h)
      simpa [memStore, Nat.add_assoc, Nat.add_comm 1 i] using this

theorem Dev.byteAt_setKeyBytes_out (s : Dev) (k : Nat) (b : List Byte) (j : Nat) (hj : j < k ∨ k + b.length ≤ j)
    (h : Memory.wf s.mem = true) : (s.setKeyBytes k b).byteAt j = s.byteAt j := by
  simp only [Dev.byteAt, Dev.setKeyBytes_mem]; exact tget_memStore_out s.mem k b j hj h

/-- The bytes stored under successive keys read back. -/
theorem Dev.keyBytes_setKeyBytes (s : Dev) (k : Nat) (b : List Byte) (h : Memory.wf s.mem = true) :
    (s.setKeyBytes k b).keyBytes k b.length = b := by
  refine List.ext_getElem (by simp [Dev.keyBytes]) fun i h1 h2 => ?_
  simp only [Dev.keyBytes, List.getElem_map, List.getElem_range, Dev.byteAt, Dev.setKeyBytes_mem]
  exact tget_memStore_in s.mem k b i h2 h

/-! ### What does not store -/

@[simp] theorem Dev.post_mem (s : Dev) (blk : Nat) (r : BitVec 256) : (s.post blk r).mem = s.mem := by
  unfold Dev.post; split
  · rfl
  · split <;> rfl

@[simp] theorem Dev.postErr_mem (s : Dev) (off cls code detail sev : Nat) (part : Option Nat) :
    (s.postErr off cls code detail sev part).mem = s.mem := Dev.post_mem _ _ _

theorem foldl_frame {β γ : Type} (g : Dev → γ) (f : Dev → β → Dev) (h : ∀ s x, g (f s x) = g s) (l : List β) (s : Dev) :
    g (l.foldl f s) = g s := by
  induction l generalizing s with
  | nil => rfl
  | cons x l ih => simp [ih, h]

@[simp] theorem Dev.trayPump_mem (n : Nat) (s : Dev) (k : Nat) : (Dev.trayPump n s k).mem = s.mem := by
  induction n generalizing s with
  | zero => rfl
  | succ n ih =>
    rw [Dev.trayPump]
    split
    · rfl
    · split
      · rw [ih]; rfl
      · split
        · rfl
        · rw [ih]; rfl

@[simp] theorem Dev.traySend_mem (s : Dev) (k : Nat) (m : TrayMsg) : (s.traySend k m).mem = s.mem := by
  simp [Dev.traySend, Dev.trayFlush]

@[simp] theorem Dev.trayIssue_mem (n : Nat) (s : Dev) (k : Nat) : (Dev.trayIssue n s k).mem = s.mem := by
  induction n generalizing s with
  | zero => rfl
  | succ n ih => rw [Dev.trayIssue]; split <;> simp [ih]

@[simp] theorem Dev.trayRequest_mem (s : Dev) (k : Nat) (r : TrayReq) : (s.trayRequest k r).mem = s.mem := by
  simp [Dev.trayRequest]

@[simp] theorem Dev.trayReads_mem (s : Dev) (k a n opc who : Nat) (key : BitVec 32) : (s.trayReads k a n opc who key).mem = s.mem :=
  foldl_frame (·.mem) _ (fun s _ => Dev.trayRequest_mem s k _) _ s

@[simp] theorem Dev.trayWrites_mem (s : Dev) (k a : Nat) (b : List Byte) (who : Nat) (key : BitVec 32) (evict : Bool) :
    (s.trayWrites k a b who key evict).mem = s.mem :=
  foldl_frame (·.mem) _ (fun s _ => Dev.trayRequest_mem s k _) _ _

@[simp] theorem Dev.snoopSend_mem (s : Dev) (k opc a : Nat) : (s.snoopSend k opc a).mem = s.mem := by
  simp [Dev.snoopSend]

@[simp] theorem Dev.backInval_mem (s : Dev) (a : Nat) : (s.backInval a).mem = s.mem := rfl

@[simp] theorem Dev.recall_mem (s : Dev) (g a : Nat) (w : Bool) : (s.recall g a w).mem = s.mem := by
  unfold Dev.recall
  split
  · rfl
  · refine foldl_frame (·.mem) _ (fun s h => ?_) _ s
    dsimp only
    split
    · rfl
    · split <;> split <;> simp

@[simp] theorem Dev.eccRead_mem (s : Dev) (c off : Nat) : (s.eccRead c off).mem = s.mem := by
  unfold Dev.eccRead; split <;> simp

@[simp] theorem Dev.eccRange_mem (s : Dev) (boot : Bool) (a n : Nat) : (s.eccRange boot a n).mem = s.mem := by
  refine foldl_frame (·.mem) _ (fun s h => ?_) _ s
  split
  · split <;> simp
  · rfl

/-! ### Every memory operation keeps the form -/

/-- A read of Inkwell stores nothing. -/
theorem Dev.inkRead_mem (s : Dev) (boot : Bool) (a n : Nat) : (s.inkRead boot a n).1.mem = s.mem := by
  simp only [Dev.inkRead, Dev.bumpBy_mem, Dev.eccRange_mem]
  exact foldl_frame (·.mem) _ (fun s l => Dev.recall_mem s 5 l false) _ s

theorem foldl_setByte_wf (c : Nat × Byte → Nat) (l : List (Nat × Byte)) (s : Dev) (h : Memory.wf s.mem = true) :
    Memory.wf (l.foldl (fun s p => s.setByte (c p) p.2) s).mem = true := by
  induction l generalizing s with
  | nil => exact h
  | cons x l ih => exact ih _ (Dev.setByte_wf s _ _ h)

theorem Dev.inkWriteLine_wf (s : Dev) (boot : Bool) (l : Nat) (part : List (Nat × Byte)) (h : Memory.wf s.mem = true) :
    Memory.wf (s.inkWriteLine boot l part).1.mem = true := by
  unfold Dev.inkWriteLine
  split
  · exact h
  · split
    · exact h
    · dsimp only
      generalize hs : (if (part.length == 64) = true then _ else _ : Dev) = t
      have ht : Memory.wf t.mem = true := by subst hs; split <;> simpa using h
      split
      · exact ht
      · exact foldl_setByte_wf _ _ _ ht

theorem Dev.inkWrite_wf (s : Dev) (boot : Bool) (a : Nat) (b : List Byte) (h : Memory.wf s.mem = true) :
    Memory.wf (s.inkWrite boot a b).1.mem = true := by
  unfold Dev.inkWrite
  generalize linesOf a b.length = ls
  generalize ((List.range b.length).zip b |>.map fun p => (a + p.1, p.2)) = cells
  suffices H : ∀ q : Dev × MemOut, Memory.wf q.1.mem = true → Memory.wf (ls.foldl (fun (q : Dev × MemOut) l =>
      let (s, o) := (q.1.recall 5 l true).inkWriteLine boot l (cells.filter fun p => p.1 / 64 * 64 == l)
      (s, firstOut [q.2, o])) q).1.mem = true from H (s, .ok) h
  induction ls with
  | nil => intro q hq; exact hq
  | cons l ls ih => intro q hq; exact ih _ (Dev.inkWriteLine_wf _ _ _ _ (by simpa using hq))

@[simp] theorem Dev.hostCfg_mem (s : Dev) (e : Env) : (s.hostCfg e).mem = s.mem := by
  have hf : ∀ l : List FnCfg, ∀ s : Dev, (l.foldl (fun s c => if c.fn < 64 then s.setFn c.fn { s.fn c.fn with
      bme := c.bme, d3 := c.d3, pasid := c.pasid, priAlloc := c.priAlloc, atomicEn := c.atomicEn, msixEn := c.msixEn,
      msixMask := c.msixMask } else s) s).mem = s.mem := fun l s =>
    foldl_frame (·.mem) _ (fun s c => by split <;> rfl) l s
  unfold Dev.hostCfg
  split
  · rfl
  · dsimp only
    split <;> split <;> first | exact hf _ _ | (split <;> exact hf _ _)

theorem foldl_tset_wf (l : List (Nat × Byte)) (m : Tbl Byte) (h : Memory.wf m = true) :
    Memory.wf (l.foldl (fun m p => tset memReset m p.1 p.2) m) = true := by
  induction l generalizing m with
  | nil => exact h
  | cons x l ih => exact ih _ (twf_tset memReset m x.1 x.2 h)

theorem Dev.enter_wf (s : Dev) (e : Env) (h : Memory.wf s.mem = true) : Memory.wf (s.enter e).mem = true := by
  refine foldl_tset_wf e.stores _ ?_
  simpa using h

theorem Dev.trayPoison_mem (s : Dev) (e : Env) (t : Tgt) (a n : Nat) : (s.trayPoison e t a n).mem = s.mem := by
  unfold Dev.trayPoison; split
  · split <;> simp
  · rfl

theorem Dev.writeT_wf (s : Dev) (e : Env) (fn : Nat) (t : Tgt) (a : Nat) (b : List Byte) (who : Nat) (key : BitVec 32) (evict : Bool)
    (h : Memory.wf s.mem = true) : Memory.wf (s.writeT e fn t a b who key evict).1.mem = true := by
  unfold Dev.writeT
  split
  · exact Dev.inkWrite_wf s false a b h
  · split
    · exact h
    · split
      · exact h
      · exact Dev.setKeyBytes_wf s _ b h
  · split
    · exact h
    · split
      · rw [Dev.trayPoison_mem]; exact h
      · exact Dev.setKeyBytes_wf _ _ b (by rw [Dev.trayWrites_mem]; exact h)

/-- A read of memory stores nothing. -/
theorem Dev.readT_mem (s : Dev) (e : Env) (fn : Nat) (t : Tgt) (a n opc who : Nat) (key : BitVec 32) :
    (s.readT e fn t a n opc who key).1.mem = s.mem := by
  unfold Dev.readT
  split
  · exact Dev.inkRead_mem s false a n
  · split
    · rfl
    · split <;> rfl
  · split
    · rfl
    · split
      · exact Dev.trayPoison_mem s e _ a n
      · exact Dev.trayReads_mem s _ a n opc who key

end Sys2Proof.Machine
end

