-- ==== Sys2Proof/Laws/Frames.lean ====
section
/-! SUPPORT. What the shared operations leave alone: an access to memory, an error record and the Folio tap change memory,
Inkwell, the attach, counts, records, the journal and what was sent, and nothing else. -/

namespace Sys2Proof.Machine

/-- The two states differ at most in memory, Inkwell, host and tray attach, counts, error records, the journal, what was
sent and the free values drawn. -/
def Dev.SameCore (s t : Dev) : Prop :=
  t = { s with
    mem := t.mem, ink := t.ink, hst := t.hst, tray := t.tray, cnt := t.cnt, err := t.err, fol := t.fol
    out := t.out, free := t.free }

namespace SameCore

theorem refl (s : Dev) : s.SameCore s := rfl

theorem trans {s t u : Dev} (h : s.SameCore t) (k : t.SameCore u) : s.SameCore u := by
  unfold Dev.SameCore at *; rw [k, h]

/-- A fold of steps that keep the core keeps it. -/
theorem fold {β : Type} (f : Dev → β → Dev) (h : ∀ (s : Dev) (x : β), s.SameCore (f s x)) (l : List β) (s : Dev) :
    s.SameCore (l.foldl f s) := by
  induction l generalizing s with
  | nil => exact refl s
  | cons x l ih => exact trans (h s x) (ih _)

theorem bumpBy (s : Dev) (off n : Nat) : s.SameCore (s.bumpBy off n) := rfl
theorem bump (s : Dev) (off : Nat) : s.SameCore (s.bump off) := rfl
theorem emit (s : Dev) (o : Out) : s.SameCore (s.emit o) := rfl
theorem draw (s : Dev) : s.SameCore s.draw.1 := rfl
theorem setTray (s : Dev) (k : Nat) (x : TrayPort) : s.SameCore (s.setTray k x) := rfl
theorem setFn (s : Dev) (k : Nat) (x : Fn) : s.SameCore (s.setFn k x) := rfl
theorem setDir (s : Dev) (g a : Nat) (l : Line) : s.SameCore (s.setDir g a l) := rfl
theorem setChan (s : Dev) (c : Nat) (x : Chan) : s.SameCore (s.setChan c x) := rfl
theorem setByte (s : Dev) (k : Nat) (b : Byte) : s.SameCore (s.setByte k b) := rfl
theorem setKeyBytes (s : Dev) (k : Nat) (b : List Byte) : s.SameCore (s.setKeyBytes k b) := rfl

theorem post (s : Dev) (blk : Nat) (r : BitVec 256) : s.SameCore (s.post blk r) := by
  unfold Dev.post; split
  · rfl
  · split <;> rfl

theorem postErr (s : Dev) (off cls code detail sev : Nat) (part : Option Nat) :
    s.SameCore (s.postErr off cls code detail sev part) := post _ _ _

theorem hostErr (s : Dev) (v : View) (off code : Nat) (w : Word) : s.SameCore (s.hostErr v off code w) := post _ _ _

theorem trayPump (n : Nat) (s : Dev) (k : Nat) : s.SameCore (Dev.trayPump n s k) := by
  induction n generalizing s with
  | zero => exact refl s
  | succ n ih =>
    rw [Dev.trayPump]; split
    · exact refl s
    · split
      · exact trans (by rfl) (ih _)
      · split
        · exact refl s
        · exact trans (by rfl) (ih _)

theorem traySend (s : Dev) (k : Nat) (m : TrayMsg) : s.SameCore (s.traySend k m) :=
  trans (setTray s k _) (trayPump _ _ _)

theorem trayIssue (n : Nat) (s : Dev) (k : Nat) : s.SameCore (Dev.trayIssue n s k) := by
  induction n generalizing s with
  | zero => exact refl s
  | succ n ih =>
    rw [Dev.trayIssue]; split
    · exact refl s
    · exact trans (trans (setTray s k _) (traySend _ _ _)) (ih _)

theorem trayRequest (s : Dev) (k : Nat) (r : TrayReq) : s.SameCore (s.trayRequest k r) :=
  trans (setTray s k _) (trayIssue _ _ _)

theorem trayReads (s : Dev) (k a n opc who : Nat) (key : BitVec 32) : s.SameCore (s.trayReads k a n opc who key) :=
  fold _ (fun s _ => trayRequest s k _) _ s

theorem trayWrites (s : Dev) (k a : Nat) (b : List Byte) (who : Nat) (key : BitVec 32) (evict : Bool) :
    s.SameCore (s.trayWrites k a b who key evict) :=
  trans (by rfl) (fold _ (fun s _ => trayRequest s k _) _ _)

theorem snoopSend (s : Dev) (k opc a : Nat) : s.SameCore (s.snoopSend k opc a) :=
  trans (setTray s k _) (traySend _ _ _)

theorem backInval (s : Dev) (a : Nat) : s.SameCore (s.backInval a) := rfl

theorem lineRecall (s : Dev) (g a : Nat) (w : Bool) : s.SameCore (s.recall g a w) := by
  unfold Dev.recall
  split
  · exact refl s
  · refine fold _ (fun s h => ?_) _ s
    dsimp only
    split
    · exact refl s
    · cases w
      · split
        · exact backInval s a
        · exact snoopSend s _ _ _
      · split
        · exact trans (setDir s h a .i) (backInval _ a)
        · exact trans (setDir s h a .i) (snoopSend _ _ _ _)

theorem eccRead (s : Dev) (c off : Nat) : s.SameCore (s.eccRead c off) := by
  unfold Dev.eccRead; split
  · exact refl s
  · rfl
  · exact trans (by rfl) (postErr _ _ _ _ _ _ _)

theorem eccRange (s : Dev) (boot : Bool) (a n : Nat) : s.SameCore (s.eccRange boot a n) := by
  refine fold _ (fun s h => ?_) _ s
  split
  · split
    · exact refl s
    · exact eccRead s _ _
  · exact refl s

theorem inkRead (s : Dev) (boot : Bool) (a n : Nat) : s.SameCore (s.inkRead boot a n).1 :=
  trans (fold _ (fun s l => lineRecall s 5 l false) _ s) (trans (eccRange _ boot a n) (bumpBy _ _ _))

theorem inkWriteLine (s : Dev) (boot : Bool) (l : Nat) (part : List (Nat × Byte)) :
    s.SameCore (s.inkWriteLine boot l part).1 := by
  unfold Dev.inkWriteLine
  split
  · exact bump s _
  · split
    · exact bump s _
    · dsimp only
      generalize hs : (if (part.length == 64) = true then _ else _ : Dev) = t
      have ht : s.SameCore t := by
        subst hs; split
        · rfl
        · exact eccRead s _ _
      split
      · exact ht
      · exact trans ht (fold _ (fun s p => setByte s _ _) _ t)

theorem inkWrite (s : Dev) (boot : Bool) (a : Nat) (b : List Byte) : s.SameCore (s.inkWrite boot a b).1 := by
  unfold Dev.inkWrite
  generalize linesOf a b.length = ls
  generalize ((List.range b.length).zip b |>.map fun p => (a + p.1, p.2)) = cells
  suffices H : ∀ q : Dev × MemOut, s.SameCore q.1 → s.SameCore (ls.foldl (fun (q : Dev × MemOut) l =>
      let (s, o) := (q.1.recall 5 l true).inkWriteLine boot l (cells.filter fun p => p.1 / 64 * 64 == l)
      (s, firstOut [q.2, o])) q).1 from H (s, .ok) (refl s)
  induction ls with
  | nil => intro q hq; exact hq
  | cons l ls ih => intro q hq; exact ih _ (trans hq (trans (lineRecall _ _ _ _) (inkWriteLine _ _ _ _)))

theorem hostCfg (s : Dev) (e : Env) : s.SameCore (s.hostCfg e) := by
  have hf : ∀ l : List FnCfg, ∀ s : Dev, s.SameCore (l.foldl (fun s c => if c.fn < 64 then s.setFn c.fn { s.fn c.fn with
      bme := c.bme, d3 := c.d3, pasid := c.pasid, priAlloc := c.priAlloc, atomicEn := c.atomicEn, msixEn := c.msixEn,
      msixMask := c.msixMask } else s) s) := fun l s =>
    fold _ (fun s c => by split <;> rfl) l s
  unfold Dev.hostCfg
  split
  · exact refl s
  · dsimp only
    refine trans (hf e.cfg s) ?_
    generalize (e.cfg.foldl _ s) = u
    split <;> split <;> first | exact refl u | rfl | (split <;> first | exact refl u | rfl)

theorem enter (s : Dev) (e : Env) : s.SameCore (s.enter e) := trans (hostCfg s e) (by rfl)

theorem trayPoison (s : Dev) (e : Env) (t : Tgt) (a n : Nat) : s.SameCore (s.trayPoison e t a n) := by
  unfold Dev.trayPoison; split
  · split
    · exact refl s
    · exact postErr _ _ _ _ _ _ _
  · exact refl s

theorem readT (s : Dev) (e : Env) (fn : Nat) (t : Tgt) (a n opc who : Nat) (key : BitVec 32) :
    s.SameCore (s.readT e fn t a n opc who key).1 := by
  unfold Dev.readT
  split
  · exact inkRead s false a n
  · split
    · exact refl s
    · split <;> exact refl s
  · split
    · exact refl s
    · split
      · exact trayPoison s e (.tray _) a n
      · exact trayReads s _ a n opc who key

theorem writeT (s : Dev) (e : Env) (fn : Nat) (t : Tgt) (a : Nat) (b : List Byte) (who : Nat) (key : BitVec 32) (evict : Bool) :
    s.SameCore (s.writeT e fn t a b who key evict).1 := by
  unfold Dev.writeT
  split
  · exact inkWrite s false a b
  · split
    · exact refl s
    · split
      · exact refl s
      · exact setKeyBytes s _ b
  · split
    · exact refl s
    · split
      · exact trayPoison s e (.tray _) a b.length
      · exact trans (trayWrites s _ a b who key evict) (setKeyBytes _ _ b)

/-! ### The Folio tap -/

theorem folAppend (s : Dev) (r : Region) (kind part : Nat) (time : Word) (body : List Byte) (units : Nat) :
    s.SameCore (s.folAppend r kind part time body units) := trans (inkWrite s false _ _) (by rfl)

theorem folWrite (s : Dev) (kind part : Nat) (time : Word) (body : List Byte) : s.SameCore (s.folWrite kind part time body) := by
  unfold Dev.folWrite; split
  · exact refl s
  · dsimp only
    refine trans ?_ (folAppend _ _ _ _ _ _ _)
    split
    · exact trans (folAppend s _ _ _ _ _ _) (by rfl)
    · exact refl s

theorem folPut (s : Dev) (kind part : Nat) (time : Word) (body : List Byte) : s.SameCore (s.folPut kind part time body) := by
  unfold Dev.folPut; split
  · exact folWrite s _ _ _ _
  · exact refl s

theorem folGap (s : Dev) : s.SameCore s.folGap := by
  unfold Dev.folGap; split
  · exact refl s
  · exact trans (folWrite s _ _ _ _) (by rfl)

theorem tapTake (s : Dev) (n : Nat) : s.SameCore (s.tapTake n) := rfl

theorem folTap (s : Dev) (kind part : Nat) (body : List Byte) : s.SameCore (s.folTap kind part body) := by
  unfold Dev.folTap; split
  · rfl
  · split
    · exact refl s
    · split
      · exact trans (folGap s) (trans (tapTake _ _) (folPut _ _ _ _ _))
      · exact tapTake s _

theorem folEvent (s : Dev) (kind part : Nat) (attrs : List (Nat × Nat)) (body : List Byte) :
    s.SameCore (s.folEvent kind part attrs body) := by
  unfold Dev.folEvent; split
  · exact folTap s _ _ _
  · exact refl s

theorem folTrigger (s : Dev) (cause detail : Nat) : s.SameCore (s.folTrigger cause detail) := by
  unfold Dev.folTrigger; split
  · exact trans (trans (folGap s) (folPut _ _ _ _ _)) (by rfl)
  · exact bump s _
  · exact bump s _
  · exact refl s

theorem tapWrite (s : Dev) (v : View) (off size : Nat) (w : Word) : s.SameCore (s.tapWrite v off size w) := by
  unfold Dev.tapWrite; dsimp only; split
  · exact refl s
  · split
    · split
      · exact folTap s _ _ _
      · exact refl s
    · exact folEvent s _ _ _ _
    · exact refl s

end SameCore

end Sys2Proof.Machine
end

