-- ==== Sys2Proof/Tests/Slice0.lean ====
section
/-! SUPPORT. The model's own tests: which commands are well formed, results worked out from the spec by hand, and for each
statement a state and operands that meet its hypotheses. -/

namespace Sys2Proof.Tests
open Sys2Proof Sys2Proof.Machine

/- Checked one after another: many kernel evaluations at once need more threads than a checker may start. -/
set_option Elab.async false

/-- A device that is up: every domain released, the boot done, the time source, host link and function 0 in order, ports 0
and 1 up in directions 0 and 1, and one partition with a few of everything and a share of Inkwell. -/
def base : Dev := {
  osc := 1000000
  rst := { released := 9, boot := .done, trimValid := true, ready := true, coreUp := true, started := true, startWritten := true }
  rlg := { lock := .source, time := 8192000000, ports := [(0, { nbState := 5 }), (1, { nbState := 2 })] }
  capo := { down := 0xFFFC, node := 1, nodeSet := true }
  hst := { dlActive := true, fns := [(0, { bme := true })] }
  rte := { links := [(0, { up := true }), (1, { up := true })] }
  ink := {
    trained := true, boot := false, fitted := 12, reference := 2 ^ 30
    chans := (List.range 12).map fun c => (c, { present := true }) }
  run := [
    (Reg.rtePortCfg 0, 0), (Reg.rtePortCfg 1, 1),
    (inkCell 0 0, 1), (inkCell 0 2, 0x1000000), (inkCell 0 3, 0xFFF),
    (ptnCell 0 0, 0x0010000400040000), (ptnCell 0 1, 0x0000001000000000), (ptnCell 0 2, 0x0000001000000000),
    (ptnCell 0 3, 0x0004000000100000)] }

/-- The state of a device with fresh flash and no command waiting. -/
def on (d : Dev) : State := { dev := d }

theorem test_queue_empty_after_reset : State.reset.pending = [] := rfl

/-- A one-unit entry of a ring: its opcode, and fields as pairs of bottom bit and value. -/
def entry (code : Nat) (f : List (Nat × Nat)) : Entry :=
  { units := [BitVec.ofNat 512 (f.foldl (fun a x => a + at_ x.1 x.2) (16 + at_ 8 code))] }

/-- `base` with a tree slot 0 (a leaf, member 1, whose parent is node 2), a ring slot 1 of two members, key 1 of all rights
over the partition's Inkwell, an ACTIVE connection 0 whose context is cached, and completion ring 0 enabled. -/
def full : Dev := { base with
  run := [
    (Reg.rtePortCfg 0, 0), (Reg.rtePortCfg 1, 1),
    (chdCell 0 0, 0x0000000100000000), (chdCell 0 1, 0xFFFF000100000002), (chdCell 0 2, 0x0000000000010002), (chdCell 0 8, 2),
    (chdCell 0 10, 0x100), (chdCell 0 12, 1),
    (chdCell 1 0, 0x0000000100000001), (chdCell 1 1, 0x0000000100000002), (chdCell 1 8, 2),
    (inkCell 0 0, 1), (inkCell 0 2, 0x1000000), (inkCell 0 3, 0xFFF),
    (ptnCell 0 0, 0x0010000400040000), (ptnCell 0 1, 0x0000001000000000), (ptnCell 0 2, 0x0000001000000000),
    (ptnCell 0 3, 0x0004000000100000)]
  xlt := { keys := [(1, BitVec.ofNat 256 (at_ 33 31 + at_ 40 2 + at_ 53 1 + at_ 80 0xFFFFF))], keyCached := [1] }
  conns := [(0, { st := .active })]
  connCache := [0]
  cqs := [(0, { st := .enabled, base := 0x100800 })] }

/-- `full` with an entry at the launch point of ring 0. -/
def posted (e : Entry) : Dev := { full with rings := [(0, { st := .enabled, base := 0x800, taken := [e] })] }

/-- The launch tree's counters after it has chosen. -/
def picked (s : Dev) : Drr := match s.launchPick with | some (_, d) => d | none => {}

/-- Whether `Dev.Launches` and, where asked, `Dev.Unasked` hold. -/
def launches (s : Dev) (r code : Nat) (e : Entry) (d : Drr) : Bool :=
  decide (s.ready r = some e) && e.opcode == code && decide (s.launchPick = some (r, d)) && !s.depFailed r e &&
  decide ((s.ring r).taken = [e]) && (s.op? r e.pos).isNone

theorem launches_of {s : Dev} {r code : Nat} {e : Entry} {d : Drr} (h : launches s r code e d = true) : s.Launches r code e d := by
  simp only [launches, Bool.and_eq_true, decide_eq_true_eq, beq_iff_eq, Bool.not_eq_true', Option.isNone_iff_eq_none] at h
  obtain ⟨⟨⟨⟨⟨a, b⟩, c⟩, x⟩, y⟩, z⟩ := h
  exact ⟨a, b, c, x, y, z⟩

def unasked (s : Dev) (r : Nat) (e : Entry) : Bool := !e.complete && !e.signalEn && decide (s.folMatch (e.attrs r) = none) &&
  !s.trayOwes r e.pos e.scopeSys && decide ((s.cq (s.ring r).cq).owed = [])

theorem unasked_of {s : Dev} {r : Nat} {e : Entry} (h : unasked s r e = true) : s.Unasked r e := by
  simp only [unasked, Bool.and_eq_true, decide_eq_true_eq, Bool.not_eq_true'] at h
  obtain ⟨⟨⟨⟨a, b⟩, c⟩, d⟩, f⟩ := h
  exact ⟨a, b, c, d, f⟩

/-- A chord packet from node 2 for slot 0: type, operation sequence, further header fields, payload. -/
def chordPkt (t seq : Nat) (f : List (Nat × Nat)) (b : List Byte) : Packet :=
  sealIcrc { hdr := mkHdr ([(0, 1), (32, 2), (64, t), (120, b.length), (224, 1), (272, seq)] ++ f), payload := b }

/-- A connection packet from node 2 to connection 0: type, further header fields, payload. -/
def connPkt (t : Nat) (f : List (Nat × Nat)) (b : List Byte) : Packet :=
  sealIcrc { hdr := mkHdr ([(0, 1), (32, 2), (64, t), (113, 1), (114, 1), (120, b.length), (232, 1)] ++ f), payload := b }

/-- `full` with connection 0 in a given state and a packet for it just arrived. -/
def arriving (x : Conn) (p : Packet) : Dev :=
  { full with conns := [(0, x)], rte := { full.rte with local_ := [(p, 0, {})] } }

/-- Whether `Dev.Meets` holds. -/
def meets (s : Dev) (p : Packet) : Bool :=
  decide (p.vc < 12) && decide (p.plen ≤ 4096) && s.ctxCached p.dconn && !s.markHeld p.dconn && decide ((s.conn p.dconn).holding = []) &&
  decide ((s.conn p.dconn).st = .active) && decide ((s.conn p.dconn).blotEnd = 0)

theorem meets_of {s : Dev} {p : Packet} (h : meets s p = true) : s.Meets p := by
  simp only [meets, Bool.and_eq_true, decide_eq_true_eq, Bool.not_eq_true'] at h
  obtain ⟨⟨⟨⟨⟨⟨a, b⟩, c⟩, d⟩, e⟩, f⟩, g⟩ := h
  exact ⟨a, b, c, d, e, f, g⟩

/-- A Tray Link message: opcode, further header fields, data. -/
def trayMsg (opc : Nat) (f : List (Nat × Nat)) (data : List Byte) : TrayMsg :=
  { hdr := BitVec.ofNat 128 (f.foldl (fun a x => a + at_ x.1 x.2) (at_ 120 opc)), data := data }

/-- A tray flit that begins with these bytes, zeros after them and its CRC at the end. -/
def trayFlit (b : List Byte) : List Byte :=
  let b := b ++ zeros (248 - b.length)
  b ++ leBytes 8 (crc64 b)

/-- `base` with tray port 0 UP and allowed to reach partition 0. -/
def tray : Dev := { base with
  run := (Reg.trayPortPtn 0, 1) :: base.run
  tray := [(0, { st := .up, peerTags := 4, credits := (8, 8, 8) })] }

/-- Whether `Dev.Serves` holds. -/
def serves (s : Dev) (k : Nat) (m : TrayMsg) (n : Nat) (u g : Dev) : Bool :=
  decide ((s.trayPort k).st = .up) && !m.isBell && decide (s.trayPart m = some n) && decide (s.meter (2 * n) m.load = (u, .green)) &&
  decide (g = u.meterCount (2 * n) m.load .green) && bit (g.st (Reg.trayPortPtn k)) n && g.tray.all fun p => decide (p.2.snoops = [])

theorem serves_of {s u g : Dev} {k n : Nat} {m : TrayMsg} (h : serves s k m n u g = true) : s.Serves k m n u g := by
  simp only [serves, Bool.and_eq_true, decide_eq_true_eq, Bool.not_eq_true', List.all_eq_true] at h
  obtain ⟨⟨⟨⟨⟨⟨a, b⟩, c⟩, d⟩, e⟩, f⟩, i⟩ := h
  exact ⟨a, b, c, d, e, f, i⟩

/-- Whether `Dev.Lone` holds. -/
def lone (s : Dev) (p : Nat) : Bool :=
  decide ((s.link p).rx = none) && (s.sch.q.all fun x => x.port != p || x.kind2) && decide (s.slots = []) && decide (s.exchs = []) &&
  s.conns.all fun c => decide (s.nextTx c.1 = none)

theorem lone_of {s : Dev} {p : Nat} (h : lone s p = true) : s.Lone p := by
  simp only [lone, Bool.and_eq_true, decide_eq_true_eq, List.all_eq_true, Bool.or_eq_true, bne_iff_ne, ne_eq] at h
  obtain ⟨⟨⟨⟨a, b⟩, c⟩, d⟩, e⟩ := h
  exact ⟨a, fun x hx e => (b x hx).resolve_left (fun k => k e), c, d, e⟩

/-- Whether `Dev.Asked` holds. -/
def asked (s : Dev) (f : Flash) (r : Rumos) : Bool :=
  s.rst.coreUp && (match s.mseg.rx with
    | [(b, false)] => decide (r = rumosOf b) && decide (s.rumosIn f b false = .request r)
    | _ => false)

theorem asked_of {s : Dev} {f : Flash} {r : Rumos} (h : asked s f r = true) : s.Asked f r := by
  rw [asked, Bool.and_eq_true] at h
  obtain ⟨c, h⟩ := h
  refine ⟨c, ?_⟩
  split at h
  · rename_i b e
    simp only [Bool.and_eq_true, decide_eq_true_eq] at h
    exact ⟨b, e, h.1, h.2⟩
  · cases h

/-- A frame of the management segment: to a group address from station 5, with its FCS. -/
def msegFrame (etype : Nat) (b : List Byte) : List Byte := withFcs ([1, 0, 0, 0, 0, 0, 0, 0, 0, 0, 0, 5] ++ beBytes 2 etype ++ b)

/-- The header of a frame with a Rumos request to node 1, up to its body. -/
def rumosHdr (type len : Nat) : List Byte :=
  [1, 0, 0, 0, 0, 0, 0, 0, 0, 0, 0, 5, 0x88, 0xB5, 1, BitVec.ofNat 8 type, 0, 0] ++
    ([9, 0, 0, 0, 0, 0, 0, 0, 1, 0, 0, 0] ++ (leBytes 2 len ++ [0, 0, 0, 0, 0, 0]))

/-- A Rumos request under the erased rack key; a HELLO has no tag. -/
def rumosFrame (type : Nat) (body : List Byte) : List Byte :=
  let h := rumosHdr type body.length
  withFcs (h ++ (body ++ (if type = 1 then zeros 16 else base.rumosTag [0, 0, 0, 0, 0, 5] 9 (h.drop 14 ++ body))))

/-- The request in such a frame. -/
def request (type : Nat) (body : List Byte) : Rumos :=
  { src := [0, 0, 0, 0, 0, 5], type := type, seq := 9, target := [1, 0, 0, 0], body := body }

/-- `base` with the rack key known and a request received. -/
def asking (type : Nat) (body : List Byte) : Dev := { base with mseg := { keyed := true, rx := [(rumosFrame type body, false)] } }

/-- Port 14 as an Ethernet port at MAC 02 00 00 00 00 01 and IP address 10.0.0.1, with queue pair 0 (partition 0) in RTS. -/
def ether : Dev := { full with
  run := [(Reg.ethPortRec 0 0, 0x000000020000010E), (Reg.ethPortRec 0 1, 0x0100000A03000100)] ++ full.run
  eth := [(0, { link := true })]
  qps := [(0, { st := .rts })] }

/-- A frame to the Ethernet port from station 02 00 00 00 00 09. -/
def ethFrame (etype : Nat) (b : List Byte) : List Byte :=
  withFcs ([2, 0, 0, 0, 0, 1, 2, 0, 0, 0, 0, 9] ++ beBytes 2 etype ++ b)

/-- A RoCE v2 frame to queue pair 0x1000 and address 10.0.0.1: opcode, PSN, whether an ACK is asked for, and what follows the BTH. -/
def roceFrame (op psn : Nat) (ack : Bool) (b : List Byte) : List Byte :=
  let ip : List Byte := [0x45, 0] ++ beBytes 2 (20 + 8 + 12 + b.length + 4) ++ [0, 0, 0x40, 0, 64, 17, 0, 0, 10, 0, 0, 9, 10, 0, 0, 1]
  let udp : List Byte := beBytes 2 49152 ++ beBytes 2 4791 ++ beBytes 2 (8 + 12 + b.length + 4) ++ [0, 0]
  let bth : List Byte := [BitVec.ofNat 8 op, 0x40, 0xFF, 0xFF, 0] ++ beBytes 3 0x1000 ++ [if ack then 0x80 else 0] ++ beBytes 3 psn
  let f : List Byte := [2, 0, 0, 0, 0, 1, 2, 0, 0, 0, 0, 9, 8, 0] ++ ip ++ udp ++ bth ++ b
  let f := f ++ leBytes 4 (rocev2Icrc false (f ++ zeros 8) 14 34)
  f ++ leBytes 4 (crc32 f)

/-- `ether` with a frame in its ingress buffer. -/
def queued (f : List Byte) : Dev := { ether with eth := [(0, { link := true, ingress := [(f, false)] })] }

/-- Whether a step or a command answers the next state `t`. -/
def gives (o : Host.Outcome State Fault Refusal) (t : State) : Bool := match o with | .next u => decide (u = t) | _ => false

theorem gives_of {o : Host.Outcome State Fault Refusal} {t : State} (h : gives o t = true) : o = .next t := by
  unfold gives at h
  split at h
  · rw [of_decide_eq_true h]
  · cases h

/-- Whether a read answers data. -/
def reads {α : Type} [DecidableEq α] (x : Dev × Except Nat α) (u : Dev) (b : α) : Bool :=
  match x with | (v, .ok c) => decide (v = u) && decide (c = b) | _ => false

theorem reads_of {α : Type} [DecidableEq α] {x : Dev × Except Nat α} {u : Dev} {b : α} (h : reads x u b = true) : x = (u, .ok b) := by
  unfold reads at h
  split at h
  · simp only [Bool.and_eq_true, decide_eq_true_eq] at h
    rw [h.1, h.2]
  · cases h

/-- `base`'s Inkwell with a journal region. -/
def journal : Tbl Word := base.run.take 5 ++
  [(inkCell 1 0, 5), (inkCell 1 1, 0x1000000), (inkCell 1 2, 0x1000000), (inkCell 1 3, 0xFFF)] ++ base.run.drop 5

/-! ### Well-formed commands -/

theorem test_wf_access : (Instr.shadowWrite { size := 0 }).wf = false ∧ (Instr.shadowWrite { size := 4 }).wf = true := by decide

theorem test_wf_low_half : (Instr.rteTblDataAccess { data := some 0x100000000, half := .low }).wf = false := by decide

theorem test_wf_high_half : (Instr.rteTblDataAccess { data := some 1, half := .high }).wf = false := by decide

theorem test_wf_packet : (Instr.ack { payload := List.replicate 4113 0 }).wf = false := by decide +kernel

theorem test_wf_tray_message : (Instr.wrLine 0 { data := List.replicate 257 0 }).wf = false := by decide +kernel

theorem test_wf_tray_flit : (Instr.trayFlitRx 0 (zeros 255)).wf = false ∧ (Instr.trayInitRx 0 (zeros 255)).wf = false ∧
    (Instr.trayInitRx 0 (zeros 256)).wf = true := by decide +kernel

/-! ### Published check values of the codes the spec names -/

/-- The nine ASCII digits that check values of CRCs are stated for. -/
def digits : List Byte := [0x31, 0x32, 0x33, 0x34, 0x35, 0x36, 0x37, 0x38, 0x39]

theorem test_crc32c : crc32c digits = 0xE3069283 := by decide +kernel

theorem test_crc32 : crc32 digits = 0xCBF43926 := by decide +kernel

theorem test_crc64 : crc64 digits = 0x6C40DF5F0B497347 := by decide +kernel

/-- SHAKE256 of the empty message, its first 32 bytes. -/
theorem test_shake256 : shake256 32 [] = beBytes 32 0x46B9DD2B0BA88D13233B3FEB743EEB243FCD52EA62B81B82B50C27646ED5762F := by decide +kernel

/-! ### For each statement, states and operands that meet the hypotheses of each of its clauses -/

theorem witness_StepRunsTheFrontCommand :
    (let c : Instr := .rlgSnap
     let rest : List Instr := [.checkDone]
     let s : State := { dev := base, pending := [.rlgSnap, .checkDone] }
     decide (s.pending = c :: rest)) = true ∧
    (let s : State := on base
     decide (s.pending = [])) = true := by decide +kernel

theorem witness_RulingTimeFlitsAndSamples :
    (let s : State := on base
     decide (s.dev.rlg.lock = .source) && decide (s.dev.rlg.served = false)) = true ∧
    (let s : State := on { base with rlg := { base.rlg with lock := .locked } }
     decide (¬ (s.dev.rlg.lock = .source ∧ s.dev.rlg.served = false))) = true ∧
    (let s : State := on { base with rlg := { base.rlg with time := 0xFFFFFFFFFFFFE000 } }
     decide (s.dev.rlgRuns = true) && decide (2 ^ 64 - s.dev.rlg.time.toNat ≤ 8192)) = true ∧
    (let p : Fin 16 := 0
     let s : State := on base
     decide (s.dev.portUp p = true) && decide (s.dev.rlg.lock = .source) && decide (s.dev.rlg.parent = none)) = true ∧
    (let p : Fin 16 := 0
     let s : State := on { base with run := [(Reg.rlgTabPeriod, 1000), (Reg.rlgPortTab 0, 1), (tabCell 0 0, 1000)] }
     let c : Nat := 1000
     let i : Nat := 0
     let a : Nat := 8192000000
     decide (s.dev.fretAt p s.dev.now = some (c, i, a)) && decide ((s.dev.rlgPort p).fret ≠ (c + 1, i))) = true ∧
    (let p : Fin 16 := 0
     let s : State := on { base with osc := 1251 }
     decide (s.dev.tabCount p = 0) && decide (0 < bits (s.dev.st Reg.schHistCfg) 19 0) && decide (tget (fun _ => 0) s.dev.sch.idleAt p + nsTicks (bits (s.dev.st Reg.schHistCfg) 19 0) ≤ s.dev.osc)) = true ∧
    (let v : View := .port
     let s : State := on base
     decide ((v = .pf ∨ v = .port)) && decide (s.dev.inReset Reg.schHistData0 = false)) = true := by decide +kernel

theorem witness_LinkControlAndRulingLoss :
    (let p : Fin 16 := 0
     let d : BitVec 512 := 0x15
     let s : State := on base
     decide (s.dev.portUp p = true) && decide (s.dev.rlg.lock = .source) && decide (s.dev.rlg.parent = none) && decide (bit d 48 = false) && decide (bits d 2 0 < 6)) = true ∧
    (let p : Fin 16 := 0
     let s : State := on { base with rlg := { base.rlg with ports := [(0, { nbState := 5, beaconAt := some 999975 })] } }
     let b : Nat := 999975
     decide (s.dev.isEth p = false) && decide ((s.dev.rlgPort p).beaconAt = some b) && decide ((s.dev.rlgPort p).lossDeclared = false) && decide (max b (s.dev.link p).upAt + 25 ≤ s.dev.osc) && decide ((s.dev.link p).rx = none) && decide (s.dev.sch.q = []) && decide (s.dev.slots = []) && decide (s.dev.exchs = []) && decide ((∀ c ∈ s.dev.conns, c.2.tx = []))) = true ∧
    (let s : State := on { base with rlg := { base.rlg with lock := .holdover, holdBase := 2001 } }
     decide (s.dev.rlg.lock = .holdover) && decide (s.dev.holdoverLimit < s.dev.rlg.holdErr) && decide (s.dev.firstCandidate = none)) = true := by decide +kernel

theorem witness_TimestampNeverMovesTimeBack :
    (let p : Fin 16 := 0
     let d : BitVec 512 := 0x15
     let fine : BitVec 13 := 3
     let s : State := on { base with rlg := { base.rlg with lock := .locked, parent := some 0 } }
     let t : State := (match exec (.tstamp p d fine) s with | .next t => t | _ => s)
     decide (s.dev.capoArmed = false) && decide (s.dev.now + 2 ^ 64 < 2 ^ 96) && gives (exec (.tstamp p d fine) s) t && decide (s.dev.rlg.lock = .locked) && decide ((s.dev.rlg.bad < 15))) = true := by decide +kernel

theorem witness_RegisterAndWindowAccesses :
    (let s : State := on base
     decide (s.dev.inReset Reg.schHistSel = false)) = true ∧
    (let a : Access := { view := .port, off := BitVec.ofNat 22 Reg.schHistSel, data := some 5 }
     let s : State := on base
     let w : Word := 5
     let off := (accPart a).1
     let r : RegRow := (match regRow false off with | some y_ => y_ | _ => ⟨0, 8, 1, .rw, []⟩)
     let h := (accPart a).2
     let d := s.dev.tapPart a.view off h (accPlaced h w)
     decide ((a.view = .pf ∨ a.view = .port)) && decide (accOk a = true) && decide (holdsOnly off = true) && decide (a.data = some w) && decide (regRow false off = some r) && decide (d.inReset off = false)) = true ∧
    (let a : Access := { view := .pf, off := BitVec.ofNat 22 (Reg.schHistSel + 4), size := 4 }
     let s : State := on base
     let off := (accPart a).1
     decide ((a.view = .pf ∨ a.view = .port)) && decide (accOk a = true) && decide (holdsOnly off = true) && decide (a.data = none) && decide (s.dev.inReset off = false)) = true ∧
    (let a : Access := { view := .vf 0, off := BitVec.ofNat 22 Reg.schHistSel, data := some 5 }
     let n : Fin 64 := 0
     let w : Word := 5
     let off := (accPart a).1
     decide (a.view = .vf n) && decide (accOk a = true) && decide (vfReg off = none) && decide (off ≠ 0x30000) && decide (runIdx 0x34000 8 32 off = none) && decide (runIdx 0x38000 8 4096 off = none) && decide (a.data = some w)) = true ∧
    (let a : Access := { view := .vf 0, off := BitVec.ofNat 22 Reg.schHistSel }
     let n : Fin 64 := 0
     let off := (accPart a).1
     decide (a.view = .vf n) && decide (accOk a = true) && decide (vfReg off = none) && decide (off ≠ 0x30000) && decide (runIdx 0x34000 8 32 off = none) && decide (runIdx 0x38000 8 4096 off = none) && decide (a.data = none)) = true ∧
    (let a : Access := { size := 2 }
     decide (a.size ≠ 4) && decide (a.size ≠ 8)) = true ∧
    (let a : Access := { view := .port, off := BitVec.ofNat 22 Reg.rlgCfg, data := some 7 }
     let s : State := on base
     let w : Word := 7
     let off := (accPart a).1
     let h := (accPart a).2
     let d := s.dev.tapPart a.view off h (accPlaced h w)
     decide ((a.view = .pf ∨ a.view = .port)) && decide (accOk a = true) && decide (a.data = some w) && decide (stagedOnly off = true) && decide (d.inReset off = false) && decide (cellReached off h = true) && decide (d.capoBusy = false)) = true ∧
    (let a : Access := { view := .port, off := BitVec.ofNat 22 Reg.rlgCfg, data := some 7 }
     let s : State := on { base with capo := { base.capo with st := .checking } }
     let w : Word := 7
     let off := (accPart a).1
     let h := (accPart a).2
     let d := s.dev.tapPart a.view off h (accPlaced h w)
     decide ((a.view = .pf ∨ a.view = .port)) && decide (accOk a = true) && decide (a.data = some w) && decide (stagedOnly off = true) && decide (d.inReset off = false) && decide (cellReached off h = true) && decide (d.capoBusy = true)) = true ∧
    (let a : Access := { off := 0x2004C, size := 4, data := some 7 }
     let s : State := on base
     let w : Word := 7
     let off := (accPart a).1
     let h := (accPart a).2
     let d := s.dev.tapPart a.view off h (accPlaced h w)
     decide ((a.view = .pf ∨ a.view = .port)) && decide (accOk a = true) && decide (a.data = some w) && decide (stagedOnly off = true) && decide (d.inReset off = false) && decide (cellReached off h = false)) = true ∧
    (let s : State := on base
     decide (s.dev.inReset Reg.rlgCfg = false) && decide (s.dev.capoBusy = false)) = true ∧
    (let v : View := .port
     let s : State := on base
     decide ((v = .pf ∨ v = .port)) && decide (s.dev.inReset Reg.rlgTabData = false)) = true ∧
    (let v : View := .port
     let s : State := on base
     decide ((v = .pf ∨ v = .port)) && decide (s.dev.inReset Reg.schTblData = false)) = true ∧
    (let v : View := .port
     let s : State := on base
     decide ((v = .pf ∨ v = .port)) && decide (s.dev.inReset Reg.rteTblData = false)) = true ∧
    (let v : View := .port
     let s : State := on base
     decide ((v = .pf ∨ v = .port)) && decide (s.dev.inReset Reg.chdDefData = false)) = true ∧
    (let v : View := .port
     let s : State := on base
     decide ((v = .pf ∨ v = .port)) && decide (s.dev.inReset Reg.inkLayoutData = false)) = true ∧
    (let v : View := .port
     let s : State := on base
     decide ((v = .pf ∨ v = .port)) && decide (s.dev.inReset Reg.ptnLayoutData = false)) = true ∧
    (let v : View := .port
     let h : Half := .both
     let w : Word := 5
     let s : State := on base
     let d := fun (x : Window) => s.dev.tapPart v x.data h w
     decide ((v = .pf ∨ v = .port)) && decide ((d rlgTabWindow).inReset Reg.rlgTabData = false)) = true ∧
    (let v : View := .port
     let h : Half := .both
     let w : Word := 5
     let s : State := on base
     let d := fun (x : Window) => s.dev.tapPart v x.data h w
     decide ((v = .pf ∨ v = .port)) && decide ((d schWindow).inReset Reg.schTblData = false)) = true ∧
    (let v : View := .port
     let h : Half := .both
     let w : Word := 5
     let s : State := on base
     let d := fun (x : Window) => s.dev.tapPart v x.data h w
     decide ((v = .pf ∨ v = .port)) && decide ((d rteWindow).inReset Reg.rteTblData = false)) = true ∧
    (let v : View := .port
     let h : Half := .both
     let w : Word := 5
     let s : State := on base
     let d := fun (x : Window) => s.dev.tapPart v x.data h w
     decide ((v = .pf ∨ v = .port)) && decide ((d chdWindow).inReset Reg.chdDefData = false)) = true ∧
    (let v : View := .port
     let h : Half := .both
     let w : Word := 5
     let s : State := on base
     let d := fun (x : Window) => s.dev.tapPart v x.data h w
     decide ((v = .pf ∨ v = .port)) && decide ((d inkWindow).inReset Reg.inkLayoutData = false)) = true ∧
    (let v : View := .port
     let h : Half := .both
     let w : Word := 5
     let s : State := on base
     let d := fun (x : Window) => s.dev.tapPart v x.data h w
     decide ((v = .pf ∨ v = .port)) && decide ((d ptnWindow).inReset Reg.ptnLayoutData = false)) = true := by decide +kernel

theorem witness_ErrorRecordsAndSelfTests :
    (let b : Nat := 8
     let n : Nat := 1
     let r : BitVec 256 := 7
     let s : State := on { base with err := { first := [(8, { held := some 7, lost := 1 })] } }
     decide (b < 256) && decide (s.dev.err.first = [(b, { held := some r, lost := n })]) && decide (s.dev.err.queue.length < 63)) = true ∧
    (let r : BitVec 256 := 4
     let l : List (BitVec 256) := []
     let s : State := on { base with err := { queue := [4] } }
     decide (s.dev.err.queue = r :: l) && decide (bits r 5 0 ≠ 0x0B) && decide (bit (s.dev.reg Reg.errCfg) 16 = false) && decide (bit (s.dev.reg Reg.folTrigErr) (bits r 5 0) = false)) = true ∧
    (let v : View := .port
     let w : Word := 2
     decide ((v = .pf ∨ v = .port)) && decide (2 ≤ bits w 7 0)) = true ∧
    (let v : View := .port
     let w : Word := 0x000101
     let s : State := { dev := base, flash := { state := 1 } }
     let a := s.tapped v Reg.sstCtl w
     let code := a.sstCode s.flash (bits w 15 8) (bits w 23 16)
     decide ((v = .pf ∨ v = .port)) && decide (bits w 7 0 = 1) && decide (code = 0)) = true ∧
    (let v : View := .port
     let w : Word := 0xFF01
     let s : State := on base
     let a := s.tapped v Reg.sstCtl w
     let code := a.sstCode s.flash (bits w 15 8) (bits w 23 16)
     decide ((v = .pf ∨ v = .port)) && decide (bits w 7 0 = 1) && decide (code ≠ 0)) = true ∧
    (let s : State := on { base with sst := { run := some (6, 4) } }
     let test : Nat := 6
     let target : Nat := 4
     decide (s.dev.sst.run = some (test, target))) = true := by decide +kernel

theorem witness_CapoLoadsAndEngine :
    (let v : View := .port
     let w : Word := 1
     let s : State := on base
     let d := s.tapped v Reg.capoCtl w
     decide ((v = .pf ∨ v = .port)) && decide (bits w 7 0 = 1) && decide (d.loadGate scoreMax = none)) = true ∧
    (let s : State := on { base with capo := { base.capo with st := .armed, drainMask := 1, applyAt := 8212480000 } }
     decide (s.dev.capo.st = .armed) && decide (s.dev.capo.drainMask ≠ 0) && decide (s.dev.capo.applyAt ≤ s.dev.now + s.dev.drainWindow)) = true ∧
    (let v : View := .port
     let s : State := on { base with capo := { base.capo with runImage := some (64, digest256 (zeros 64)) } }
     let n : Nat := 64
     let g : BitVec 256 := digest256 (zeros 64)
     let u : Dev := ((s.tapped v Reg.capoCtl 7).stagingRead {} 0 n).1
     let img : List Byte := zeros 64
     let d := s.tapped v Reg.capoCtl 7
     decide ((v = .pf ∨ v = .port)) && decide (s.dev.capo.runImage = some (n, g)) && decide (s.dev.capo.unsignedRun = false) && decide (d.stagingRead {} 0 n = (u, some img)) && decide (digest256 img = g)) = true ∧
    (let s : State := on { base with capo := { base.capo with coreHeld := true, fw := some { version := 1, bytes := [1] } } }
     let w : FwImage := { version := 1, bytes := [1] }
     decide (s.dev.capo.coreHeld = true) && decide (s.dev.capo.fw = some w)) = true ∧
    (let s : State := on { base with det := { fpPending := true } }
     decide (s.dev.det.fpPending = true)) = true := by decide +kernel

theorem witness_CapoCommands :
    (let v : View := .port
     let s : State := on { base with capo := { base.capo with st := .staged } }
     decide ((v = .pf ∨ v = .port)) && decide ((s.dev.capo.st = .staged ∨ s.dev.capo.st = .passed ∨ s.dev.capo.st = .failed))) = true ∧
    (let s : State := on { base with capo := { base.capo with st := .checking } }
     decide (s.dev.capo.st = .checking) && decide (s.dev.rst.bootScore ≠ 2)) = true ∧
    (let v : View := .port
     let s : State := on { base with capo := { base.capo with st := .passed }, rw := [(Reg.capoApplyAt, 8213504000)] }
     decide ((v = .pf ∨ v = .port)) && decide (s.dev.capo.st = .passed) && decide (s.dev.rlg.lock.stampOk = true) && decide (s.dev.now + s.dev.drainWindow + 1024000 ≤ s.dev.applyInstant)) = true ∧
    (let v : View := .port
     let s : State := on { base with capo := { base.capo with st := .draining } }
     decide ((v = .pf ∨ v = .port)) && decide ((s.dev.capo.st = .armed ∨ s.dev.capo.st = .draining))) = true ∧
    (let v : View := .port
     let s : State := on { base with capo := { base.capo with st := .staged }, shadow := [(Reg.rlgCfg, 1)] }
     decide ((v = .pf ∨ v = .port)) && decide (s.dev.capoBusy = false)) = true := by decide +kernel

theorem witness_ApplyMovesEveryShadow :
    (let s : State := on { base with capo := { base.capo with st := .armed, applyAt := 8192000000 }, shadow := (Reg.rlgCfg, 7) :: base.run }
     decide (s.dev.capoArmed = true) && decide (s.dev.capo.applyAt ≤ s.dev.now)) = true ∧
    (let v : View := .port
     let s : State := on { base with capo := { base.capo with st := .passed }, shadow := (Reg.rlgCfg, 7) :: base.run }
     decide ((v = .pf ∨ v = .port)) && decide (s.dev.capo.st = .passed) && decide ((s.dev.rlg.lock = .free ∨ s.dev.rlg.lock = .source ∧ s.dev.rlg.served = false))) = true := by decide +kernel

theorem witness_DoorbellsAndScans :
    (let d : Doorbell := { off := 0, read := true }
     decide (d.read = true)) = true ∧
    (let d : Doorbell := { off := 0 }
     let s : State := on { full with rings := [(0, { st := .enabled })] }
     let r := doorbellRing d
     decide (d.read = false) && decide (s.dev.inReset Reg.ringSel = false) && decide (d.tray = none) && decide ((d.size = 4 ∨ d.size = 8)) && decide (s.dev.ringHeld r = true) && decide (s.dev.det.replay = false) && decide (s.dev.folMatch [(0, ringPart r), (1, r)] = none)) = true ∧
    (let ring : Fin 16384 := 0
     let env : Env := {}
     let s : State := on { full with rings := [(0, { st := .enabled, base := 0x800, scanning := true })] }
     let u : Dev := ((s.dev.enter env).readUnit env ring 0).1
     let h : BitVec 512 := 0
     let c : Instr := .ringScan ring env
     let d := s.dev.enter env
     let x := d.ring ring
     decide ((c = .ringScan ring env ∨ c = .scanResume ring env)) && decide (d.mayFetch ring = true) && decide (x.scanning = true) && decide (x.taken = []) && reads (d.readUnit env ring x.fetchPos) u h && decide (bits h 0 0 ≠ phaseAt (sizeLog2 x.cfg) x.fetchPos.toNat)) = true ∧
    (let ring : Fin 16384 := 0
     let env : Env := {}
     let s : State := on { full with rings := [(0, { st := .enabled, base := 0x800, scanning := true })], mem := [(chanKey 0 0, 0x11)] }
     let d : Dev := (s.dev.enter env)
     let u : Dev := (d.readUnit env ring 0).1
     let h : BitVec 512 := 0x11
     let k : BitVec 512 := 0
     let c : Instr := .ringScan ring env
     let a := s.dev.enter env
     let t := a.ring ring
     let x := d.ring ring
     let p := x.fetchPos
     let e : Entry := { pos := p, seq := x.fetchSeq, units := [h] }
     let e : Entry := { e with scoreChanged := decide (e.cls = .chord) && x.changed.contains e.slot }
     let w := (u.setRing ring { x with taken := x.taken ++ [e], fetchPos := p + 1, fetchSeq := x.fetchSeq + 1, torn := false, tornTries := 0 }).folEvent 0x03 (ringPart ring) (e.attrs ring) (leBytes 2 ring ++ zeros 2 ++ leBytes 4 p.toNat ++ zeros 8 ++ leBytes 64 h.toNat)
     let z := w.ring ring
     let v : Dev := (w.readUnit env ring z.fetchPos).1
     decide ((c = .ringScan ring env ∨ c = .scanResume ring env) ∧ t.scanning = true ∧ d = a ∨ c = .tornReread ring env ∧ t.torn = true ∧ t.scanning = false ∧ t.tornTries < 16 ∧ t.tornAt ≤ a.now ∧ d = a.setRing ring { t with scanning := true, tornTries := t.tornTries + 1 }) && decide (a.mayFetch ring = true) && reads (d.readUnit env ring p) u h && decide (u.ring ring = x) && decide (bits h 0 0 = phaseAt (sizeLog2 x.cfg) p.toNat) && decide (bits h 7 4 = 1) && decide (bits h 47 32 = x.fetchSeq.toNat) && decide (x.fetched + 1 ≤ x.prefetch) && decide (u.cachedUnits + 1 ≤ 65536) && reads (w.readUnit env ring z.fetchPos) v k && decide (bits k 0 0 ≠ phaseAt (sizeLog2 z.cfg) z.fetchPos.toNat)) = true ∧
    (let r : Nat := 0
     let env : Env := {}
     let s : Dev := { full with rings := [(0, { st := .enabled, base := 0x800, scanning := true })], mem := [(chanKey 0 0, 0x11)] }
     let u : Dev := (s.readUnit env r 0).1
     let h : BitVec 512 := 0x11
     let x := s.ring r
     let p := x.fetchPos
     reads (s.readUnit env r p) u h && decide (u.ring r = x) && decide (bits h 0 0 = phaseAt (sizeLog2 x.cfg) p.toNat) && decide (bits h 7 4 = 1) && decide (x.fetched + 1 ≤ x.prefetch) && decide (u.cachedUnits + 1 ≤ 65536) && decide (bits h 47 32 = x.fetchSeq.toNat)) = true ∧
    (let r : Nat := 0
     let env : Env := {}
     let s : Dev := { full with rings := [(0, { st := .enabled, base := 0x800, scanning := true, fetchSeq := 1 })], mem := [(chanKey 0 0, 0x11)] }
     let u : Dev := (s.readUnit env r 0).1
     let h : BitVec 512 := 0x11
     let x := s.ring r
     let p := x.fetchPos
     reads (s.readUnit env r p) u h && decide (u.ring r = x) && decide (bits h 0 0 = phaseAt (sizeLog2 x.cfg) p.toNat) && decide (bits h 7 4 = 1) && decide (x.fetched + 1 ≤ x.prefetch) && decide (u.cachedUnits + 1 ≤ 65536) && decide (bits h 47 32 ≠ x.fetchSeq.toNat)) = true := by decide +kernel

theorem witness_TornEntriesAndInvalidation :
    (let ring : Fin 16384 := 0
     let env : Env := {}
     let s : State := on { full with rings := [(0, { st := .enabled, base := 0x800, torn := true })], mem := [(chanKey 0 0, 0x21)] }
     let u : Dev := ((s.dev.setRing ring { s.dev.ring ring with scanning := true, tornTries := 1 }).readUnit env ring 0).1
     let u' : Dev := ((s.dev.setRing ring { s.dev.ring ring with scanning := true, tornTries := 1 }).readUnit env ring 1).1
     let h : BitVec 512 := 0x21
     let k : BitVec 512 := 0
     let d := s.dev.enter env
     let x := d.ring ring
     let p := x.fetchPos
     let h1 : Bool := decide (x.tornAt ≤ d.now)
     let h2 : Bool := decide (d.mayFetch ring = true)
     let d := d.setRing ring { x with scanning := true, tornTries := x.tornTries + 1 }
     decide (x.torn = true) && decide (x.scanning = false) && decide (x.tornTries < 16) && h1 && decide (x.taken = []) && h2 && reads (d.readUnit env ring p) u h && decide (u.ring ring = d.ring ring) && decide (bits h 0 0 = phaseAt (sizeLog2 x.cfg) p.toNat) && decide (bits h 7 4 = 2) && decide (2 ≤ x.prefetch) && decide (u.cachedUnits + 2 ≤ 65536) && reads (u.readUnit env ring (p + 1)) u' k && decide (u'.ring ring = d.ring ring) && decide (bits k 0 0 ≠ phaseAt (sizeLog2 x.cfg) (p + 1).toNat)) = true ∧
    (let v : View := .port
     let w : Word := 3
     let s : State := on (posted (entry 0 []))
     let d := s.tapped v Reg.ringInval w
     let r := d.selRing v
     decide ((v = .pf ∨ v = .port)) && decide (bit w 0 = true) && decide (d.inReset Reg.ringInval = false) && decide (d.selKind v = false) && decide ((d.ring r).st = .enabled)) = true ∧
    (let v : View := .port
     let w : Word := 2
     let s : State := on (posted (entry 0 []))
     let d := s.tapped v Reg.ringInval w
     decide ((v = .pf ∨ v = .port)) && decide (bit w 0 = false) && decide (bit w 1 = true) && decide (d.inReset Reg.ringInval = false) && decide (d.selKind v = false)) = true ∧
    (let ring : Fin 16384 := 0
     let s : State := on { full with rings := [(0, { st := .enabled, discarding := true, resumeAfter := true, taken := [entry 0 []] })] }
     decide ((s.dev.ring ring).discarding = true) && decide ((s.dev.ring ring).st = .enabled)) = true := by decide +kernel

theorem witness_RingStates :
    (let v : View := .port
     let w : Word := 1
     let s : State := on { full with rings := [(0, { base := 0x800 })] }
     let d := s.tapped v Reg.ringCtl w
     let r := d.selRing v
     let x := d.ring r
     let placed := fun (base cfg : Word) (unit : Nat) => bits base 11 10 = 2 ∧ d.inShare (ringPart r) (bits base 63 12 * 4096) (2 ^ sizeLog2 cfg * unit) = true
     decide ((v = .pf ∨ v = .port)) && decide (d.inReset Reg.ringCtl = false) && decide (bits w 7 0 = 1) && decide (d.selKind v = false) && decide (x.st = .disabled) && decide (d.ringHeld r = true) && decide (placed x.base x.cfg 64) && decide (6 ≤ sizeLog2 x.cfg) && decide (sizeLog2 x.cfg ≤ 20) && decide (ringPart x.cq = ringPart r) && decide ((d.cq x.cq).st = .enabled) && decide ((d.ptn (ringPart r)).st.refuses = false)) = true ∧
    (let v : View := .port
     let w : Word := 1
     let s : State := on (posted (entry 0 []))
     let d := s.tapped v Reg.ringCtl w
     let r := d.selRing v
     let x := d.ring r
     decide ((v = .pf ∨ v = .port)) && decide (d.inReset Reg.ringCtl = false) && decide (bits w 7 0 = 1) && decide (d.selKind v = false) && decide (x.st ≠ .disabled)) = true ∧
    (let v : View := .port
     let w : Word := 2
     let s : State := on (posted (entry 0 []))
     let d := s.tapped v Reg.ringCtl w
     let r := d.selRing v
     let x := d.ring r
     decide ((v = .pf ∨ v = .port)) && decide (d.inReset Reg.ringCtl = false) && decide (bits w 7 0 = 2) && decide (d.selKind v = false) && decide (x.st = .enabled)) = true ∧
    (let v : View := .port
     let w : Word := 1
     let s : State := on { full with rw := [(Reg.ringSel, 0x10001)], cqs := [(1, { base := 0x800 })] }
     let d := s.tapped v Reg.ringCtl w
     let r := d.selRing v
     let q := d.cq r
     let placed := fun (base cfg : Word) (unit : Nat) => bits base 11 10 = 2 ∧ d.inShare (ringPart r) (bits base 63 12 * 4096) (2 ^ sizeLog2 cfg * unit) = true
     decide ((v = .pf ∨ v = .port)) && decide (d.inReset Reg.ringCtl = false) && decide (bits w 7 0 = 1) && decide (d.selKind v = true) && decide (q.st = .disabled) && decide (d.cqHeld r = true) && decide (placed q.base q.cfg 32) && decide (7 ≤ sizeLog2 q.cfg) && decide (sizeLog2 q.cfg ≤ 22) && decide ((d.ptn (ringPart r)).st.refuses = false)) = true ∧
    (let v : View := .port
     let w : Word := 2
     let s : State := on { full with rw := [(Reg.ringSel, 0x10000)], rings := [(0, {})] }
     let d := s.tapped v Reg.ringCtl w
     let r := d.selRing v
     decide ((v = .pf ∨ v = .port)) && decide (d.inReset Reg.ringCtl = false) && decide (bits w 7 0 = 2) && decide (d.selKind v = true) && decide ((∀ p ∈ d.rings, p.2.cq = r → p.2.st = .disabled))) = true := by decide +kernel

theorem witness_CountersAndHeads :
    (let v : View := .port
     let w : Word := 0x8000000000000005
     let s : State := on full
     let d := s.tapped v Reg.ringCtr w
     decide ((v = .pf ∨ v = .port)) && decide (d.inReset Reg.ringCtr = false)) = true ∧
    (let cq : Fin 16384 := 0
     let env : Env := {}
     let s : State := on { full with cqs := [(0, { st := .enabled, base := 0x100800, headAddr := 0x40, tail := 2, rereadAt := some 5, owed := [zeros 32] })], mem := [(chanKey 0 0x40, 1)] }
     let u : Dev := ((s.dev.enter env).ringRead env (ringPart cq) 0x100800 0x40 4).1
     let b : List Byte := [1, 0, 0, 0]
     let d := s.dev.enter env
     let x := d.cq cq
     let h := BitVec.ofNat 32 (ofLe b)
     decide ((d.cqWanted cq && x.rereadAt.any fun t => t ≤ d.now) = true) && decide (x.st = .enabled) && reads (d.ringRead env (ringPart cq) x.base (bits x.headAddr 63 3 * 8) 4) u b && decide (u.cq cq = x) && decide ((x.tail - h).toNat ≤ x.size)) = true := by decide +kernel

theorem witness_EntryCompletes :
    (let ring : Fin 16384 := 0
     let pos : BitVec 32 := 0
     let env : Env := {}
     let s : State := on { full with ops := [{ entry := entry 0x28 [(17, 1)], fin := some {} }], cqs := [(0, { st := .enabled, base := 0x800, reserved := 1 })], rings := [(0, { st := .enabled })] }
     let o : Op := { entry := entry 0x28 [(17, 1)], fin := some {} }
     let d : Done := {}
     let u1 : Dev := ((((s.dev.enter env).dropOp o).setCq 0 { s.dev.cq 0 with reserved := 0 }).ringWrite env 0 0x800 8 ((recordBytes 1 0 0x28 0 0 0 0 0 1 0 0).drop 8)).1
     let u2 : Dev := (u1.ringWrite env 0 0x800 0 ((recordBytes 1 0 0x28 0 0 0 0 0 1 0 0).take 8)).1
     let a := s.dev.enter env
     let n := o.entry
     let q := (a.ring ring).cq
     let x := a.cq q
     let y : Cq := { x with reserved := x.reserved - 1 }
     let y : Cq := { y with rereadAt := if y.free then none else x.rereadAt }
     let b := (a.dropOp o).setCq q y
     let record := recordBytes (phaseAt (sizeLog2 x.cfg) x.tail.toNat) 0 n.opcode (b2n (n.scopeSys || o.scopeSys)) (b2n n.solicit) ring n.seq.toNat n.pos.toNat n.len d.bytes.toNat d.detail.toNat
     let at0 := bits x.base 63 12 * 4096 + x.tail.toNat % x.size * 32
     decide (a.op? ring pos = some o) && decide (o.fin = some d) && decide (d.status = 0) && decide (o.flushWait = false) && decide (a.orderMet o = true) && decide (o.reach = 0) && decide (o.zero = []) && decide (a.trayOwes ring pos o.entry.scopeSys = false) && decide (o.entry.complete = true) && decide (a.folMatch (o.entry.attrs ring) = none) && decide (x.st = .enabled) && decide ((x.tail - x.head).toNat < x.size) && decide (bit x.cfg 8 = false) && decide (b.ringWrite env (ringPart q) x.base (at0 + 8) (record.drop 8) = (u1, true)) && decide (u1.ringWrite env (ringPart q) x.base at0 (record.take 8) = (u2, true))) = true := by decide +kernel

theorem witness_EntriesThatEndAtLaunch :
    (let ring : Fin 16384 := 0
     let e : Entry := entry 0 []
     let code : Nat := 0
     let s : State := on (posted e)
     let d : Drr := picked s.dev
     launches s.dev ring code e d && unasked s.dev ring e && decide (code = 0x00)) = true ∧
    (let ring : Fin 16384 := 0
     let e : Entry := entry 0x14 [(128, 2)]
     let code : Nat := 0x14
     let s : State := on (posted e)
     let d : Drr := picked s.dev
     let u := s.dev.launched ring e d
     let part := ringPart ring
     let pool := e.f 133 128
     launches s.dev ring code e d && unasked s.dev ring e && decide (code = 0x14) && decide (pool < u.poolCount part) && decide (u.pool (part * 64 + pool) = [])) = true ∧
    (let ring : Fin 16384 := 0
     let e : Entry := entry 0x21 [(128, 3), (192, 5)]
     let code : Nat := 0x21
     let s : State := on (posted e)
     let d : Drr := picked s.dev
     let u := s.dev.launched ring e d
     let part := ringPart ring
     let i := e.f 137 128
     launches s.dev ring code e d && unasked s.dev ring e && decide (code = 0x21) && decide (i < u.ctrsOf part)) = true ∧
    (let ring : Fin 16384 := 0
     let e : Entry := entry 0x22 [(128, 3), (192, 5), (144, 1)]
     let code : Nat := 0x22
     let s : State := on (posted e)
     let d : Drr := picked s.dev
     let u := s.dev.launched ring e d
     let part := ringPart ring
     let i := e.f 137 128
     launches s.dev ring code e d && unasked s.dev ring e && decide (code = 0x22) && decide (i < u.ctrsOf part)) = true := by decide +kernel

theorem witness_ConnectionEntriesQueuePackets :
    (let ring : Fin 16384 := 0
     let code : Nat := 0x10
     let e : Entry := entry code [(128, 0), (160, 1), (192, 64), (256, 7), (288, 128), (352, 5000)]
     let d : Drr := picked (posted e)
     let s : State := on (posted e)
     let u := s.dev.launched ring e d
     launches s.dev ring code e d && decide (u.connPart e.conn = some (ringPart ring)) && decide ((u.conn e.conn).st = .active) && decide (code = 0x10)) = true ∧
    (let ring : Fin 16384 := 0
     let code : Nat := 0x12
     let e : Entry := entry code [(128, 0), (160, 1), (192, 64), (256, 7), (288, 128), (352, 5000)]
     let d : Drr := picked (posted e)
     let s : State := on (posted e)
     let u := s.dev.launched ring e d
     launches s.dev ring code e d && decide (u.connPart e.conn = some (ringPart ring)) && decide ((u.conn e.conn).st = .active) && decide (code = 0x12)) = true ∧
    (let ring : Fin 16384 := 0
     let code : Nat := 0x11
     let e : Entry := entry code [(128, 0), (160, 1), (192, 64), (256, 7), (288, 128), (352, 5000)]
     let d : Drr := picked (posted e)
     let s : State := on (posted e)
     let u := s.dev.launched ring e d
     launches s.dev ring code e d && decide (u.connPart e.conn = some (ringPart ring)) && decide ((u.conn e.conn).st = .active) && decide (code = 0x11)) = true ∧
    (let ring : Fin 16384 := 0
     let env : Env := {}
     let e : Entry := entry 0x18 [(128, 0), (160, 1), (192, 64), (256, 7), (288, 128), (352, 8)]
     let d : Drr := picked (posted e)
     let cas : Bool := false
     let s : State := on (posted e)
     let u := (s.dev.enter env).launched ring e d
     launches (s.dev.enter env) ring (if cas then 0x19 else 0x18) e d && decide (e.f 159 159 = 0) && decide (u.connPart e.conn = some (ringPart ring)) && decide ((u.conn e.conn).st = .active) && decide (e.laddr % 8 = 0) && decide (e.raddr % 8 = 0)) = true ∧
    (let s : Dev := full
     let c : Nat := 0
     let ptype : Nat := 1
     let len : Nat := 5000
     let rkey : Nat := 7
     let raddr : Nat := 128
     let aux : Nat := 0
     let auxAll : Nat := 0
     let src : BitVec 32 × Word := (1, 64)
     let rsig : Bool := false
     let sys : Bool := false
     let op : Option (Nat × BitVec 32) := none
     let req : Option (BitVec 32) := none
     let i : Nat := 1
     let p : TxPkt := ((s.sendData c ptype src len rkey raddr aux auxAll rsig sys op req).conn c).tx.getD 1 {}
     let n := packetCount len
     let l := ((s.sendData c ptype src len rkey raddr aux auxAll rsig sys op req).conn c).tx.drop (s.conn c).tx.length
     decide ((s.conn c).st = .active) && decide (ptype < 256) && decide (n ≤ 2 ^ 20) && decide (c < 2 ^ 20) && decide (rkey < 2 ^ 32) && decide (aux < 2 ^ 32) && decide (auxAll < 2 ^ 32) && decide (l[i]? = some p)) = true := by decide +kernel

theorem witness_LocalEntries :
    (let ring : Fin 16384 := 0
     let e : Entry := entry 0x13 [(128, 3), (160, 1), (192, 64), (352, 256)]
     let d : Drr := picked (posted e)
     let code : Nat := 0x13
     let s : State := on (posted e)
     let u := s.dev.launched ring e d
     let part := ringPart ring
     let pool := e.f 133 128
     launches s.dev ring code e d && decide (code = 0x13) && decide (pool < u.poolCount part)) = true ∧
    (let ring : Fin 16384 := 0
     let e : Entry := entry 0x20 []
     let d : Drr := picked (posted e)
     let code : Nat := 0x20
     let s : State := on (posted e)
     launches s.dev ring code e d && decide (code = 0x20) && decide (e.f 129 128 = 0)) = true ∧
    (let ring : Fin 16384 := 0
     let e : Entry := entry 0x20 [(128, 1)]
     let d : Drr := picked (posted e)
     let code : Nat := 0x20
     let s : State := on (posted e)
     launches s.dev ring code e d && decide (code = 0x20) && decide (e.f 129 128 = 1)) = true ∧
    (let ring : Fin 16384 := 0
     let e : Entry := entry 0x28 [(128, 2), (152, 9), (160, 31), (168, 2), (192, 4096), (256, 4096)]
     let d : Drr := picked (posted e)
     let code : Nat := 0x28
     let s : State := on (posted e)
     let u := s.dev.launched ring e d
     let part := ringPart ring
     let i := e.f 149 128
     let k := u.keyLoad i
     launches s.dev ring code e d && decide (code = 0x28) && unasked s.dev ring e && decide (u.registerField part e = none) && decide (u.keyPart i = some part) && decide ((k.keyBad i = true ∨ keyValid (k.keyEntry i) = false ∧ keyGen (k.keyEntry i) ≠ e.f 159 152))) = true ∧
    (let ring : Fin 16384 := 0
     let e : Entry := entry 0x29 [(128, 1)]
     let d : Drr := picked (posted e)
     let code : Nat := 0x29
     let s : State := on (posted e)
     let u := s.dev.launched ring e d
     let part := ringPart ring
     let i := e.f 149 128
     let k := u.keyLoad i
     let x := k.keyEntry i
     launches s.dev ring code e d && decide (code = 0x29) && decide (u.keyPart i = some part) && decide (keyValid x = true) && decide (k.keyBad i = false) && decide (keyGen x = e.f 159 152) && decide (keyClass x = e.f 151 150)) = true ∧
    (let ring : Fin 16384 := 0
     let env : Env := {}
     let e : Entry := entry 0x30 [(160, 1), (192, 64), (256, 1), (288, 4096), (352, 200)]
     let d : Drr := picked (posted e)
     let code : Nat := 0x30
     let s : State := on (posted e)
     let u := (s.dev.enter env).launched ring e d
     let part := ringPart ring
     let k : Dev := (u.keyCheck e.lkey part e.laddr e.length rR).1
     launches (s.dev.enter env) ring code e d && decide (code = 0x30) && decide (u.keyCheck e.lkey part e.laddr e.length rR = (k, none)) && decide (e.length ≠ 0)) = true ∧
    (let ring : Fin 16384 := 0
     let env : Env := {}
     let e : Entry := entry 0x30 [(160, 1), (192, 64), (256, 1), (288, 4096)]
     let d : Drr := picked (posted e)
     let code : Nat := 0x30
     let s : State := on (posted e)
     let u := (s.dev.enter env).launched ring e d
     let part := ringPart ring
     let k : Dev := (u.keyCheck e.lkey part e.laddr e.length rR).1
     let held := fun (k : Dev) (key : BitVec 32) => k.setOp ring e.pos fun o => { o with keys := key :: o.keys }
     let k' : Dev := ((held k e.lkey).keyCheck e.rkey part e.raddr e.length rW).1
     launches (s.dev.enter env) ring code e d && decide (code = 0x30) && decide (u.keyCheck e.lkey part e.laddr e.length rR = (k, none)) && decide (e.length = 0) && decide ((held k e.lkey).keyCheck e.rkey part e.raddr e.length rW = (k', none))) = true ∧
    (let ring : Fin 16384 := 0
     let env : Env := {}
     let e : Entry := entry 0x31 [(160, 1), (192, 64), (256, 32)]
     let d : Drr := picked (posted e)
     let code : Nat := 0x31
     let s : State := on { posted e with conns := [(0, { st := .active, cfg := 0x40 })], cph := { keys := [(0, some 0)] } }
     let u := (s.dev.enter env).launched ring e d
     let part := ringPart ring
     let k : Dev := (u.keyCheck e.lkey part e.laddr (e.f 287 256) rR).1
     launches (s.dev.enter env) ring code e d && decide (code = 0x31) && decide (u.connPart e.conn = some part) && decide ((u.conn e.conn).enc = true) && decide ((u.cphEntry (u.conn e.conn).cphKey).isSome = true) && decide (e.f 359 352 ≤ 32) && decide (u.keyCheck e.lkey part e.laddr (e.f 287 256) rR = (k, none))) = true ∧
    (let ring : Fin 16384 := 0
     let env : Env := {}
     let e : Entry := entry 0x19 [(159, 1), (160, 1), (192, 64), (256, 1), (288, 128)]
     let d : Drr := picked (posted e)
     let code : Nat := 0x19
     let cas : Bool := true
     let s : State := on (posted e)
     let u := (s.dev.enter env).launched ring e d
     let part := ringPart ring
     let k : Dev := (u.keyCheck e.rkey part e.raddr 8 rAT).1
     launches (s.dev.enter env) ring code e d && decide (code = (if cas then 0x19 else 0x18)) && decide (e.f 159 159 = 1) && decide (e.laddr % 8 = 0) && decide (e.raddr % 8 = 0) && decide (u.keyCheck e.rkey part e.raddr 8 rAT = (k, none))) = true ∧
    (let r : Nat := 0
     let off : Nat := 64
     let env : Env := {}
     let k : Dev := base
     let e : Entry := entry 0x30 [(160, 1), (192, 64), (256, 1), (288, 4096), (352, 200)]
     let s : Dev := { posted e with ops := [{ entry := e, checked := true }], mem := [(chanKey 0 128, 7)] }
     let a := s.setOp r e.pos fun o => { o with offset := off, respBytes := off }
     let n := min (e.length - off) (64 - (e.raddr + off) % 64)
     let u : Dev := (a.regionRead env e.lkey (e.laddr + off) n (opWho r e.pos)).1
     let b : List Byte := (match (a.regionRead env e.lkey (e.laddr + off) n (opWho r e.pos)).2 with | .ok y_ => y_ | _ => [])
     let c : Dev := u
     let u' : Dev := (c.regionWrite env e.rkey (e.raddr + off) b (opWho r e.pos)).1
     decide (off < e.length) && decide (a.regionRead env e.lkey (e.laddr + off) n (opWho r e.pos) = (u, .ok b)) && decide (((u.op? r e.pos).any (·.checked) = true ∧ c = u ∨ (u.op? r e.pos).any (·.checked) = false ∧ u.keyCheck e.rkey (ringPart r) e.raddr e.length rW = (k, none) ∧ c = (k.setOp r e.pos fun o => { o with keys := e.rkey :: o.keys }).setOp r e.pos fun o => { o with checked := true })) && decide (c.folMatch (e.attrs r) = none) && decide (c.regionWrite env e.rkey (e.raddr + off) b (opWho r e.pos) = (u', .ok []))) = true ∧
    (let off : Nat := 200
     let e : Entry := entry 0x30 [(160, 1), (192, 64), (256, 1), (288, 4096), (352, 200)]
     decide (e.length ≤ off)) = true ∧
    (let env : Env := {}
     let s : Dev := { full with mem := [(chanKey 0 64, 7)] }
     let fix : List Byte := []
     let key : BitVec 32 := 1
     let who : Nat := 0
     let a : Nat := 64
     let cas : Bool := false
     let operand : Word := 5
     let compare : Word := 0
     let u : Dev := (s.regionRead env key a 8 who 0x03).1
     let b : List Byte := (match (s.regionRead env key a 8 who 0x03).2 with | .ok y_ => y_ | _ => [])
     let old := BitVec.ofNat 64 (ofLe b)
     let u' : Dev := (u.regionWrite env key a (leBytes 8 (if cas then (if old = compare then operand else old) else old + operand).toNat) who true).1
     decide (keyTarget (s.region key) = 2) && decide (s.regionRead env key a 8 who 0x03 = (u, .ok b)) && decide (u.replayFix 0x0B fix = none) && decide (u.regionWrite env key a (leBytes 8 (if cas then (if old = compare then operand else old) else old + operand).toNat) who true = (u', .ok []))) = true ∧
    (let env : Env := {}
     let r : Nat := 0
     let e : Entry := entry 0x31 [(160, 1), (192, 64), (384, 185363938485508170255418696720343240531)]
     let ct : List Byte := []
     let key : BitVec 256 := 0
     let s : Dev := { posted e with conns := [(0, { st := .active, cfg := 0x40 })], cph := { keys := [(0, some 0)] }, ops := [{ entry := e }] }
     let u : Dev := (s.regionRead env e.lkey e.laddr (e.f 287 256) (opWho r e.pos)).1
     let h1 : Bool := decide (s.regionRead env e.lkey e.laddr (e.f 287 256) (opWho r e.pos) = (u, .ok ct))
     let ok := gcmTag (aesExpand ((leBytes 32 key.toNat).map (·.toNat))) (leBytes 4 (u.conn e.conn).salt ++ leBytes 8 (e.f 351 288)) ((leBytes 32 (e.f 831 576)).take (e.f 359 352)) ct = leBytes 16 (e.f 511 384)
     decide (env.cipherFault = false) && h1 && decide (u.folMatch (e.attrs r) = none) && decide (u.cphEntry (u.conn e.conn).cphKey = some key) && decide (ok)) = true ∧
    (let env : Env := {}
     let r : Nat := 0
     let e : Entry := entry 0x31 [(160, 1), (192, 64), (384, 1)]
     let ct : List Byte := []
     let key : BitVec 256 := 0
     let s : Dev := { posted e with conns := [(0, { st := .active, cfg := 0x40 })], cph := { keys := [(0, some 0)] }, ops := [{ entry := e }] }
     let u : Dev := (s.regionRead env e.lkey e.laddr (e.f 287 256) (opWho r e.pos)).1
     let h1 : Bool := decide (s.regionRead env e.lkey e.laddr (e.f 287 256) (opWho r e.pos) = (u, .ok ct))
     let ok := gcmTag (aesExpand ((leBytes 32 key.toNat).map (·.toNat))) (leBytes 4 (u.conn e.conn).salt ++ leBytes 8 (e.f 351 288)) ((leBytes 32 (e.f 831 576)).take (e.f 359 352)) ct = leBytes 16 (e.f 511 384)
     decide (env.cipherFault = false) && h1 && decide (u.folMatch (e.attrs r) = none) && decide (u.cphEntry (u.conn e.conn).cphKey = some key) && decide (¬ ok)) = true := by decide +kernel

theorem witness_GroupCommandsStart :
    (let ring : Fin 16384 := 0
     let env : Env := {}
     let e : Entry := entry 0x41 [(128, 0), (144, 0), (192, 16), (224, 1), (256, 64), (320, 1), (352, 4096)]
     let dr : Drr := picked (posted e)
     let code : Nat := 0x41
     let d : ChdDef := chdDef full.st 0
     let n : Nat := 0x41
     let s : State := on (posted e)
     let a := s.dev.enter env
     let u := a.launched ring e dr
     let k := e.slot
     let ex := e.isExch
     let x := u.grp ex k
     let sig := if ex then e.stmSig x.nextSeq.toNat else if code = 0x48 ∨ code = 0x49 then e.plkSig x.nextSeq.toNat else e.chdSig x.nextSeq.toNat
     let bad := if ex then e.stmBad (some d) else if code = 0x48 ∨ code = 0x49 then e.plkBad (some d) else e.chdBad (some d)
     let h1 : Bool := decide ((∀ y ∈ x.early, y.sig = sig ∧ ∀ q ∈ y.others, q.1 = sig))
     let h2 : Bool := decide ((∀ f ∈ x.flits, f.2.2.2.2 = sig))
     let run : ChdRun := { ring := ring, pos := e.pos, opcode := BitVec.ofNat 8 e.opcode, seq := x.nextSeq, sig := sig, began := u.now }
     let y : Slot := { x with nextSeq := x.nextSeq + 1, run := some run, pend := x.pend.filter fun p => p.seq != x.nextSeq }
     let b := u.setGrp ex k y
     let go := fun (z : Dev) => z.pluckProgress env k d
     let expected := fun (f : Nat × Nat × Nat × BitVec 256 × Word) => match pluckCount d e f.1 f.2.1 with | some n => decide (f.2.2.1 < n) | none => false
     let flits := b.dropEarly false k expected fun v => v.bump (Reg.plkCounts 4)
     let z := if ex then (b.dropEarly true k (fun f => f.2.2.1 ≤ 1) fun v => v.grpBump true .stale).stmStart env ring e d else if code = 0x49 then flits.grpOperand false k d ring e.pos e.plkKey e.plkAddr (8 * e.nval) rW go else if code = 0x48 then go flits else b.chdStart env ring e d
     launches a ring code e dr && decide (e.scoreChanged = false) && decide (u.grpDef ex k = some d) && decide (d.part = ringPart ring) && decide ((ex = true ∨ (if e.onRing then d.ring else d.tree) = true)) && decide ((∀ p ∈ x.pend, p.seq ≠ x.nextSeq)) && h1 && h2 && decide (bad = none) && decide ((z.ring ring).taken = []) && decide (code = n)) = true ∧
    (let ring : Fin 16384 := 0
     let env : Env := {}
     let e : Entry := entry 0x40 [(128, 0), (144, 0), (192, 16), (224, 1), (256, 64), (320, 1), (352, 4096)]
     let dr : Drr := picked (posted e)
     let code : Nat := 0x40
     let d : ChdDef := chdDef full.st 0
     let n : Nat := 0x40
     let s : State := on (posted e)
     let a := s.dev.enter env
     let u := a.launched ring e dr
     let k := e.slot
     let ex := e.isExch
     let x := u.grp ex k
     let sig := if ex then e.stmSig x.nextSeq.toNat else if code = 0x48 ∨ code = 0x49 then e.plkSig x.nextSeq.toNat else e.chdSig x.nextSeq.toNat
     let bad := if ex then e.stmBad (some d) else if code = 0x48 ∨ code = 0x49 then e.plkBad (some d) else e.chdBad (some d)
     let h1 : Bool := decide ((∀ y ∈ x.early, y.sig = sig ∧ ∀ q ∈ y.others, q.1 = sig))
     let h2 : Bool := decide ((∀ f ∈ x.flits, f.2.2.2.2 = sig))
     let run : ChdRun := { ring := ring, pos := e.pos, opcode := BitVec.ofNat 8 e.opcode, seq := x.nextSeq, sig := sig, began := u.now }
     let y : Slot := { x with nextSeq := x.nextSeq + 1, run := some run, pend := x.pend.filter fun p => p.seq != x.nextSeq }
     let b := u.setGrp ex k y
     let go := fun (z : Dev) => z.pluckProgress env k d
     let expected := fun (f : Nat × Nat × Nat × BitVec 256 × Word) => match pluckCount d e f.1 f.2.1 with | some n => decide (f.2.2.1 < n) | none => false
     let flits := b.dropEarly false k expected fun v => v.bump (Reg.plkCounts 4)
     let z := if ex then (b.dropEarly true k (fun f => f.2.2.1 ≤ 1) fun v => v.grpBump true .stale).stmStart env ring e d else if code = 0x49 then flits.grpOperand false k d ring e.pos e.plkKey e.plkAddr (8 * e.nval) rW go else if code = 0x48 then go flits else b.chdStart env ring e d
     launches a ring code e dr && decide (e.scoreChanged = false) && decide (u.grpDef ex k = some d) && decide (d.part = ringPart ring) && decide ((ex = true ∨ (if e.onRing then d.ring else d.tree) = true)) && decide ((∀ p ∈ x.pend, p.seq ≠ x.nextSeq)) && h1 && h2 && decide (bad = none) && decide ((z.ring ring).taken = []) && decide (code = n)) = true ∧
    (let ring : Fin 16384 := 0
     let env : Env := {}
     let e : Entry := entry 0x42 [(128, 0), (144, 0), (192, 16), (224, 1), (256, 64), (320, 1), (352, 4096)]
     let dr : Drr := picked (posted e)
     let code : Nat := 0x42
     let d : ChdDef := chdDef full.st 0
     let n : Nat := 0x42
     let s : State := on (posted e)
     let a := s.dev.enter env
     let u := a.launched ring e dr
     let k := e.slot
     let ex := e.isExch
     let x := u.grp ex k
     let sig := if ex then e.stmSig x.nextSeq.toNat else if code = 0x48 ∨ code = 0x49 then e.plkSig x.nextSeq.toNat else e.chdSig x.nextSeq.toNat
     let bad := if ex then e.stmBad (some d) else if code = 0x48 ∨ code = 0x49 then e.plkBad (some d) else e.chdBad (some d)
     let h1 : Bool := decide ((∀ y ∈ x.early, y.sig = sig ∧ ∀ q ∈ y.others, q.1 = sig))
     let h2 : Bool := decide ((∀ f ∈ x.flits, f.2.2.2.2 = sig))
     let run : ChdRun := { ring := ring, pos := e.pos, opcode := BitVec.ofNat 8 e.opcode, seq := x.nextSeq, sig := sig, began := u.now }
     let y : Slot := { x with nextSeq := x.nextSeq + 1, run := some run, pend := x.pend.filter fun p => p.seq != x.nextSeq }
     let b := u.setGrp ex k y
     let go := fun (z : Dev) => z.pluckProgress env k d
     let expected := fun (f : Nat × Nat × Nat × BitVec 256 × Word) => match pluckCount d e f.1 f.2.1 with | some n => decide (f.2.2.1 < n) | none => false
     let flits := b.dropEarly false k expected fun v => v.bump (Reg.plkCounts 4)
     let z := if ex then (b.dropEarly true k (fun f => f.2.2.1 ≤ 1) fun v => v.grpBump true .stale).stmStart env ring e d else if code = 0x49 then flits.grpOperand false k d ring e.pos e.plkKey e.plkAddr (8 * e.nval) rW go else if code = 0x48 then go flits else b.chdStart env ring e d
     launches a ring code e dr && decide (e.scoreChanged = false) && decide (u.grpDef ex k = some d) && decide (d.part = ringPart ring) && decide ((ex = true ∨ (if e.onRing then d.ring else d.tree) = true)) && decide ((∀ p ∈ x.pend, p.seq ≠ x.nextSeq)) && h1 && h2 && decide (bad = none) && decide ((z.ring ring).taken = []) && decide (code = n)) = true ∧
    (let ring : Fin 16384 := 0
     let env : Env := {}
     let e : Entry := entry 0x43 [(128, 1), (144, 0), (192, 16), (224, 1), (256, 64), (320, 1), (352, 4096)]
     let dr : Drr := picked (posted e)
     let code : Nat := 0x43
     let d : ChdDef := chdDef full.st 1
     let n : Nat := 0x43
     let s : State := on (posted e)
     let a := s.dev.enter env
     let u := a.launched ring e dr
     let k := e.slot
     let ex := e.isExch
     let x := u.grp ex k
     let sig := if ex then e.stmSig x.nextSeq.toNat else if code = 0x48 ∨ code = 0x49 then e.plkSig x.nextSeq.toNat else e.chdSig x.nextSeq.toNat
     let bad := if ex then e.stmBad (some d) else if code = 0x48 ∨ code = 0x49 then e.plkBad (some d) else e.chdBad (some d)
     let h1 : Bool := decide ((∀ y ∈ x.early, y.sig = sig ∧ ∀ q ∈ y.others, q.1 = sig))
     let h2 : Bool := decide ((∀ f ∈ x.flits, f.2.2.2.2 = sig))
     let run : ChdRun := { ring := ring, pos := e.pos, opcode := BitVec.ofNat 8 e.opcode, seq := x.nextSeq, sig := sig, began := u.now }
     let y : Slot := { x with nextSeq := x.nextSeq + 1, run := some run, pend := x.pend.filter fun p => p.seq != x.nextSeq }
     let b := u.setGrp ex k y
     let go := fun (z : Dev) => z.pluckProgress env k d
     let expected := fun (f : Nat × Nat × Nat × BitVec 256 × Word) => match pluckCount d e f.1 f.2.1 with | some n => decide (f.2.2.1 < n) | none => false
     let flits := b.dropEarly false k expected fun v => v.bump (Reg.plkCounts 4)
     let z := if ex then (b.dropEarly true k (fun f => f.2.2.1 ≤ 1) fun v => v.grpBump true .stale).stmStart env ring e d else if code = 0x49 then flits.grpOperand false k d ring e.pos e.plkKey e.plkAddr (8 * e.nval) rW go else if code = 0x48 then go flits else b.chdStart env ring e d
     launches a ring code e dr && decide (e.scoreChanged = false) && decide (u.grpDef ex k = some d) && decide (d.part = ringPart ring) && decide ((ex = true ∨ (if e.onRing then d.ring else d.tree) = true)) && decide ((∀ p ∈ x.pend, p.seq ≠ x.nextSeq)) && h1 && h2 && decide (bad = none) && decide ((z.ring ring).taken = []) && decide (code = n)) = true ∧
    (let ring : Fin 16384 := 0
     let env : Env := {}
     let e : Entry := entry 0x44 [(128, 1), (144, 0), (192, 16), (224, 1), (256, 64), (320, 1), (352, 4096)]
     let dr : Drr := picked (posted e)
     let code : Nat := 0x44
     let d : ChdDef := chdDef full.st 1
     let n : Nat := 0x44
     let s : State := on (posted e)
     let a := s.dev.enter env
     let u := a.launched ring e dr
     let k := e.slot
     let ex := e.isExch
     let x := u.grp ex k
     let sig := if ex then e.stmSig x.nextSeq.toNat else if code = 0x48 ∨ code = 0x49 then e.plkSig x.nextSeq.toNat else e.chdSig x.nextSeq.toNat
     let bad := if ex then e.stmBad (some d) else if code = 0x48 ∨ code = 0x49 then e.plkBad (some d) else e.chdBad (some d)
     let h1 : Bool := decide ((∀ y ∈ x.early, y.sig = sig ∧ ∀ q ∈ y.others, q.1 = sig))
     let h2 : Bool := decide ((∀ f ∈ x.flits, f.2.2.2.2 = sig))
     let run : ChdRun := { ring := ring, pos := e.pos, opcode := BitVec.ofNat 8 e.opcode, seq := x.nextSeq, sig := sig, began := u.now }
     let y : Slot := { x with nextSeq := x.nextSeq + 1, run := some run, pend := x.pend.filter fun p => p.seq != x.nextSeq }
     let b := u.setGrp ex k y
     let go := fun (z : Dev) => z.pluckProgress env k d
     let expected := fun (f : Nat × Nat × Nat × BitVec 256 × Word) => match pluckCount d e f.1 f.2.1 with | some n => decide (f.2.2.1 < n) | none => false
     let flits := b.dropEarly false k expected fun v => v.bump (Reg.plkCounts 4)
     let z := if ex then (b.dropEarly true k (fun f => f.2.2.1 ≤ 1) fun v => v.grpBump true .stale).stmStart env ring e d else if code = 0x49 then flits.grpOperand false k d ring e.pos e.plkKey e.plkAddr (8 * e.nval) rW go else if code = 0x48 then go flits else b.chdStart env ring e d
     launches a ring code e dr && decide (e.scoreChanged = false) && decide (u.grpDef ex k = some d) && decide (d.part = ringPart ring) && decide ((ex = true ∨ (if e.onRing then d.ring else d.tree) = true)) && decide ((∀ p ∈ x.pend, p.seq ≠ x.nextSeq)) && h1 && h2 && decide (bad = none) && decide ((z.ring ring).taken = []) && decide (code = n)) = true ∧
    (let ring : Fin 16384 := 0
     let env : Env := {}
     let e : Entry := entry 0x45 [(128, 1), (144, 0), (192, 16), (224, 1), (256, 64), (320, 1), (352, 4096)]
     let dr : Drr := picked (posted e)
     let code : Nat := 0x45
     let d : ChdDef := chdDef full.st 1
     let n : Nat := 0x45
     let s : State := on (posted e)
     let a := s.dev.enter env
     let u := a.launched ring e dr
     let k := e.slot
     let ex := e.isExch
     let x := u.grp ex k
     let sig := if ex then e.stmSig x.nextSeq.toNat else if code = 0x48 ∨ code = 0x49 then e.plkSig x.nextSeq.toNat else e.chdSig x.nextSeq.toNat
     let bad := if ex then e.stmBad (some d) else if code = 0x48 ∨ code = 0x49 then e.plkBad (some d) else e.chdBad (some d)
     let h1 : Bool := decide ((∀ y ∈ x.early, y.sig = sig ∧ ∀ q ∈ y.others, q.1 = sig))
     let h2 : Bool := decide ((∀ f ∈ x.flits, f.2.2.2.2 = sig))
     let run : ChdRun := { ring := ring, pos := e.pos, opcode := BitVec.ofNat 8 e.opcode, seq := x.nextSeq, sig := sig, began := u.now }
     let y : Slot := { x with nextSeq := x.nextSeq + 1, run := some run, pend := x.pend.filter fun p => p.seq != x.nextSeq }
     let b := u.setGrp ex k y
     let go := fun (z : Dev) => z.pluckProgress env k d
     let expected := fun (f : Nat × Nat × Nat × BitVec 256 × Word) => match pluckCount d e f.1 f.2.1 with | some n => decide (f.2.2.1 < n) | none => false
     let flits := b.dropEarly false k expected fun v => v.bump (Reg.plkCounts 4)
     let z := if ex then (b.dropEarly true k (fun f => f.2.2.1 ≤ 1) fun v => v.grpBump true .stale).stmStart env ring e d else if code = 0x49 then flits.grpOperand false k d ring e.pos e.plkKey e.plkAddr (8 * e.nval) rW go else if code = 0x48 then go flits else b.chdStart env ring e d
     launches a ring code e dr && decide (e.scoreChanged = false) && decide (u.grpDef ex k = some d) && decide (d.part = ringPart ring) && decide ((ex = true ∨ (if e.onRing then d.ring else d.tree) = true)) && decide ((∀ p ∈ x.pend, p.seq ≠ x.nextSeq)) && h1 && h2 && decide (bad = none) && decide ((z.ring ring).taken = []) && decide (code = n)) = true ∧
    (let ring : Fin 16384 := 0
     let env : Env := {}
     let e : Entry := entry 0x48 []
     let dr : Drr := picked (posted e)
     let code : Nat := 0x48
     let d : ChdDef := chdDef full.st 0
     let n : Nat := 0x48
     let s : State := on (posted e)
     let a := s.dev.enter env
     let u := a.launched ring e dr
     let k := e.slot
     let ex := e.isExch
     let x := u.grp ex k
     let sig := if ex then e.stmSig x.nextSeq.toNat else if code = 0x48 ∨ code = 0x49 then e.plkSig x.nextSeq.toNat else e.chdSig x.nextSeq.toNat
     let bad := if ex then e.stmBad (some d) else if code = 0x48 ∨ code = 0x49 then e.plkBad (some d) else e.chdBad (some d)
     let h1 : Bool := decide ((∀ y ∈ x.early, y.sig = sig ∧ ∀ q ∈ y.others, q.1 = sig))
     let h2 : Bool := decide ((∀ f ∈ x.flits, f.2.2.2.2 = sig))
     let run : ChdRun := { ring := ring, pos := e.pos, opcode := BitVec.ofNat 8 e.opcode, seq := x.nextSeq, sig := sig, began := u.now }
     let y : Slot := { x with nextSeq := x.nextSeq + 1, run := some run, pend := x.pend.filter fun p => p.seq != x.nextSeq }
     let b := u.setGrp ex k y
     let go := fun (z : Dev) => z.pluckProgress env k d
     let expected := fun (f : Nat × Nat × Nat × BitVec 256 × Word) => match pluckCount d e f.1 f.2.1 with | some n => decide (f.2.2.1 < n) | none => false
     let flits := b.dropEarly false k expected fun v => v.bump (Reg.plkCounts 4)
     let z := if ex then (b.dropEarly true k (fun f => f.2.2.1 ≤ 1) fun v => v.grpBump true .stale).stmStart env ring e d else if code = 0x49 then flits.grpOperand false k d ring e.pos e.plkKey e.plkAddr (8 * e.nval) rW go else if code = 0x48 then go flits else b.chdStart env ring e d
     launches a ring code e dr && decide (e.scoreChanged = false) && decide (u.grpDef ex k = some d) && decide (d.part = ringPart ring) && decide ((ex = true ∨ (if e.onRing then d.ring else d.tree) = true)) && decide ((∀ p ∈ x.pend, p.seq ≠ x.nextSeq)) && h1 && h2 && decide (bad = none) && decide ((z.ring ring).taken = []) && decide (code = n)) = true ∧
    (let ring : Fin 16384 := 0
     let env : Env := {}
     let e : Entry := { units := [BitVec.ofNat 512 (32 + at_ 8 0x49 + at_ 160 1 + at_ 192 1 + at_ 224 64), 0] }
     let dr : Drr := picked (posted e)
     let code : Nat := 0x49
     let d : ChdDef := chdDef full.st 0
     let n : Nat := 0x49
     let s : State := on (posted e)
     let a := s.dev.enter env
     let u := a.launched ring e dr
     let k := e.slot
     let ex := e.isExch
     let x := u.grp ex k
     let sig := if ex then e.stmSig x.nextSeq.toNat else if code = 0x48 ∨ code = 0x49 then e.plkSig x.nextSeq.toNat else e.chdSig x.nextSeq.toNat
     let bad := if ex then e.stmBad (some d) else if code = 0x48 ∨ code = 0x49 then e.plkBad (some d) else e.chdBad (some d)
     let h1 : Bool := decide ((∀ y ∈ x.early, y.sig = sig ∧ ∀ q ∈ y.others, q.1 = sig))
     let h2 : Bool := decide ((∀ f ∈ x.flits, f.2.2.2.2 = sig))
     let run : ChdRun := { ring := ring, pos := e.pos, opcode := BitVec.ofNat 8 e.opcode, seq := x.nextSeq, sig := sig, began := u.now }
     let y : Slot := { x with nextSeq := x.nextSeq + 1, run := some run, pend := x.pend.filter fun p => p.seq != x.nextSeq }
     let b := u.setGrp ex k y
     let go := fun (z : Dev) => z.pluckProgress env k d
     let expected := fun (f : Nat × Nat × Nat × BitVec 256 × Word) => match pluckCount d e f.1 f.2.1 with | some n => decide (f.2.2.1 < n) | none => false
     let flits := b.dropEarly false k expected fun v => v.bump (Reg.plkCounts 4)
     let z := if ex then (b.dropEarly true k (fun f => f.2.2.1 ≤ 1) fun v => v.grpBump true .stale).stmStart env ring e d else if code = 0x49 then flits.grpOperand false k d ring e.pos e.plkKey e.plkAddr (8 * e.nval) rW go else if code = 0x48 then go flits else b.chdStart env ring e d
     launches a ring code e dr && decide (e.scoreChanged = false) && decide (u.grpDef ex k = some d) && decide (d.part = ringPart ring) && decide ((ex = true ∨ (if e.onRing then d.ring else d.tree) = true)) && decide ((∀ p ∈ x.pend, p.seq ≠ x.nextSeq)) && h1 && h2 && decide (bad = none) && decide ((z.ring ring).taken = []) && decide (code = n)) = true ∧
    (let ring : Fin 16384 := 0
     let env : Env := {}
     let e : Entry := entry 0x50 [(448, 1), (480, 1)]
     let dr : Drr := picked (posted e)
     let code : Nat := 0x50
     let d : ChdDef := chdDef full.st 0
     let n : Nat := 0x50
     let s : State := on (posted e)
     let a := s.dev.enter env
     let u := a.launched ring e dr
     let k := e.slot
     let ex := e.isExch
     let x := u.grp ex k
     let sig := if ex then e.stmSig x.nextSeq.toNat else if code = 0x48 ∨ code = 0x49 then e.plkSig x.nextSeq.toNat else e.chdSig x.nextSeq.toNat
     let bad := if ex then e.stmBad (some d) else if code = 0x48 ∨ code = 0x49 then e.plkBad (some d) else e.chdBad (some d)
     let h1 : Bool := decide ((∀ y ∈ x.early, y.sig = sig ∧ ∀ q ∈ y.others, q.1 = sig))
     let h2 : Bool := decide ((∀ f ∈ x.flits, f.2.2.2.2 = sig))
     let run : ChdRun := { ring := ring, pos := e.pos, opcode := BitVec.ofNat 8 e.opcode, seq := x.nextSeq, sig := sig, began := u.now }
     let y : Slot := { x with nextSeq := x.nextSeq + 1, run := some run, pend := x.pend.filter fun p => p.seq != x.nextSeq }
     let b := u.setGrp ex k y
     let go := fun (z : Dev) => z.pluckProgress env k d
     let expected := fun (f : Nat × Nat × Nat × BitVec 256 × Word) => match pluckCount d e f.1 f.2.1 with | some n => decide (f.2.2.1 < n) | none => false
     let flits := b.dropEarly false k expected fun v => v.bump (Reg.plkCounts 4)
     let z := if ex then (b.dropEarly true k (fun f => f.2.2.1 ≤ 1) fun v => v.grpBump true .stale).stmStart env ring e d else if code = 0x49 then flits.grpOperand false k d ring e.pos e.plkKey e.plkAddr (8 * e.nval) rW go else if code = 0x48 then go flits else b.chdStart env ring e d
     launches a ring code e dr && decide (e.scoreChanged = false) && decide (u.grpDef ex k = some d) && decide (d.part = ringPart ring) && decide ((ex = true ∨ (if e.onRing then d.ring else d.tree) = true)) && decide ((∀ p ∈ x.pend, p.seq ≠ x.nextSeq)) && h1 && h2 && decide (bad = none) && decide ((z.ring ring).taken = []) && decide (code = n)) = true ∧
    (let ring : Fin 16384 := 0
     let env : Env := {}
     let e : Entry := entry 0x51 [(448, 1), (480, 1)]
     let dr : Drr := picked (posted e)
     let code : Nat := 0x51
     let d : ChdDef := chdDef full.st 0
     let n : Nat := 0x51
     let s : State := on (posted e)
     let a := s.dev.enter env
     let u := a.launched ring e dr
     let k := e.slot
     let ex := e.isExch
     let x := u.grp ex k
     let sig := if ex then e.stmSig x.nextSeq.toNat else if code = 0x48 ∨ code = 0x49 then e.plkSig x.nextSeq.toNat else e.chdSig x.nextSeq.toNat
     let bad := if ex then e.stmBad (some d) else if code = 0x48 ∨ code = 0x49 then e.plkBad (some d) else e.chdBad (some d)
     let h1 : Bool := decide ((∀ y ∈ x.early, y.sig = sig ∧ ∀ q ∈ y.others, q.1 = sig))
     let h2 : Bool := decide ((∀ f ∈ x.flits, f.2.2.2.2 = sig))
     let run : ChdRun := { ring := ring, pos := e.pos, opcode := BitVec.ofNat 8 e.opcode, seq := x.nextSeq, sig := sig, began := u.now }
     let y : Slot := { x with nextSeq := x.nextSeq + 1, run := some run, pend := x.pend.filter fun p => p.seq != x.nextSeq }
     let b := u.setGrp ex k y
     let go := fun (z : Dev) => z.pluckProgress env k d
     let expected := fun (f : Nat × Nat × Nat × BitVec 256 × Word) => match pluckCount d e f.1 f.2.1 with | some n => decide (f.2.2.1 < n) | none => false
     let flits := b.dropEarly false k expected fun v => v.bump (Reg.plkCounts 4)
     let z := if ex then (b.dropEarly true k (fun f => f.2.2.1 ≤ 1) fun v => v.grpBump true .stale).stmStart env ring e d else if code = 0x49 then flits.grpOperand false k d ring e.pos e.plkKey e.plkAddr (8 * e.nval) rW go else if code = 0x48 then go flits else b.chdStart env ring e d
     launches a ring code e dr && decide (e.scoreChanged = false) && decide (u.grpDef ex k = some d) && decide (d.part = ringPart ring) && decide ((ex = true ∨ (if e.onRing then d.ring else d.tree) = true)) && decide ((∀ p ∈ x.pend, p.seq ≠ x.nextSeq)) && h1 && h2 && decide (bad = none) && decide ((z.ring ring).taken = []) && decide (code = n)) = true := by decide +kernel

theorem witness_ChordPacketsAndSteps :
    (let port : Fin 16 := 0
     let p : Packet := chordPkt 0x10 0 [(296, 1), (448, 9)] [1, 2, 3, 4]
     let env : Env := {}
     let s : State := on { full with rte := { full.rte with local_ := [(p, 0, {})] }, ops := [{ entry := entry 0x41 [(144, 0), (192, 1), (224, 1), (256, 64), (320, 1), (352, 4096)] }], slots := [(0, { nextSeq := 1, limits := [(0, 1)], run := some { opcode := 0x41, sig := 9 } })] }
     let d : ChdDef := chdDef full.st 0
     let e : Nat := (match d.edgeOf p.src with | some y_ => y_ | _ => 0)
     let k := p.f 267 256
     let a := s.dev.enter env
     let u : Dev := (match a.takeLocal port p d.part with | some y_ => y_ | _ => base)
     let x := u.slot k
     let r : ChdRun := (match x.run with | some y_ => y_ | _ => {})
     let n := p.f 287 272
     decide (a.grpDef false k = some d) && decide (a.takeLocal port p d.part = some u) && decide (icrcOk p = true) && decide (u.grpDef false k = some d) && decide (d.edgeOf p.src = some e) && decide (p.ptype = 0x10) && decide (x.run = some r) && decide (n = r.seq.toNat) && decide (p.f 511 448 = r.sig.toNat) && decide (u.segWanted k e p r (u.runEntry r) d = true)) = true ∧
    (let port : Fin 16 := 0
     let p : Packet := chordPkt 0x10 0 [] [1, 2]
     let env : Env := {}
     let s : State := on { full with rte := { full.rte with local_ := [(p, 0, {})] }, slots := [(0, { limits := [(0, 1)] })] }
     let d : ChdDef := chdDef full.st 0
     let e : Nat := (match d.edgeOf p.src with | some y_ => y_ | _ => 0)
     let k := p.f 267 256
     let a := s.dev.enter env
     let u : Dev := (match a.takeLocal port p d.part with | some y_ => y_ | _ => base)
     let x := u.slot k
     let n := p.f 287 272
     decide (a.grpDef false k = some d) && decide (a.takeLocal port p d.part = some u) && decide (icrcOk p = true) && decide (u.grpDef false k = some d) && decide (d.edgeOf p.src = some e) && decide (p.ptype = 0x10) && decide (x.run = none) && decide (n = x.nextSeq.toNat) && decide (u.earlyRoom k e p = true)) = true ∧
    (let port : Fin 16 := 0
     let p : Packet := chordPkt 0x10 5 [] [1, 2]
     let env : Env := {}
     let s : State := on { full with rte := { full.rte with local_ := [(p, 0, {})] }, slots := [(0, { limits := [(0, 1)] })] }
     let d : ChdDef := chdDef full.st 0
     let e : Nat := (match d.edgeOf p.src with | some y_ => y_ | _ => 0)
     let k := p.f 267 256
     let a := s.dev.enter env
     let u : Dev := (match a.takeLocal port p d.part with | some y_ => y_ | _ => base)
     let x := u.slot k
     let n := p.f 287 272
     decide (a.grpDef false k = some d) && decide (a.takeLocal port p d.part = some u) && decide (icrcOk p = true) && decide (u.grpDef false k = some d) && decide (d.edgeOf p.src = some e) && decide (p.ptype = 0x10) && decide (x.seqCase n = .ahead)) = true ∧
    (let port : Fin 16 := 0
     let p : Packet := chordPkt 0x10 0xFFFF [] [1, 2]
     let env : Env := {}
     let s : State := on { full with rte := { full.rte with local_ := [(p, 0, {})] }, slots := [(0, { limits := [(0, 1)] })] }
     let d : ChdDef := chdDef full.st 0
     let e : Nat := (match d.edgeOf p.src with | some y_ => y_ | _ => 0)
     let k := p.f 267 256
     let a := s.dev.enter env
     let u : Dev := (match a.takeLocal port p d.part with | some y_ => y_ | _ => base)
     let x := u.slot k
     let n := p.f 287 272
     decide (a.grpDef false k = some d) && decide (a.takeLocal port p d.part = some u) && decide (icrcOk p = true) && decide (u.grpDef false k = some d) && decide (d.edgeOf p.src = some e) && decide (p.ptype = 0x10) && decide (x.seqCase n = .stale)) = true ∧
    (let port : Fin 16 := 0
     let p : Packet := chordPkt 0x11 0 [(352, 2)] []
     let env : Env := {}
     let s : State := on { full with rte := { full.rte with local_ := [(p, 0, {})] }, ops := [{ entry := entry 0x41 [(144, 0), (192, 1), (224, 1), (256, 64), (320, 1), (352, 4096)] }], slots := [(0, { nextSeq := 1, limits := [(0, 1)], run := some { opcode := 0x41, sig := 9 } })] }
     let d : ChdDef := chdDef full.st 0
     let e : Nat := (match d.edgeOf p.src with | some y_ => y_ | _ => 0)
     let k := p.f 267 256
     let a := s.dev.enter env
     let u : Dev := (match a.takeLocal port p d.part with | some y_ => y_ | _ => base)
     let x := u.slot k
     let n := p.f 287 272
     decide (a.grpDef false k = some d) && decide (a.takeLocal port p d.part = some u) && decide (icrcOk p = true) && decide (u.grpDef false k = some d) && decide (d.edgeOf p.src = some e) && decide (p.ptype = 0x11) && decide (x.seqCase n = .cur)) = true ∧
    (let port : Fin 16 := 0
     let p : Packet := chordPkt 0x11 0 [(352, 2)] []
     let env : Env := {}
     let s : State := on { full with rte := { full.rte with local_ := [(p, 0, {})] }, slots := [(0, { limits := [(0, 1)] })] }
     let d : ChdDef := chdDef full.st 0
     let e : Nat := (match d.edgeOf p.src with | some y_ => y_ | _ => 0)
     let k := p.f 267 256
     let a := s.dev.enter env
     let u : Dev := (match a.takeLocal port p d.part with | some y_ => y_ | _ => base)
     let x := u.slot k
     let n := p.f 287 272
     decide (a.grpDef false k = some d) && decide (a.takeLocal port p d.part = some u) && decide (icrcOk p = true) && decide (u.grpDef false k = some d) && decide (d.edgeOf p.src = some e) && decide (p.ptype = 0x11) && decide (x.seqCase n = .next)) = true ∧
    (let env : Env := {}
     let k : Nat := 0
     let d : ChdDef := chdDef full.st 0
     let r : ChdRun := { opcode := 0x41, sig := 9 }
     let e : Entry := entry 0x41 [(144, 0), (192, 1), (224, 1), (256, 64), (320, 1), (352, 4096)]
     let s : Dev := { full with slots := [(0, { nextSeq := 1, credit := [(0, 1)], run := some r }), (1, { nextSeq := 1, credit := [(0, 1)], run := some r })], ops := [{ entry := e }] }
     let u : Dev := (s.chdRead env d r e (e.segAt r.next).1 (e.segAt r.next).2).1
     let raw : List Byte := (match (s.chdRead env d r e (e.segAt r.next).1 (e.segAt r.next).2).2 with | .ok y_ => y_ | _ => [])
     decide (d.kids = []) && decide (d.isRoot = false) && decide (e.opcode ≠ 0x42) && decide (r.next < e.segs) && decide ((s.slot k).credited d d.parent r.next = true) && reads (s.chdRead env d r e (e.segAt r.next).1 (e.segAt r.next).2) u raw) = true ∧
    (let env : Env := {}
     let k : Nat := 1
     let d : ChdDef := chdDef full.st 1
     let r : ChdRun := { opcode := 0x43, sig := 9 }
     let e : Entry := entry 0x43 [(128, 1), (144, 0), (192, 1), (224, 1), (256, 64), (320, 1), (352, 4096)]
     let s : Dev := { full with slots := [(0, { nextSeq := 1, credit := [(0, 1)], run := some r }), (1, { nextSeq := 1, credit := [(0, 1)], run := some r })], ops := [{ entry := e }] }
     let block := e.blockOut d.members d.me
     let u : Dev := (s.chdRead env d r e (if e.opcode = 0x43 then e.blockAt block r.next else (e.segAt r.next).1) (e.segAt r.next).2).1
     let raw : List Byte := (match (s.chdRead env d r e (if e.opcode = 0x43 then e.blockAt block r.next else (e.segAt r.next).1) (e.segAt r.next).2).2 with | .ok y_ => y_ | _ => [])
     decide (2 ≤ d.members) && decide ((e.opcode = 0x43 ∨ e.opcode = 0x45)) && decide ((s.slot k).early = []) && decide (r.next < e.segs) && decide (e.ringStarts d (s.slot k) r = true) && reads (s.chdRead env d r e (if e.opcode = 0x43 then e.blockAt block r.next else (e.segAt r.next).1) (e.segAt r.next).2) u raw) = true ∧
    (let env : Env := {}
     let k : Nat := 1
     let d : ChdDef := chdDef full.st 1
     let r : ChdRun := { opcode := 0x44, sig := 9 }
     let e : Entry := entry 0x44 [(128, 1), (144, 0), (192, 1), (224, 1), (256, 64), (320, 1), (352, 4096)]
     let s : Dev := { full with slots := [(0, { nextSeq := 1, credit := [(0, 1)], run := some r }), (1, { nextSeq := 1, credit := [(0, 1)], run := some r })], ops := [{ entry := e }] }
     let u : Dev := (s.chdRead env d r e (e.segAt r.next).1 (e.segAt r.next).2).1
     let raw : List Byte := (match (s.chdRead env d r e (e.segAt r.next).1 (e.segAt r.next).2).2 with | .ok y_ => y_ | _ => [])
     let w : Dev := ((u.setRun false k fun r' => { r' with next := r.next + 1 }).chdPlace env k d e (e.blockAt d.me r.next) (e.segAt r.next).2 raw).1
     decide (2 ≤ d.members) && decide (e.opcode = 0x44) && decide ((s.slot k).early = []) && decide (r.next < e.segs) && decide (e.ringStarts d (s.slot k) r = true) && reads (s.chdRead env d r e (e.segAt r.next).1 (e.segAt r.next).2) u raw && decide ((u.setRun false k fun r' => { r' with next := r.next + 1 }).chdPlace env k d e (e.blockAt d.me r.next) (e.segAt r.next).2 raw = (w, none))) = true := by decide +kernel

theorem witness_DeadlinesAndAborts :
    (let slot : BitVec 12 := 0
     let d : ChdDef := chdDef full.st 0
     let w : Wait := { edge := 0, deadline := 5 }
     let ex : Bool := false
     let c : Instr := .chordDeadline slot
     let r : ChdRun := { opcode := 0x41, sig := 9, waits := [w] }
     let s : State := on { full with slots := [(0, { nextSeq := 1, run := some r })] }
     let k := slot.toNat
     decide (s.dev.grpDef ex k = some d) && decide ((s.dev.grp ex k).run = some r) && decide ((r.waits.find? fun w => w.deadline ≤ s.dev.now && r.waits.all fun v => w.deadline ≤ v.deadline) = some w) && decide ((ex = false ∧ r.opcode.toNat < 0x48 ∧ c = .chordDeadline slot ∨ ex = false ∧ 0x48 ≤ r.opcode.toNat ∧ c = .pluckDeadline slot ∨ ex = true ∧ (s.dev.stmRun k).phase ≠ .data ∧ c = .strumDeadline slot))) = true ∧
    (let slot : BitVec 12 := 0
     let d : ChdDef := chdDef full.st 0
     let r : ChdRun := { opcode := 0x50, sig := 9 }
     let i : StmIn := { member := 0, began := 5 }
     let s : State := on { full with exchs := [(0, { nextSeq := 1, run := some r })], stm := { runs := [(0, { phase := .data, ins := [i] })] } }
     let k := slot.toNat
     let step := d.steps.length - 1
     decide (s.dev.grpDef true k = some d) && decide ((s.dev.exch k).run = some r) && decide ((s.dev.stmRun k).phase = .data) && decide (((s.dev.stmRun k).ins.find? fun i => !i.done && s.dev.deadline d step i.began ≤ s.dev.now) = some i)) = true ∧
    (let port : Fin 16 := 0
     let p : Packet := chordPkt 0x12 0 [(428, 2)] []
     let s : State := on { full with rte := { full.rte with local_ := [(p, 0, {})] }, slots := [(0, { nextSeq := 1, run := some { opcode := 0x41, sig := 9 } })] }
     let d : ChdDef := chdDef full.st 0
     let ex : Bool := false
     let c : Instr := .chordAbort port p
     let k := p.f 267 256
     let n := p.f 287 272
     let code := p.f 431 428
     let from_ := if ex then (match s.dev.rte.local_.find? fun q => q.1 == p with | some q => q.2.1 | none => 16) else port.val
     let u : Dev := (match (s.dev.enter {}).takeLocal from_ p d.part with | some y_ => y_ | _ => base)
     decide ((ex = false ∧ p.ptype = 0x12 ∧ c = .chordAbort port p ∨ ex = true ∧ p.ptype = 0x2A ∧ c = .strumAbort p)) && decide ((s.dev.enter {}).grpDef ex k = some d) && decide ((s.dev.enter {}).takeLocal from_ p d.part = some u) && decide (icrcOk p = true) && decide (u.grpDef ex k = some d) && decide (1 ≤ code) && decide (code ≤ 4) && decide ((u.grp ex k).seqCase n = .cur)) = true ∧
    (let port : Fin 16 := 0
     let p : Packet := chordPkt 0x12 0 [(428, 2)] []
     let s : State := on { full with rte := { full.rte with local_ := [(p, 0, {})] } }
     let d : ChdDef := chdDef full.st 0
     let ex : Bool := false
     let c : Instr := .chordAbort port p
     let k := p.f 267 256
     let n := p.f 287 272
     let code := p.f 431 428
     let from_ := if ex then (match s.dev.rte.local_.find? fun q => q.1 == p with | some q => q.2.1 | none => 16) else port.val
     let u : Dev := (match (s.dev.enter {}).takeLocal from_ p d.part with | some y_ => y_ | _ => base)
     decide ((ex = false ∧ p.ptype = 0x12 ∧ c = .chordAbort port p ∨ ex = true ∧ p.ptype = 0x2A ∧ c = .strumAbort p)) && decide ((s.dev.enter {}).grpDef ex k = some d) && decide ((s.dev.enter {}).takeLocal from_ p d.part = some u) && decide (icrcOk p = true) && decide (u.grpDef ex k = some d) && decide (1 ≤ code) && decide (code ≤ 4) && decide ((u.grp ex k).seqCase n ∈ [.next, .nextBusy, .ahead])) = true := by decide +kernel

theorem witness_SequencesWrittenWhileIdle :
    (let v : View := .port
     let w : Word := 7
     let s : State := on base
     let ex : Bool := true
     let off := if ex then Reg.stmExchSeq else Reg.chdSlotSeq
     let a := s.tapped v off w
     let k := bits (a.reg (if ex then Reg.stmExchSel else Reg.chdSlotSel)) 11 0
     let x := a.grp ex k
     decide ((v = .pf ∨ v = .port)) && decide (a.inReset off = false) && decide (a.grpDef ex k = none ∨ x.run.isSome = true)) = true ∧
    (let v : View := .port
     let w : Word := 7
     let s : State := on full
     let ex : Bool := true
     let d : ChdDef := chdDef full.st 0
     let off := if ex then Reg.stmExchSeq else Reg.chdSlotSeq
     let a := s.tapped v off w
     let k := bits (a.reg (if ex then Reg.stmExchSel else Reg.chdSlotSel)) 11 0
     let x := a.grp ex k
     decide ((v = .pf ∨ v = .port)) && decide (a.inReset off = false) && decide (a.grpDef ex k = some d) && decide (x.run = none)) = true := by decide +kernel

theorem witness_SumIsOrderFree :
    (let op : Rop := .sum
     let l : List Acc := [{ a := 1 }, { a := 2 }]
     let l' : List Acc := [{ a := 2 }, { a := 1 }]
     decide ((op = .sum ∨ op = .and ∨ op = .or ∨ op = .xor)) && decide (l.Perm l')) = true := by decide +kernel

theorem witness_ReductionTests :
    (let v : View := .port
     let w : Word := 1
     let s : State := on base
     let d : DType := .fp32
     let o : DType := .fp32
     let op : Rop := .sum
     let a := s.tapped v Reg.redTestCtl w
     decide ((v = .pf ∨ v = .port)) && decide (a.inReset Reg.redTestCtl = false) && decide (a.redBusy = false) && decide (redTypes w = some (d, o, op))) = true := by decide +kernel

theorem witness_FlitsArrive :
    (let port : Fin 16 := 0
     let h : BitVec 512 := (mkHdr [(0, 1), (32, 2), (64, 0x21), (160, 9)])
     let s : State := on { full with rte := { full.rte with local_ := [(pluckOf h, 0, {})] }, ops := [{ entry := entry 0x48 [] }], slots := [(0, { nextSeq := 1, run := some { opcode := 0x48, sig := 9 } })] }
     let ex : Bool := false
     let ptype : Nat := 0x21
     let d : ChdDef := chdDef full.st 0
     let y : Nat := 0
     let p := pluckOf h
     let u : Dev := (match s.dev.takeLocal port p d.part with | some y_ => y_ | _ => base)
     let k := p.pluckSlot
     let b := u.bump (Reg.plkCounts 1)
     let x := u.grp ex k
     let r : ChdRun := (match x.run with | some y_ => y_ | _ => {})
     decide (p.ptype = ptype) && decide (s.dev.grpDef ex k = some d) && decide (s.dev.takeLocal port p d.part = some u) && decide (u.grpDef ex k = some d) && decide (d.edgeOf p.src = some y) && decide (x.run = some r) && decide (p.pluckSeq = r.seq.toNat) && decide (p.pluckSig = r.sig.toNat) && decide ((pluckCount d (b.runEntry r) y ptype).any fun n => decide (p.pluckFlit < n))) = true ∧
    (let port : Fin 16 := 0
     let h : BitVec 512 := (mkHdr [(0, 1), (32, 2), (64, 0x20)])
     let s : State := on { full with rte := { full.rte with local_ := [(pluckOf h, 0, {})] } }
     let ex : Bool := false
     let ptype : Nat := 0x20
     let d : ChdDef := chdDef full.st 0
     let y : Nat := 0
     let p := pluckOf h
     let u : Dev := (match s.dev.takeLocal port p d.part with | some y_ => y_ | _ => base)
     let k := p.pluckSlot
     let x := u.grp ex k
     decide (p.ptype = ptype) && decide (s.dev.grpDef ex k = some d) && decide (s.dev.takeLocal port p d.part = some u) && decide (u.grpDef ex k = some d) && decide (d.edgeOf p.src = some y) && decide (x.run = none) && decide (p.pluckSeq = x.nextSeq.toNat)) = true ∧
    (let port : Fin 16 := 0
     let h : BitVec 512 := (mkHdr [(0, 1), (32, 2), (64, 0x21)])
     let s : State := on { full with rte := { full.rte with local_ := [(pluckOf h, 0, {})] } }
     let ex : Bool := false
     let ptype : Nat := 0x21
     let d : ChdDef := chdDef full.st 0
     let y : Nat := 0
     let p := pluckOf h
     let u : Dev := (match s.dev.takeLocal port p d.part with | some y_ => y_ | _ => base)
     let k := p.pluckSlot
     let x := u.grp ex k
     decide (p.ptype = ptype) && decide (s.dev.grpDef ex k = some d) && decide (s.dev.takeLocal port p d.part = some u) && decide (u.grpDef ex k = some d) && decide (d.edgeOf p.src = some y) && decide (x.run = none) && decide (p.pluckSeq = x.nextSeq.toNat)) = true ∧
    (let port : Fin 16 := 0
     let h : BitVec 512 := (mkHdr [(0, 1), (32, 2), (64, 0x22)])
     let s : State := on { full with rte := { full.rte with local_ := [(pluckOf h, 0, {})] } }
     let ex : Bool := false
     let ptype : Nat := 0x22
     let d : ChdDef := chdDef full.st 0
     let y : Nat := 0
     let p := pluckOf h
     let u : Dev := (match s.dev.takeLocal port p d.part with | some y_ => y_ | _ => base)
     let k := p.pluckSlot
     let x := u.grp ex k
     decide (p.ptype = ptype) && decide (s.dev.grpDef ex k = some d) && decide (s.dev.takeLocal port p d.part = some u) && decide (u.grpDef ex k = some d) && decide (d.edgeOf p.src = some y) && decide (x.run = none) && decide (p.pluckSeq = x.nextSeq.toNat)) = true ∧
    (let port : Fin 16 := 0
     let h : BitVec 512 := (mkHdr [(0, 1), (32, 2), (64, 0x23)])
     let s : State := on { full with rte := { full.rte with local_ := [(pluckOf h, 0, {})] } }
     let ex : Bool := false
     let ptype : Nat := 0x23
     let d : ChdDef := chdDef full.st 0
     let y : Nat := 0
     let p := pluckOf h
     let u : Dev := (match s.dev.takeLocal port p d.part with | some y_ => y_ | _ => base)
     let k := p.pluckSlot
     let x := u.grp ex k
     decide (p.ptype = ptype) && decide (s.dev.grpDef ex k = some d) && decide (s.dev.takeLocal port p d.part = some u) && decide (u.grpDef ex k = some d) && decide (d.edgeOf p.src = some y) && decide (x.run = none) && decide (p.pluckSeq = x.nextSeq.toNat)) = true ∧
    (let port : Fin 16 := 0
     let h : BitVec 512 := (mkHdr [(0, 1), (32, 2), (64, 0x24)])
     let s : State := on { full with rte := { full.rte with local_ := [(pluckOf h, 0, {})] } }
     let ex : Bool := false
     let ptype : Nat := 0x24
     let d : ChdDef := chdDef full.st 0
     let y : Nat := 0
     let p := pluckOf h
     let u : Dev := (match s.dev.takeLocal port p d.part with | some y_ => y_ | _ => base)
     let k := p.pluckSlot
     let x := u.grp ex k
     decide (p.ptype = ptype) && decide (s.dev.grpDef ex k = some d) && decide (s.dev.takeLocal port p d.part = some u) && decide (u.grpDef ex k = some d) && decide (d.edgeOf p.src = some y) && decide (x.run = none) && decide (p.pluckSeq = x.nextSeq.toNat)) = true ∧
    (let port : Fin 16 := 0
     let h : BitVec 512 := (mkHdr [(0, 1), (32, 2), (64, 0x25)])
     let s : State := on { full with rte := { full.rte with local_ := [(pluckOf h, 0, {})] } }
     let ex : Bool := true
     let ptype : Nat := 0x25
     let d : ChdDef := chdDef full.st 0
     let y : Nat := 0
     let p := pluckOf h
     let u : Dev := (match s.dev.takeLocal port p d.part with | some y_ => y_ | _ => base)
     let k := p.pluckSlot
     let x := u.grp ex k
     decide (p.ptype = ptype) && decide (s.dev.grpDef ex k = some d) && decide (s.dev.takeLocal port p d.part = some u) && decide (u.grpDef ex k = some d) && decide (d.edgeOf p.src = some y) && decide (x.run = none) && decide (p.pluckSeq = x.nextSeq.toNat)) = true ∧
    (let port : Fin 16 := 0
     let h : BitVec 512 := (mkHdr [(0, 1), (32, 2), (64, 0x26)])
     let s : State := on { full with rte := { full.rte with local_ := [(pluckOf h, 0, {})] } }
     let ex : Bool := true
     let ptype : Nat := 0x26
     let d : ChdDef := chdDef full.st 0
     let y : Nat := 0
     let p := pluckOf h
     let u : Dev := (match s.dev.takeLocal port p d.part with | some y_ => y_ | _ => base)
     let k := p.pluckSlot
     let x := u.grp ex k
     decide (p.ptype = ptype) && decide (s.dev.grpDef ex k = some d) && decide (s.dev.takeLocal port p d.part = some u) && decide (u.grpDef ex k = some d) && decide (d.edgeOf p.src = some y) && decide (x.run = none) && decide (p.pluckSeq = x.nextSeq.toNat)) = true ∧
    (let port : Fin 16 := 0
     let h : BitVec 512 := (mkHdr [(0, 1), (32, 2), (64, 0x20), (224, 0xFFFF)])
     let s : State := on { full with rte := { full.rte with local_ := [(pluckOf h, 0, {})] } }
     let ex : Bool := false
     let ptype : Nat := 0x20
     let d : ChdDef := chdDef full.st 0
     let y : Nat := 0
     let p := pluckOf h
     let u : Dev := (match s.dev.takeLocal port p d.part with | some y_ => y_ | _ => base)
     let k := p.pluckSlot
     let x := u.grp ex k
     decide (p.ptype = ptype) && decide (s.dev.grpDef ex k = some d) && decide (s.dev.takeLocal port p d.part = some u) && decide (u.grpDef ex k = some d) && decide (d.edgeOf p.src = some y) && decide (x.seqCase p.pluckSeq = .stale)) = true := by decide +kernel

theorem witness_StrumPackets :
    (let p : Packet := chordPkt 0x29 0 [(304, 0), (352, 0), (448, 9)] []
     let env : Env := {}
     let d : ChdDef := chdDef full.st 0
     let data : Bool := false
     let s : State := on { full with rte := { full.rte with local_ := [(p, 0, {})] }, ops := [{ entry := entry 0x50 [] }], exchs := [(0, { nextSeq := 1, run := some { opcode := 0x50, sig := 9 } })], stm := { runs := [(0, { phase := .data, ins := [{ member := 0 }] })] } }
     let k := p.f 267 256
     let m := p.f 319 304
     let a := s.dev.enter env
     let port := match s.dev.rte.local_.find? fun q => q.1 == p with | some q => q.2.1 | none => 16
     let u : Dev := (match a.takeLocal port p d.part with | some y_ => y_ | _ => base)
     let r : ChdRun := (match (u.exch k).run with | some y_ => y_ | _ => {})
     let v : Dev := ((if data then u.stmPlace env k (u.runEntry r) m (p.f 383 352) p.payload else u.stmTotal env k (u.runEntry r) m (p.f 383 352))).1
     decide (p.ptype = (if data then 0x28 else 0x29)) && decide (a.grpDef true k = some d) && decide (a.takeLocal port p d.part = some u) && decide (icrcOk p = true) && decide (u.grpDef true k = some d) && decide ((u.exch k).run = some r) && decide (p.f 287 272 = r.seq.toNat) && decide (p.f 511 448 = r.sig.toNat) && decide (((u.stmRun k).ins.any fun i => i.member == m) = true) && decide ((if data then u.stmPlace env k (u.runEntry r) m (p.f 383 352) p.payload else u.stmTotal env k (u.runEntry r) m (p.f 383 352)) = (v, none))) = true ∧
    (let p : Packet := chordPkt 0x28 0 [(304, 0)] [1, 2]
     let env : Env := {}
     let s : State := on { full with rte := { full.rte with local_ := [(p, 0, {})] } }
     let d : ChdDef := chdDef full.st 0
     let data : Bool := true
     let k := p.f 267 256
     let a := s.dev.enter env
     let port := match s.dev.rte.local_.find? fun q => q.1 == p with | some q => q.2.1 | none => 16
     let u : Dev := (match a.takeLocal port p d.part with | some y_ => y_ | _ => base)
     decide (p.ptype = (if data then 0x28 else 0x29)) && decide (a.grpDef true k = some d) && decide (a.takeLocal port p d.part = some u) && decide (icrcOk p = true) && decide (u.grpDef true k = some d) && decide ((u.exch k).run = none) && decide (p.f 287 272 = (u.exch k).nextSeq.toNat)) = true := by decide +kernel

theorem witness_CipherKeys :
    (let w : Word := 1
     let s : State := on full
     let load : Bool := true
     let a := s.tapped .pf Reg.cphKeyCtl w
     decide (bits w 7 0 = (if load then 1 else 2)) && decide (a.inReset Reg.cphKeyCtl = false)) = true ∧
    (let v : View := .vf 0
     let w : Word := 1
     let load : Bool := true
     decide (v ≠ .pf) && decide (bits w 7 0 = (if load then 1 else 2))) = true := by decide +kernel

theorem witness_DataPacketsAreReceived :
    (let p : Packet := connPkt 1 [(112, 1), (256, 1), (288, 64)] [1, 2, 3]
     let env : Env := {}
     let port : Nat := 0
     let arr : Arrival := { at_ := 2 ^ 40, valid := true }
     let ptype : Nat := 1
     let s : State := on { arriving { st := .active } p with rte := { full.rte with local_ := [(p, 0, arr)] } }
     let n := p.dconn
     let d := s.dev.enter env
     let a := s.dev.delivered env p port arr
     let b := a.ctxTouch n
     decide (p.ptype = ptype) && decide ((d.rte.local_.find? fun q => q.1 == p && d.whole q.2.1 p) = some (p, port, arr)) && meets a p && decide (((b.connPart n).all fun q => decide ((b.ptn q).st = .active))) && decide (b.stale p arr = true)) = true ∧
    (let p : Packet := connPkt 1 [(256, 1), (288, 64)] [1, 2, 3]
     let env : Env := {}
     let s : State := on (arriving { st := .active } p)
     let port : Nat := 0
     let arr : Arrival := {}
     let ptype : Nat := 1
     let n := p.dconn
     let d := s.dev.enter env
     let a := s.dev.delivered env p port arr
     let b := a.ctxTouch n
     let k : Dev := ((if p.ptype = 1 then b.keyCheck (BitVec.ofNat 32 p.rkey) ((b.connPart n).getD 0) p.raddr p.payload.length (rW + rRM) else (b, none))).1
     let x := b.conn n
     let dist := psnDiff (BitVec.ofNat 32 p.psn) x.rcvNxt
     let z := k.conn n
     let u : Dev := (((k.setConn n (if p.first then k.openMsg z p else z)).noteMsg n p).process env n p).1
     decide (p.ptype = ptype) && decide ((d.rte.local_.find? fun q => q.1 == p && d.whole q.2.1 p) = some (p, port, arr)) && meets a p && decide (((b.connPart n).all fun q => decide ((b.ptn q).st = .active))) && decide (b.stale p arr = false) && decide (dist = 0) && decide (x.rcvMap = 0) && decide (x.rnrActive = false) && decide ((arr.verified = true ∨ x.enc = false ∧ p.enc = false ∧ p.icrc = icrcConn p)) && decide ((p.ptype = 1 → b.keyCachedAt (BitVec.ofNat 32 p.rkey) = true)) && decide ((if p.ptype = 1 then b.keyCheck (BitVec.ofNat 32 p.rkey) ((b.connPart n).getD 0) p.raddr p.payload.length (rW + rRM) else (b, none)) = (k, none)) && decide ((z.msgs.filter fun m => m.count != 0).length < 16) && decide (((k.setConn n (if p.first then k.openMsg z p else z)).noteMsg n p).process env n p = (u, .ok)) && decide ((u.conn n).rcvMap = 0) && decide ((u.conn n).st = .active)) = true ∧
    (let p : Packet := connPkt 1 [(160, 0xFFFFFFFF), (256, 1), (288, 64)] [1, 2, 3]
     let env : Env := {}
     let s : State := on (arriving { st := .active } p)
     let port : Nat := 0
     let arr : Arrival := {}
     let ptype : Nat := 1
     let n := p.dconn
     let d := s.dev.enter env
     let a := s.dev.delivered env p port arr
     let b := a.ctxTouch n
     let x := b.conn n
     let dist := psnDiff (BitVec.ofNat 32 p.psn) x.rcvNxt
     decide (p.ptype = ptype) && decide ((d.rte.local_.find? fun q => q.1 == p && d.whole q.2.1 p) = some (p, port, arr)) && meets a p && decide (((b.connPart n).all fun q => decide ((b.ptn q).st = .active))) && decide (b.stale p arr = false) && decide (-65536 ≤ dist) && decide (dist < 0)) = true ∧
    (let p : Packet := connPkt 2 [(160, 0xFFFFFFFF), (256, 1), (288, 64)] []
     let env : Env := {}
     let s : State := on (arriving { st := .active } p)
     let port : Nat := 0
     let arr : Arrival := {}
     let ptype : Nat := 2
     let n := p.dconn
     let d := s.dev.enter env
     let a := s.dev.delivered env p port arr
     let b := a.ctxTouch n
     let x := b.conn n
     let dist := psnDiff (BitVec.ofNat 32 p.psn) x.rcvNxt
     decide (p.ptype = ptype) && decide ((d.rte.local_.find? fun q => q.1 == p && d.whole q.2.1 p) = some (p, port, arr)) && meets a p && decide (((b.connPart n).all fun q => decide ((b.ptn q).st = .active))) && decide (b.stale p arr = false) && decide (-65536 ≤ dist) && decide (dist < 0)) = true ∧
    (let p : Packet := connPkt 3 [(160, 0xFFFFFFFF), (256, 1), (288, 64)] []
     let env : Env := {}
     let s : State := on (arriving { st := .active } p)
     let port : Nat := 0
     let arr : Arrival := {}
     let ptype : Nat := 3
     let n := p.dconn
     let d := s.dev.enter env
     let a := s.dev.delivered env p port arr
     let b := a.ctxTouch n
     let x := b.conn n
     let dist := psnDiff (BitVec.ofNat 32 p.psn) x.rcvNxt
     decide (p.ptype = ptype) && decide ((d.rte.local_.find? fun q => q.1 == p && d.whole q.2.1 p) = some (p, port, arr)) && meets a p && decide (((b.connPart n).all fun q => decide ((b.ptn q).st = .active))) && decide (b.stale p arr = false) && decide (-65536 ≤ dist) && decide (dist < 0)) = true ∧
    (let p : Packet := connPkt 4 [(160, 0xFFFFFFFF), (256, 1), (288, 64)] []
     let env : Env := {}
     let s : State := on (arriving { st := .active } p)
     let port : Nat := 0
     let arr : Arrival := {}
     let ptype : Nat := 4
     let n := p.dconn
     let d := s.dev.enter env
     let a := s.dev.delivered env p port arr
     let b := a.ctxTouch n
     let x := b.conn n
     let dist := psnDiff (BitVec.ofNat 32 p.psn) x.rcvNxt
     decide (p.ptype = ptype) && decide ((d.rte.local_.find? fun q => q.1 == p && d.whole q.2.1 p) = some (p, port, arr)) && meets a p && decide (((b.connPart n).all fun q => decide ((b.ptn q).st = .active))) && decide (b.stale p arr = false) && decide (-65536 ≤ dist) && decide (dist < 0)) = true ∧
    (let p : Packet := connPkt 5 [(160, 0xFFFFFFFF), (256, 1), (288, 64)] []
     let env : Env := {}
     let s : State := on (arriving { st := .active } p)
     let port : Nat := 0
     let arr : Arrival := {}
     let ptype : Nat := 5
     let n := p.dconn
     let d := s.dev.enter env
     let a := s.dev.delivered env p port arr
     let b := a.ctxTouch n
     let x := b.conn n
     let dist := psnDiff (BitVec.ofNat 32 p.psn) x.rcvNxt
     decide (p.ptype = ptype) && decide ((d.rte.local_.find? fun q => q.1 == p && d.whole q.2.1 p) = some (p, port, arr)) && meets a p && decide (((b.connPart n).all fun q => decide ((b.ptn q).st = .active))) && decide (b.stale p arr = false) && decide (-65536 ≤ dist) && decide (dist < 0)) = true ∧
    (let p : Packet := connPkt 6 [(160, 0xFFFFFFFF), (256, 1), (288, 64)] []
     let env : Env := {}
     let s : State := on (arriving { st := .active } p)
     let port : Nat := 0
     let arr : Arrival := {}
     let ptype : Nat := 6
     let n := p.dconn
     let d := s.dev.enter env
     let a := s.dev.delivered env p port arr
     let b := a.ctxTouch n
     let x := b.conn n
     let dist := psnDiff (BitVec.ofNat 32 p.psn) x.rcvNxt
     decide (p.ptype = ptype) && decide ((d.rte.local_.find? fun q => q.1 == p && d.whole q.2.1 p) = some (p, port, arr)) && meets a p && decide (((b.connPart n).all fun q => decide ((b.ptn q).st = .active))) && decide (b.stale p arr = false) && decide (-65536 ≤ dist) && decide (dist < 0)) = true ∧
    (let p : Packet := connPkt 1 [(160, 65536), (256, 1), (288, 64)] [1, 2, 3]
     let env : Env := {}
     let s : State := on (arriving { st := .active } p)
     let port : Nat := 0
     let arr : Arrival := {}
     let ptype : Nat := 1
     let n := p.dconn
     let d := s.dev.enter env
     let a := s.dev.delivered env p port arr
     let b := a.ctxTouch n
     let x := b.conn n
     let dist := psnDiff (BitVec.ofNat 32 p.psn) x.rcvNxt
     decide (p.ptype = ptype) && decide ((d.rte.local_.find? fun q => q.1 == p && d.whole q.2.1 p) = some (p, port, arr)) && meets a p && decide (((b.connPart n).all fun q => decide ((b.ptn q).st = .active))) && decide (b.stale p arr = false) && decide (65536 ≤ dist)) = true := by decide +kernel

theorem witness_PacketsArePlaced :
    (let p : Packet := connPkt 1 [(256, 1), (288, 64)] [1, 2, 3]
     let env : Env := {}
     let s : Dev := full
     let c : Nat := 0
     let key := BitVec.ofNat 32 p.rkey
     let u : Dev := (s.regionWrite env key p.raddr p.payload (pktWho c p.psn)).1
     let b : List Byte := (match (s.regionWrite env key p.raddr p.payload (pktWho c p.psn)).2 with | .ok y_ => y_ | _ => [])
     decide (p.ptype = 1) && decide (s.regionWrite env key p.raddr p.payload (pktWho c p.psn) = (u, .ok b))) = true ∧
    (let p : Packet := connPkt 3 [(256, 1), (288, 64), (352, 128)] (zeros 16)
     let s : Dev := full
     let c : Nat := 0
     let key := BitVec.ofNat 32 p.rkey
     let u : Dev := (s.keyCheck key ((s.connPart c).getD 0) p.raddr p.aux (rR + rRM)).1
     decide (p.ptype = 3) && decide ((∀ q, s.connPart c = some q → (s.ptn q).st.refuses = false)) && decide (s.keyCachedAt key = true) && decide (s.keyCheck key ((s.connPart c).getD 0) p.raddr p.aux (rR + rRM) = (u, none)) && decide (keyTarget (u.region key) ≠ 0) && decide (u.keyReach (u.region key) p.raddr p.aux = none)) = true ∧
    (let p : Packet := connPkt 5 [(256, 1)] []
     let s : Dev := { full with conns := [(0, { st := .active, atomics := List.replicate 8 (0, 0) })] }
     let c : Nat := 0
     decide (p.ptype = 5) && decide (8 ≤ (s.conn c).atomics.length) && decide ((∀ q, s.connPart c = some q → (s.ptn q).st.refuses = false)) && decide (s.keyCachedAt (BitVec.ofNat 32 p.rkey) = true)) = true ∧
    (let p : Packet := connPkt 4 [(256, 1), (288, 64), (352, 6)] [1, 2]
     let env : Env := {}
     let s : Dev := { full with conns := [(0, { st := .active, readPsn := [(6, 0, 0)] })], ops := [{ entry := entry 0x11 [(160, 1), (192, 64), (352, 5000)] }] }
     let c : Nat := 0
     let rq : BitVec 32 := 6
     let o : Op := { entry := entry 0x11 [(160, 1), (192, 64), (352, 5000)] }
     let a : Dev := (s.respCheck o).1
     let u : Dev := (a.regionWrite env o.entry.lkey p.raddr p.payload (pktWho c p.psn)).1
     let b : List Byte := (match (a.regionWrite env o.entry.lkey p.raddr p.payload (pktWho c p.psn)).2 with | .ok y_ => y_ | _ => [])
     decide (p.ptype = 4) && decide (s.respOp c p = some (rq, o)) && decide (o.respFault = none) && decide (s.respCheck o = (a, none)) && decide (a.regionWrite env o.entry.lkey p.raddr p.payload (pktWho c p.psn) = (u, .ok b))) = true ∧
    (let p : Packet := connPkt 4 [] []
     let s : Dev := full
     let c : Nat := 0
     decide ((p.ptype = 4 ∨ p.ptype = 6)) && decide (s.respOp c p = none)) = true := by decide +kernel

theorem witness_AcksAndNaks :
    (let p : Packet := connPkt 7 [(160, 3)] []
     let s : State := on (arriving { st := .active, sndNxt := 5, tx := [{ psn := 2, sent := true }, { psn := 3, sent := true }], rto := 100, rtoDeadline := 5 } p)
     let port : Nat := 0
     let arr : Arrival := {}
     let n := p.dconn
     let d := s.dev.enter {}
     let a := s.dev.delivered {} p port arr
     let b := a.ctxTouch n
     let x := b.conn n
     let psn := BitVec.ofNat 32 p.psn
     decide (p.ptype = 7) && decide (p.icrc = icrcConn p) && decide ((d.rte.local_.find? fun q => q.1 == p && d.whole q.2.1 p) = some (p, port, arr)) && meets a p && decide (a.stale p arr = false) && decide (0 ≤ psnDiff psn x.sndUna) && decide (0 ≤ psnDiff x.sndNxt psn)) = true ∧
    (let p : Packet := connPkt 8 [(160, 0), (256, 1), (320, 3)] []
     let s : State := on (arriving { st := .active, sndNxt := 5, tx := [{ psn := 2, sent := true }, { psn := 3, sent := true }], rto := 100, rtoDeadline := 5 } p)
     let port : Nat := 0
     let arr : Arrival := {}
     let n := p.dconn
     let d := s.dev.enter {}
     let a := s.dev.delivered {} p port arr
     let code := p.f 263 256
     let psn := BitVec.ofNat 32 (p.f 351 320)
     let b := a.ctxTouch n
     let x : Conn := { b.conn n with lastNak := BitVec.ofNat 8 code }
     decide (p.ptype = 8) && decide (p.icrc = icrcConn p) && decide ((d.rte.local_.find? fun q => q.1 == p && d.whole q.2.1 p) = some (p, port, arr)) && meets a p && decide (a.stale p arr = false) && decide (0 ≤ psnDiff psn x.sndUna) && decide (psnDiff psn x.sndNxt < 0) && decide (code = 0x01) && decide (tfind x.seqRetxAt psn.toNat = none)) = true ∧
    (let p : Packet := connPkt 8 [(256, 2), (288, 1000), (320, 3)] []
     let s : State := on (arriving { st := .active, sndNxt := 5, tx := [{ psn := 2, sent := true }, { psn := 3, sent := true }], rto := 100, rtoDeadline := 5 } p)
     let port : Nat := 0
     let arr : Arrival := {}
     let n := p.dconn
     let d := s.dev.enter {}
     let a := s.dev.delivered {} p port arr
     let code := p.f 263 256
     let psn := BitVec.ofNat 32 (p.f 351 320)
     let b := a.ctxTouch n
     let x : Conn := { b.conn n with lastNak := BitVec.ofNat 8 code }
     decide (p.ptype = 8) && decide (p.icrc = icrcConn p) && decide ((d.rte.local_.find? fun q => q.1 == p && d.whole q.2.1 p) = some (p, port, arr)) && meets a p && decide (a.stale p arr = false) && decide (0 ≤ psnDiff psn x.sndUna) && decide (psnDiff psn x.sndNxt < 0) && decide (code = 0x02) && decide (x.wait = none)) = true ∧
    (let p : Packet := connPkt 8 [(256, 3), (288, 1000), (320, 3)] []
     let s : State := on (arriving { st := .active, sndNxt := 5, tx := [{ psn := 2, sent := true }, { psn := 3, sent := true }], rto := 100, rtoDeadline := 5 } p)
     let port : Nat := 0
     let arr : Arrival := {}
     let n := p.dconn
     let d := s.dev.enter {}
     let a := s.dev.delivered {} p port arr
     let code := p.f 263 256
     let psn := BitVec.ofNat 32 (p.f 351 320)
     let b := a.ctxTouch n
     let x : Conn := { b.conn n with lastNak := BitVec.ofNat 8 code }
     decide (p.ptype = 8) && decide (p.icrc = icrcConn p) && decide ((d.rte.local_.find? fun q => q.1 == p && d.whole q.2.1 p) = some (p, port, arr)) && meets a p && decide (a.stale p arr = false) && decide (0 ≤ psnDiff psn x.sndUna) && decide (psnDiff psn x.sndNxt < 0) && decide (code = 0x03) && decide (x.wait = none)) = true ∧
    (let p : Packet := connPkt 8 [(256, 4), (288, 0), (320, 3)] []
     let s : State := on (arriving { st := .active, sndNxt := 5, tx := [{ psn := 2, sent := true }, { psn := 3, sent := true }], rto := 100, rtoDeadline := 5 } p)
     let port : Nat := 0
     let arr : Arrival := {}
     let n := p.dconn
     let d := s.dev.enter {}
     let a := s.dev.delivered {} p port arr
     let code := p.f 263 256
     let psn := BitVec.ofNat 32 (p.f 351 320)
     let b := a.ctxTouch n
     let x : Conn := { b.conn n with lastNak := BitVec.ofNat 8 code }
     decide (p.ptype = 8) && decide (p.icrc = icrcConn p) && decide ((d.rte.local_.find? fun q => q.1 == p && d.whole q.2.1 p) = some (p, port, arr)) && meets a p && decide (a.stale p arr = false) && decide (0 ≤ psnDiff psn x.sndUna) && decide (psnDiff psn x.sndNxt < 0) && decide (4 ≤ code) && decide (code ≤ 0x0D)) = true := by decide +kernel

theorem witness_ConnectionTimers :
    (let c : BitVec 20 := 0
     let s : State := on { full with conns := [(0, { st := .active, cfg := BitVec.ofNat 512 (at_ 224 7 + at_ 232 7 + at_ 304 0xFFFF), sndNxt := 5, tx := [{ psn := 2, sent := true, due := false }], rto := 100, rtoDeadline := 5 })] }
     let n := c.toNat
     let x := s.dev.conn n
     decide (x.st = .active) && decide (s.dev.ctxCached n = true) && decide (x.rtoDeadline ≠ 0) && decide (x.rtoDeadline.toNat ≤ s.dev.rlg.time.toNat) && decide (x.retryCount.toNat ≠ x.retryLimit)) = true ∧
    (let c : BitVec 20 := 0
     let s : State := on { full with conns := [(0, { st := .active, sndNxt := 5, tx := [{ psn := 2, sent := true, due := false }], rto := 100, rtoDeadline := 5 })] }
     let n := c.toNat
     let x := s.dev.conn n
     decide (x.st = .active) && decide (s.dev.ctxCached n = true) && decide (x.rtoDeadline ≠ 0) && decide (x.rtoDeadline.toNat ≤ s.dev.rlg.time.toNat) && decide (x.retryCount.toNat = x.retryLimit)) = true ∧
    (let c : BitVec 20 := 0
     let t : Nat := 5
     let psn : BitVec 32 := 3
     let busy : Bool := false
     let s : State := on { full with conns := [(0, { st := .active, wait := some (false, 5, 3), cfg := BitVec.ofNat 512 (at_ 224 7 + at_ 232 7 + at_ 304 0xFFFF), sndNxt := 5, tx := [{ psn := 3, sent := true, due := false }] })] }
     let n := c.toNat
     let x := s.dev.conn n
     let m := (if busy then x.busyCount.toNat else x.rnrCount.toNat) + 1
     let limit := if busy then x.busyLimit else x.rnrLimit
     decide (x.st = .active) && decide (s.dev.ctxCached n = true) && decide (x.wait = some (busy, t, psn)) && decide (t ≤ s.dev.osc) && decide (limit = 255 ∨ m ≤ limit)) = true ∧
    (let c : BitVec 20 := 0
     let s : State := on { full with conns := [(0, { st := .active, ackPending := 1, ackSince := some 5 })] }
     let t : Nat := 5
     let n := c.toNat
     let x := s.dev.conn n
     decide (x.st = .active) && decide (x.ackSince = some t) && decide (x.ackPending ≠ 0) && decide (t + nsTicks s.dev.ackDelay ≤ s.dev.osc) && decide (s.dev.ackView n = (x.rcvNxt, x.rcvMap))) = true ∧
    (let c : BitVec 20 := 0
     let s : State := on { full with conns := [(0, { st := .active, rcvNxt := 1, ackPending := 1, ackSince := some 5, ackHold := [(0, 0)] })] }
     let t : Nat := 5
     let n := c.toNat
     let x := s.dev.conn n
     decide (x.st = .active) && decide (x.ackSince = some t) && decide (x.ackPending ≠ 0) && decide (t + nsTicks s.dev.ackDelay ≤ s.dev.osc) && decide (s.dev.ackView n ≠ (x.rcvNxt, x.rcvMap))) = true := by decide +kernel

theorem witness_ConnectionCommands :
    (let v : View := .port
     let w : Word := 1
     let s : State := on { full with rw := [(Reg.connHostBacking 0, 0x1000)], conns := [(0, { cfg := BitVec.ofNat 512 (at_ 4 1 + at_ 16 1 + at_ 32 2 + at_ 64 3 + at_ 224 7 + at_ 256 1024000 + at_ 304 1024000000) })] }
     let a := s.tapped v Reg.connCtl w
     let n := a.selConn v
     decide ((v = .pf ∨ v = .port)) && decide (a.inReset Reg.connCtl = false) && decide (bits w 7 0 = 1) && decide (a.connEnableCode n = 0)) = true ∧
    (let v : View := .port
     let w : Word := 1
     let s : State := on full
     let a := s.tapped v Reg.connCtl w
     let n := a.selConn v
     let x := a.conn n
     decide ((v = .pf ∨ v = .port)) && decide (a.inReset Reg.connCtl = false) && decide (bits w 7 0 = 1) && decide (x.st ≠ .reset)) = true ∧
    (let v : View := .port
     let w : Word := 2
     let s : State := on full
     let a := s.tapped v Reg.connCtl w
     let n := a.selConn v
     let x := a.conn n
     decide ((v = .pf ∨ v = .port)) && decide (a.inReset Reg.connCtl = false) && decide (bits w 7 0 = 2) && decide (x.st = .active)) = true ∧
    (let v : View := .port
     let w : Word := 3
     let s : State := on { full with conns := [(0, { st := .error })] }
     let a := s.tapped v Reg.connCtl w
     let n := a.selConn v
     let x := a.conn n
     decide ((v = .pf ∨ v = .port)) && decide (a.inReset Reg.connCtl = false) && decide (bits w 7 0 = 3) && decide ((x.st = .error ∨ x.st = .hostLost ∨ x.st = .quiesced))) = true ∧
    (let c : BitVec 20 := 0
     let env : Env := {}
     let s : State := on { full with conns := [(0, { st := .active, fetching := true })], connCache := [] }
     let n := c.toNat
     let a := s.dev.enter env
     decide ((a.conn n).fetching = true) && decide (a.inkMoving 3 = false) && decide (a.fetchCtx env n = .ok)) = true ∧
    (let k : BitVec 22 := 1
     let s : State := on { full with xlt := { full.xlt with keyCached := [], keyFetch := [1] } }
     decide (s.dev.xlt.keyFetch.contains k.toNat = true) && decide (s.dev.inkMoving 4 = false)) = true ∧
    (let c : BitVec 20 := 0
     let s : State := on { full with conns := [(0, { st := .active, blotEnd := 0x08 })] }
     let n := c.toNat
     let x := s.dev.conn n
     decide (x.blotEnd ≠ 0) && decide (x.blotting = []) && decide (x.msgs = [])) = true := by decide +kernel

theorem witness_PacketsAreRouted :
    (let port : Fin 16 := 0
     let k : Packet := connPkt 1 [(76, 0)] []
     let s : State := on full
     let a := s.dev.setLink port ((s.dev.link port).lookedUp k)
     decide (s.dev.isEth port = false) && decide (s.dev.inReset Reg.rteCfg = false) && decide (a.isEth port = false) && decide (a.inReset Reg.rteCfg = false) && decide (a.portDown port = false) && decide (a.portCarries port = true) && decide ((isPluck k = false ∨ k.vc ≠ 11)) && decide (a.capo.nodeSet = true) && decide (k.dst = a.node) && decide (ptypeOk k.ptype = true) && decide (k.vc < 12) && decide (k.plen ≤ 4096)) = true ∧
    (let port : Fin 16 := 0
     let k : Packet := { hdr := mkHdr [(0, 2), (32, 3), (64, 1)] }
     let s : State := on { full with run := [(Reg.rteCfg, 0x7), (Reg.rtePortCfg 0, 0), (Reg.rtePortCfg 1, 1), (rteCell 2, 0x1111)] }
     let q : Nat := 1
     let vc : Nat := 1
     let a := s.dev.setLink port ((s.dev.link port).lookedUp k)
     let arr := some (a.portDir port, k.vc % 3)
     decide (s.dev.isEth port = false) && decide (s.dev.inReset Reg.rteCfg = false) && decide (a.isEth port = false) && decide (a.inReset Reg.rteCfg = false) && decide (a.portDown port = false) && decide (a.portCarries port = true) && decide ((isPluck k = false ∨ k.vc ≠ 11)) && decide (a.capo.nodeSet = false ∨ k.dst ≠ a.node) && decide (a.route arr k (k.vc % 3 == 2) = .det q vc) && decide (a.escapesNow arr k (k.vc % 3 == 2) = false)) = true ∧
    (let port : Fin 16 := 0
     let x : QPkt := { kind2 := true, looked := { det := [1], detVc := 1 }, escapeAt := 5, pkt := { hdr := mkHdr [(0, 2), (32, 1), (64, 1)] } }
     let q : Nat := 1
     let vc : Nat := 1
     let s : State := on { full with run := [(Reg.rteCfg, 0x7), (Reg.rtePortCfg 0, 0), (Reg.rtePortCfg 1, 1), (rteCell 2, 0x1111)], sch := { q := [x] } }
     decide (s.dev.sch.q = [x]) && decide (x.kind2 = true) && decide (x.inPort.getD port = port.val) && decide (x.escapeAt ≤ s.dev.osc) && decide (s.dev.adaptPort (s.dev.queuedBytes · x.vc) x.looked x.vc (flitsOf x.pkt) = none) && decide (({ s.dev with sch := { s.dev.sch with q := [] } } : Dev).escapeRoute x.looked x.pkt = .det q vc)) = true := by decide +kernel

theorem witness_RoutesLeaveByUsablePorts :
    (let s : Dev := { full with run := [(Reg.rteCfg, 0x7), (Reg.rtePortCfg 0, 0), (Reg.rtePortCfg 1, 1), (rteCell 2, 0x1111)] }
     let arr : Option (Nat × Nat) := some (0, 0)
     let k : Packet := { hdr := mkHdr [(0, 2), (32, 3), (64, 1)] }
     let adaptive : Bool := false
     let q : Nat := 1
     let vc : Nat := 1
     decide ((arr.all fun a => decide (a.2 < 3))) && decide (s.route arr k adaptive = .det q vc)) = true := by decide +kernel

theorem witness_PortsStartPackets :
    (let port : Fin 16 := 1
     let env : Env := {}
     let x : QPkt := { port := 1, pkt := { hdr := mkHdr [(0, 2), (32, 1), (64, 7)] } }
     let s : State := on { base with sch := { q := [x] } , rte := { links := [(1, { up := true, limit := [(0, 100)] })] } }
     let p := port.val
     let b := (s.dev.enter env).enter env
     decide (b.isEth p = false) && decide ((s.dev.enter env).isEth p = false) && decide (b.exchs = []) && decide (b.conns = []) && decide ((∀ y ∈ b.sch.q, y.kind2 = false)) && decide ((∀ y ∈ b.queued p, isPluck y.pkt = false)) && decide (b.usable p = true) && decide (b.portBusy p = false) && decide (b.choose p = some (x, none)) && decide (x.leaf = .control) && decide (x.conn = none) && decide (b.curFret p = none)) = true ∧
    (let port : Fin 16 := 14
     let env : Env := {}
     let f : List Byte := zeros 64
     let rest : List (List Byte) := []
     let s : State := on { base with run := [(Reg.ethPortRec 0 0, 0x100)], eth := [(0, { link := true, frames := [f] })] }
     let p := port.val
     let b := s.dev.enter env
     let cw := b.st (Reg.schPortCtrl p)
     decide (s.dev.isEth p = true) && decide (b.isEth p = true) && decide (b.replaying = false) && decide ((b.ethPort (p - 14)).link = true) && decide ((b.ethPort (p - 14)).frames = f :: rest) && decide (b.shaperOk (shaperKey p 1) (bits cw 17 0) (bits cw 33 18 * 64) = true)) = true := by decide +kernel

theorem witness_LinksUpAndDown :
    (let port : Fin 16 := 0
     let u : LinkUnit := {}
     let s : State := on base
     let intact := u.crcOk = true ∧ u.kind.toNat < 7
     decide (s.dev.portUp port = true) && decide (¬ intact)) = true ∧
    (let port : Fin 16 := 0
     let u : LinkUnit := { tag := linkTag 3 0 0 }
     let s : State := on { base with rte := { links := [(0, { up := true, lost := true, requests := 1 })] } }
     let l := s.dev.link port
     let sequenced := u.kind = 1 ∨ u.kind = 2 ∨ u.kind = 5 ∨ u.kind = 6
     let intact := u.crcOk = true ∧ u.kind.toNat < 7
     decide (s.dev.portUp port = true) && decide (intact) && decide (¬ sequenced) && decide (u.seq = l.exp) && decide (l.requests ≠ 0)) = true ∧
    (let port : Fin 16 := 0
     let u : LinkUnit := { tag := linkTag 3 0 0 }
     let s : State := on base
     let l := s.dev.link port
     let sequenced := u.kind = 1 ∨ u.kind = 2 ∨ u.kind = 5 ∨ u.kind = 6
     let intact := u.crcOk = true ∧ u.kind.toNat < 7
     decide (s.dev.portUp port = true) && decide (intact) && decide (¬ sequenced) && decide (u.seq ≠ l.exp ∨ l.requests = 0)) = true ∧
    (let port : Fin 16 := 0
     let u : LinkUnit := { data := 7, tag := linkTag 5 0 7 }
     let s : State := on base
     let l := s.dev.link port
     let sequenced := u.kind = 1 ∨ u.kind = 2 ∨ u.kind = 5 ∨ u.kind = 6
     let intact := u.crcOk = true ∧ u.kind.toNat < 7
     decide (s.dev.portUp port = true) && decide (intact) && decide (sequenced) && decide (u.seq = l.exp)) = true ∧
    (let port : Fin 16 := 0
     let u : LinkUnit := { data := 7, tag := linkTag 1 1 7 }
     let s : State := on base
     let l := s.dev.link port
     let sequenced := u.kind = 1 ∨ u.kind = 2 ∨ u.kind = 5 ∨ u.kind = 6
     let intact := u.crcOk = true ∧ u.kind.toNat < 7
     decide (s.dev.portUp port = true) && decide (intact) && decide (sequenced) && decide (seqBefore l.exp u.seq = true)) = true ∧
    (let port : Fin 16 := 0
     let u : LinkUnit := { data := 7, tag := linkTag 5 0xFFFF 7 }
     let s : State := on base
     let l := s.dev.link port
     let sequenced := u.kind = 1 ∨ u.kind = 2 ∨ u.kind = 5 ∨ u.kind = 6
     let intact := u.crcOk = true ∧ u.kind.toNat < 7
     decide (s.dev.portUp port = true) && decide (intact) && decide (sequenced) && decide (u.seq ≠ l.exp) && decide (seqBefore l.exp u.seq = false)) = true ∧
    (let port : Fin 16 := 2
     let s : State := on { base with opt := [(2, { fenced := false, cause := 0, wls := (List.range 8).map fun w => (w, { lock := .locked }) })] }
     decide (s.dev.isEth port = false) && decide (s.dev.portEnabled port = true) && decide ((s.dev.optPort port).fenced = false) && decide ((s.dev.optPort port).locked = true) && decide (s.dev.inReset Reg.rteCfg = false) && decide ((s.dev.link port).up = false)) = true ∧
    (let port : Fin 16 := 0
     let s : State := on { base with run := [(Reg.rtePortCfg 0, 1), (Reg.rtePortCfg 1, 1)] }
     let c : Instr := .signalLockLoss port
     let code : Nat := 3
     decide ((c = .linkRetryExhausted port ∧ code = 2 ∧ 16 ≤ (s.dev.link port).requests ∨ c = .signalLockLoss port ∧ code = 3 ∨ c = .fabricPortDown port ∧ code = (if (s.dev.optPort port).fenced then 5 else if s.dev.portEnabled port = false then 4 else if 16 ≤ (s.dev.link port).requests then 2 else 3))) && decide (s.dev.isEth port = false) && decide ((s.dev.link port).up = true) && lone s.dev port) = true ∧
    (let port : Fin 16 := 2
     let s : State := on base
     decide ((s.dev.link port).rx = none)) = true ∧
    (let port : Fin 16 := 0
     let h : BitVec 512 := (mkHdr [(0, 3), (32, 2), (64, 1)])
     let b : List Byte := []
     let n : Nat := 2
     let seen : Bool := false
     let s : State := on { base with rte := { links := [(0, { up := true, rx := some (h, [], 3, false) })] } }
     let l := s.dev.link port
     let k : Packet := { hdr := h }
     let a := s.dev.setLink port { l with rx := none, cut := none }
     let ours := a.capo.nodeSet = true ∧ k.dst = a.node
     let mine := fun (x : QPkt) => x.inPort == some port.val && hdrStill x.pkt.hdr == hdrStill h
     decide (s.dev.portUp port = true) && decide ((s.dev.link port).rx = some (h, b, n + 1, seen)) && decide (seen = false) && decide ((∀ x ∈ a.sch.q, mine x = false)) && decide (¬ ours) && decide (l.cut = none)) = true ∧
    (let port : Fin 16 := 0
     let h : BitVec 512 := (mkHdr [(0, 1), (32, 2), (64, 1)])
     let b : List Byte := []
     let n : Nat := 2
     let seen : Bool := true
     let s : State := on { base with rte := { links := [(0, { up := true, rx := some (h, [], 3, true) })], local_ := [({ hdr := h }, 0, {})] } }
     let l := s.dev.link port
     let k : Packet := { hdr := h }
     let a := s.dev.setLink port { l with rx := none, cut := none }
     let ours := a.capo.nodeSet = true ∧ k.dst = a.node
     let mine := fun (x : QPkt) => x.inPort == some port.val && hdrStill x.pkt.hdr == hdrStill h
     decide (s.dev.portUp port = true) && decide ((s.dev.link port).rx = some (h, b, n + 1, seen)) && decide (seen = true) && decide ((∀ x ∈ a.sch.q, mine x = false)) && decide (ours)) = true ∧
    (let port : Fin 16 := 0
     let h : BitVec 512 := (mkHdr [(0, 3), (32, 2), (64, 1)])
     let b : List Byte := []
     let n : Nat := 2
     let seen : Bool := true
     let x : QPkt := { inPort := some 0, pkt := { hdr := h } }
     let s : State := on { base with rte := { links := [(0, { up := true, rx := some (h, [], 3, true) })] }, sch := { q := [x] } }
     let l := s.dev.link port
     let k : Packet := { hdr := h }
     let a := s.dev.setLink port { l with rx := none, cut := none }
     let ours := a.capo.nodeSet = true ∧ k.dst = a.node
     let mine := fun (x : QPkt) => x.inPort == some port.val && hdrStill x.pkt.hdr == hdrStill h
     decide (s.dev.portUp port = true) && decide ((s.dev.link port).rx = some (h, b, n + 1, seen)) && decide (seen = true) && decide (a.sch.q = [x]) && decide (mine x = true) && decide (¬ ours)) = true ∧
    (let port : Fin 16 := 0
     let h : BitVec 512 := (mkHdr [(0, 3), (32, 2), (64, 1)])
     let b : List Byte := []
     let n : Nat := 2
     let seen : Bool := true
     let q : Nat := 1
     let v : Nat := 3
     let s : State := on { base with rte := { links := [(0, { up := true, rx := some (h, [], 3, true), cut := some (1, 3) }), (1, { up := true })] } }
     let l := s.dev.link port
     let k : Packet := { hdr := h }
     let a := s.dev.setLink port { l with rx := none, cut := none }
     let ours := a.capo.nodeSet = true ∧ k.dst = a.node
     let mine := fun (x : QPkt) => x.inPort == some port.val && hdrStill x.pkt.hdr == hdrStill h
     decide (s.dev.portUp port = true) && decide ((s.dev.link port).rx = some (h, b, n + 1, seen)) && decide (seen = true) && decide ((∀ x ∈ a.sch.q, mine x = false)) && decide (¬ ours) && decide (l.cut = some (q, v))) = true := by decide +kernel

theorem witness_PortEnableAndTelemetry :
    (let port : Fin 16 := 0
     let w : Word := 0
     let s : State := on base
     decide (s.dev.inReset (Reg.rtePortCfg port) = false) && decide (s.dev.capoBusy = false) && decide (s.dev.isEth port = false) && decide (twf rwReset s.dev.rw = true) && decide (s.dev.portEnabled port = true) && decide (bit w 5 = false)) = true ∧
    (let port : Fin 16 := 0
     let w : Word := 0x20
     let s : State := on base
     decide (s.dev.inReset (Reg.rtePortCfg port) = false) && decide (s.dev.capoBusy = false) && decide (s.dev.isEth port = false) && decide (twf rwReset s.dev.rw = true) && decide (s.dev.portEnabled port = false ∨ bit w 5 = true)) = true ∧
    (let k : Packet := sealIcrc { hdr := mkHdr [(0, 1), (32, 2), (64, 0x30), (120, 64)], payload := zeros 64 }
     let s : State := on { base with rw := [(Reg.rteTelemRx, 0x300)], rte := { local_ := [(k, 0, {})] } }
     let r : Rte := { s.dev.rte with local_ := eraseFirst (fun q => q.1 == k) s.dev.rte.local_ }
     let a : Dev := { s.dev with rte := r }
     let w := a.reg Reg.rteTelemRx
     let u : Dev := (a.inkWrite false (bits w 63 16 * 65536 + (a.count Reg.rteTelemRxCount).toNat % 2 ^ min 16 (bits w 4 0) * 8192) (hdrBytes k.hdr ++ k.payload)).1
     decide (k.ptype = 0x30) && decide (s.dev.rte.local_.any (fun q => q.1 == k && s.dev.whole q.2.1 k) = true) && decide (icrcOk k = true) && decide (bit w 9 = true) && decide (bit w 8 = true) && decide (a.inkWrite false (bits w 63 16 * 65536 + (a.count Reg.rteTelemRxCount).toNat % 2 ^ min 16 (bits w 4 0) * 8192) (hdrBytes k.hdr ++ k.payload) = (u, .ok))) = true ∧
    (let k : Packet := sealIcrc { hdr := mkHdr [(0, 1), (32, 2), (64, 0x30), (120, 64)], payload := zeros 64 }
     let s : State := on { base with rte := { local_ := [(k, 0, {})] } }
     let r : Rte := { s.dev.rte with local_ := eraseFirst (fun q => q.1 == k) s.dev.rte.local_ }
     let a : Dev := { s.dev with rte := r }
     let w := a.reg Reg.rteTelemRx
     decide (k.ptype = 0x30) && decide (s.dev.rte.local_.any (fun q => q.1 == k && s.dev.whole q.2.1 k) = true) && decide (bit w 9 = false)) = true := by decide +kernel

theorem witness_FirmwareRecovery :
    (let port : Fin 16 := 0
     let d : BitVec 512 := BitVec.ofNat 512 (1 + at_ 8 2)
     let s : State := { dev := base, flash := { fw := some [0, 0, 0, 0, 0, 0, 2] } }
     let img : List Byte := [0, 0, 0, 0, 0, 0, 2]
     decide (s.dev.portUp port = true) && decide (bits d 7 0 = 1) && decide (s.flash.fw = some img) && decide (s.dev.rst.coreUp = true) && decide (leAt img 6 1 &&& bits d 15 8 ≠ 0)) = true ∧
    (let port : Fin 16 := 0
     let d : BitVec 512 := BitVec.ofNat 512 (1 + at_ 8 2)
     let s : State := on base
     decide (s.dev.portUp port = true) && decide (bits d 7 0 = 1) && decide (s.flash.fw = none)) = true ∧
    (let port : Fin 16 := 0
     let d : BitVec 512 := BitVec.ofNat 512 (3 + at_ 32 1 + at_ 64 6)
     let s : State := { dev := { base with rte := { base.rte with recov := [(0, { serving := true })] } }, flash := { fw := some [0, 0, 0, 0, 0, 0, 2] } }
     let img : List Byte := [0, 0, 0, 0, 0, 0, 2]
     let off := bits d 63 32
     let len := bits d 95 64
     decide (s.dev.portUp port = true) && decide (bits d 7 0 = 3) && decide (s.flash.fw = some img) && decide (s.dev.rst.coreUp = true) && decide ((s.dev.recov port).serving = true) && decide (0 < len) && decide (len ≤ 57344) && decide (off + len ≤ img.length)) = true ∧
    (let port : Fin 16 := 0
     let d : BitVec 512 := BitVec.ofNat 512 (2 + at_ 64 4096)
     let s : State := on { base with rst := { base.rst with boot := .recovery, recovering := true, recoveryPort := 0, recoveryAt := 7 } }
     decide (s.dev.asking port = true) && decide (bits d 7 0 = 2) && decide (0 < bits d 95 64) && decide (bits d 95 64 ≤ fwMax)) = true ∧
    (let port : Fin 16 := 0
     let s : State := on { base with rst := { base.rst with boot := .recovery, recovering := true, recoveryPort := 0, recoveryAt := 7 } }
     decide (s.dev.asking port = true) && decide (s.dev.rst.recoveryAt ≤ s.dev.osc)) = true := by decide +kernel

theorem witness_BootGoesOn :
    (let s : State := on { base with rst := { base.rst with boot := .rom } }
     decide (4 ≤ s.dev.rst.released) && decide (s.dev.rst.boot = .rom) && decide (s.flash.state ≠ 0) && decide (s.flash.state ≠ 4) && decide (s.flash.fw = none)) = true ∧
    (let v : View := .port
     let s : State := on { base with rw := [(Reg.rstMboxLen, 0x1000001)], rst := { base.rst with boot := .recovery } }
     let t := s.tapped v Reg.rstMboxCtl 1
     let a := t.setReg Reg.rstMboxCtl (t.reg Reg.rstMboxCtl ||| 1)
     let n := (a.reg Reg.rstMboxLen).toNat
     decide ((v = .pf ∨ v = .port)) && decide (a.rst.boot = .recovery) && decide (a.rst.recovering = false) && decide (a.hst.dlActive = true) && decide (fwMax < n)) = true ∧
    (let s : State := on { base with rst := { base.rst with boot := .recovery, recoveryAt := 5 } }
     decide (s.dev.rst.boot = .recovery) && decide (s.dev.rst.recovering = false) && decide (s.dev.rst.recoveryAt ≤ s.dev.osc)) = true ∧
    (let w : FwImage := { version := 1, digest := 5, bytes := [1] }
     let s : State := on { base with rst := { base.rst with boot := .firmware, coreImage := some w } }
     decide (s.dev.rst.boot = .firmware) && decide (s.dev.rst.coreImage = some w) && decide (s.dev.rst.started = true)) = true := by decide +kernel

theorem witness_WatchdogAndBlockReset :
    (let s : State := on { base with rw := [(Reg.rstWdtCfg, 0x10001)] }
     let c := s.dev.reg Reg.rstWdtCfg
     decide (bit c 16 = true) && decide (s.dev.rst.coreUp = true) && decide (s.dev.rst.kickAt + msTicks (max 1 (bits c 15 0)) ≤ s.dev.osc) && decide (s.dev.rst.shutting = false)) = true ∧
    (let v : View := .port
     let w : Word := 0x101
     let s : State := on { base with rst := { base.rst with block := some (1, 0, 5) } }
     let a := s.tapped v Reg.rstBlockCtl w
     decide ((v = .pf ∨ v = .port)) && decide (a.rst.block ≠ none)) = true ∧
    (let v : View := .port
     let w : Word := 0x101
     let s : State := on { base with rw := [(Reg.rstIdleTimeout, 1)] }
     let a := s.tapped v Reg.rstBlockCtl w
     let t := bits (a.reg Reg.rstIdleTimeout) 15 0
     decide ((v = .pf ∨ v = .port)) && decide (a.rst.block = none) && decide (1 ≤ bits w 7 0) && decide (bits w 7 0 ≤ 6) && decide ((bits w 7 0 = 2 → bits w 9 8 < 2)) && decide (t ≠ 0)) = true ∧
    (let code : Byte := 5
     let arg : BitVec 2 := 0
     let t : Nat := 2000000
     let s : State := on { base with rst := { base.rst with block := some (5, 0, 2000000) } }
     decide (s.dev.rst.block = some (code, arg, t)) && decide (s.dev.osc < t)) = true := by decide +kernel

theorem witness_ResetsTrimAndRelease :
    (let s : State := on { base with mem := [(hostKey 64, 3), (chanKey 0 64, 5)] }
     decide (s.flash.state ≠ 3)) = true ∧
    (let s : State := on base
     decide (s.flash.state ≠ 3) && decide (s.dev.rst.powerFail = false)) = true ∧
    (let s : State := { dev := base, flash := { state := 3 } }
     decide (s.flash.state = 3)) = true ∧
    (let s : State := on { base with rst := { base.rst with powerFail := true } }
     decide (s.dev.rst.powerFail = true)) = true ∧
    (let c : Instr := .powerFail
     decide (c = .powerFail ∨ c = .overVoltage)) = true ∧
    (let s : State := on {}
     decide (s.dev.rst.powerFail = false) && decide (s.dev.rst.boot = .trim) && decide (s.dev.rst.trimValid = false) && decide (s.dev.rst.trimFails < 8)) = true ∧
    (let s : State := on { base with rst := { base.rst with released := 3 } }
     let n := s.dev.rst.released
     decide (1 ≤ n) && decide (n ≤ 8) && decide (s.dev.rst.shutting = false) && decide ((∀ t, s.dev.rst.warmAt = some t → t ≤ s.dev.osc)) && decide ((n = 5 → s.dev.ink.trained = true))) = true := by decide +kernel

theorem witness_WarmResetAndShutdown :
    (let v : View := .port
     let s : State := on full
     let a := s.tapped v Reg.rstCtl 1
     decide ((v = .pf ∨ v = .port)) && decide (a.rst.boot = .done) && decide (a.rst.shutting = false)) = true ∧
    (let v : View := .port
     let s : State := on {}
     let a := s.tapped v Reg.rstCtl 1
     decide ((v = .pf ∨ v = .port)) && decide (a.rst.boot ≠ .done ∨ a.rst.shutting = true)) = true ∧
    (let v : View := .port
     let s : State := on full
     let a := s.tapped v Reg.rstCtl 2
     decide ((v = .pf ∨ v = .port)) && decide (a.rst.boot = .done) && decide (a.rst.shutting = false)) = true ∧
    (let v : View := .port
     let s : State := on {}
     let a := s.tapped v Reg.rstCtl 2
     decide ((v = .pf ∨ v = .port)) && decide (a.rst.boot ≠ .done ∨ a.rst.shutting = true)) = true := by decide +kernel

theorem witness_FlashEngine :
    (let v0 : BitVec 17 := 60000
     let v1 : BitVec 17 := 1
     let s : State := on { base with rst := { base.rst with jobs := [{ what := .startCount 7, left := 2 }] } }
     let i : Nat := 0
     let n : Nat := 128
     let j := s.dev.job i
     decide (s.dev.jobAt = some i) && decide (holdupE v0.toNat v1.toNat = some n) && decide (s.dev.rst.coreUp = true) && decide (s.dev.rst.powerFail = false) && decide (j.running = false) && decide (j.retryAt = none) && decide (j.done = 0) && decide ((cap24 n).toNat < j.what.needs)) = true ∧
    (let v0 : BitVec 17 := 60000
     let v1 : BitVec 17 := 59900
     let s : State := on { base with rst := { base.rst with jobs := [{ what := .startCount 7, left := 2 }] } }
     let i : Nat := 0
     let n : Nat := 38432
     let c : Word := 7
     let j := s.dev.job i
     decide (s.dev.jobAt = some i) && decide (holdupE v0.toNat v1.toNat = some n) && decide (s.dev.rst.coreUp = true) && decide (s.dev.rst.powerFail = false) && decide (j.running = false) && decide (j.retryAt = none) && decide (j.done = 0) && decide (j.what = .startCount c) && decide (j.what.needs ≤ (cap24 n).toNat)) = true ∧
    (let s : State := on { base with rst := { base.rst with jobs := [{ what := .startCount 7, left := 2, running := true }] } }
     let i : Nat := 0
     let j := s.dev.job i
     decide (((List.range s.dev.rst.jobs.length).find? fun i => (s.dev.job i).running) = some i) && decide (2 ≤ j.left)) = true ∧
    (let s : State := on { base with rst := { base.rst with jobs := [{ what := .startCount 7, left := 1, running := true }] } }
     let i : Nat := 0
     let c : Word := 7
     let j := s.dev.job i
     decide (((List.range s.dev.rst.jobs.length).find? fun i => (s.dev.job i).running) = some i) && decide (j.left ≤ 1) && decide (j.what = .startCount c) && decide (s.dev.rst.shutting = false)) = true ∧
    (let s : State := on { base with rst := { base.rst with jobs := [{ what := .nonce 7, left := 1, running := true }] } }
     let i : Nat := 0
     let c : Word := 7
     let j := s.dev.job i
     decide (((List.range s.dev.rst.jobs.length).find? fun i => (s.dev.job i).running) = some i) && decide (j.left ≤ 1) && decide (j.what = .nonce c) && decide (s.dev.rst.shutting = false)) = true := by decide +kernel

theorem witness_LifecycleCommands :
    (let v : View := .port
     let env : Env := {}
     let s : State := on { base with lcs := { base.lcs with cmd := some 1 } }
     let n : Nat := 1
     let c : Instr := .nonce v
     let t := fun (n : Nat) => s.tapped v Reg.lcsCtl (BitVec.ofNat 64 n)
     decide ((v = .pf ∨ v = .port)) && decide ((n, c) ∈ [(1, .nonce v), (2, .enterDiag v env), (3, .exitDiag v), (4, .secure v), (5, .retire v env), (6, .attest v env), (7, .provision v env)]) && decide ((t n).lcs.cmd ≠ none)) = true ∧
    (let v : View := .port
     let s : State := { dev := base, flash := { state := 3 } }
     let f := s.flash
     decide ((v = .pf ∨ v = .port)) && decide (s.dev.lcs.cmd = none) && decide (f.state = 3)) = true ∧
    (let v : View := .port
     let s : State := on base
     let f := s.flash
     decide ((v = .pf ∨ v = .port)) && decide (s.dev.lcs.cmd = none) && decide (f.state ≠ 3)) = true ∧
    (let v : View := .port
     let s : State := { dev := base, flash := { state := 1, provisioned := 0x3FF } }
     let f := s.flash
     decide ((v = .pf ∨ v = .port)) && decide (s.dev.lcs.cmd = none) && decide (f.state = 1) && decide (f.secureReady = true)) = true ∧
    (let v : View := .port
     let s : State := on base
     let f := s.flash
     decide ((v = .pf ∨ v = .port)) && decide (s.dev.lcs.cmd = none) && decide (f.state ≠ 1)) = true ∧
    (let v : View := .port
     let env : Env := {}
     let s : State := on base
     let diag : Bool := true
     let b : List Byte := zeros 3145
     let t := fun (n : Nat) => s.tapped v Reg.lcsCtl (BitVec.ofNat 64 n)
     let f := s.flash
     let n := if diag then 2 else 5
     let dest : BitVec 4 := if diag then 3 else 4
     let a := t n
     let u : Dev := (Dev.extReadAll (ceilDiv tokenLen 64) (a.enter env) env (a.reg Reg.lcsReqAddr) 0 tokenLen []).1
     decide ((v = .pf ∨ v = .port)) && decide (s.dev.lcs.cmd = none) && decide (f.state = 2 ∨ diag = false ∧ f.state = 3) && decide (Dev.extReadAll (ceilDiv tokenLen 64) (a.enter env) env (a.reg Reg.lcsReqAddr) 0 tokenLen [] = (u, some b)) && decide (u.tokenCode f b dest.toNat ≠ 0)) = true ∧
    (let v : View := .port
     let env : Env := {}
     let s : State := { dev := { base with mem := [(hostKey 0, 1)] }, flash := { state := 1 } }
     let b : List Byte := 1 :: zeros 2047
     let t := fun (n : Nat) => s.tapped v Reg.lcsCtl (BitVec.ofNat 64 n)
     let u : Dev := (Dev.extReadAll 32 ((t 7).enter env) env ((t 7).reg Reg.lcsReqAddr) 0 2048 []).1
     let f := s.flash
     decide ((v = .pf ∨ v = .port)) && decide (s.dev.lcs.cmd = none) && decide (f.state = 1) && decide (Dev.extReadAll 32 ((t 7).enter env) env ((t 7).reg Reg.lcsReqAddr) 0 2048 [] = (u, some b)) && decide (1 ≤ leAt b 0 1) && decide (leAt b 0 1 ≤ 10) && decide (bit f.provisioned (leAt b 0 1 - 1) = false)) = true := by decide +kernel

theorem witness_TranslationMessages :
    (let fn : Fin 64 := 0
     let on : Bool := true
     let s : State := { dev := full }
     decide (fn.val ≤ s.dev.hst.numVf.toNat) && decide ((s.dev.fn fn).ats ≠ on) && decide (s.dev.xlt.misses = []) && decide (s.dev.ops = [])) = true ∧
    (let fn : Fin 64 := 0
     let page : BitVec 52 := 5
     let m : Miss := { page := 5 * 4096, key := 1 }
     let s : State := on { full with xlt := { full.xlt with misses := [m] } }
     let r : Bool := true
     let w : Bool := true
     decide (s.dev.xlt.misses = [m]) && decide (s.dev.ops = []) && decide (m.fn = fn.val) && decide (m.page = page.toNat * 4096) && decide (m.st = .ats ∨ m.st = .again) && decide (r = true ∨ w = true) && decide ((m.write = true → w = true))) = true ∧
    (let fn : Fin 64 := 0
     let page : BitVec 52 := 5
     let m : Miss := { page := 5 * 4096, key := 1 }
     let s : State := on { full with xlt := { full.xlt with misses := [m] } }
     let a : AtsAnswer := .none
     decide (s.dev.xlt.misses = [m]) && decide (s.dev.ops = []) && decide (m.fn = fn.val) && decide (m.page = page.toNat * 4096) && decide (m.st = .ats ∨ m.st = .again) && decide (a = .error ∨ a = .none) && decide (m.st = .again ∨ (s.dev.fn fn).pri = false)) = true ∧
    (let fn : Fin 64 := 0
     let page : BitVec 52 := 5
     let m : Miss := { page := 5 * 4096, key := 1 }
     let s : State := on { full with xlt := { full.xlt with misses := [m] }, hst := { full.hst with fns := [(0, { pri := true })] } }
     let a : AtsAnswer := .none
     decide (s.dev.xlt.misses = [m]) && decide (s.dev.ops = []) && decide (m.fn = fn.val) && decide (m.page = page.toNat * 4096) && decide (m.st = .ats ∨ m.st = .again) && decide (a = .error ∨ a = .none) && decide (m.st = .ats) && decide ((s.dev.fn fn).pri = true) && decide ((s.dev.fn fn).priAlloc = 0)) = true ∧
    (let fn : Fin 64 := 0
     let page : BitVec 52 := 5
     let m : Miss := { page := 5 * 4096, key := 1 }
     let s : State := on { full with xlt := { full.xlt with misses := [m] }, hst := { full.hst with fns := [(0, { pri := true, priAlloc := 4 })] } }
     let a : AtsAnswer := .none
     decide (s.dev.xlt.misses = [m]) && decide (s.dev.ops = []) && decide (m.fn = fn.val) && decide (m.page = page.toNat * 4096) && decide (m.st = .ats ∨ m.st = .again) && decide (a = .error ∨ a = .none) && decide (m.st = .ats) && decide ((s.dev.fn fn).pri = true) && decide (0 < (s.dev.fn fn).priAlloc) && decide ((fn.val, 0) ∉ s.dev.xlt.lateGroups)) = true ∧
    (let fn : Fin 64 := 0
     let group : BitVec 9 := 3
     let code : BitVec 4 := 0
     let m : Miss := { page := 5 * 4096, key := 1, st := .pri, group := 3, deadline := 5 }
     let s : State := on { full with xlt := { full.xlt with misses := [m] } }
     decide (s.dev.xlt.misses = [m]) && decide (s.dev.ops = []) && decide (m.fn = fn.val) && decide (m.st = .pri) && decide (m.group = group.toNat) && decide ((fn.val, group.toNat) ∉ s.dev.xlt.lateGroups) && decide (code = 0)) = true ∧
    (let fn : Fin 64 := 0
     let group : BitVec 9 := 3
     let code : BitVec 4 := 1
     let m : Miss := { page := 5 * 4096, key := 1, st := .pri, group := 3, deadline := 5 }
     let s : State := on { full with xlt := { full.xlt with misses := [m] } }
     decide (s.dev.xlt.misses = [m]) && decide (s.dev.ops = []) && decide (m.fn = fn.val) && decide (m.st = .pri) && decide (m.group = group.toNat) && decide ((fn.val, group.toNat) ∉ s.dev.xlt.lateGroups) && decide (code = 1)) = true ∧
    (let fn : Fin 64 := 0
     let group : BitVec 9 := 3
     let code : BitVec 4 := 2
     let m : Miss := { page := 5 * 4096, key := 1, st := .pri, group := 3, deadline := 5 }
     let s : State := on { full with xlt := { full.xlt with misses := [m] } }
     decide (s.dev.xlt.misses = [m]) && decide (s.dev.ops = []) && decide (m.fn = fn.val) && decide (m.st = .pri) && decide (m.group = group.toNat) && decide ((fn.val, group.toNat) ∉ s.dev.xlt.lateGroups) && decide (2 ≤ code.toNat)) = true ∧
    (let fn : Fin 64 := 0
     let group : BitVec 9 := 3
     let m : Miss := { page := 5 * 4096, key := 1, st := .pri, group := 3, deadline := 5 }
     let s : State := on { full with xlt := { full.xlt with misses := [m] } }
     decide (s.dev.xlt.misses = [m]) && decide (s.dev.ops = []) && decide (m.fn = fn.val) && decide (m.st = .pri) && decide (m.group = group.toNat) && decide (m.deadline ≤ s.dev.osc)) = true ∧
    (let fn : Fin 64 := 0
     let group : BitVec 9 := 3
     let s : State := on { full with xlt := { full.xlt with lateGroups := [(0, 3)] } }
     decide ((fn.val, group.toNat) ∈ s.dev.xlt.lateGroups)) = true ∧
    (let fn : Fin 64 := 0
     let s : State := on full
     decide (fn.val ≤ s.dev.hst.numVf.toNat) && decide ((s.dev.fn fn).pri = false)) = true ∧
    (let fn : Fin 64 := 0
     let s : State := on { full with hst := { full.hst with fns := [(0, { pri := true })] } }
     decide (fn.val ≤ s.dev.hst.numVf.toNat) && decide ((s.dev.fn fn).pri = true)) = true ∧
    (let v : View := .port
     let w : Word := 0x100000000
     let s : State := on { full with xlt := { full.xlt with invalBusy := true } }
     let a := s.tapped v Reg.xltInval w
     decide ((v = .pf ∨ v = .port)) && decide (a.inReset Reg.xltInval = false) && decide (a.xlt.invalBusy = true)) = true ∧
    (let v : View := .port
     let w : Word := 0x100000000
     let s : State := on full
     let a := s.tapped v Reg.xltInval w
     decide ((v = .pf ∨ v = .port)) && decide (a.inReset Reg.xltInval = false) && decide (a.xlt.invalBusy = false)) = true ∧
    (let part : Fin 64 := 0
     let s : State := on { full with xlt := { full.xlt with rangeInit := [0], cache := [{ index := 1 }] } }
     decide (part.val ∈ s.dev.xlt.rangeInit) && decide (s.dev.rings = [])) = true := by decide +kernel

theorem witness_HostAccessesAndLoss :
    (let a : MemAccess := { addr := 0x10000000000 }
     let env : Env := {}
     let s : State := on { base with hst := { base.hst with cxlMem := true } }
     let e := s.dev.enter env
     let x := a.addr.toNat
     decide (a.fn = 0) && decide (s.dev.hst.cxlMem = true) && decide (s.dev.hst.dlActive = true) && decide (s.dev.hst.dir = []) && decide (s.dev.hst.hostOrder = []) && decide (a.data = none) && decide (a.len ≤ 4096) && decide (e.hdmSize < x + a.len)) = true ∧
    (let a : MemAccess := { addr := 0x40 }
     let env : Env := {}
     let s : State := on { base with hst := { base.hst with cxlMem := true }, mem := [(chanKey 0 0x40, 7)] }
     let e := s.dev.enter env
     let x := a.addr.toNat
     let u : Dev := (e.inkRead false x a.len).1
     let b : List Byte := (e.inkRead false x a.len).2.2
     decide (a.fn = 0) && decide (s.dev.hst.cxlMem = true) && decide (s.dev.hst.dlActive = true) && decide (s.dev.hst.dir = []) && decide (s.dev.hst.hostOrder = []) && decide (a.data = none) && decide (a.len ≤ 4096) && decide (x + a.len ≤ e.hdmSize) && decide (e.inkRead false x a.len = (u, .ok, b))) = true ∧
    (let a : MemAccess := { addr := 0x10000000000, data := some [1] }
     let env : Env := {}
     let s : State := on { base with hst := { base.hst with cxlMem := true } }
     let b : List Byte := [1]
     let e := s.dev.enter env
     let x := a.addr.toNat
     decide (a.fn = 0) && decide (s.dev.hst.cxlMem = true) && decide (s.dev.hst.dlActive = true) && decide (s.dev.hst.dir = []) && decide (s.dev.hst.hostOrder = []) && decide (a.data = some b) && decide (a.poison = false) && decide (e.hdmSize < x + b.length)) = true ∧
    (let a : MemAccess := { addr := 0x40, data := some [1, 2] }
     let env : Env := {}
     let s : State := on { base with hst := { base.hst with cxlMem := true } }
     let b : List Byte := [1, 2]
     let e := s.dev.enter env
     let x := a.addr.toNat
     let u : Dev := (e.inkWrite false x b).1
     decide (a.fn = 0) && decide (s.dev.hst.cxlMem = true) && decide (s.dev.hst.dlActive = true) && decide (s.dev.hst.dir = []) && decide (s.dev.hst.hostOrder = []) && decide (a.data = some b) && decide (a.poison = false) && decide (x + b.length ≤ e.hdmSize) && decide (e.inkWrite false x b = (u, .ok))) = true ∧
    (let a : MemAccess := { addr := 0x40 }
     let env : Env := {}
     let s : State := on { base with hst := { base.hst with cxlMem := true } }
     let e := s.dev.enter env
     let x := bits (e.reg Reg.inkWindowBase) 41 16 * 65536 + a.addr.toNat
     let u : Dev := (e.inkRead false x a.len).1
     let b : List Byte := (e.inkRead false x a.len).2.2
     decide (a.fn = 0) && decide (s.dev.hst.dlActive = true) && decide (a.addr.toNat < 2 ^ 32) && decide (a.data = none) && decide (x < 2 ^ 42) && decide (e.inkRead false x a.len = (u, .ok, b))) = true ∧
    (let a : MemAccess := { addr := 0x10000 }
     let env : Env := {}
     let s : State := on { base with rw := [(Reg.inkWindowBase, 0x3FFFFFF0000)] }
     let e := s.dev.enter env
     let x := bits (e.reg Reg.inkWindowBase) 41 16 * 65536 + a.addr.toNat
     decide (a.fn = 0) && decide (s.dev.hst.dlActive = true) && decide (a.addr.toNat < 2 ^ 32) && decide (a.data = none) && decide (2 ^ 42 ≤ x)) = true ∧
    (let a : MemAccess := { addr := 0x40, data := some [1, 2] }
     let env : Env := {}
     let s : State := on { base with hst := { base.hst with cxlMem := true } }
     let b : List Byte := [1, 2]
     let e := s.dev.enter env
     let x := bits (e.reg Reg.inkWindowBase) 41 16 * 65536 + a.addr.toNat
     let u : Dev := (e.inkWrite false x b).1
     decide (a.fn = 0) && decide (s.dev.hst.dlActive = true) && decide (a.addr.toNat < 2 ^ 32) && decide (a.data = some b) && decide (a.poison = false) && decide (x < 2 ^ 42) && decide (e.inkWrite false x b = (u, .ok))) = true ∧
    (let kind : BitVec 2 := 0
     let s : State := on { base with hst := { base.hst with cxlCache := true, cacheLines := [0x1000, 0x1040] } }
     decide (s.dev.hst.cxlCache = true) && decide (kind = 0 ∨ kind = 2)) = true ∧
    (let kind : BitVec 2 := 1
     let s : State := on { base with hst := { base.hst with cxlCache := true, cacheLines := [0x1000, 0x1040] } }
     decide (s.dev.hst.cxlCache = true) && decide (kind = 1)) = true ∧
    (let fn : Fin 64 := 0
     let f : Nat × Nat × Nat := (0, 5, 0)
     let s : State := on { base with hst := { base.hst with flushDue := [f] } }
     decide (s.dev.hst.flushDue.find? (fun p => p.1 == fn.val && p.2.1 ≤ s.dev.osc) = some f) && decide (s.dev.reach fn .host = true) && decide (s.dev.ops = []) && decide (s.dev.conns = [])) = true ∧
    (let cause : BitVec 2 := 1
     let s : State := on { base with rings := [(0, { st := .enabled })], hst := { base.hst with cxlMem := true } }
     decide (cause ≠ 3) && decide (s.dev.hst.lost = false) && decide (s.dev.ops = []) && decide (s.dev.conns = []) && decide (twf (fun _ => {}) s.dev.rings = true)) = true ∧
    (let l : HostLink := { rate := 6, flit := true, cxlMem := true }
     let s : State := on { base with hst := {} }
     decide (l.width = 1 ∨ l.width = 4 ∨ l.width = 8 ∨ l.width = 16) && decide (1 ≤ l.rate.toNat) && decide (l.rate.toNat ≤ 7) && decide ((l.flit = true ∨ l.rate.toNat ≤ 5)) && decide (s.dev.hst.dlActive = false) && decide (s.dev.inReset Reg.hstStatus = false)) = true := by decide +kernel

theorem witness_PartitionStates :
    (let v : View := .port
     let part : Fin 64 := 0
     let s : State := on { full with rings := [(0, { st := .enabled, base := 0x800 })] }
     let a := fun (w : Word) => s.tapped v (Reg.ptnCtl part) w
     let was := (s.dev.ptn part).st
     decide ((v = .pf ∨ v = .port)) && decide (twf ptnReset s.dev.ptns = true) && decide (twf (fun _ => {}) s.dev.rings = true) && decide ((a 0).inReset (Reg.ptnCtl part) = false) && decide (was = .active)) = true ∧
    (let v : View := .port
     let part : Fin 64 := 0
     let s : State := on { full with ptns := [(0, { st := .preempted })], rings := [(0, { st := .enabled, base := 0x800 })] }
     let a := fun (w : Word) => s.tapped v (Reg.ptnCtl part) w
     let was := (s.dev.ptn part).st
     decide ((v = .pf ∨ v = .port)) && decide (twf ptnReset s.dev.ptns = true) && decide (twf (fun _ => {}) s.dev.rings = true) && decide ((a 0).inReset (Reg.ptnCtl part) = false) && decide (was = .preempting ∨ was = .preempted)) = true ∧
    (let v : View := .port
     let part : Fin 64 := 0
     let s : State := on { full with ptns := [(0, { st := .preempted })] }
     let a := fun (w : Word) => s.tapped v (Reg.ptnCtl part) w
     let was := (s.dev.ptn part).st
     decide ((v = .pf ∨ v = .port)) && decide (twf ptnReset s.dev.ptns = true) && decide (twf (fun _ => {}) s.dev.rings = true) && decide ((a 0).inReset (Reg.ptnCtl part) = false) && decide (was = .preempting ∨ was = .preempted) && decide (True)) = true ∧
    (let v : View := .port
     let part : Fin 64 := 0
     let s : State := on { full with rings := [(0, { st := .enabled, base := 0x800 })] }
     let a := fun (w : Word) => s.tapped v (Reg.ptnCtl part) w
     let was := (s.dev.ptn part).st
     decide ((v = .pf ∨ v = .port)) && decide (twf ptnReset s.dev.ptns = true) && decide (twf (fun _ => {}) s.dev.rings = true) && decide ((a 0).inReset (Reg.ptnCtl part) = false) && decide (was = .active ∨ was = .preempting ∨ was = .preempted)) = true ∧
    (let v : View := .port
     let part : Fin 64 := 0
     let s : State := on { full with ptns := [(0, { st := .quiesced })], rings := [(0, { st := .quiesced, base := 0x800 })] }
     let a := fun (w : Word) => s.tapped v (Reg.ptnCtl part) w
     let was := (s.dev.ptn part).st
     decide ((v = .pf ∨ v = .port)) && decide (twf ptnReset s.dev.ptns = true) && decide (twf (fun _ => {}) s.dev.rings = true) && decide ((a 0).inReset (Reg.ptnCtl part) = false) && decide (was = .quiesced)) = true ∧
    (let v : View := .port
     let part : Fin 64 := 0
     let s : State := on { full with ptns := [(0, { st := .quiesced })], rings := [(0, { st := .quiesced, base := 0x800 })] }
     let w : Word := 2
     let c : Instr := .preempt v part 2
     let a := fun (w : Word) => s.tapped v (Reg.ptnCtl part) w
     let was := (s.dev.ptn part).st
     decide ((v = .pf ∨ v = .port)) && decide (twf ptnReset s.dev.ptns = true) && decide (twf (fun _ => {}) s.dev.rings = true) && decide ((a 0).inReset (Reg.ptnCtl part) = false) && decide ((w, c) ∈ [(2, .preempt v part 2), (8, .resume v part 8), (1, .quiesce v part 1), (4, .release v part 4)]) && decide ((w = 2 ∧ was ≠ .active ∨ w = 8 ∧ was ≠ .preempting ∧ was ≠ .preempted ∨ w = 1 ∧ was ≠ .active ∧ was ≠ .preempting ∧ was ≠ .preempted ∨ w = 4 ∧ was ≠ .quiesced))) = true ∧
    (let fn : Fin 64 := 0
     let s : State := on { full with ops := [{ entry := entry 0x10 [], ring := 0 }, { entry := entry 0x10 [], ring := 256 }] }
     decide (fn.val ≤ s.dev.hst.numVf.toNat) && decide (twf ptnReset s.dev.ptns = true)) = true ∧
    (let s : State := on { full with hst := { full.hst with numVf := 2 } }
     decide (twf ptnReset s.dev.ptns = true)) = true ∧
    (let part : Fin 64 := 0
     let s : State := on { full with ptns := [(0, { st := .resetting })], ctrs := [(0, {}), (1024, {})], rings := [(0, { st := .enabled })], mem := [(chanKey 0 0, 1)] }
     decide ((s.dev.ptn part).st = .resetting) && decide (twf ptnReset s.dev.ptns = true)) = true := by decide +kernel

theorem witness_TrayRequestsAreServed :
    (let port : Fin 4 := 0
     let m : TrayMsg := trayMsg 1 [(108, 5), (106, 1), (42, 1)] []
     let env : Env := {}
     let s : State := { dev := tray }
     let n : Nat := 0
     let v : Dev := ((s.dev.enter env).meter (2 * n) m.load).1
     let g : Dev := (v.meterCount (2 * n) m.load .green)
     let u : Dev := (g.inkRead false m.laddr (64 * m.lines)).1
     let b : List Byte := (g.inkRead false m.laddr (64 * m.lines)).2.2
     serves (s.dev.enter env) port m n v g && decide (g.hst.dir = []) && decide (g.inkRead false m.laddr (64 * m.lines) = (u, .ok, b)) && decide (m.opc = 1)) = true ∧
    (let port : Fin 4 := 0
     let m : TrayMsg := trayMsg 2 [(108, 5), (106, 1), (42, 1)] []
     let env : Env := {}
     let s : State := { dev := tray }
     let n : Nat := 0
     let v : Dev := ((s.dev.enter env).meter (2 * n) m.load).1
     let g : Dev := (v.meterCount (2 * n) m.load .green)
     let u : Dev := (g.inkRead false m.laddr (64 * m.lines)).1
     let b : List Byte := (g.inkRead false m.laddr (64 * m.lines)).2.2
     serves (s.dev.enter env) port m n v g && decide (g.hst.dir = []) && decide (g.inkRead false m.laddr (64 * m.lines) = (u, .ok, b)) && decide (m.opc = 2)) = true ∧
    (let port : Fin 4 := 0
     let m : TrayMsg := trayMsg 3 [(108, 5), (106, 1), (42, 1)] []
     let env : Env := {}
     let s : State := { dev := tray }
     let n : Nat := 0
     let v : Dev := ((s.dev.enter env).meter (2 * n) m.load).1
     let g : Dev := (v.meterCount (2 * n) m.load .green)
     let u : Dev := (g.inkRead false m.laddr (64 * m.lines)).1
     let b : List Byte := (g.inkRead false m.laddr (64 * m.lines)).2.2
     serves (s.dev.enter env) port m n v g && decide (g.hst.dir = []) && decide (g.inkRead false m.laddr (64 * m.lines) = (u, .ok, b)) && decide (m.opc = 3)) = true ∧
    (let port : Fin 4 := 0
     let m : TrayMsg := trayMsg 4 [(108, 5), (42, 1)] ((List.range 64).map fun i => BitVec.ofNat 8 i)
     let env : Env := {}
     let s : State := { dev := tray }
     let n : Nat := 0
     let v : Dev := ((s.dev.enter env).meter (2 * n) m.load).1
     let g : Dev := (v.meterCount (2 * n) m.load .green)
     let u : Dev := (g.inkWrite false m.laddr (m.data.take (64 * m.lines))).1
     serves (s.dev.enter env) port m n v g && decide (g.hst.dir = []) && decide (env = {}) && decide (m.opc = 4) && decide (g.inkWrite false m.laddr (m.data.take (64 * m.lines)) = (u, .ok))) = true ∧
    (let port : Fin 4 := 0
     let m : TrayMsg := trayMsg 5 [(108, 5), (96, 8), (90, 4), (42, 1)] ((List.range 64).map fun i => BitVec.ofNat 8 i)
     let env : Env := {}
     let s : State := { dev := tray }
     let n : Nat := 0
     let v : Dev := ((s.dev.enter env).meter (2 * n) m.load).1
     let g : Dev := (v.meterCount (2 * n) m.load .green)
     let u : Dev := (g.inkWrite false (m.laddr + m.start) (slice m.data m.start (min m.cnt (64 - m.start)))).1
     serves (s.dev.enter env) port m n v g && decide (g.hst.dir = []) && decide (m.opc = 5) && decide (g.inkWrite false (m.laddr + m.start) (slice m.data m.start (min m.cnt (64 - m.start))) = (u, .ok))) = true ∧
    (let port : Fin 4 := 0
     let m : TrayMsg := trayMsg 6 [(108, 5), (42, 1)] ((List.range 64).map fun i => BitVec.ofNat 8 i)
     let s : State := { dev := { tray with hst := { tray.hst with dir := [(dirKey 1 64, .e)] } } }
     let n : Nat := 0
     let v : Dev := (s.dev.meter (2 * n) m.load).1
     let g : Dev := (v.meterCount (2 * n) m.load .green)
     let given := g.setDir (port + 1) m.laddr .i
     let u : Dev := (given.inkWrite false m.laddr (m.data.take 64)).1
     serves s.dev port m n v g && decide (m.lines = 1) && decide (g.dirLine 0 m.laddr = .i) && decide (m.opc = 6) && decide (g.dirLine (port + 1) m.laddr ≠ .i) && decide (given.inkWrite false m.laddr (m.data.take 64) = (u, .ok))) = true ∧
    (let port : Fin 4 := 0
     let m : TrayMsg := trayMsg 6 [(108, 5), (42, 1)] ((List.range 64).map fun i => BitVec.ofNat 8 i)
     let s : State := { dev := tray }
     let n : Nat := 0
     let v : Dev := (s.dev.meter (2 * n) m.load).1
     let g : Dev := (v.meterCount (2 * n) m.load .green)
     serves s.dev port m n v g && decide (m.lines = 1) && decide (g.dirLine 0 m.laddr = .i) && decide (m.opc = 6) && decide (g.dirLine (port + 1) m.laddr = .i)) = true ∧
    (let port : Fin 4 := 0
     let m : TrayMsg := trayMsg 7 [(108, 5), (42, 1)] []
     let s : State := { dev := { tray with hst := { tray.hst with dir := [(dirKey 1 64, .e)] } } }
     let n : Nat := 0
     let v : Dev := (s.dev.meter (2 * n) m.load).1
     let g : Dev := (v.meterCount (2 * n) m.load .green)
     serves s.dev port m n v g && decide (m.lines = 1) && decide (g.dirLine 0 m.laddr = .i) && decide (m.opc = 7)) = true ∧
    (let port : Fin 4 := 0
     let m : TrayMsg := trayMsg 8 [(108, 5)] []
     let s : State := { dev := tray }
     let x := s.dev.trayPort port
     decide ((s.dev.trayPort port).st = .up) && decide (m.opc = 8) && decide (x.waiting = [])) = true ∧
    (let port : Fin 4 := 0
     let m : TrayMsg := trayMsg 1 [(108, 5), (42, 0x800000000000)] []
     let env : Env := {}
     let s : State := { dev := tray }
     decide ((s.dev.trayPort port).st = .up) && decide (m.opc = 1) && decide ((s.dev.enter env).trayPart m = none)) = true ∧
    (let port : Fin 4 := 0
     let m : TrayMsg := trayMsg 0x10 [(108, 5), (42, 1)] []
     let s : State := { dev := { tray with hst := { tray.hst with cacheLines := [trayKey 0 64 / 64] } } }
     decide ((s.dev.trayPort port).st = .up) && decide (m.opc = 0x10)) = true ∧
    (let port : Fin 4 := 0
     let m : TrayMsg := trayMsg 0x11 [(108, 5), (42, 1)] []
     let s : State := { dev := { tray with hst := { tray.hst with cacheLines := [trayKey 0 64 / 64] } } }
     decide ((s.dev.trayPort port).st = .up) && decide (m.opc = 0x11)) = true ∧
    (let port : Fin 4 := 0
     let m : TrayMsg := trayMsg 0x12 [(108, 5), (42, 1)] []
     let s : State := { dev := tray }
     decide ((s.dev.trayPort port).st = .up) && decide (m.opc = 0x12)) = true ∧
    (let port : Fin 4 := 0
     let s : State := { dev := tray }
     let b : List Byte := zeros 255 ++ [1]
     decide ((s.dev.trayPort port).st = .up) && decide (flitCrcOk b = false)) = true ∧
    (let port : Fin 4 := 0
     let s : State := { dev := tray }
     let b : List Byte := trayFlit []
     decide ((s.dev.trayPort port).st = .up) && decide (flitCrcOk b = true) && decide (leAt b 0 2 < 4096) && decide (((flitOf b).slots.all fun d => d == 0) = true)) = true ∧
    (let port : Fin 4 := 0
     let s : State := { dev := tray }
     let b : List Byte := trayFlit (leBytes 2 4095 ++ zeros 6 ++ [1])
     let x := s.dev.trayPort port
     decide ((s.dev.trayPort port).st = .up) && decide (flitCrcOk b = true) && decide (leAt b 0 2 < 4096) && decide (((flitOf b).slots.any fun d => d != 0) = true) && decide ((flitOf b).seq ≠ x.rxSeq.toNat) && decide (halfBefore 12 x.rxSeq.toNat (flitOf b).seq = false)) = true ∧
    (let port : Fin 4 := 0
     let s : State := { dev := tray }
     let b : List Byte := trayFlit (zeros 8 ++ leBytes 16 (trayMsg 1 [(108, 5), (42, 1)] []).hdr.toNat)
     let x := s.dev.trayPort port
     decide ((s.dev.trayPort port).st = .up) && decide (flitCrcOk b = true) && decide (leAt b 0 2 < 4096) && decide (((flitOf b).slots.any fun d => d != 0) = true) && decide ((flitOf b).seq = x.rxSeq.toNat)) = true ∧
    (let port : Fin 4 := 0
     let s : State := { dev := { base with tray := [(0, { st := .up, replays := 16 })] } }
     let x := s.dev.trayPort port
     decide ((s.dev.trayPort port).st = .up) && decide (16 ≤ x.replays)) = true := by decide +kernel

theorem witness_TrayAnswersAndPorts :
    (let port : Fin 4 := 0
     let m : TrayMsg := trayMsg 0x20 [(108, 5)] (zeros 64)
     let r : TrayReq := { sent := true, tag := 5, msg := trayMsg 1 [(108, 5), (42, 1)] [] }
     let s : State := { dev := { base with tray := [(0, { st := .up, peerTags := 4, credits := (8, 8, 8), reqs := [r] })] } }
     let x := s.dev.trayPort port
     decide (x.reqs = [r]) && decide (r.sent = true) && decide (m.tag = r.tag) && decide (r.op = none) && decide (r.who = 0) && decide (m.opc = 0x20) && decide (1 ≤ r.msg.opc) && decide (r.msg.opc ≤ 3)) = true ∧
    (let port : Fin 4 := 0
     let m : TrayMsg := trayMsg 0x21 [(108, 5), (102, 2)] []
     let r : TrayReq := { sent := true, tag := 5, msg := trayMsg 1 [(108, 5), (42, 1)] [] }
     let s : State := { dev := { base with tray := [(0, { st := .up, peerTags := 4, credits := (8, 8, 8), reqs := [r] })] } }
     let x := s.dev.trayPort port
     decide (x.reqs = [r]) && decide (r.sent = true) && decide (m.tag = r.tag) && decide (r.op = none) && decide (r.who = 0) && decide (m.opc = 0x21) && decide (m.arg = 1 ∨ m.arg = 2)) = true ∧
    (let port : Fin 4 := 0
     let m : TrayMsg := trayMsg 0x21 [(108, 5)] []
     let r : TrayReq := { sent := true, tag := 5, msg := trayMsg 1 [(108, 5), (42, 1)] [] }
     let s : State := { dev := { base with tray := [(0, { st := .up, peerTags := 4, credits := (8, 8, 8), reqs := [r] })] } }
     let x := s.dev.trayPort port
     decide (x.reqs = [r]) && decide (r.sent = true) && decide (m.tag = r.tag) && decide (r.op = none) && decide (r.who = 0) && decide (m.opc = 0x21) && decide (m.arg = 0)) = true ∧
    (let port : Fin 4 := 0
     let m : TrayMsg := trayMsg 0x23 [(108, 5), (26, 3)] []
     let r : TrayReq := { sent := true, tag := 5, retries := 64, msg := trayMsg 1 [(108, 5), (42, 1)] [] }
     let s : State := { dev := { base with tray := [(0, { st := .up, peerTags := 4, credits := (8, 8, 8), reqs := [r] })] } }
     let x := s.dev.trayPort port
     decide (x.reqs = [r]) && decide (r.sent = true) && decide (m.tag = r.tag) && decide (r.op = none) && decide (r.who = 0) && decide (m.opc = 0x23) && decide (64 ≤ r.retries)) = true ∧
    (let port : Fin 4 := 0
     let m : TrayMsg := trayMsg 0x23 [(108, 5), (26, 3)] []
     let r : TrayReq := { sent := true, tag := 5, msg := trayMsg 1 [(108, 5), (42, 1)] [] }
     let s : State := { dev := { base with tray := [(0, { st := .up, peerTags := 4, credits := (8, 8, 8), reqs := [r] })] } }
     let x := s.dev.trayPort port
     decide (x.reqs = [r]) && decide (r.sent = true) && decide (m.tag = r.tag) && decide (r.op = none) && decide (r.who = 0) && decide (m.opc = 0x23) && decide (r.retries < 64)) = true ∧
    (let port : Fin 4 := 0
     let m : TrayMsg := trayMsg 0x23 [(108, 5), (26, 3)] []
     let r : TrayReq := { sent := true, tag := 5, retries := 3, reissueAt := some 7, msg := trayMsg 1 [(108, 5), (42, 1)] [] }
     let s : State := { dev := { base with tray := [(0, { st := .up, peerTags := 4, credits := (8, 8, 8), reqs := [r] })] } }
     let at_ : Nat := 7
     let x := s.dev.trayPort port
     decide (x.reqs = [r]) && decide (r.sent = true) && decide (m.tag = r.tag) && decide (r.op = none) && decide (r.who = 0) && decide (r.reissueAt = some at_) && decide (at_ ≤ s.dev.osc)) = true ∧
    (let port : Fin 4 := 0
     let m : TrayMsg := trayMsg 0x24 [(108, 5), (102, 1)] []
     let r : TrayReq := { sent := true, tag := 5, msg := trayMsg 1 [(108, 5), (42, 1)] [] }
     let s : State := { dev := { base with tray := [(0, { st := .up, peerTags := 4, credits := (8, 8, 8), reqs := [r] })] } }
     let x := s.dev.trayPort port
     decide (x.reqs = [r]) && decide (r.sent = true) && decide (m.tag = r.tag) && decide (r.op = none) && decide (r.who = 0) && decide (m.opc = 0x24) && decide (m.arg ≠ 2)) = true ∧
    (let port : Fin 4 := 0
     let m : TrayMsg := trayMsg 0x24 [(108, 5), (102, 2)] []
     let r : TrayReq := { sent := true, tag := 5, msg := trayMsg 1 [(108, 5), (42, 1)] [] }
     let s : State := { dev := { base with tray := [(0, { st := .up, peerTags := 4, credits := (8, 8, 8), reqs := [r] })] } }
     let x := s.dev.trayPort port
     decide (x.reqs = [r]) && decide (r.sent = true) && decide (m.tag = r.tag) && decide (r.op = none) && decide (r.who = 0) && decide (m.opc = 0x24) && decide (m.arg = 2)) = true ∧
    (let port : Fin 4 := 0
     let m : TrayMsg := trayMsg 0x22 [(108, 5), (102, 2)] []
     let line : Nat := 9
     let opc : Nat := 0x10
     let s : State := { dev := { base with tray := [(0, { st := .up, snoops := [(5, 9, 0x10)] })], hst := { base.hst with dir := [(dirKey 1 576, .e)] } } }
     let x := s.dev.trayPort port
     decide (m.opc = 0x22) && decide (x.snoops = [(m.tag, line, opc)]) && decide ((∀ p ∈ s.dev.tray, p.2.waiting = [])) && decide (twf (fun _ => {}) s.dev.tray = true) && decide (twf (fun _ => .i) s.dev.hst.dir = true)) = true ∧
    (let port : Fin 4 := 0
     let s : State := { dev := { base with tray := [(0, { st := .init })], run := (Reg.trayPortCfg 0, 1) :: base.run } }
     let x := s.dev.trayPort port
     decide (x.st = .init) && decide (x.txq = []) && decide (x.slots = []) && decide (x.reqs = [])) = true ∧
    (let b : List Byte := zeros 256
     decide (flitCrcOk b = false ∨ leAt b 0 2 ≠ 0xF000)) = true ∧
    (let port : Fin 4 := 0
     let s : State := { dev := { base with tray := [(0, { st := .init })], run := (Reg.trayPortCfg 0, 1) :: base.run } }
     let b : List Byte := trayFlit (leBytes 8 0xF000 ++ [2, 1, 63])
     let x := s.dev.trayPort port
     decide (flitCrcOk b = true) && decide (leAt b 0 2 = 0xF000) && decide (x.st = .init ∨ x.st = .up) && decide (x.firstFlit = false) && decide (x.gotInit = false) && decide (leAt b 8 1 = 2) && decide (leAt b 9 1 = 1)) = true ∧
    (let port : Fin 4 := 0
     let s : State := { dev := { base with tray := [(0, { st := .init })], run := (Reg.trayPortCfg 0, 1) :: base.run } }
     let b : List Byte := trayFlit (leBytes 8 0xF000 ++ [3, 1])
     let x := s.dev.trayPort port
     decide (flitCrcOk b = true) && decide (leAt b 0 2 = 0xF000) && decide (x.st = .init ∨ x.st = .up) && decide (x.firstFlit = false) && decide (x.gotInit = false) && decide (leAt b 8 1 ≠ 2 ∨ leAt b 9 1 ≠ 1)) = true ∧
    (let port : Fin 4 := 0
     let s : State := { dev := { base with tray := [(0, { st := .training })], run := (Reg.trayPortCfg 0, 1) :: base.run } }
     let x := s.dev.trayPort port
     decide (s.dev.inReset (Reg.trayPortStatus 0) = false) && decide (bit (s.dev.reg (Reg.trayPortCfg port)) 0 = true) && decide (x.st = .down ∨ x.st = .training)) = true ∧
    (let port : Fin 4 := 0
     let s : State := { dev := { base with tray := [(0, { st := .up })], run := (Reg.trayPortCfg 0, 1) :: base.run } }
     let x := s.dev.trayPort port
     decide (x.st ≠ .down) && decide ((∀ p ∈ s.dev.tray, p.2.waiting = [])) && decide (x.reqs = []) && decide (twf (fun _ => {}) s.dev.tray = true) && decide (twf (fun _ => 0) s.dev.cnt = true)) = true ∧
    (let port : Fin 4 := 0
     let s : State := { dev := { base with tray := [(0, { st := .up })], run := (Reg.trayPortCfg 0, 1) :: base.run } }
     let v : View := .port
     let w : Word := 0x30001
     let a := s.tapped v (Reg.trayPortCfg port) w
     let r := Reg.trayPortCfg port
     decide ((v = .pf ∨ v = .port)) && decide (a.inReset r = false) && decide ((bit w 0 = true ∨ (a.trayPort port).st = .down))) = true := by decide +kernel

theorem witness_InkwellUpkeep :
    (let s : State := { dev := { base with ink := {} } }
     decide (s.dev.ink.trained = false) && decide (5 ≤ s.dev.rst.released) && decide (twf (fun _ => {}) s.dev.ink.chans = true)) = true ∧
    (let s : State := { dev := { base with ink := { base.ink with fill := [0] }, mem := [(chanKey 0 64, 5), (hostKey 0, 3)] } }
     let r : Nat := 0
     let l : List Nat := []
     let q : Region := (s.dev.regions.find? fun q => q.idx == 0).getD {}
     decide (s.dev.ink.move = []) && decide (s.dev.ink.fill = r :: l) && decide (s.dev.regions.find? (fun q => q.idx == r) = some q)) = true ∧
    (let chan : Fin 12 := 3
     let off : Word := 64
     let s : State := { dev := { base with ink := { base.ink with scrubPeriod := 24, scrubAt := 1000000 } } }
     let x := s.dev.chan chan
     decide (s.dev.ink.scrubPeriod ≠ 0) && decide (s.dev.osc < s.dev.ink.scrubAt + secTicks (3600 * s.dev.ink.scrubPeriod)) && decide (x.present = true) && decide (x.fenced = false) && decide (off.toNat < s.dev.ink.reference) && decide (twf (fun _ => {}) s.dev.ink.chans = true)) = true ∧
    (let chan : Fin 12 := 3
     let cause : Byte := 4
     let s : State := { dev := base }
     let x := s.dev.chan chan
     decide (x.present = true) && decide (x.fenced = false) && decide (cause = 0x04 ∨ cause = 0x05)) = true ∧
    (let v : View := .port
     let chan : Fin 12 := 3
     let w : Word := 1
     let s : State := { dev := base }
     let a := s.tapped v (Reg.inkChanCtl chan) w
     let x := a.chan chan
     decide ((v = .pf ∨ v = .port)) && decide (a.inReset (Reg.inkChanCtl chan) = false) && decide (x.fenced = false) && decide (bit w 0 = true)) = true := by decide +kernel

theorem witness_FolioCommands :
    (let v : View := .port
     let s : State := { dev := { base with fol := { base.fol with st := .idle } } }
     let a := fun (n : Nat) => s.tapped v Reg.folCtl (BitVec.ofNat 64 n)
     decide ((v = .pf ∨ v = .port)) && decide ((a 1).fol.st = .idle)) = true ∧
    (let v : View := .port
     let s : State := { dev := { base with fol := { base.fol with st := .frozen } } }
     let a := fun (n : Nat) => s.tapped v Reg.folCtl (BitVec.ofNat 64 n)
     decide ((v = .pf ∨ v = .port)) && decide ((a 1).fol.st ≠ .idle)) = true ∧
    (let v : View := .port
     let s : State := { dev := { base with fol := { base.fol with st := .capture } } }
     let a := fun (n : Nat) => s.tapped v Reg.folCtl (BitVec.ofNat 64 n)
     decide ((v = .pf ∨ v = .port)) && decide ((a 2).fol.st = .capture)) = true ∧
    (let v : View := .port
     let s : State := { dev := { base with fol := { base.fol with st := .post } } }
     let a := fun (n : Nat) => s.tapped v Reg.folCtl (BitVec.ofNat 64 n)
     decide ((v = .pf ∨ v = .port)) && decide ((a 2).fol.st = .post)) = true ∧
    (let v : View := .port
     let s : State := { dev := { base with fol := { base.fol with st := .idle } } }
     let a := fun (n : Nat) => s.tapped v Reg.folCtl (BitVec.ofNat 64 n)
     decide ((v = .pf ∨ v = .port)) && decide ((a 2).fol.st ≠ .capture) && decide ((a 2).fol.st ≠ .post)) = true ∧
    (let v : View := .port
     let s : State := { dev := { base with fol := { base.fol with st := .capture } } }
     let a := fun (n : Nat) => s.tapped v Reg.folCtl (BitVec.ofNat 64 n)
     decide ((v = .pf ∨ v = .port)) && decide ((a 3).fol.st = .capture)) = true ∧
    (let v : View := .port
     let s : State := { dev := { base with fol := { base.fol with st := .frozen } } }
     let a := fun (n : Nat) => s.tapped v Reg.folCtl (BitVec.ofNat 64 n)
     decide ((v = .pf ∨ v = .port)) && decide ((a 3).fol.st = .post ∨ (a 3).fol.st = .frozen)) = true ∧
    (let v : View := .port
     let s : State := { dev := { base with fol := { base.fol with st := .frozen } } }
     let a := fun (n : Nat) => s.tapped v Reg.folCtl (BitVec.ofNat 64 n)
     decide ((v = .pf ∨ v = .port)) && decide ((a 4).fol.st = .frozen)) = true ∧
    (let v : View := .port
     let s : State := { dev := { base with fol := { base.fol with st := .idle } } }
     let a := fun (n : Nat) => s.tapped v Reg.folCtl (BitVec.ofNat 64 n)
     decide ((v = .pf ∨ v = .port)) && decide ((a 4).fol.st ≠ .frozen)) = true ∧
    (let v : View := .port
     let s : State := { dev := { base with fol := { base.fol with st := .capture } } }
     let a := fun (n : Nat) => s.tapped v Reg.folCtl (BitVec.ofNat 64 n)
     decide ((v = .pf ∨ v = .port)) && decide ((a 5).fol.st = .capture) && decide ((a 5).folScopes = [])) = true ∧
    (let v : View := .port
     let s : State := { dev := { base with fol := { base.fol with st := .idle } } }
     let a := fun (n : Nat) => s.tapped v Reg.folCtl (BitVec.ofNat 64 n)
     decide ((v = .pf ∨ v = .port)) && decide ((a 5).fol.st ≠ .capture)) = true ∧
    (let v : View := .port
     let s : State := { dev := { base with fol := { base.fol with st := .idle }, ptns := (List.range 63).map fun i => (i + 1, { st := .quiesced }) } }
     let a := fun (n : Nat) => s.tapped v Reg.folCtl (BitVec.ofNat 64 n)
     decide ((v = .pf ∨ v = .port)) && decide ((a 6).replayMay = true)) = true ∧
    (let v : View := .port
     let s : State := { dev := { base with fol := { base.fol with st := .capture } } }
     let a := fun (n : Nat) => s.tapped v Reg.folCtl (BitVec.ofNat 64 n)
     decide ((v = .pf ∨ v = .port)) && decide ((a 6).replayMay = false)) = true ∧
    (let v : View := .port
     let s : State := { dev := { base with fol := { base.fol with st := .replayReady }, det := { base.det with fpValid := true }, rw := [(Reg.folReplayLen, 32)], mem := [(hostKey 0, 0x12), (hostKey 2, 2), (hostKey 12, 1)] } }
     let env : Env := {}
     let b : List Byte := [0x12, 0, 2, 0, 0, 0, 0, 0, 0, 0, 0, 0, 1] ++ zeros 19
     let m : FolRec := { kind := 0x12, time := 0x100000000, body := zeros 16 }
     let l : List FolRec := [m]
     let a := fun (n : Nat) => s.tapped v Reg.folCtl (BitVec.ofNat 64 n)
     let n := ((a 7).reg Reg.folReplayLen).toNat
     let u : Dev := (Dev.extReadAll (ceilDiv n 64) ((a 7).enter env) env ((a 7).reg Reg.folReplaySrc) 0 n []).1
     decide ((v = .pf ∨ v = .port)) && decide ((a 7).fol.st = .replayReady ∨ (a 7).fol.st = .replayDone ∨ (a 7).fol.st = .diverged) && decide (Dev.extReadAll (ceilDiv n 64) ((a 7).enter env) env ((a 7).reg Reg.folReplaySrc) 0 n [] = (u, some b)) && decide (folParse (b.length / 16 + 1) b none [] = some l) && decide (u.replayCode l = 0) && decide (l.find? (fun r => r.is 0x12) = some m)) = true ∧
    (let v : View := .port
     let s : State := { dev := { base with fol := { base.fol with st := .replayReady }, hst := { base.hst with lost := true }, rw := [(Reg.folReplayLen, 32)] } }
     let env : Env := {}
     let a := fun (n : Nat) => s.tapped v Reg.folCtl (BitVec.ofNat 64 n)
     let n := ((a 7).reg Reg.folReplayLen).toNat
     let u : Dev := (Dev.extReadAll (ceilDiv n 64) ((a 7).enter env) env ((a 7).reg Reg.folReplaySrc) 0 n []).1
     decide ((v = .pf ∨ v = .port)) && decide ((a 7).fol.st = .replayReady ∨ (a 7).fol.st = .replayDone ∨ (a 7).fol.st = .diverged) && decide (Dev.extReadAll (ceilDiv n 64) ((a 7).enter env) env ((a 7).reg Reg.folReplaySrc) 0 n [] = (u, none))) = true ∧
    (let v : View := .port
     let s : State := { dev := { base with fol := { base.fol with st := .replayReady }, det := { base.det with replay := true } } }
     let a := fun (n : Nat) => s.tapped v Reg.folCtl (BitVec.ofNat 64 n)
     decide ((v = .pf ∨ v = .port)) && decide ((a 8).fol.st.inReplay = true)) = true ∧
    (let v : View := .port
     let s : State := { dev := { base with fol := { base.fol with st := .idle } } }
     let a := fun (n : Nat) => s.tapped v Reg.folCtl (BitVec.ofNat 64 n)
     decide ((v = .pf ∨ v = .port)) && decide ((a 8).fol.st.inReplay = false)) = true ∧
    (let s : State := { dev := { base with fol := { base.fol with st := .post } } }
     decide (s.dev.fol.st = .post) && decide (s.dev.fol.postLeft = 0)) = true ∧
    (let conn : BitVec 20 := 0
     let s : State := { dev := { full with fol := { full.fol with st := .capture, markImg := [(2, 0, [1, 2])] } } }
     let b : List Byte := [1, 2]
     let c := conn.toNat
     decide (s.dev.fol.markImg = [(2, c, b)]) && decide ((s.dev.conn c).holding = []) && decide (twf (fun _ => {}) s.dev.conns = true)) = true ∧
    (let r : FolRec := { kind := 2, time := 100, body := [3, 0] }
     let s : State := { dev := { base with fol := { base.fol with st := .replaying, recs := [r] } } }
     decide (s.dev.fol.st = .replaying) && decide (s.dev.fol.produced = []) && decide (s.dev.fol.recs = [r]) && decide (r.kind = 0x02) && decide (s.dev.extend r.time ≤ s.dev.now)) = true := by decide +kernel

theorem witness_OpticsAndLasers :
    (let port : Fin 16 := 2
     let s : State := { dev := { base with opt := [(2, { wls := [(1, { lock := .seek })] })], bays := [(2, { present := true, lit := true })] } }
     let wl : Fin 8 := 1
     let p := port.val
     let o := s.dev.optPort p
     let x := o.wl wl
     decide (s.dev.isEth port = true ∨ lone s.dev port) && decide (x.lock = .seek)) = true ∧
    (let port : Fin 16 := 2
     let s : State := { dev := { base with osc := 12500000 , opt := [(2, { wls := [(1, { lock := .seek })] })] } }
     let wl : Fin 8 := 1
     let p := port.val
     let o := s.dev.optPort p
     let x := o.wl wl
     decide (s.dev.isEth port = true ∨ lone s.dev port) && decide (x.lock = .seek) && decide (x.seekFrom + msTicks 60 ≤ s.dev.osc)) = true ∧
    (let port : Fin 16 := 2
     let s : State := { dev := { base with opt := [(2, { wls := [(1, { lock := .locked })] })], bays := [(2, { present := true, lit := true })] } }
     let wl : Fin 8 := 1
     let p := port.val
     let o := s.dev.optPort p
     let x := o.wl wl
     decide (s.dev.isEth port = true ∨ lone s.dev port) && decide (x.lock = .locked)) = true ∧
    (let port : Fin 16 := 2
     let s : State := { dev := { base with opt := [(2, { wls := [(1, { lock := .locked })] })], bays := [(2, { present := true, lit := true })] } }
     let wl : Fin 8 := 1
     let p := port.val
     let o := s.dev.optPort p
     let x := o.wl wl
     decide (s.dev.isEth port = true ∨ lone s.dev port) && decide (x.lock ≠ .dark)) = true ∧
    (let port : Fin 16 := 2
     let s : State := { dev := { base with opt := [(2, { wls := [(1, { lock := .seek })] })], bays := [(2, { present := true, lit := true })] } }
     let p := port.val
     decide (s.dev.isEth port = true ∨ lone s.dev port) && decide ((s.dev.bay p).lit = true)) = true ∧
    (let port : Fin 16 := 2
     let s : State := { dev := { base with rw := [(Reg.optThresh, 0x000A000B)] } }
     let bers : List Nat := [9, 9, 9, 9, 9, 9, 9, 9]
     let p := port.val
     let o := s.dev.optPort p
     decide (s.dev.isEth port = true ∨ lone s.dev port) && decide (bers.length = 8) && decide ((∀ b ∈ bers, b ≤ 0xFFFF)) && decide (twf (fun _ => {}) o.wls = true) && decide (twf (fun _ => {}) s.dev.opt = true)) = true ∧
    (let port : Fin 16 := 2
     let s : State := { dev := { base with opt := [(2, { wls := [(1, { lock := .locked })] })], bays := [(2, { present := true, lit := true })] } }
     let v : View := .port
     let a := s.tapped v Reg.optPortCtl 1
     decide (s.dev.isEth port = true ∨ lone s.dev port) && decide ((v = .pf ∨ v = .port)) && decide (a.inReset Reg.optPortCtl = false)) = true ∧
    (let port : Fin 16 := 2
     let s : State := { dev := { base with opt := [(2, { fenced := true, cause := 1 })], bays := [(2, { present := true, interlock := true, lit := true })] } }
     let v : View := .port
     let p := port.val
     let o := s.dev.optPort p
     let a := s.tapped v Reg.optPortCtl 2
     let b := a.bay p
     decide (s.dev.isEth port = true ∨ lone s.dev port) && decide ((v = .pf ∨ v = .port)) && decide (a.inReset Reg.optPortCtl = false) && decide (o.fenced = true) && decide (b.present = true) && decide (b.interlock = true) && decide (b.refused = false) && decide (b.released = false) && decide (b.overload = false) && decide (o.berBad = false) && decide (o.rxLow = false) && decide (o.txLow = false)) = true ∧
    (let port : Fin 16 := 2
     let s : State := { dev := { base with opt := [(2, { fenced := true, cause := 1 })] } }
     let v : View := .port
     let p := port.val
     let o := s.dev.optPort p
     let a := s.tapped v Reg.optPortCtl 2
     let b := a.bay p
     decide (s.dev.isEth port = true ∨ lone s.dev port) && decide ((v = .pf ∨ v = .port)) && decide (a.inReset Reg.optPortCtl = false) && decide (o.fenced = true) && decide (b.present = false)) = true ∧
    (let bay : Fin 16 := 2
     let s : State := { dev := base }
     let b := s.dev.bay bay
     decide (s.dev.isEth bay = true ∨ lone s.dev bay) && decide (twf (fun _ => {}) s.dev.bays = true) && decide (twf (fun _ => {}) s.dev.opt = true) && decide (b.present = false)) = true ∧
    (let bay : Fin 16 := 2
     let s : State := { dev := { base with bays := [(2, { present := true, interlock := true, checked := true, lit := true, iNom := 100, iMax := 200 })] } }
     let b := s.dev.bay bay
     decide (s.dev.isEth bay = true ∨ lone s.dev bay) && decide (twf (fun _ => {}) s.dev.bays = true) && decide (twf (fun _ => {}) s.dev.opt = true) && decide (b.interlock = true)) = true ∧
    (let bay : Fin 16 := 2
     let s : State := { dev := { base with bays := [(2, { present := true, interlock := true, checked := true, lit := true, iNom := 100, iMax := 200 })] } }
     let v : View := .port
     decide (s.dev.isEth bay = true ∨ lone s.dev bay) && decide (twf (fun _ => {}) s.dev.bays = true) && decide (twf (fun _ => {}) s.dev.opt = true) && decide ((v = .pf ∨ v = .port))) = true ∧
    (let bay : Fin 16 := 2
     let s : State := { dev := { base with bays := [(2, { present := true, interlock := true, checked := true, lit := true, iNom := 100, iMax := 200 })] } }
     let b := s.dev.bay bay
     decide (s.dev.isEth bay = true ∨ lone s.dev bay) && decide (twf (fun _ => {}) s.dev.bays = true) && decide (twf (fun _ => {}) s.dev.opt = true) && decide (b.lit = true)) = true ∧
    (let bay : Fin 16 := 2
     let s : State := { dev := { base with bays := [(2, { present := true, interlock := true, checked := true, lit := true, iNom := 100, iMax := 200 })] } }
     let b := s.dev.bay bay
     decide (s.dev.isEth bay = true ∨ lone s.dev bay) && decide (twf (fun _ => {}) s.dev.bays = true) && decide (twf (fun _ => {}) s.dev.opt = true) && decide (b.present = true) && decide (b.overload = false)) = true ∧
    (let bay : Fin 16 := 2
     let s : State := { dev := { base with bays := [(2, { present := true, interlock := true, checked := true, lit := true, iNom := 100, iMax := 200 })] } }
     decide (s.dev.isEth bay = true ∨ lone s.dev bay) && decide (twf (fun _ => {}) s.dev.bays = true) && decide (twf (fun _ => {}) s.dev.opt = true) && decide (s.dev.rst.coreUp = true)) = true := by decide +kernel

theorem witness_EthernetAndRdma :
    (let port : Fin 2 := 0
     let f : List Byte := zeros 9217
     let s : State := { dev := ether }
     decide (s.dev.isEth (14 + port) = true) && decide ((s.dev.ethPort port).link = true) && decide (64 ≤ f.length) && decide (9216 < f.length)) = true ∧
    (let port : Fin 2 := 0
     let f : List Byte := zeros 63 ++ [1]
     let s : State := { dev := ether }
     let good := crc32 (f.take (f.length - 4)) = leAt f (f.length - 4) 4
     decide (s.dev.isEth (14 + port) = true) && decide ((s.dev.ethPort port).link = true) && decide (64 ≤ f.length) && decide (f.length ≤ 9216) && decide (¬ good)) = true ∧
    (let port : Fin 2 := 0
     let f : List Byte := withFcs (zeros 60)
     let s : State := { dev := ether }
     let c := s.dev.ethCfg port
     let good := crc32 (f.take (f.length - 4)) = leAt f (f.length - 4) 4
     let ours := slice f 0 6 = c.mac ∨ slice f 0 6 = ethBroadcast
     decide (s.dev.isEth (14 + port) = true) && decide ((s.dev.ethPort port).link = true) && decide (64 ≤ f.length) && decide (f.length ≤ 9216) && decide (good) && decide (¬ ours)) = true ∧
    (let port : Fin 2 := 0
     let f : List Byte := ethFrame 0x0806 (beBytes 2 1 ++ beBytes 2 0x0800 ++ beBytes 2 0x0604 ++ beBytes 2 1 ++ [2, 0, 0, 0, 0, 9, 10, 0, 0, 9] ++ zeros 6 ++ [10, 0, 0, 1])
     let s : State := { dev := ether }
     let c := s.dev.ethCfg port
     let good := crc32 (f.take (f.length - 4)) = leAt f (f.length - 4) 4
     let ours := slice f 0 6 = c.mac ∨ slice f 0 6 = ethBroadcast
     decide (s.dev.isEth (14 + port) = true) && decide ((s.dev.ethPort port).link = true) && decide (64 ≤ f.length) && decide (f.length ≤ 9216) && decide (good) && decide (ours) && decide (c.isArp f = true)) = true ∧
    (let port : Fin 2 := 0
     let f : List Byte := ethFrame 0x86DD ([0x60, 0, 0, 0, 0, 32, 58, 255] ++ zeros 32 ++ [135, 0, 0, 0, 0, 0, 0, 0] ++ zeros 16)
     let s : State := { dev := { ether with run := (Reg.ethPortRec 0 0, 0x000000020000030E) :: ether.run.drop 1 } }
     let c := s.dev.ethCfg port
     let good := crc32 (f.take (f.length - 4)) = leAt f (f.length - 4) 4
     let ours := slice f 0 6 = c.mac ∨ slice f 0 6 = ethBroadcast
     decide (s.dev.isEth (14 + port) = true) && decide ((s.dev.ethPort port).link = true) && decide (64 ≤ f.length) && decide (f.length ≤ 9216) && decide (good) && decide (ours) && decide (c.isNs f = true)) = true ∧
    (let port : Fin 2 := 0
     let f : List Byte := roceFrame 0x0A 0 true (beBytes 8 64 ++ beBytes 4 1 ++ beBytes 4 8 ++ [1, 2, 3, 4, 5, 6, 7, 8])
     let s : State := { dev := ether }
     let c := s.dev.ethCfg port
     let u : Nat := (match c.udp f with | some y_ => y_ | _ => 0)
     let good := crc32 (f.take (f.length - 4)) = leAt f (f.length - 4) 4
     let ours := slice f 0 6 = c.mac ∨ slice f 0 6 = ethBroadcast
     let r := c.roce f u
     let q := s.dev.qp (r.qpn - 0x1000)
     decide (s.dev.isEth (14 + port) = true) && decide ((s.dev.ethPort port).link = true) && decide (64 ≤ f.length) && decide (f.length ≤ 9216) && decide (good) && decide (ours) && decide (c.isArp f = false) && decide (c.isNs f = false) && decide (c.udp f = some u) && decide (rocev2Icrc c.ipv6 f c.l3off u = leAt f (f.length - 8) 4) && decide (r.op ∈ roceOps) && decide (0x1000 ≤ r.qpn) && decide (r.qpn < 0x2000) && decide (Qp.port q = port.val) && decide (q.st = .rts) && decide (bit (s.dev.st (Reg.polMeterCfg1 (2 * Qp.part q + 1))) 57 = false) && decide (((s.dev.ethPort port).ingress.map fun y => y.1.length).sum + f.length ≤ ingressCap)) = true ∧
    (let port : Fin 2 := 0
     let env : Env := {}
     let f : List Byte := roceFrame 0x0A 0 true (beBytes 8 64 ++ beBytes 4 1 ++ beBytes 4 8 ++ [1, 2, 3, 4, 5, 6, 7, 8])
     let l : List (List Byte × Bool) := []
     let s : State := { dev := queued f }
     let c := s.dev.ethCfg port
     let r := c.roce f ((c.udp f).getD 0)
     let k := r.qpn - 0x1000
     let q := s.dev.qp k
     let a := (s.dev.setEth port { s.dev.ethPort port with ingress := l }).enter env
     let first := r.op = 0x06 ∨ r.op = 0x0A ∨ r.op = 0x0B
     let imm := r.op = 0x09 ∨ r.op = 0x0B
     let x := if first then r.rest.drop 16 else r.rest
     let y := if imm then x.drop 4 else x
     let b := y.take (y.length - r.pad)
     let key : BitVec 32 := if first then BitVec.ofNat 32 (beAt r.rest 8 4) else q.openKey
     let at_ := if first then beAt r.rest 0 8 else q.openAddr.toNat
     let u : Dev := (a.rocePlace env q.part key at_ b).1
     decide ((s.dev.ethPort port).ingress = (f, false) :: l) && decide (twf (fun _ => {}) s.dev.eth = true) && decide (q.st = .rts) && decide (r.ce = false) && decide (BitVec.ofNat 24 r.psn = q.epsn) && decide ((first ∨ q.openMsg = true)) && decide (a.rocePlace env q.part key at_ b = (u, none)) && decide (r.op ∈ [0x06, 0x07, 0x08, 0x0A, 0x09, 0x0B])) = true ∧
    (let port : Fin 2 := 0
     let env : Env := {}
     let f : List Byte := roceFrame 0x0C 0 true (beBytes 8 64 ++ beBytes 4 1 ++ beBytes 4 8)
     let l : List (List Byte × Bool) := []
     let s : State := { dev := queued f }
     let c := s.dev.ethCfg port
     let r := c.roce f ((c.udp f).getD 0)
     let k := r.qpn - 0x1000
     let q := s.dev.qp k
     let a := (s.dev.setEth port { s.dev.ethPort port with ingress := l }).enter env
     let at_ := beAt r.rest 0 8
     let key : BitVec 32 := BitVec.ofNat 32 (beAt r.rest 8 4)
     let len := beAt r.rest 12 4
     let u : Dev := (a.keyCheck key q.part at_ len (rR ||| rRM)).1
     let v : Dev := (u.regionRead env key at_ len).1
     let b : List Byte := (match (u.regionRead env key at_ len).2 with | .ok y_ => y_ | _ => [])
     decide ((s.dev.ethPort port).ingress = (f, false) :: l) && decide (twf (fun _ => {}) s.dev.eth = true) && decide (q.st = .rts) && decide (r.ce = false) && decide (r.op = 0x0C) && decide (BitVec.ofNat 24 r.psn = q.epsn) && decide (a.keyCheck key q.part at_ len (rR ||| rRM) = (u, none)) && decide (u.onDemandStop key at_ len = none) && decide (u.regionRead env key at_ len = (v, .ok b)) && decide (b.length = len)) = true ∧
    (let port : Fin 2 := 0
     let f : List Byte := roceFrame 0x81 0 false (zeros 16)
     let l : List (List Byte × Bool) := []
     let s : State := { dev := queued f }
     let c := s.dev.ethCfg port
     let r := c.roce f ((c.udp f).getD 0)
     let k := r.qpn - 0x1000
     let q := s.dev.qp k
     decide ((s.dev.ethPort port).ingress = (f, false) :: l) && decide (twf (fun _ => {}) s.dev.eth = true) && decide (q.st = .rts) && decide (r.ce = false) && decide (r.op = 0x81) && decide ((q.cnpRxAt.any fun t => s.dev.osc < t + nsTicks c.cnpInterval) = false)) = true ∧
    (let port : Fin 2 := 0
     let qp : Fin 4096 := 0
     let s : State := { dev := { ether with osc := 10000000, qps := [(0, { st := .rts, rate := 5000 })] } }
     let q := s.dev.qp qp
     decide (q.st = .rts) && decide (Qp.port q = port.val) && decide (q.periodAt + nsTicks (s.dev.ethCfg port).ratePeriod ≤ s.dev.osc)) = true ∧
    (let v : View := .port
     let w : Word := 1
     let s : State := { dev := { ether with qps := [] } }
     let a := s.tapped v Reg.ethQpCtl w
     let k := a.selQp
     let q := a.qp k
     decide ((v = .pf ∨ v = .port)) && decide (a.inReset Reg.ethQpCtl = false) && decide (bits w 7 0 = 1) && decide (q.st = .reset) && decide (a.ptnRec q.part ≠ 0) && decide ((a.ptn q.part).st = .active)) = true ∧
    (let v : View := .port
     let w : Word := 1
     let s : State := { dev := ether }
     let a := s.tapped v Reg.ethQpCtl w
     let k := a.selQp
     let q := a.qp k
     decide ((v = .pf ∨ v = .port)) && decide (a.inReset Reg.ethQpCtl = false) && decide (bits w 7 0 = 1) && decide (q.st ≠ .reset)) = true ∧
    (let v : View := .port
     let w : Word := 2
     let s : State := { dev := ether }
     let a := s.tapped v Reg.ethQpCtl w
     let k := a.selQp
     let q := a.qp k
     decide ((v = .pf ∨ v = .port)) && decide (a.inReset Reg.ethQpCtl = false) && decide (bits w 7 0 = 2) && decide (q.st ≠ .reset)) = true ∧
    (let v : View := .port
     let w : Word := 2
     let s : State := { dev := { ether with qps := [] } }
     let a := s.tapped v Reg.ethQpCtl w
     let k := a.selQp
     let q := a.qp k
     decide ((v = .pf ∨ v = .port)) && decide (a.inReset Reg.ethQpCtl = false) && decide (bits w 7 0 = 2) && decide (q.st = .reset)) = true ∧
    (let port : Fin 2 := 0
     let s : State := { dev := { ether with opt := [(14, { fenced := false, cause := 0, wls := (List.range 8).map fun w => (w, { lock := .locked }) })] } }
     let o := s.dev.optPort (14 + port)
     decide (s.dev.isEth (14 + port) = true) && decide (o.fenced = false) && decide (((List.range 8).all fun w => decide ((o.wl w).lock = .locked)) = true) && decide (s.dev.inReset (Reg.ethPortStatus 0) = false)) = true := by decide +kernel

theorem witness_ManagementSegment :
    (let f : List Byte := msegFrame 0x88B5 [1]
     let s : State := { dev := base }
     decide (4 ≤ s.dev.rst.released) && decide (s.dev.msegFor f = true) && decide (f.length ≤ 2048) && decide (goodFcs f = true) && decide (isPause f = false) && decide (s.dev.msegStored + f.length ≤ 65536)) = true ∧
    (let f : List Byte := zeros 6 ++ [1]
     let s : State := { dev := base }
     decide (4 ≤ s.dev.rst.released) && decide (s.dev.msegFor f = true) && decide (f.length ≤ 2048) && decide (goodFcs f = false)) = true ∧
    (let f : List Byte := msegFrame 0x8808 [0, 1, 0, 9]
     let s : State := { dev := base }
     decide (4 ≤ s.dev.rst.released) && decide (s.dev.msegFor f = true) && decide (f.length ≤ 2048) && decide (goodFcs f = true) && decide (isPause f = true)) = true ∧
    (let s : State := { dev := { base with mseg := { pausedUntil := some 5 } } }
     let at_ : Nat := 5
     decide (s.dev.mseg.pausedUntil = some at_) && decide (at_ ≤ s.dev.osc)) = true ∧
    (let s : State := { dev := { base with mseg := { tx := [[1]], backoffUntil := some 5 } } }
     let at_ : Nat := 5
     let f : List Byte := [1]
     let l : List (List Byte) := []
     decide (s.dev.mseg.tx = f :: l) && decide (4 ≤ s.dev.rst.released) && decide (s.dev.mseg.pausedUntil = none) && decide (s.dev.plcaOn = false) && decide (s.dev.mseg.backoffUntil = some at_) && decide (at_ ≤ s.dev.osc)) = true ∧
    (let s : State := { dev := { base with mseg := { tx := [[1]] }, rw := [(Reg.msegCfg, 0x0002)] } }
     let f : List Byte := [1]
     let l : List (List Byte) := []
     decide (s.dev.mseg.tx = f :: l) && decide (4 ≤ s.dev.rst.released) && decide (s.dev.mseg.pausedUntil = none) && decide (s.dev.plcaOn = true)) = true ∧
    (let s : State := { dev := { base with mseg := { tx := [[1]] } } }
     let f : List Byte := [1]
     let l : List (List Byte) := []
     decide (s.dev.mseg.tx = f :: l) && decide (4 ≤ s.dev.rst.released) && decide (s.dev.mseg.pausedUntil = none) && decide (s.dev.msegMay = true)) = true ∧
    (let s : State := { dev := asking 1 ([]) }
     let r : Rumos := request 1 ([])
     let f := s.flash
     asked s.dev f r && decide (r.type = 1) && decide (r.body = [])) = true ∧
    (let s : State := { dev := asking 2 (leBytes 4 0x190008 ++ leBytes 2 1 ++ [0, 0]) }
     let r : Rumos := request 2 (leBytes 4 0x190008 ++ leBytes 2 1 ++ [0, 0])
     let a := dropHead s.dev
     let f := s.flash
     let off := leAt r.body 0 4
     let n := leAt r.body 4 2
     let u : Dev := (Dev.regWords n a f off []).1
     let b : List Byte := (Dev.regWords n a f off []).2
     decide (r.type = 2) && decide (r.body.length = 8) && decide (off % 8 = 0) && decide (1 ≤ n) && decide (n ≤ 200) && decide (off + 8 * n ≤ bar0Size) && decide (Dev.regWords n a f off [] = (u, b))) = true ∧
    (let s : State := { dev := asking 3 (leBytes 8 0x190008 ++ leBytes 8 5) }
     let r : Rumos := request 3 (leBytes 8 0x190008 ++ leBytes 8 5)
     let env : Env := {}
     let a := dropHead s.dev
     let f := s.flash
     let u : Dev := (Dev.regEntries (entriesOf r.body) a f env 0).1
     let n : Nat := (Dev.regEntries (entriesOf r.body) a f env 0).2.1
     let ok : Bool := (Dev.regEntries (entriesOf r.body) a f env 0).2.2
     decide (r.type = 3) && decide (r.body.length % 16 = 0) && decide (0 < r.body.length) && decide (r.body.length ≤ 1600) && decide (Dev.regEntries (entriesOf r.body) a f env 0 = (u, n, ok))) = true ∧
    (let s : State := { dev := asking 4 ([0, 0, 0, 0] ++ leBytes 4 0 ++ leBytes 2 4 ++ zeros 6 ++ [1, 2, 3, 4]) }
     let r : Rumos := request 4 ([0, 0, 0, 0] ++ leBytes 4 0 ++ leBytes 2 4 ++ zeros 6 ++ [1, 2, 3, 4])
     let env : Env := {}
     let e := dropHead (s.dev.enter env)
     let region := leAt r.body 0 1
     let off := leAt r.body 4 4
     let u : Dev := (e.stageBytes env (off + (if region = 0 then 0 else fwRegion)) (r.body.drop 16)).1
     let ok : Bool := (e.stageBytes env (off + (if region = 0 then 0 else fwRegion)) (r.body.drop 16)).2
     let n := leAt r.body 8 2
     decide (r.type = 4) && decide (r.body.length = 16 + n) && decide (region ≤ 1) && decide (1 ≤ n) && decide (n ≤ 1536) && decide (off + n ≤ (if region = 0 then 128 * 2 ^ 20 else 16 * 2 ^ 20)) && decide (e.stagingThere = true) && decide (e.stageBytes env (off + (if region = 0 then 0 else fwRegion)) (r.body.drop 16) = (u, ok))) = true ∧
    (let r : Rumos := request 5 (zeros 16)
     decide (r.type = 5) && decide (r.body.length = 16) && decide (leAt r.body 0 1 = 0)) = true ∧
    (let s : State := { dev := { asking 6 (leBytes 8 0 ++ leBytes 2 4 ++ zeros 6) with run := journal } }
     let r : Rumos := request 6 (leBytes 8 0 ++ leBytes 2 4 ++ zeros 6)
     let env : Env := {}
     let e := dropHead (s.dev.enter env)
     let g : Region := (match e.folRegion with | some y_ => y_ | _ => {})
     let off := leAt r.body 0 8
     let n := leAt r.body 8 2
     let u : Dev := (e.inkRead false (g.base + off) n).1
     let b : List Byte := (e.inkRead false (g.base + off) n).2.2
     decide (r.type = 6) && decide (r.body.length = 16) && decide (1 ≤ n) && decide (n ≤ 1536) && decide (e.folRegion = some g) && decide (off + n ≤ g.size) && decide (e.inkRead false (g.base + off) n = (u, .ok, b))) = true ∧
    (let r : Rumos := request 7 ([])
     decide (r.type = 7) && decide (r.body = [])) = true ∧
    (let s : State := { dev := asking 8 (zeros 32) }
     let r : Rumos := request 8 (zeros 32)
     decide (r.type = 8) && decide (r.body.length = 32) && decide (s.dev.mseg.keyPend = none)) = true ∧
    (let word : Fin 4 := 1
     decide (word ≠ 3)) = true ∧
    (let word : Fin 4 := 3
     decide (word = 3)) = true ∧
    (let v : View := .port
     decide (v ≠ .pf)) = true := by decide +kernel

theorem witness_KeyBounds :
    (let s : Dev := full
     let k : BitVec 32 := 1
     let part : Nat := 0
     let a : Nat := 0x100000
     let n : Nat := 0
     let e := s.keyEntry (keyIndex k)
     decide (keyValid e = true) && decide ((s.keyLoad (keyIndex k)).keyBad (keyIndex k) = false) && decide (keyGen e = bits k 31 24) && decide (keyClass e = bits k 23 22) && decide (keyPtn e = part) && decide (n = 0) && decide (a = keyBase e + keyLast e + 1)) = true := by decide +kernel

theorem witness_ResetCommandsActOnlyWhenBooted :
    (let v : View := .port
     let s : State := on {}
     decide ((v = .pf ∨ v = .port)) && decide (s.dev.rst.boot ≠ .done)) = true ∧
    (let v : View := .port
     let s : State := on base
     decide ((v = .pf ∨ v = .port)) && decide (s.dev.rst.boot = .done) && decide (s.dev.rst.shutting = false)) = true := by decide +kernel

theorem witness_FlashAndIdentityStand :
    (let s : State := on base
     let t : State := { dev := base.idle {} }
     decide ((s.flash.state = 4 → s.flash.idPriv = [])) && gives (step s) t && decide (s.flash.idPriv = [])) = true := by decide +kernel

/-! ### Clauses that rest on a signature check, which the model leaves open: they are met wherever the check passes. -/

/-- A write through a fabric port's own view leaves no record in the journal. -/
theorem tapped_port (s : State) (off : Nat) (w : Word) : s.tapped .port off w = s.dev := by
  unfold State.tapped Dev.tapWrite
  split <;> rfl

theorem witness_PartitionStates_outOfReset (w : Word) : ((on full).tapped .port (Reg.ptnCtl 0) w).inReset (Reg.ptnCtl 0) = false := by
  rw [tapped_port]
  rfl

/-- PartitionStates, a partition no ring of which holds an entry. -/
theorem witness_PartitionStates_noneTaken (r : Nat) : ((on { full with ptns := [(0, { st := .preempted })] }).dev.ring r).taken = [] := rfl

/-- The bytes that are not zero of the first 80 of an image, in host memory from address 0 on. -/
def hosted (b : List Byte) : Tbl Byte := ((List.range 80).filter fun i => b.getD i 0 != 0).map fun i => (hostKey i, b.getD i 0)

/-- A firmware image for stepping B0, and a Score image of generation 1, their keys and signatures zeros. -/
def fwBytes : List Byte := leBytes 4 0x41584657 ++ [1, 0, 2, 0] ++ leBytes 4 3329 ++ zeros 3317

def scoreBytes : List Byte :=
  leBytes 4 0x41585343 ++ [1, 0, 0, 0] ++ zeros 8 ++ leBytes 8 1 ++ leBytes 4 1 ++ [2, 0, 0, 0] ++ leBytes 4 3329 ++ zeros 3293

/-- Flash whose OTP items 1, 5 and 10 hold the digest of a key. -/
def keyed (key : List Byte) : Flash :=
  let g := digest256 key
  { provisioned := 0x211, digests := [(1, g), (5, g), (10, g)] }

theorem keyed_keyOk (key : List Byte) (i : Nat) (h : i = 1 ∨ i = 5 ∨ i = 10) : (keyed key).keyOk i key = true := by
  rcases h with rfl | rfl | rfl <;>
  · unfold Flash.keyOk
    rw [Bool.and_eq_true]
    exact ⟨by show BitVec.getLsbD 0x211 _ = true; decide, beq_self_eq_true _⟩

/-- What a firmware image's header must hold, its key being item 5's and its code for stepping B0. -/
def fwHeader (img : List Byte) (n : Nat) : Bool :=
  leAt img 0 4 == 0x41584657 && leAt img 4 2 == 1 && leAt img 6 1 == 2 && leAt img 7 1 == 0 && !anyNonzero (slice img 24 232) &&
  leAt img 8 4 == n && decide (256 + trailerLen ≤ n) && decide (n ≤ 256 + trailerLen + 8 * 2 ^ 20)

theorem fwCode_of (h : ∀ k m s, Config.falconVerify k m s = true) {img : List Byte} {n : Nat} (d : fwHeader img n = true) {f : Flash}
    (hk : f.keyOk 5 (trailerKey img n) = true) (hs : f.stepping = 1) : fwCode f img n = 0 := by
  simp only [fwHeader, Bool.and_eq_true, beq_iff_eq, Bool.not_eq_true', decide_eq_true_eq] at d
  obtain ⟨⟨⟨⟨⟨⟨⟨a, b⟩, c⟩, e⟩, g⟩, i⟩, j⟩, k⟩ := d
  have l : decide (n < 256 + trailerLen) = false := decide_eq_false (Nat.not_lt.mpr j)
  have r : decide (256 + trailerLen + 8 * 2 ^ 20 < n) = false := decide_eq_false (Nat.not_lt.mpr k)
  unfold fwCode signedOk
  rw [a, b, c, e, g, i, hk, hs, h, l, r, bne_self_eq_false n]
  rfl

/-- BootGoesOn, first clause. -/
theorem witness_BootGoesOn_image (h : ∀ k m s, Config.falconVerify k m s = true) :
    fwCode (keyed (trailerKey fwBytes fwBytes.length)) fwBytes fwBytes.length = 0 :=
  fwCode_of h (by decide +kernel) (keyed_keyOk _ 5 (by decide)) rfl

theorem read_some {α : Type} {x : Dev × Option α} (d : α) (h : x.2.isSome = true) : x = (x.1, some (x.2.getD d)) := by
  obtain ⟨u, _ | y⟩ := x <;> simp_all

def mailbox : Dev := { base with
  mem := hosted fwBytes, rw := [(Reg.rstMboxLen, 3329), (Reg.capoLoadLen, 3329)]
  run := [(inkCell 0 0, 1), (inkCell 0 2, 0x10000000), (inkCell 0 3, 0xFFF)] }

/-- BootGoesOn, the mailbox's image. -/
theorem witness_BootGoesOn_mailbox (h : ∀ k m s, Config.falconVerify k m s = true) :
    ∃ u img, Dev.extReadAll 53 (mailbox.enter {}) {} 0 0 3329 [] = (u, some img) ∧ fwCode (keyed (trailerKey img 3329)) img 3329 = 0 := by
  exact ⟨_, _, read_some [] (by decide +kernel), fwCode_of h (by decide +kernel) (keyed_keyOk _ 5 (by decide)) rfl⟩

/-- CapoLoadsAndEngine, LOAD_FW. -/
theorem witness_CapoLoadsAndEngine_firmware (h : ∀ k m s, Config.falconVerify k m s = true) : mailbox.loadGate fwMax = none ∧
    ∃ u img, (mailbox.enter {}).copyIn 53 {} 0 fwRegion 0 3329 [] = (u, some img) ∧ fwCode (keyed (trailerKey img 3329)) img 3329 = 0 := by
  refine ⟨by decide +kernel, _, _, read_some [] (by decide +kernel), fwCode_of h (by decide +kernel) (keyed_keyOk _ 5 (by decide)) rfl⟩

theorem ofLe_leBytes (n x : Nat) : ofLe (leBytes n x) = x % 256 ^ n := by
  induction n generalizing x with
  | zero => simp [leBytes, ofLe, Nat.mod_one]
  | succ n ih =>
    rw [leBytes, ofLe, ih, Nat.pow_succ', Nat.mod_mul]
    simp

theorem leBytes_length (n x : Nat) : (leBytes n x).length = n := by
  induction n generalizing x with
  | zero => rfl
  | succ n ih => simp [leBytes, ih]

/-- `base` asking port 0 for an image, with what has been received. -/
def recovering (x : Recov) : Dev := { base with
  rst := { base.rst with boot := .recovery, recovering := true, recoveryPort := 0 }
  rte := { base.rte with recov := (0, x) :: [] } }

theorem recovering_recov (x : Recov) : (recovering x).recov 0 = x := rfl

/-- All of a firmware image but its last data unit. -/
def received : List Byte := leBytes 4 0x41584657 ++ [1, 0, 2, 0] ++ leBytes 4 3329 ++ zeros 3268

def lastUnit : BitVec 512 := BitVec.ofNat 512 (4 + at_ 32 3280)
def lastImage : List Byte := received ++ (leBytes 56 (bits lastUnit 511 64)).take 49

theorem witness_FirmwareRecovery_data (h : ∀ k m s, Config.falconVerify k m s = true) :
    ∃ x : Recov, (recovering x).asking 0 = true ∧ bits lastUnit 7 0 = 4 ∧ bits lastUnit 63 32 = ((recovering x).recov 0).bytes.length ∧
      ((recovering x).recov 0).bytes.length < ((recovering x).recov 0).asked ∧ x.total = 3329 ∧
      lastImage = ((recovering x).recov 0).bytes ++ (leBytes 56 (bits lastUnit 511 64)).take 49 ∧
      ((recovering x).recov 0).digest = digest256 lastImage ∧ fwCode (keyed (trailerKey lastImage 3329)) lastImage 3329 = 0 := by
  refine ⟨{ total := 3329, digest := digest256 lastImage, bytes := received, asked := 3329 }, ?_⟩
  rw [recovering_recov]
  exact ⟨rfl, by decide +kernel, by decide +kernel, by decide +kernel, rfl, by rw [lastImage], by rw [lastImage],
    fwCode_of h (by decide +kernel) (keyed_keyOk _ 5 (by decide)) rfl⟩

/-- What a Score image's header must hold, its key being item 1's, its code for stepping B0 and its node 1, without sections. -/
def scoreHeader (img : List Byte) (n : Nat) : Bool :=
  leAt img 0 4 == 0x41585343 && !scoreFormatBad img && !scoreLengthBad img n && leAt img 29 1 == 0 && leAt img 28 1 == 2 &&
  leAt img 24 4 == 1 && ((scoreDir img).map fun d => d.1) == [] && leAt img 16 8 == 1

theorem scoreCode_of (h : ∀ k m s, Config.falconVerify k m s = true) {img : List Byte} {n : Nat} (x : scoreHeader img n = true) {f : Flash}
    (hk : f.keyOk 1 (trailerKey img n) = true) (hs : f.stepping = 1) {d : Dev} (hn : d.capo.node.toNat = 1) (hg : d.capo.runGen = 0) :
    d.scoreCode f img n = 0 := by
  simp only [scoreHeader, Bool.and_eq_true, beq_iff_eq, Bool.not_eq_true'] at x
  obtain ⟨⟨⟨⟨⟨⟨⟨a, b⟩, c⟩, e⟩, g⟩, i⟩, j⟩, k⟩ := x
  simp only [Dev.scoreCode, signedOk, a, b, c, e, g, i, j, k, h, hk, hs, hn, hg]
  simp
  decide

def loading : Dev := { base with
  mem := hosted scoreBytes
  run := [(inkCell 0 0, 1), (inkCell 0 2, 0x10000000), (inkCell 0 3, 0xFFF)]
  capo := { base.capo with st := .loading, loadLen := 3329 } }

/-- What copying that image gives. -/
def loaded : Dev × Option (List Byte) := (loading.enter {}).copyIn 53 {} 0 0 0 3329 []

/-- CapoLoadsAndEngine, LOAD_DONE. -/
theorem witness_CapoLoadsAndEngine_score (h : ∀ k m s, Config.falconVerify k m s = true) :
    loading.capo.st = .loading ∧ loading.rst.coreUp = true ∧ loading.rst.bootScore ≠ 2 ∧ ceilDiv loading.capo.loadLen 64 = 53 ∧
      ∃ u img, loaded = (u, some img) ∧ u.scoreCode (keyed (trailerKey img 3329)) img 3329 = 0 := by
  have a : loaded.2.isSome = true := by decide +kernel
  have b : scoreHeader (loaded.2.getD []) 3329 = true := by decide +kernel
  have c : loaded.1.capo.node.toNat = 1 := by decide +kernel
  have d : loaded.1.capo.runGen = 0 := by decide +kernel
  exact ⟨rfl, rfl, by decide, by decide, _, _, read_some [] a, scoreCode_of h b (keyed_keyOk _ 1 (by decide)) rfl c d⟩

/-- A token for FIELD_DIAG under nonce 0, for the device whose identity key has the digest g. -/
def token (g : BitVec 256) : List Byte := [0x54, 0x4C, 0x58, 0x41, 3, 0, 0, 0] ++ (leBytes 32 g.toNat ++ zeros 3105)

theorem token_digest (g : BitVec 256) : leAt (token g) 8 32 = g.toNat := by
  have h : slice (token g) 8 32 = leBytes 32 g.toNat := by
    rw [slice, token, List.drop_left' (by rfl), List.take_left' (leBytes_length _ _)]
  rw [leAt, h, ofLe_leBytes]
  exact Nat.mod_eq_of_lt g.isLt

/-- LifecycleCommands, a valid token for FIELD_DIAG. -/
theorem witness_LifecycleCommands_token (h : ∀ k m s, Config.falconVerify k m s = true) (d : Dev) (hf : d.lcs.nonceFresh = true)
    (hn : d.lcs.nonce.toNat = 0) (f : Flash) (hk : f.keyOk 10 (slice (token (digest256 f.idPub)) 72 1793) = true) :
    d.tokenCode f (token (digest256 f.idPub)) 3 = 0 := by
  have a (g) : leAt (token g) 0 4 = 0x41584C54 := by
    have j : slice (token g) 0 4 = [0x54, 0x4C, 0x58, 0x41] := rfl
    rw [leAt, j]
    decide
  have b (g) : leAt (token g) 4 1 = 3 := rfl
  have c (g) : leAt (token g) 5 3 = 0 := rfl
  have e (g) : leAt (token g) 40 32 = 0 := by
    have j : slice (token g) 40 32 = zeros 32 := by
      rw [slice, token, ← List.append_assoc, List.drop_left' (by rw [List.length_append, leBytes_length]; rfl), zeros, List.take_replicate]
      rfl
    rw [leAt, j]
    rfl
  simp [Dev.tokenCode, a, b, c, e, hk, h, hf, hn, token_digest]

/-- OpticsAndLasers, a module whose certificate verifies and one whose nominal current is 0. -/
theorem witness_OpticsAndLasers_module (h : ∀ k m s, Config.falconVerify k m s = true) (answer : List Byte) :
    (let f : Flash := { digests := [(9, digest256 Config.lsmIssuingKey)] }
     moduleOk f { present := true, interlock := true, checking := true, iNom := 100, iMax := 200 } answer = true ∧
     moduleOk f { present := true, interlock := true, checking := true } answer = false) := by
  constructor
  · simp only [moduleOk, h]
    rw [Bool.and_eq_true, Bool.and_eq_true, Bool.and_eq_true]
    exact ⟨⟨⟨by rw [Bool.and_true, Bool.and_true]; exact beq_self_eq_true _, rfl⟩, rfl⟩, rfl⟩
  · simp [moduleOk]

/-! ### Rumos requests under the rack key -/

theorem slice_left {a b : List Byte} {i n : Nat} (h : i + n ≤ a.length) : slice (a ++ b) i n = slice a i n := by
  rw [slice, slice, List.drop_append_of_le_length (by omega), List.take_append_of_le_length (by rw [List.length_drop]; omega)]

theorem rumosHdr_length (t n : Nat) : (rumosHdr t n).length = 38 := by simp [rumosHdr, leBytes_length]

theorem withFcs_append (b : List Byte) : ∃ r, withFcs b = b ++ r ∧ 4 ≤ r.length :=
  ⟨zeros (60 - b.length) ++ leBytes 4 (crc32 (b ++ zeros (60 - b.length))), by rw [withFcs, List.append_assoc],
    by rw [List.length_append, leBytes_length]; omega⟩

theorem asked_request {d : Dev} {t : Nat} {body : List Byte} (ht : 2 ≤ t) (ht' : t ≤ 8) (hb : body.length < 65536) (hr : d.rst = base.rst)
    (hn : d.capo.node = 1) (hm : d.mseg = { keyed := true, rx := [(rumosFrame t body, false)] }) : d.Asked {} (request t body) := by
  have hne : ¬ t = 1 := by omega
  obtain ⟨r, hR, h4⟩ := withFcs_append (rumosHdr t body.length ++ (body ++ base.rumosTag [0, 0, 0, 0, 0, 5] 9 ((rumosHdr t body.length).drop 14 ++ body)))
  have hg : (base.rumosTag [0, 0, 0, 0, 0, 5] 9 ((rumosHdr t body.length).drop 14 ++ body)).length = 16 := by
    rw [Dev.rumosTag, gcmTag, beBytes, List.length_reverse, leBytes_length]
  have hF : rumosFrame t body = rumosHdr t body.length ++
      (body ++ base.rumosTag [0, 0, 0, 0, 0, 5] 9 ((rumosHdr t body.length).drop 14 ++ body) ++ r) := by
    rw [rumosFrame, if_neg hne, hR, List.append_assoc]
  have hl := rumosHdr_length t body.length
  have tag (x y z) : d.rumosTag x y z = base.rumosTag x y z := by rw [Dev.rumosTag, Dev.rumosTag, hm, hr]; rfl
  generalize hv : base.rumosTag [0, 0, 0, 0, 0, 5] 9 ((rumosHdr t body.length).drop 14 ++ body) = g at *
  have at_ (i n : Nat) (h : i + n ≤ 38) : slice (rumosFrame t body) i n = slice (rumosHdr t body.length) i n := by
    rw [hF, slice_left (by rw [hl]; exact h)]
  have len : leAt (rumosFrame t body) 30 2 = body.length := by
    have : slice (rumosHdr t body.length) 30 2 = leBytes 2 body.length := rfl
    rw [leAt, at_ 30 2 (by decide), this, ofLe_leBytes]
    exact Nat.mod_eq_of_lt hb
  have ty : leAt (rumosFrame t body) 15 1 = t := by
    have : slice (rumosHdr t body.length) 15 1 = [BitVec.ofNat 8 t] := rfl
    rw [leAt, at_ 15 1 (by decide), this, ofLe, ofLe, BitVec.toNat_ofNat]
    omega
  have src : slice (rumosFrame t body) 6 6 = [0, 0, 0, 0, 0, 5] := by rw [at_ 6 6 (by decide)]; rfl
  have target : slice (rumosFrame t body) 26 4 = [1, 0, 0, 0] := by rw [at_ 26 4 (by decide)]; rfl
  have seq : leAt (rumosFrame t body) 18 8 = 9 := by
    have : slice (rumosHdr t body.length) 18 8 = [9, 0, 0, 0, 0, 0, 0, 0] := rfl
    rw [leAt, at_ 18 8 (by decide), this]
    decide
  have node : leAt (rumosFrame t body) 26 4 = 1 := by rw [leAt, target]; decide
  have ether : beAt (rumosFrame t body) 12 2 = 0x88B5 := by
    have : slice (rumosHdr t body.length) 12 2 = [0x88, 0xB5] := rfl
    rw [beAt, at_ 12 2 (by decide), this]
    decide
  have ver : leAt (rumosFrame t body) 14 1 = 1 := by
    have : slice (rumosHdr t body.length) 14 1 = [1] := rfl
    rw [leAt, at_ 14 1 (by decide), this]
    decide
  have bod : slice (rumosFrame t body) 38 body.length = body := by
    rw [hF, slice, List.drop_left' hl, List.append_assoc, List.take_left' rfl]
  have got : slice (rumosFrame t body) (38 + body.length) 16 = g := by
    rw [hF, slice, ← List.append_assoc, ← List.append_assoc, List.append_assoc, List.drop_left' (by rw [List.length_append, hl]), List.take_left' hg]
  have msg : slice (rumosFrame t body) 14 (24 + body.length) = (rumosHdr t body.length).drop 14 ++ body := by
    rw [hF, slice, List.drop_append_of_le_length (by omega), List.append_assoc, ← List.append_assoc, List.take_left']
    rw [List.length_append, List.length_drop, hl]
  have size : 38 + body.length + 16 + 4 ≤ (rumosFrame t body).length := by
    rw [hF, List.length_append, List.length_append, List.length_append, hl, hg]
    omega
  have of : rumosOf (rumosFrame t body) = request t body := by rw [rumosOf, src, ty, seq, target, len, bod, request]
  refine ⟨by rw [hr]; rfl, _, by rw [hm], of.symm, ?_⟩
  have head : d.rumosHead (rumosFrame t body) = true := by
    simp only [Dev.rumosHead, node, ver, len, hn, size]
    rfl
  have auth : d.rumosAuth {} (rumosFrame t body) = true := by
    simp only [Dev.rumosAuth, len, got, src, seq, msg, tag, hm, hv, beq_self_eq_true, Bool.and_self, Bool.or_true]
  have early : d.rst.startWritten = true := by rw [hr]; rfl
  have new : d.rumosSrc [0, 0, 0, 0, 0, 5] = none := by rw [Dev.rumosSrc, hm]; rfl
  have lim : ¬ 128 ≤ t := by omega
  have key : (request t body).type = t := rfl
  have from_ : (request t body).src = [0, 0, 0, 0, 0, 5] := rfl
  have fresh : ¬ (request t body).seq ≤ d.mseg.floor.toNat := by
    rw [hm]
    show ¬ 9 ≤ 0
    decide
  simp only [Dev.rumosIn, rumosEther, ether, of, head, auth, early, key, from_, new, fresh, lim, hne, beq_self_eq_true,
    decide_false, Bool.not_true, Bool.or_false, Bool.false_and, Bool.false_eq_true, if_false, beq_iff_eq]

/-- ManagementSegment: the request is the one taken up, in the device as it stands and once the outside world has acted. -/
theorem witness_ManagementSegment_asked {t : Nat} {body : List Byte} (h : 2 ≤ t) (h' : t ≤ 8) (hb : body.length < 65536) :
    (asking t body).Asked {} (request t body) ∧ ((asking t body).enter {}).Asked {} (request t body) ∧
      ({ asking t body with run := journal } : Dev).Asked {} (request t body) :=
  ⟨asked_request h h' hb rfl rfl rfl, asked_request h h' hb rfl rfl rfl, asked_request h h' hb rfl rfl rfl⟩

/-- FlashAndIdentityStand, a command that writes neither flash nor OTP. -/
theorem witness_FlashAndIdentityStand_command : (∃ t, exec .rlgSnap (on base) = .next t) ∧ (∀ v0 v1, Instr.rlgSnap ≠ .flashWriteStart v0 v1) ∧
    Instr.rlgSnap ≠ .flashUnitDone ∧ Instr.rlgSnap ≠ .powerOn ∧ Instr.rlgSnap ≠ .modReset :=
  ⟨⟨_, rfl⟩, nofun, nofun, nofun, nofun⟩

theorem report_length (d : Dev) (f : Flash) (h : d.lcs.entries = []) : (d.report f).length = 3329 := by
  have n : d.attestNonce.length = 32 := by
    simp only [Dev.attestNonce, List.length_flatMap, leBytes_length]; rfl
  have z : ∀ k, (zeros k).length = k := fun k => by unfold zeros; exact List.length_replicate ..
  have p : ∀ (l : List Byte) (k : Nat), ((l ++ zeros k).take k).length = k := fun l k => by
    rw [List.length_take, List.length_append, z]; omega
  unfold Dev.report
  simp only [h, List.length_append, leBytes_length, n, p, z, List.flatMap_nil, List.length_nil]

/-- `base` with a buffer of 65,536 bytes named by LCS_REQ_LEN at host address 0. -/
def buffer : Dev := { base with rw := [(Reg.lcsReqLen, 65536)] }

theorem write_host (m : Tbl Byte) (off : Nat) (b : List Byte) :
    ∃ m', (({ buffer with mem := m } : Dev).extWrite {} true 0 off b) = ({ buffer with mem := m' }, true) := by
  unfold Dev.extWrite
  rw [if_neg (by decide)]
  simp only [Dev.writeT]
  exact ⟨_, rfl⟩

/-- LifecycleCommands, ATTEST of a device that has measured nothing. -/
theorem witness_LifecycleCommands_report (f : Flash) : f.state ≠ 4 →
    (buffer.report f).length ≤ (buffer.reg Reg.lcsReqLen).toNat ∧
    ∃ u, (buffer.enter {}).extWriteAll {} ((buffer.enter {}).reg Reg.lcsReqAddr) (buffer.report f) = (u, true) := by
  intro _
  refine ⟨by rw [report_length buffer f rfl]; decide, ?_⟩
  have go : ∀ (l : List Nat) (b : List Byte) (m : Tbl Byte), ∃ m', l.foldl (fun (q : Dev × Bool) i =>
      if q.2 then q.1.extWrite {} true 0 (64 * i) (slice b (64 * i) 64) else q) ({ buffer with mem := m }, true) = ({ buffer with mem := m' }, true) := by
    intro l b
    induction l with
    | nil => exact fun m => ⟨m, rfl⟩
    | cons x l ih =>
      intro m
      obtain ⟨m1, h⟩ := write_host m (64 * x) (slice b (64 * x) 64)
      rw [List.foldl_cons, if_pos rfl, h]
      exact ih m1
  obtain ⟨m', h⟩ := go (List.range (ceilDiv (buffer.report f).length 64)) (buffer.report f) buffer.mem
  exact ⟨_, h⟩

end Sys2Proof.Tests
end

namespace Sys2Proof.Machine

/-! ### An access reaches its register -/

/-- A write through the physical function or the register port goes to the register that it addresses, once the journal has
its copy. -/
theorem exec_registerWrite_write {a : Access} {w : Word} (view : a.view = .pf ∨ a.view = .port) (ok : accOk a = true)
    (write : a.data = some w) (env : Env) (s : State) :
    exec (.registerWrite a env) s = .next { s with
      dev := (s.dev.tapPart a.view (accPart a).1 (accPart a).2 (accPlaced (accPart a).2 w)).writeAt s.flash env a.view
        (accPart a).2 (accPart a).1 (accPlaced (accPart a).2 w) } := by
  show onDevF (fun f s => s.access f env a) s = _
  rcases view with v | v <;> simp [onDevF, Dev.access, ok, write, Dev.viewWrite, v]

/-- An 8-byte access at an aligned offset is of the size and alignment that BAR0 takes. -/
theorem accOk_whole {off : Nat} (aligned : off % 8 = 0) (v : View) (x : Option Word) :
    accOk { view := v, off := BitVec.ofNat 22 off, size := 8, data := x } = true := by
  simp [accOk, aligned]

/-- An 8-byte access at an aligned offset addresses the whole register there. -/
theorem accPart_whole {off : Nat} (fits : off < 2 ^ 22) (aligned : off % 8 = 0) (v : View) (x : Option Word) :
    accPart { view := v, off := BitVec.ofNat 22 off, size := 8, data := x } = (off, .both) := by
  simp [accPart]
  omega

/-- The register port makes no copy for the journal. -/
@[simp] theorem Dev.tapPart_port (s : Dev) (off : Nat) (h : Half) (w : Word) : s.tapPart .port off h w = s := by
  cases h <;> simp [Dev.tapPart, Dev.tapWrite]

/-! ### SCH_HIST_SEL (Table 7.7) -/

/-- A write of SCH_HIST_SEL sets its two fields and keeps every other bit the register holds. -/
theorem exec_registerWrite_schHistSel (w : Word) (env : Env) (s : State) (up : s.dev.inReset Reg.schHistSel = false) :
    exec (.registerWrite { view := .port, off := BitVec.ofNat 22 Reg.schHistSel, size := 8, data := some w } env) s =
      .next { s with
        dev := s.dev.setReg Reg.schHistSel
          (setBits (setBits (s.dev.reg Reg.schHistSel) 16 16 (bits w 16 16)) 13 0 (bits w 13 0)) } := by
  rw [exec_registerWrite_write (.inr rfl) (accOk_whole rfl _ _) rfl, accPart_whole (by decide) rfl,
    Dev.tapPart_port, Dev.writeAt, up]
  rfl

/-- The device with every block out of reset and bit 14 of SCH_HIST_SEL set, a bit of no field. -/
def reservedBitSet : State :=
  { dev := { rst := { released := 9 }, rw := [(Reg.schHistSel, 0x4000)] } }

/-- Refutes O6: its first clause has the register end as `w &&& 0x13FFF` in every state, while a write changes the fields alone
(`writeFields`), so a bit of no field that the state holds stays. From `reservedBitSet`, in canonical form though no run makes
it, a write of 0 leaves 0x4000. The clause lacks the hypothesis that those bits are clear. -/
theorem not_registerAndWindowAccesses : ¬ Obligations.RegisterAndWindowAccesses := by
  unfold Obligations.RegisterAndWindowAccesses
  rintro ⟨⟨clears, -⟩, -⟩
  have cleared := clears 0 {} reservedBitSet (by decide)
  rw [exec_registerWrite_schHistSel 0 {} reservedBitSet (by decide)] at cleared
  have same := congrArg (fun t : State => t.dev.reg Reg.schHistSel) (Host.Outcome.next.inj cleared)
  exact absurd same (by decide)

end Sys2Proof.Machine

namespace Sys2Proof.Machine

/-! ### Fields of a flit -/

/-- A field of a number cut to `n` bits, where the field lies within them. -/
theorem bits_ofNat {n hi lo : Nat} (x : Nat) (fits : hi < n) (order : lo ≤ hi) :
    bits (BitVec.ofNat n x) hi lo = x / 2 ^ lo % 2 ^ (hi + 1 - lo) := by
  apply Nat.eq_of_testBit_eq
  intro i
  simp only [bits, BitVec.toNat_ofNat, ← Nat.shiftRight_eq_div_pow, Nat.testBit_mod_two_pow, Nat.testBit_shiftRight]
  by_cases h : i < hi + 1 - lo
  · have : lo + i < n := by omega
    simp [h, this]
  · simp [h]

/-- A bit is a field of one bit. -/
theorem bit_eq_bits {n : Nat} (w : BitVec n) (i : Nat) : bit w i = decide (bits w i i = 1) := by
  simp [bit, BitVec.getLsbD, bits, Nat.testBit_eq_decide_div_mod_eq, Nat.shiftRight_eq_div_pow]

/-- The first `n` of the 16-bit fields `f`, side by side from bit `lo` on. -/
def fields16 (lo : Nat) (f : Nat → Nat) (n : Nat) : Nat :=
  (List.range n).foldl (fun a v => a + at_ (lo + 16 * v) (f v)) 0

theorem fields16_succ (lo : Nat) (f : Nat → Nat) (n : Nat) :
    fields16 lo f (n + 1) = fields16 lo f n + 2 ^ lo * 2 ^ (16 * n) * f n := by
  simp [fields16, List.range_succ, at_, Nat.shiftLeft_eq, Nat.pow_add, Nat.mul_comm]

/-- The fields leave the `lo` bits below them free. -/
theorem fields16_dvd (lo : Nat) (f : Nat → Nat) (n : Nat) : 2 ^ lo ∣ fields16 lo f n := by
  induction n with
  | zero => exact Nat.dvd_zero _
  | succ n ih =>
    rw [fields16_succ, Nat.mul_assoc]
    exact Nat.dvd_add ih (Nat.dvd_mul_right _ _)

/-- A field that lies below them reads as without them. -/
theorem fields16_below {lo i k : Nat} (below : i + k ≤ lo) (a : Nat) (f : Nat → Nat) (n : Nat) :
    (a + fields16 lo f n) / 2 ^ i % 2 ^ k = a / 2 ^ i % 2 ^ k := by
  obtain ⟨rest, multiple⟩ := fields16_dvd lo f n
  have shift : 2 ^ lo * rest = 2 ^ i * (2 ^ k * (2 ^ (lo - i - k) * rest)) := by
    rw [← Nat.mul_assoc, ← Nat.mul_assoc, ← Nat.pow_add, ← Nat.pow_add]
    congr 2; omega
  rw [multiple, shift, Nat.add_mul_div_left _ _ (Nat.two_pow_pos _), Nat.add_mul_mod_self_left]

/-- What lies below the fields and the first `n` of them take `lo + 16 n` bits. -/
theorem fields16_lt {lo a : Nat} {f : Nat → Nat} (below : a < 2 ^ lo) (small : ∀ v, f v < 2 ^ 16) (n : Nat) :
    a + fields16 lo f n < 2 ^ lo * 2 ^ (16 * n) := by
  induction n with
  | zero => simpa [fields16] using below
  | succ n ih =>
    have top : 2 ^ lo * 2 ^ (16 * n) * (f n + 1) ≤ 2 ^ lo * 2 ^ (16 * n) * 2 ^ 16 := Nat.mul_le_mul_left _ (small n)
    rw [Nat.mul_succ] at top
    rw [fields16_succ, Nat.mul_succ, Nat.pow_add 2 (16 * n) 16, ← Nat.mul_assoc]
    omega

/-- Field `v` reads as `f v`, whatever lies below the fields. -/
theorem fields16_get {lo a : Nat} {f : Nat → Nat} (below : a < 2 ^ lo) (small : ∀ v, f v < 2 ^ 16) {n v : Nat} (in_ : v < n) :
    (a + fields16 lo f n) / 2 ^ (lo + 16 * v) % 2 ^ 16 = f v := by
  induction n with
  | zero => omega
  | succ n ih =>
    rw [fields16_succ, ← Nat.add_assoc]
    rcases Nat.lt_succ_iff_lt_or_eq.mp in_ with earlier | rfl
    · have shift : 2 ^ lo * 2 ^ (16 * n) * f n = 2 ^ (lo + 16 * v) * (2 ^ 16 * (2 ^ (16 * (n - v - 1)) * f n)) := by
        rw [← Nat.mul_assoc, ← Nat.mul_assoc, ← Nat.pow_add, ← Nat.pow_add, ← Nat.pow_add]
        congr 2; omega
      rw [shift, Nat.add_mul_div_left _ _ (Nat.two_pow_pos _), Nat.add_mul_mod_self_left, ih earlier]
    · rw [← Nat.pow_add, Nat.add_mul_div_left _ _ (Nat.two_pow_pos _),
        Nat.div_eq_of_lt (by rw [Nat.pow_add]; exact fields16_lt below small v), Nat.zero_add, Nat.mod_eq_of_lt (small v)]

/-! ### Error records -/

/-- Posting a record changes the error unit alone. -/
theorem Dev.postErr_eq (s : Dev) (off cls code detail sev : Nat) (part : Option Nat) :
    s.postErr off cls code detail sev part = { s with err := (s.postErr off cls code detail sev part).err } := by
  unfold Dev.postErr Dev.post
  split
  · rfl
  · split <;> rfl

/-- Posting a record always shows: it is queued, kept as the block's first, or counted as lost. -/
theorem Dev.post_err_ne (s : Dev) (blk : Nat) (r : BitVec 256) : (s.post blk r).err ≠ s.err := by
  have first_ne : ∀ f : FirstErr, f ≠ s.firstErr blk → f ≠ {} →
      ({ s.err with first := tset (fun _ => {}) s.err.first blk f } : Err) ≠ s.err := by
    intro f changed listed same
    have stored := congrArg (fun e : Err => tget (fun _ => {}) e.first blk) same
    simp only [tset, listed, if_false, tget_tput_same] at stored
    exact changed stored
  unfold Dev.post
  split
  case h_1 kept =>
    refine first_ne _ (fun same => ?_) (fun same => ?_)
    · exact absurd (congrArg FirstErr.lost same) (by simp)
    · exact absurd (congrArg FirstErr.lost same) (by simp)
  case h_2 free =>
    split
    · intro same
      exact absurd (congrArg Err.queue same) (by simp)
    · refine first_ne _ (fun same => ?_) (fun same => ?_)
      · exact absurd (congrArg FirstErr.held same) (by simp [free])
      · exact absurd (congrArg FirstErr.held same) (by simp)

/-! ### What a change of lock state or of parent may do -/

/-- The Capo a disarm by TIME_LOST leaves (R64). -/
def Capo.lostTime (c : Capo) : Capo := { c with st := .passed, armResult := 0x05 }

/-- TIME_LOST disarms a Capo that is armed or draining, and records it. -/
theorem Dev.timeLost_eq (s : Dev) :
    s.timeLost = { s with capo := if s.capoArmed then s.capo.lostTime else s.capo, err := s.timeLost.err } := by
  unfold Dev.timeLost Dev.capoArmed
  split
  · rw [Dev.postErr_eq]; rfl
  · rfl

/-- A change of lock state changes that state, and records it. -/
theorem Dev.setLock0_eq (s : Dev) (l : Lock) :
    s.setLock0 l = { s with rlg := { s.rlg with lock := l }, err := (s.setLock0 l).err } := by
  unfold Dev.setLock0
  split
  case isTrue same => subst same; rfl
  case isFalse => dsimp only; rw [Dev.postErr_eq]

/-- STALE also disarms (R38, R64). -/
theorem Dev.setLock_stale (s : Dev) :
    s.setLock .stale = { s with
      rlg := { s.rlg with lock := .stale }, capo := if s.capoArmed then s.capo.lostTime else s.capo
      err := (s.setLock .stale).err } := by
  unfold Dev.setLock Dev.oneClock
  dsimp only
  rw [Dev.timeLost_eq, Dev.setLock0_eq]
  rfl

/-- Between the two states the count stands: they differ at most in the rest of the Ruling domain, in error records, and in a
Capo disarmed by TIME_LOST. -/
structure Dev.KeepsTime (s t : Dev) : Prop where
  frame : t = { s with rlg := t.rlg, capo := t.capo, err := t.err }
  time : t.rlg.time = s.rlg.time
  epoch : t.rlg.epoch = s.rlg.epoch
  capo : t.capo = s.capo ∨ t.capo = s.capo.lostTime

namespace Dev.KeepsTime

theorem refl (s : Dev) : s.KeepsTime s := ⟨rfl, rfl, rfl, .inl rfl⟩

theorem trans {s t u : Dev} (h : s.KeepsTime t) (k : t.KeepsTime u) : s.KeepsTime u where
  frame := by rw [k.frame, h.frame]
  time := k.time.trans h.time
  epoch := k.epoch.trans h.epoch
  capo := by
    rcases k.capo with kc | kc <;> rcases h.capo with hc | hc <;> rw [kc, hc]
    · exact .inl rfl
    · exact .inr rfl
    · exact .inr rfl
    · exact .inr rfl

theorem now {s t : Dev} (h : s.KeepsTime t) : t.now = s.now := by
  rw [Dev.now, Dev.now, h.time, h.epoch]

theorem capoArmed {s t : Dev} (h : s.KeepsTime t) (off : s.capoArmed = false) : t.capoArmed = false := by
  unfold Dev.capoArmed at *
  rcases h.capo with c | c <;> rw [c]
  · exact off
  · rfl

theorem portDown {s t : Dev} (h : s.KeepsTime t) (p : Nat) : t.portDown p = s.portDown p := by
  unfold Dev.portDown
  rcases h.capo with c | c <;> rw [c]
  rfl

/-- Anything of the Ruling domain but the count. -/
theorem rlg (s : Dev) (r : Rlg) (time : r.time = s.rlg.time := by rfl) (epoch : r.epoch = s.rlg.epoch := by rfl) :
    s.KeepsTime { s with rlg := r } :=
  ⟨rfl, time, epoch, .inl rfl⟩

theorem ite {c : Prop} [Decidable c] {s t u : Dev} (yes : s.KeepsTime t) (no : s.KeepsTime u) :
    s.KeepsTime (if c then t else u) := by
  split
  · exact yes
  · exact no

/-- The order of the records posted on one clock. -/
theorem oneClock {s t : Dev} (u : Dev) (h : s.KeepsTime t) : s.KeepsTime (u.oneClock t) :=
  trans h ⟨rfl, rfl, rfl, .inl rfl⟩

theorem timeLost (s : Dev) : s.KeepsTime s.timeLost := by
  rw [Dev.timeLost_eq]
  refine ⟨rfl, rfl, rfl, ?_⟩
  dsimp only
  split
  · exact .inr rfl
  · exact .inl rfl

theorem setLock0 (s : Dev) (l : Lock) : s.KeepsTime (s.setLock0 l) := by
  rw [Dev.setLock0_eq]
  exact ⟨rfl, rfl, rfl, .inl rfl⟩

theorem setLock (s : Dev) (l : Lock) : s.KeepsTime (s.setLock l) := by
  unfold Dev.setLock
  cases l
  case free | stale => exact oneClock s (trans (setLock0 s _) (timeLost _))
  case locked => exact trans (setLock0 s _) (rlg _ _)
  case acquire | holdover | source => exact setLock0 s _

/-- A change of lock state with other changes of the Ruling domain. -/
theorem relock (s : Dev) (r : Rlg) (l : Lock) (time : r.time = s.rlg.time := by rfl) (epoch : r.epoch = s.rlg.epoch := by rfl) :
    s.KeepsTime (({ s with rlg := r } : Dev).setLock l) :=
  trans (rlg s r time epoch) (setLock _ l)

theorem takeParent (s : Dev) (p : Nat) (f : FirstUpdate) : s.KeepsTime (s.takeParent p f) := rlg s _

theorem acquire (s : Dev) (p : Nat) : s.KeepsTime (s.acquire p) := trans (takeParent s p _) (setLock _ _)

theorem seekParent (s : Dev) : s.KeepsTime s.seekParent := by
  unfold Dev.seekParent
  split
  · exact refl s
  · split
    · exact refl s
    · split
      · exact acquire s _
      · exact acquire s _
      · exact takeParent s _ _
      · exact refl s

theorem parentLost (s : Dev) : s.KeepsTime s.parentLost := by
  unfold Dev.parentLost
  split
  · split
    · exact takeParent s _ _
    · exact relock s _ _
  · exact trans (rlg s _) (seekParent _)
  · split
    · exact takeParent s _ _
    · exact relock s { s.rlg.freeRun 0 with slewBack := 0 } _
  · exact refl s

theorem afterBeacon (s : Dev) (p : Nat) : s.KeepsTime (s.afterBeacon p) := by
  refine trans ?_ (seekParent _)
  split
  · exact parentLost s
  · exact refl s

theorem setRlgPort (s : Dev) (p : Nat) (x : RlgPort) : s.KeepsTime (s.setRlgPort p x) := rlg s _

end Dev.KeepsTime

/-- Noting a neighbour's report sets SERVED at most. -/
theorem Dev.noteServed_cases (s : Dev) (st depth : Nat) :
    s.noteServed st depth = s ∨ s.noteServed st depth = { s with rlg := { s.rlg with served := true } } := by
  unfold Dev.noteServed
  dsimp only
  split
  · exact .inr rfl
  · exact .inl rfl

theorem Dev.KeepsTime.noteServed (s : Dev) (st depth : Nat) : s.KeepsTime (s.noteServed st depth) := by
  rcases s.noteServed_cases st depth with same | same <;> rw [same]
  · exact refl s
  · exact rlg s _

@[simp] theorem Dev.noteServed_lock (s : Dev) (st depth : Nat) : (s.noteServed st depth).rlg.lock = s.rlg.lock := by
  rcases s.noteServed_cases st depth with same | same <;> rw [same]

@[simp] theorem Dev.noteServed_parent (s : Dev) (st depth : Nat) : (s.noteServed st depth).rlg.parent = s.rlg.parent := by
  rcases s.noteServed_cases st depth with same | same <;> rw [same]

@[simp] theorem Dev.noteServed_bad (s : Dev) (st depth : Nat) : (s.noteServed st depth).rlg.bad = s.rlg.bad := by
  rcases s.noteServed_cases st depth with same | same <;> rw [same]

/-! ### A servo update moves the count forward or not at all (R36, R41) -/

/-- The 96-bit count of a Ruling domain. -/
def Rlg.count (r : Rlg) : Nat := r.epoch.toNat * 2 ^ 64 + r.time.toNat

theorem Dev.now_eq_count (s : Dev) : s.now = s.rlg.count := rfl

theorem Rlg.advance_count (r : Rlg) (d : Nat) (room : r.count + d < 2 ^ 96) : (r.advance d).count = r.count + d := by
  have time_lt := r.time.isLt
  simp only [Rlg.count, Rlg.advance, BitVec.toNat_ofNat, BitVec.toNat_add] at *
  omega

theorem Rlg.correct_count_ge (r : Rlg) (theta : Int) (room : r.count + (-theta).toNat < 2 ^ 96) :
    r.count ≤ (r.correct theta).count := by
  unfold Rlg.correct
  split
  · exact Nat.le_trans (Nat.le_add_right _ _) (Nat.le_of_eq (Rlg.advance_count r _ room).symm)
  · exact Nat.le_refl _

/-- Half the difference of two 64-bit spans, less a 32-bit asymmetry: a correction forward is far below a wrap. -/
theorem thetaOf_forward_lt (t1 t2 t3 t4 : Word) (asym : Nat) : (-(thetaOf t1 t2 t3 t4 (sext 32 asym))).toNat < 2 ^ 64 := by
  have sext64 : ∀ v, -2 ^ 63 ≤ sext 64 v ∧ sext 64 v < 2 ^ 63 := by intro v; simp only [sext]; split <;> omega
  have sext32 : sext 32 asym < 2 ^ 31 := by simp only [sext]; split <;> omega
  have forth := sext64 (t2 - t1).toNat
  have back := sext64 (t4 - t3).toNat
  unfold thetaOf
  omega

end Sys2Proof.Machine

namespace Sys2Proof.Machine

/-- What one servo update may do to the count: nothing, or one correction by theta, which in LOCKED follows only on fifteen
updates outside 100 ps (Table 2.3). -/
theorem Dev.update_cases (s : Dev) (theta : Int) :
    s.KeepsTime (s.update theta) ∨
      (s.rlg.lock = .locked → 15 ≤ s.rlg.bad) ∧
        ∃ u, s.KeepsTime u ∧ Dev.KeepsTime { u with rlg := u.rlg.correct theta } (s.update theta) := by
  unfold Dev.update
  dsimp only
  split
  case h_1 acquire =>
    by_cases owed : s.rlg.first = .correct
    · refine .inr ⟨by simp [acquire], s, .refl s, ?_⟩
      rw [if_pos owed]
      exact .ite (.relock { s with rlg := s.rlg.correct theta } _ _) (.rlg { s with rlg := s.rlg.correct theta } _)
    · rw [if_neg owed]
      exact .inl (.ite (.relock s _ _) (.rlg s _))
  case h_2 locked =>
    by_cases many : 16 ≤ if withinPs theta 100 then 0 else s.rlg.bad + 1
    · rw [if_pos many]
      refine .inr ⟨fun _ => ?_, _, .relock s _ _, .refl _⟩
      split at many <;> omega
    · rw [if_neg many]
      exact .inl (.rlg s _)
  case h_3 holdover =>
    by_cases far : withinPs theta 250
    · rw [if_neg (by simp [far])]
      exact .inl (.ite (.relock s _ _) (.rlg s _))
    · rw [if_pos (by simp [far])]
      exact .inr ⟨by simp [holdover], _, .relock s _ _, .refl _⟩
  case h_4 => exact .inl (.refl s)

theorem Dev.update_now_ge (s : Dev) (theta : Int) (room : s.now + (-theta).toNat < 2 ^ 96) : s.now ≤ (s.update theta).now := by
  rcases s.update_cases theta with kept | ⟨-, u, before, after⟩
  · exact Nat.le_of_eq kept.now.symm
  · rw [after.now, ← before.now, Dev.now_eq_count, Dev.now_eq_count]
    exact u.rlg.correct_count_ge theta (by rwa [← Dev.now_eq_count, before.now])

theorem Dev.update_now_locked (s : Dev) (theta : Int) (locked : s.rlg.lock = .locked) (few : s.rlg.bad < 15) :
    (s.update theta).now = s.now := by
  rcases s.update_cases theta with kept | ⟨many, -⟩
  · exact kept.now
  · exact absurd (many locked) (by omega)

/-- A servo update arms no Capo. -/
theorem Dev.update_capoArmed (s : Dev) (theta : Int) (off : s.capoArmed = false) : (s.update theta).capoArmed = false := by
  rcases s.update_cases theta with kept | ⟨-, u, before, after⟩
  · exact kept.capoArmed off
  · exact after.capoArmed (before.capoArmed off : u.capoArmed = false)

/-- What a timestamp flit may do to the count: nothing, or one servo update on the device with the flit noted, which stands
at the same lock state (R35, R444). -/
theorem Dev.tstamp_cases (s : Dev) (p : Nat) (d : BitVec 512) (fine : Nat) :
    s.KeepsTime (s.tstamp p d fine) ∨
      ∃ (u : Dev) (theta : Int), s.KeepsTime u ∧ u.rlg.lock = s.rlg.lock ∧ u.rlg.bad = s.rlg.bad ∧ (-theta).toNat < 2 ^ 64 ∧
        s.tstamp p d fine = u.update theta := by
  have noted : ∀ (x : RlgPort) (st depth : Nat), s.KeepsTime ((s.setRlgPort p x).noteServed st depth) :=
    fun x st depth => (KeepsTime.setRlgPort s p x).trans (.noteServed _ st depth)
  unfold Dev.tstamp
  dsimp only
  split
  · exact .inl (.refl s)
  · split
    · exact .inl ((noted _ _ _).trans (.afterBeacon _ p))
    · split
      · exact .inl (noted _ _ _)
      · exact .inr ⟨_, _, (noted _ _ _).trans (.setRlgPort _ p _), Dev.noteServed_lock _ _ _, Dev.noteServed_bad _ _ _,
          thetaOf_forward_lt _ _ _ _ _, rfl⟩

/-- Where no Capo is armed, TSTAMP is what the Ruling domain does with the flit (R64). -/
theorem exec_tstamp_unarmed (p : Fin 16) (d : BitVec 512) (fine : BitVec 13) (s : State)
    (off : (s.dev.tstamp p d fine.toNat).capoArmed = false) :
    exec (.tstamp p d fine) s = .next { s with dev := s.dev.tstamp p d fine.toNat } := by
  show onDev (fun s => (s.tstamp p d fine.toNat).applyLate s.now) s = _
  simp [onDev, Dev.applyLate, off]

/-- Settles O5: a flit corrects the count at most once, by a step forward or by a slew, and in LOCKED it steps only where
fifteen updates before it were outside 100 ps. -/
theorem timestampNeverMovesTimeBack : Obligations.TimestampNeverMovesTimeBack := by
  unfold Obligations.TimestampNeverMovesTimeBack
  intro p d fine s t off room ran
  rcases s.dev.tstamp_cases p d fine.toNat with kept | ⟨u, theta, before, lock, bad, small, updated⟩
  · rw [exec_tstamp_unarmed p d fine s (kept.capoArmed off)] at ran
    obtain rfl := Host.Outcome.next.inj ran
    exact ⟨Nat.le_of_eq kept.now.symm, fun _ _ => kept.now⟩
  · have armed : (s.dev.tstamp p d fine.toNat).capoArmed = false := by
      rw [updated]; exact u.update_capoArmed theta (before.capoArmed off)
    rw [exec_tstamp_unarmed p d fine s armed, updated] at ran
    obtain rfl := Host.Outcome.next.inj ran
    refine ⟨?_, fun locked few => ?_⟩
    · exact Nat.le_trans (Nat.le_of_eq before.now.symm) (u.update_now_ge theta (by rw [before.now]; omega))
    · exact (u.update_now_locked theta (lock.trans locked) (by rwa [bad])).trans before.now

end Sys2Proof.Machine

namespace Sys2Proof.Machine

/-! ### The snapshot (R32) -/

/-- RLG_SNAP takes time and epoch from one state, and nothing else moves. -/
theorem exec_rlgSnap (s : State) :
    exec .rlgSnap s = .next { s with dev := { s.dev with rlg := { s.dev.rlg with
      snapTime := s.dev.rlg.time, snapEpoch := s.dev.rlg.epoch } } } := rfl

/-- Settles O55: the write copies the two at once. -/
theorem snapCopiesTimeAndEpoch : Obligations.SnapCopiesTimeAndEpoch := by
  unfold Obligations.SnapCopiesTimeAndEpoch
  exact fun s => ⟨_, exec_rlgSnap s, rfl, rfl, rfl⟩

end Sys2Proof.Machine

namespace Sys2Proof.Machine

/-! ### A source without a parent (R33, R44) -/

/-- A source takes no parent. -/
theorem Dev.seekParent_source (s : Dev) (source : s.rlg.lock = .source) : s.seekParent = s := by
  unfold Dev.seekParent
  split
  · rfl
  · cases s.firstCandidate <;> simp [source]

/-- A source that has no parent loses and takes none at a beacon. -/
theorem Dev.afterBeacon_source (s : Dev) (p : Nat) (source : s.rlg.lock = .source) (orphan : s.rlg.parent = none) :
    s.afterBeacon p = s := by
  have other : s.isParent p = false := by simp [Dev.isParent, orphan]
  simp [Dev.afterBeacon, other, Dev.seekParent_source s source]

/-- A source counts as served from a neighbour's entry to ACQUIRE below it on, outside replay (R44, R351). -/
theorem Dev.noteServed_source (s : Dev) (st depth : Nat) (source : s.rlg.lock = .source) :
    s.noteServed st depth = { s with rlg := { s.rlg with
      served := s.rlg.served || (st == 1 && decide (s.rlgDepth < depth) && !s.det.replay) } } := by
  have beacon : (s.beaconState == 5 || s.beaconState == 2 || s.beaconState == 3) = !s.det.replay := by
    cases replay : s.det.replay <;> simp [Dev.beaconState, source, Lock.code, replay]
  unfold Dev.noteServed
  dsimp only
  rw [beacon]
  split
  case isTrue below => simp [below]
  case isFalse above => simp [Bool.eq_false_iff.mpr above]

/-- The same once a link and what is known of the neighbour have changed. -/
theorem Dev.noteServed_source_port (s : Dev) (p : Nat) (l : Link) (x : RlgPort) (st depth : Nat) (source : s.rlg.lock = .source) :
    ((s.setLink p l).setRlgPort p x).noteServed st depth = { s with
      rte := (s.setLink p l).rte
      rlg := { s.rlg with
        ports := (s.setRlgPort p x).rlg.ports
        served := s.rlg.served || (st == 1 && decide (s.rlgDepth < depth) && !s.det.replay) } } :=
  Dev.noteServed_source _ st depth source

/-! ### Link control flits (R222, Table 10.22) -/

/-- The flit's fields below the credit limits. -/
def Dev.lctlLow (s : Dev) (p : Nat) : Nat :=
  s.beaconState + at_ 8 (s.rlgDepth % 256) + at_ 16 (s.link p).exp.toNat
    + (if (s.link p).lost then at_ 32 (s.link p).exp.toNat + at_ 48 1 else 0)

theorem Dev.lctlFlit_eq (s : Dev) (p : Nat) :
    s.lctlFlit p = BitVec.ofNat 512 (s.lctlLow p + fields16 64 (fun v => (tget (fun _ => 0) (s.link p).grant v).toNat) 12) := rfl

theorem Dev.beaconState_lt (s : Dev) : s.beaconState < 6 := by
  unfold Dev.beaconState
  split
  · decide
  · cases s.rlg.lock <;> decide

theorem Dev.lctlLow_lt (s : Dev) (p : Nat) : s.lctlLow p < 2 ^ 64 := by
  have state := s.beaconState_lt
  have exp := (s.link p).exp.isLt
  unfold Dev.lctlLow
  simp only [at_, Nat.shiftLeft_eq]
  split <;> omega

/-- A field below the credit limits. -/
theorem Dev.lctlFlit_low (s : Dev) (p : Nat) {hi lo : Nat} (below : hi < 64) (order : lo ≤ hi) :
    bits (s.lctlFlit p) hi lo = s.lctlLow p / 2 ^ lo % 2 ^ (hi + 1 - lo) := by
  rw [Dev.lctlFlit_eq, bits_ofNat _ (by omega) order, fields16_below (by omega)]

/-- What LCTL_SEND's flit holds. -/
theorem Dev.lctlFlit_fields (s : Dev) (p : Nat) :
    bits (s.lctlFlit p) 7 0 = s.beaconState ∧ bits (s.lctlFlit p) 15 8 = s.rlgDepth % 256 ∧
      bits (s.lctlFlit p) 31 16 = (s.link p).exp.toNat ∧ bit (s.lctlFlit p) 48 = (s.link p).lost ∧
      ((s.link p).lost = true → bits (s.lctlFlit p) 47 32 = (s.link p).exp.toNat) ∧
      ∀ v < 12, bits (s.lctlFlit p) (79 + 16 * v) (64 + 16 * v) = (tget (fun _ => 0) (s.link p).grant v).toNat := by
  have state := s.beaconState_lt
  have exp := (s.link p).exp.isLt
  have low : s.lctlLow p = s.beaconState + (s.rlgDepth % 256) * 2 ^ 8 + (s.link p).exp.toNat * 2 ^ 16
      + (if (s.link p).lost then (s.link p).exp.toNat * 2 ^ 32 + 2 ^ 48 else 0) := by
    simp [Dev.lctlLow, at_, Nat.shiftLeft_eq]
  have beneath : s.beaconState + (s.rlgDepth % 256) * 2 ^ 8 + (s.link p).exp.toNat * 2 ^ 16 < 2 ^ 32 := by omega
  refine ⟨?_, ?_, ?_, ?_, fun lost => ?_, fun v in_ => ?_⟩
  · rw [s.lctlFlit_low p (by decide) (by decide), low]; split <;> omega
  · rw [s.lctlFlit_low p (by decide) (by decide), low]; split <;> omega
  · rw [s.lctlFlit_low p (by decide) (by decide), low]; split <;> omega
  · have asked : bit (s.lctlFlit p) 48 = decide (s.lctlLow p / 2 ^ 48 % 2 = 1) := by
      rw [bit_eq_bits, s.lctlFlit_low p (by decide) (by decide), show 48 + 1 - 48 = 1 by rfl, Nat.pow_one]
    rw [asked, low]
    generalize s.beaconState + (s.rlgDepth % 256) * 2 ^ 8 + (s.link p).exp.toNat * 2 ^ 16 = under at beneath
    cases (s.link p).lost
    · exact decide_eq_false (by simp only [Bool.false_eq_true, if_false]; omega)
    · exact decide_eq_true (by simp only [if_true]; omega)
  · rw [s.lctlFlit_low p (by decide) (by decide), low, if_pos lost]
    generalize s.beaconState + (s.rlgDepth % 256) * 2 ^ 8 + (s.link p).exp.toNat * 2 ^ 16 = under at beneath
    omega
  · rw [Dev.lctlFlit_eq, bits_ofNat _ (by omega) (by omega), show 79 + 16 * v + 1 - (64 + 16 * v) = 16 by omega]
    exact fields16_get (s.lctlLow_lt p) (fun v => BitVec.isLt _) in_

/-- LCTL_SEND on a port that is up. -/
theorem Dev.lctlSend_up (s : Dev) (p : Nat) (up : s.portUp p = true) :
    s.lctlSend p = (s.setLink p { s.link p with
      requests := (s.link p).requests + if (s.link p).lost then 1 else 0 }).emitUnit p 3 (s.link p).nextSeq (s.lctlFlit p) := by
  cases lost : (s.link p).lost <;> simp [Dev.lctlSend, up, lost]

/-- Taking credit limits leaves the units that wait for an acknowledgement. -/
theorem Link.takeLimits_held (l : Link) (d : BitVec 512) : (l.takeLimits d).held = l.held := by
  unfold Link.takeLimits
  generalize List.range 12 = vs
  induction vs generalizing l with
  | nil => rfl
  | cons v vs ih =>
    rw [List.foldl_cons, ih]
    dsimp only
    split <;> rfl

/-- The port once a link control flit `d` has acknowledged units and raised limits (R222). -/
def Dev.lctlLink (s : Dev) (p : Nat) (d : BitVec 512) : Link :=
  { (s.link p).takeLimits d with
    held := ((s.link p).takeLimits d).held.filter fun u => !seqBefore u.1 (BitVec.ofNat 16 (bits d 31 16)) }

/-- What the Ruling domain keeps of the beacon in a link control flit `d` (R33, R34). -/
def Dev.lctlBeacon (s : Dev) (p : Nat) (d : BitVec 512) : RlgPort :=
  { s.rlgPort p with
    nbState := BitVec.ofNat 3 (bits d 2 0), nbDepth := BitVec.ofNat 8 (bits d 15 8)
    beaconAt := some s.osc, lossDeclared := false }

theorem Dev.setLink_rlgPort (s : Dev) (p q : Nat) (l : Link) : (s.setLink p l).rlgPort q = s.rlgPort q := rfl

/-- LCTL with a valid beacon and no replay request. -/
theorem Dev.lctl_beacon (s : Dev) (p : Nat) (d : BitVec 512) (up : s.portUp p = true) (quiet : bit d 48 = false)
    (valid : bits d 2 0 < 6) :
    s.lctl p d = (((s.setLink p (s.lctlLink p d)).setRlgPort p (s.lctlBeacon p d)).noteServed
      (bits d 2 0) (bits d 15 8)).afterBeacon p := by
  unfold Dev.lctl
  rw [up, quiet]
  simp only [Bool.not_true, Bool.false_eq_true, if_false, if_neg (Nat.not_le.mpr valid), Dev.setLink_rlgPort, Dev.setLink_osc]
  rfl

/-- The same at a source without a parent: it neither loses nor takes one. -/
theorem Dev.lctl_source (s : Dev) (p : Nat) (d : BitVec 512) (up : s.portUp p = true) (source : s.rlg.lock = .source)
    (orphan : s.rlg.parent = none) (quiet : bit d 48 = false) (valid : bits d 2 0 < 6) :
    s.lctl p d = ((s.setLink p (s.lctlLink p d)).setRlgPort p (s.lctlBeacon p d)).noteServed (bits d 2 0) (bits d 15 8) := by
  rw [s.lctl_beacon p d up quiet valid]
  exact Dev.afterBeacon_source _ p ((Dev.noteServed_lock _ _ _).trans source) ((Dev.noteServed_parent _ _ _).trans orphan)

/-! ### Ruling loss (R34, R72) -/

/-- What a key reads as is the default or listed under it. -/
theorem tget_default_or_mem {α : Type} (d : Nat → α) (t : Tbl α) (k : Nat) : tget d t k = d k ∨ (k, tget d t k) ∈ t := by
  induction t with
  | nil => exact .inl rfl
  | cons q t ih =>
    obtain ⟨j, v⟩ := q
    by_cases here : j = k
    · subst here; simp [tget]
    · by_cases before : k < j
      · exact .inl (tget_before d j v t k before)
      · rw [show tget d ((j, v) :: t) k = tget d t k by simp [tget, here, before]]
        exact ih.imp_right (List.mem_cons_of_mem _)

/-- A connection with nothing unacknowledged offers nothing. -/
theorem Dev.nextTx_none (s : Dev) (c : Nat) (idle : (s.conn c).tx = []) : s.nextTx c = none := by
  simp [Dev.nextTx, idle]

/-- Nothing in arrival, queued or offered at any port, and no collective running, leaves port p alone. -/
theorem Dev.Lone.of_idle {s : Dev} {p : Nat} (arriving : (s.link p).rx = none) (queued : s.sch.q = []) (slots : s.slots = [])
    (exchs : s.exchs = []) (offers : ∀ c ∈ s.conns, c.2.tx = []) : s.Lone p where
  arriving := arriving
  queued := by simp [queued]
  slots := slots
  exchs := exchs
  offers c _ := by
    refine s.nextTx_none c.1 ?_
    rcases tget_default_or_mem (fun _ => {}) s.conns c.1 with unlisted | listed
    · rw [Dev.conn, unlisted]
    · exact offers _ listed

theorem Dev.abortThrough_lone (s : Dev) (p : Nat) (lone : s.Lone p) : s.abortThrough p = s := by
  simp [Dev.abortThrough, lone.arriving]

theorem Dev.dropOffered_none (n : Nat) (s : Dev) (p c : Nat) (none_ : s.nextTx c = none) : Dev.dropOffered n s p c = s := by
  cases n with
  | zero => rfl
  | succ n => simp [Dev.dropOffered, none_]

theorem Dev.dropQueued_lone (s : Dev) (p : Nat) (lone : s.Lone p) : s.dropQueued p = s := by
  have gone : (s.sch.q.filter fun x => x.port == p && !x.kind2) = [] := by
    refine List.filter_eq_nil_iff.mpr fun x in_ => ?_
    by_cases here : x.port = p
    · simp [lone.queued x in_ here]
    · simp [here]
  have kept : (s.sch.q.filter fun x => !(x.port == p && !x.kind2)) = s.sch.q := by
    refine List.filter_eq_self.mpr fun x in_ => ?_
    by_cases here : x.port = p
    · simp [lone.queued x in_ here]
    · simp [here]
  have offers : ∀ l : List (Nat × Conn), (∀ c ∈ l, s.nextTx c.1 = none) →
      l.foldl (fun s c => Dev.dropOffered c.2.tx.length s p c.1) s = s := by
    intro l idle
    induction l with
    | nil => rfl
    | cons c l ih =>
      rw [List.foldl_cons, Dev.dropOffered_none _ _ _ _ (idle c (by simp))]
      exact ih fun c in_ => idle c (by simp [in_])
  simp only [Dev.dropQueued, gone, kept, List.foldl_nil]
  exact offers s.conns lone.offers

/-- A device without collectives loses none with a port. -/
theorem Dev.edgesLost_none (s : Dev) (p : Nat) (slots : s.slots = []) (exchs : s.exchs = []) (ex : Bool) :
    s.edgesLost ex p = s := by
  cases ex <;> simp [Dev.edgesLost, slots, exchs]

/-- The Capo once port p is down. -/
def Capo.withDown (c : Capo) (p : Nat) : Capo := { c with down := c.down ||| BitVec.ofNat 16 (2 ^ p) }

/-- A local apply at a port that is alone: the port is down already, or its bit is set, counted and recorded (R72). -/
theorem Dev.localApply_lone (s : Dev) (p code : Nat) (lone : s.Lone p) :
    s.localApply p code = if s.portDown p then s
      else (({ s with capo := s.capo.withDown p } : Dev).bump Reg.capoLocalCount).postErr Reg.rteCfg 0x09 code
        (p + at_ 16 (s.capo.withDown p).down.toNat) 1 := by
  have whole : ∀ t : Dev, t.slots = [] → t.exchs = [] → (t.edgesLost false p).edgesLost true p = t := by
    intro t slots exchs
    rw [t.edgesLost_none p slots exchs, t.edgesLost_none p slots exchs]
  unfold Dev.localApply
  rw [s.abortThrough_lone p lone, s.dropQueued_lone p lone]
  dsimp only
  by_cases down : s.portDown p = true
  · rw [if_pos down, if_pos down]
  · rw [if_neg down, if_neg down]
    refine whole _ ?_ ?_
    · rw [Dev.postErr_eq]; exact lone.slots
    · rw [Dev.postErr_eq]; exact lone.exchs

theorem Dev.localApply_lone_portDown (s : Dev) (p code : Nat) (fabric : p < 16) (lone : s.Lone p) :
    (s.localApply p code).portDown p = true := by
  rw [s.localApply_lone p code lone]
  split
  case isTrue down => exact down
  case isFalse =>
    rw [Dev.postErr_eq]
    simp only [Dev.portDown, Dev.bump_capo, Capo.withDown, bit, BitVec.getLsbD_or, BitVec.getLsbD_ofNat,
      Nat.testBit_two_pow_self, fabric, decide_true, Bool.and_true, Bool.or_true]

/-- A key reads as before where another is put in place, in canonical form or not. -/
theorem tget_tput_other {α : Type} (d : Nat → α) (t : Tbl α) {j k : Nat} (x : α) (other : j ≠ k) :
    tget d (tput t k x) j = tget d t j := by
  have passed : ∀ t : Tbl α, tget d ((k, x) :: t) j = if j < k then d j else tget d t j := by simp [tget, other.symm]
  induction t with
  | nil => simp [tput, passed, tget]
  | cons q t ih =>
    obtain ⟨i, v⟩ := q
    by_cases replaced : i = k
    · subst replaced
      simp [tput, passed, tget, other.symm]
    · by_cases inserted : k < i
      · rw [show tput ((i, v) :: t) k x = (k, x) :: (i, v) :: t by simp [tput, replaced, inserted], passed]
        split
        · exact (tget_before d i v t j (by omega)).symm
        · rfl
      · simp [tput, replaced, inserted, tget, ih]

/-- One more is never none. -/
theorem satAdd_one_ne_zero (w : Word) : satAdd w 1 ≠ 0 := by
  intro zero
  have value : (satAdd w 1).toNat = 0 := by rw [zero]; rfl
  simp only [satAdd, BitVec.toNat_ofNat] at value
  omega

/-- A count stands where another register's goes up. -/
theorem Dev.count_bump_other (s : Dev) {j k : Nat} (other : j ≠ k) : (s.bump k).count j = s.count j := by
  simp only [Dev.bump, Dev.bumpBy, Dev.count, tset, satAdd_one_ne_zero, if_false]
  exact tget_tput_other _ _ _ other

/-- What a local apply at a port that is alone leaves as it was. -/
theorem Dev.localApply_lone_frame (s : Dev) (p code : Nat) (lone : s.Lone p) :
    s.localApply p code = { s with
      capo := (s.localApply p code).capo, cnt := (s.localApply p code).cnt, err := (s.localApply p code).err } := by
  rw [s.localApply_lone p code lone]
  split
  · rfl
  · rw [Dev.postErr_eq]; rfl

theorem Dev.localApply_lone_count (s : Dev) (p code : Nat) (lone : s.Lone p) {off : Nat} (other : off ≠ Reg.capoLocalCount) :
    (s.localApply p code).count off = s.count off := by
  rw [s.localApply_lone p code lone]
  split
  · rfl
  · rw [Dev.postErr_eq]
    exact Dev.count_bump_other _ other

/-- The port once its Ruling loss is declared and counted (R34). -/
def Dev.lossDeclared (s : Dev) (p : Nat) : Dev :=
  (s.setRlgPort p { s.rlgPort p with lossDeclared := true }).bump (Reg.rlgPortBeaconLoss p)

/-- The device once the loss has taken the port down. -/
def Dev.lossApplied (s : Dev) (p : Nat) : Dev := (s.lossDeclared p).localApply p 1

/-- RULING_LOSS where the last valid beacon is 200 ns old: the port goes down, and a parent there is lost. -/
theorem Dev.rulingLoss_declared (s : Dev) (p b : Nat) (fabric : s.isEth p = false) (beacon : (s.rlgPort p).beaconAt = some b)
    (fresh : (s.rlgPort p).lossDeclared = false) (late : max b (s.link p).upAt + 25 ≤ s.osc) :
    s.rulingLoss p =
      s.oneClock (if (s.lossApplied p).isParent p then (s.lossApplied p).parentLost else s.lossApplied p) := by
  have seen : (s.rlgPort p).beaconAt.isSome = true := by rw [beacon]; rfl
  have due : ¬ s.osc < max ((s.rlgPort p).beaconAt.getD 0) (s.link p).upAt + nsTicks 200 := by
    rw [beacon]; exact Nat.not_lt.mpr late
  simp only [Dev.rulingLoss, fabric, seen, fresh, due, Bool.or_true, Bool.not_true, Bool.or_false, Bool.false_eq_true,
    decide_false, if_false]
  rfl

/-- After the port went down, only the Ruling domain goes on. -/
theorem Dev.rulingLoss_keepsTime (s : Dev) (p b : Nat) (fabric : s.isEth p = false) (beacon : (s.rlgPort p).beaconAt = some b)
    (fresh : (s.rlgPort p).lossDeclared = false) (late : max b (s.link p).upAt + 25 ≤ s.osc) :
    (s.lossApplied p).KeepsTime (s.rulingLoss p) := by
  rw [s.rulingLoss_declared p b fabric beacon fresh late]
  exact .oneClock s (.ite (.parentLost _) (.refl _))

/-! ### The holdover limit (R38, R64) -/

/-- HOLD_ERR where a relock, or free running, ends at the limit. -/
def Rlg.limitBase (r : Rlg) : Nat := if r.parent.isSome then r.relockBase else r.holdBase + r.holdTicks / 62500

/-- At the limit the device is STALE, and takes no parent where no candidate qualifies. -/
theorem Dev.holdoverLimitHit_stale (s : Dev) (held : s.rlg.lock = .holdover) (above : s.holdoverLimit < s.rlg.holdErr)
    (none_ : s.firstCandidate = none) :
    s.holdoverLimitHit = ({ s with rlg := s.rlg.freeRun s.rlg.limitBase } : Dev).setLock .stale := by
  have hit : s.holdoverLimitHit = (({ s with rlg := s.rlg.freeRun s.rlg.limitBase } : Dev).setLock .stale).seekParent := by
    simp only [Dev.holdoverLimitHit, held, above, decide_true, Bool.and_true, if_true]
    rfl
  have still : (({ s with rlg := s.rlg.freeRun s.rlg.limitBase } : Dev).setLock .stale).firstCandidate = none := by
    rw [Dev.setLock_stale]; exact none_
  rw [hit]
  simp [Dev.seekParent, still]

/-! ### The obligation -/

/-- LCTL_SEND emits the flit, and counts a replay request. -/
theorem exec_lctlSend (p : Fin 16) (s : State) (up : s.dev.portUp p = true) :
    ∃ d : BitVec 512, exec (.lctlSend p) s = .next { s with dev := (s.dev.setLink p { s.dev.link p with
        requests := (s.dev.link p).requests + if (s.dev.link p).lost then 1 else 0 }).emit (.unit p d (linkTag 3 (s.dev.link p).nextSeq d)) } ∧
      bits d 7 0 = s.dev.beaconState ∧ bits d 15 8 = s.dev.rlgDepth % 256 ∧ bits d 31 16 = (s.dev.link p).exp.toNat ∧
      bit d 48 = (s.dev.link p).lost ∧ ((s.dev.link p).lost = true → bits d 47 32 = (s.dev.link p).exp.toNat) ∧
      ∀ v < 12, bits d (79 + 16 * v) (64 + 16 * v) = (tget (fun _ => 0) (s.dev.link p).grant v).toNat := by
  refine ⟨s.dev.lctlFlit p, ?_, s.dev.lctlFlit_fields p⟩
  show onDev (fun s => s.lctlSend p) s = _
  rw [onDev, s.dev.lctlSend_up p up]
  rfl

/-- LCTL with a valid beacon and no replay request changes the port's link and what the Ruling domain knows of the neighbour. -/
theorem exec_lctl_source (p : Fin 16) (d : BitVec 512) (s : State) (up : s.dev.portUp p = true) (source : s.dev.rlg.lock = .source)
    (orphan : s.dev.rlg.parent = none) (quiet : bit d 48 = false) (valid : bits d 2 0 < 6) :
    exec (.lctl p d) s = .next { s with dev := { s.dev with
      rte := (s.dev.setLink p (s.dev.lctlLink p d)).rte
      rlg := { s.dev.rlg with
        ports := (s.dev.setRlgPort p (s.dev.lctlBeacon p d)).rlg.ports
        served := s.dev.rlg.served || (bits d 2 0 == 1 && decide (s.dev.rlgDepth < bits d 15 8) && !s.dev.det.replay) } } } := by
  show onDev (fun s => s.lctl p d) s = _
  rw [onDev, s.dev.lctl_source p d up source orphan quiet valid, s.dev.noteServed_source_port p _ _ _ _ source]

/-- RULING_LOSS at a port that is alone. -/
theorem exec_rulingLoss (p : Fin 16) (s : State) (b : Nat) (fabric : s.dev.isEth p = false)
    (beacon : (s.dev.rlgPort p).beaconAt = some b) (fresh : (s.dev.rlgPort p).lossDeclared = false)
    (late : max b (s.dev.link p).upAt + 25 ≤ s.dev.osc) (lone : (s.dev.lossDeclared p).Lone p) :
    ∃ t, exec (.rulingLoss p) s = .next t ∧ t.dev.portDown p = true ∧
      t.dev.count (Reg.rlgPortBeaconLoss p) =
        tget (fun _ => 0) (s.dev.bump (Reg.rlgPortBeaconLoss p)).cnt (Reg.rlgPortBeaconLoss p) ∧
      t.flash = s.flash ∧ t.dev.mem = s.dev.mem ∧ t.dev.conns = s.dev.conns ∧ t.dev.rings = s.dev.rings ∧
      t.dev.rlg.time = s.dev.rlg.time ∧ t.dev.rlg.epoch = s.dev.rlg.epoch := by
  have kept := s.dev.rulingLoss_keepsTime p b fabric beacon fresh late
  have applied := (s.dev.lossDeclared p).localApply_lone_frame p 1 lone
  have other : Reg.rlgPortBeaconLoss p ≠ Reg.capoLocalCount := by
    simp only [Reg.rlgPortBeaconLoss, Reg.capoLocalCount]; omega
  refine ⟨_, rfl, ?_, ?_, rfl, ?_, ?_, ?_, ?_, ?_⟩
  · exact (kept.portDown p).trans ((s.dev.lossDeclared p).localApply_lone_portDown p 1 p.isLt lone)
  · calc (s.dev.rulingLoss p).count (Reg.rlgPortBeaconLoss p)
        = (s.dev.lossApplied p).count (Reg.rlgPortBeaconLoss p) := by rw [kept.frame]; rfl
      _ = (s.dev.lossDeclared p).count (Reg.rlgPortBeaconLoss p) :=
        (s.dev.lossDeclared p).localApply_lone_count p 1 lone other
      _ = _ := rfl
  · exact (congrArg (·.mem) kept.frame).trans (congrArg (·.mem) applied)
  · exact (congrArg (·.conns) kept.frame).trans (congrArg (·.conns) applied)
  · exact (congrArg (·.rings) kept.frame).trans (congrArg (·.rings) applied)
  · exact kept.time.trans (congrArg (·.rlg.time) applied)
  · exact kept.epoch.trans (congrArg (·.rlg.epoch) applied)

/-- HOLDOVER_LIMIT_EXCEEDED without a candidate. -/
theorem exec_holdoverLimitExceeded (s : State) (held : s.dev.rlg.lock = .holdover)
    (above : s.dev.holdoverLimit < s.dev.rlg.holdErr) (none_ : s.dev.firstCandidate = none) :
    ∃ err, exec .holdoverLimitExceeded s = .next { s with dev := { s.dev with
      rlg := { s.dev.rlg.freeRun s.dev.rlg.limitBase with lock := .stale }
      capo := if s.dev.capoArmed then s.dev.capo.lostTime else s.dev.capo
      err := err } } := by
  refine ⟨(({ s.dev with rlg := s.dev.rlg.freeRun s.dev.rlg.limitBase } : Dev).setLock .stale).err, ?_⟩
  show onDev Dev.holdoverLimitHit s = _
  rw [onDev, s.dev.holdoverLimitHit_stale held above none_, Dev.setLock_stale]
  rfl

/-- Settles O4: its four commands one by one. The model's readings that it rests on are log entries 25 (SERVED from a beacon),
26 (what the 200 ns run from), 60 (requests counted as they are sent) and 111 (the parent dropped at the limit). -/
theorem linkControlAndRulingLoss : Obligations.LinkControlAndRulingLoss := by
  unfold Obligations.LinkControlAndRulingLoss
  refine ⟨⟨exec_lctlSend, ?_⟩, ?_, ?_⟩
  · intro p d s up source orphan quiet valid
    refine ⟨_, exec_lctl_source p d s up source orphan quiet valid, ?_, rfl, rfl, rfl⟩
    simp only [Dev.lctlLink, Link.takeLimits_held]
  · intro p s b fabric beacon fresh late arriving queued slots exchs offers
    exact exec_rulingLoss p s b fabric beacon fresh late (.of_idle arriving queued slots exchs offers)
  · intro s held above none_
    obtain ⟨err, ran⟩ := exec_holdoverLimitExceeded s held above none_
    refine ⟨_, ran, rfl, rfl, rfl, rfl, fun armed => ?_, fun ⟨notArmed, notDraining⟩ => ?_, rfl⟩
    · exact if_pos (by simpa [Dev.capoArmed] using armed)
    · exact if_neg (by simp [Dev.capoArmed, notArmed, notDraining])

end Sys2Proof.Machine

namespace Sys2Proof.Machine

/-! ### Time set and wrapped (R31, R44) -/

/-- RLG_SET at a source that serves nobody. -/
theorem exec_rlgSet_source (w : Word) (s : State) (source : s.dev.rlg.lock = .source) (idle : s.dev.rlg.served = false) :
    exec (.rlgSet w) s = .next { s with dev := { s.dev with rlg := { s.dev.rlg with
      time := w, epoch := (s.dev.reg Reg.rlgSetEpoch).setWidth 32 } } } := by
  have epoch : BitVec.ofNat 32 (bits (s.dev.reg Reg.rlgSetEpoch) 31 0) = (s.dev.reg Reg.rlgSetEpoch).setWidth 32 := by
    apply BitVec.eq_of_toNat_eq
    simp [bits]
  show onDev (fun s => s.rlgSet w) s = _
  simp [onDev, Dev.rlgSet, source, idle, epoch]

/-- RLG_SET anywhere else posts a host-access record, and does nothing more. -/
theorem exec_rlgSet_refused (w : Word) (s : State) (refused : ¬ (s.dev.rlg.lock = .source ∧ s.dev.rlg.served = false)) :
    exec (.rlgSet w) s = .next { s with dev := s.dev.hostErr .pf Reg.rlgSet 0x02 w } := by
  have no : (decide (s.dev.rlg.lock = .source) && !s.dev.rlg.served) = false := by simpa using refused
  show onDev (fun s => s.rlgSet w) s = _
  simp [onDev, Dev.rlgSet, no]

/-- The count moved to its end stands at 0 in the next epoch. -/
theorem Rlg.advance_wrap (r : Rlg) : r.advance (2 ^ 64 - r.time.toNat) = { r with time := 0, epoch := r.epoch + 1 } := by
  have whole : r.time.toNat + (2 ^ 64 - r.time.toNat) = 2 ^ 64 := by have := r.time.isLt; omega
  simp only [Rlg.advance, whole]
  rfl

/-- EPOCH_WRAP within a tick of the end. -/
theorem exec_epochWrap (s : State) (runs : s.dev.rlgRuns = true) (near : 2 ^ 64 - s.dev.rlg.time.toNat ≤ 8192) :
    exec .epochWrap s = .next { s with dev := ({ s.dev with
      rlg := { s.dev.rlg with time := 0, epoch := s.dev.rlg.epoch + 1 } } : Dev).epochRecord s.dev.rlg.epoch } := by
  show onDev Dev.epochWrap s = _
  simp only [onDev, Dev.epochWrap, runs, near, decide_true, Bool.and_true, if_true, Rlg.advance_wrap]

/-- The journal's record of a wrap leaves the core. -/
theorem SameCore.epochRecord (s : Dev) (e : BitVec 32) : s.SameCore (s.epochRecord e) := by
  unfold Dev.epochRecord
  split
  · exact refl s
  · exact folPut s _ _ _ _

/-! ### Timestamp flits (Table 2.1) -/

/-- The fields of a timestamp flit (Table 2.1), from TX_TIME on. -/
def tstampFields (time state depth seq lastTx lastRx lastSeq : Nat) : BitVec 512 :=
  BitVec.ofNat 512 (time % 2 ^ 96 + at_ 96 state + at_ 104 (depth % 256) + at_ 112 seq + at_ 128 lastTx + at_ 192 lastRx
    + at_ 256 lastSeq)

theorem tstampFields_get {time state depth seq lastTx lastRx lastSeq : Nat} (hstate : state < 2 ^ 8) (hseq : seq < 2 ^ 16)
    (htx : lastTx < 2 ^ 64) (hrx : lastRx < 2 ^ 64) (hlast : lastSeq < 2 ^ 16) :
    let d := tstampFields time state depth seq lastTx lastRx lastSeq
    bits d 95 0 = time % 2 ^ 96 ∧ bits d 103 96 = state ∧ bits d 111 104 = depth % 256 ∧ bits d 127 112 = seq ∧
      bits d 191 128 = lastTx ∧ bits d 255 192 = lastRx ∧ bits d 271 256 = lastSeq := by
  have htime : time % 2 ^ 96 < 2 ^ 96 := Nat.mod_lt _ (by decide)
  have hdepth : depth % 256 < 2 ^ 8 := Nat.mod_lt _ (by decide)
  unfold tstampFields
  generalize time % 2 ^ 96 = t at *
  generalize depth % 256 = k at *
  simp only [at_, Nat.shiftLeft_eq]
  refine ⟨?_, ?_, ?_, ?_, ?_, ?_, ?_⟩ <;> rw [bits_ofNat _ (by decide) (by decide)] <;> omega

/-- The flit that port p sends, `fine` ru after the last tick. -/
def Dev.tstampFlit (s : Dev) (p fine : Nat) : BitVec 512 :=
  let x := s.rlgPort p
  tstampFields (s.fineNow fine) s.beaconState s.rlgDepth x.txSeq.toNat x.lastTx.toNat x.lastRx.toNat x.lastSeq.toNat

/-- The port once it has sent that flit: the sequence goes on, and the flit is kept for its echo. -/
def Dev.tstampSent (s : Dev) (p fine : Nat) : RlgPort :=
  let x := s.rlgPort p
  { x with
    txSeq := x.txSeq + 1
    sent := (x.sent.filter fun q => s.osc ≤ q.2.2 + 500) ++ [(x.txSeq, BitVec.ofNat 64 (s.fineNow fine), s.osc)] }

theorem Dev.tstampSend_up (s : Dev) (p fine : Nat) (up : s.portUp p = true) :
    s.tstampSend p fine =
      (s.setRlgPort p (s.tstampSent p fine)).emitUnit p 4 (s.link p).nextSeq (s.tstampFlit p fine) := by
  unfold Dev.tstampSend
  rw [up]
  rfl

/-- TIMESTAMP_FLIT_SEND emits the flit and changes the port's Ruling state alone. -/
theorem exec_timestampFlitSend (p : Fin 16) (fine : BitVec 13) (s : State) (up : s.dev.portUp p = true) :
    exec (.timestampFlitSend p fine) s = .next { s with
      dev := (s.dev.setRlgPort p (s.dev.tstampSent p fine.toNat)).emitUnit
        p 4 (s.dev.link p).nextSeq (s.dev.tstampFlit p fine.toNat) } := by
  show onDev (fun s => s.tstampSend p fine.toNat) s = _
  rw [onDev, s.dev.tstampSend_up p _ up]

/-- Where the count runs, an instant `fine` ru after the last tick. -/
theorem Dev.fineNow_time (s : Dev) (fine : BitVec 13) (runs : s.rlgRuns = true) :
    BitVec.ofNat 64 (s.fineNow fine.toNat) = s.rlg.time + fine.setWidth 64 := by
  apply BitVec.eq_of_toNat_eq
  have small := fine.isLt
  simp only [Dev.fineNow, runs, if_true, Dev.now, BitVec.toNat_ofNat, BitVec.toNat_add, BitVec.toNat_setWidth]
  omega

/-- SERVED at a source once what is known of a neighbour has changed. -/
theorem Dev.noteServed_source_seen (s : Dev) (p : Nat) (x : RlgPort) (st depth : Nat) (source : s.rlg.lock = .source) :
    (s.setRlgPort p x).noteServed st depth = { s.setRlgPort p x with rlg := { (s.setRlgPort p x).rlg with
      served := s.rlg.served || (st == 1 && decide (s.rlgDepth < depth) && !s.det.replay) } } :=
  Dev.noteServed_source _ st depth source

/-- What a source keeps of a timestamp flit `d` (R35). -/
def Dev.tstampSeen (s : Dev) (p : Nat) (d : BitVec 512) (fine : BitVec 13) : RlgPort :=
  { s.rlgPort p with
    lastTx := d.setWidth 64, lastRx := s.rlg.time + fine.setWidth 64, lastSeq := (d >>> 112).setWidth 16
    nbState := (d >>> 96).setWidth 3, nbDepth := (d >>> 104).setWidth 8 }

/-- A field of a word as a word of its width. -/
theorem ofNat_bits {n w : Nat} (d : BitVec n) (lo hi : Nat) (width : hi + 1 - lo = w) :
    BitVec.ofNat w (bits d hi lo) = (d >>> lo).setWidth w := by
  apply BitVec.eq_of_toNat_eq
  simp [bits, width]

/-- A source notes a timestamp flit, and its count stands. -/
theorem Dev.tstamp_source (s : Dev) (p : Nat) (d : BitVec 512) (fine : BitVec 13) (up : s.portUp p = true)
    (source : s.rlg.lock = .source) (orphan : s.rlg.parent = none) :
    s.tstamp p d fine.toNat = (s.setRlgPort p (s.tstampSeen p d fine)).noteServed (bits d 98 96) (bits d 111 104) := by
  have other : s.isParent p = false := by simp [Dev.isParent, orphan]
  have runs : s.rlgRuns = true := by simp [Dev.rlgRuns, source]
  have first : BitVec.ofNat 64 (bits d 63 0) = d.setWidth 64 := by rw [ofNat_bits d 0 63 rfl, BitVec.ushiftRight_zero]
  have depth : ((d >>> 104).setWidth 8).toNat = bits d 111 104 := by simp [bits]
  unfold Dev.tstamp
  simp only [up, other, Bool.not_true, Bool.not_false, Bool.true_or, Bool.false_eq_true, if_false, if_true, s.fineNow_time fine runs,
    first, ofNat_bits d 112 127 rfl, ofNat_bits d 96 98 rfl, ofNat_bits d 104 111 rfl, depth]
  exact Dev.afterBeacon_source _ p ((Dev.noteServed_lock _ _ _).trans source) ((Dev.noteServed_parent _ _ _).trans orphan)

/-- A step of the count that does not move it carries no Capo past its instant (R64). -/
theorem Dev.applyLate_still (s : Dev) : s.applyLate s.now = s := by
  refine if_neg fun late => ?_
  simp only [Bool.and_eq_true, decide_eq_true_eq] at late
  omega

/-- TSTAMP at a source without a parent. -/
theorem exec_tstamp_source (p : Fin 16) (d : BitVec 512) (fine : BitVec 13) (s : State) (up : s.dev.portUp p = true)
    (source : s.dev.rlg.lock = .source) (orphan : s.dev.rlg.parent = none) :
    exec (.tstamp p d fine) s =
      .next { s with dev := (s.dev.setRlgPort p (s.dev.tstampSeen p d fine)).noteServed (bits d 98 96) (bits d 111 104) } := by
  have kept : s.dev.KeepsTime ((s.dev.setRlgPort p (s.dev.tstampSeen p d fine)).noteServed (bits d 98 96) (bits d 111 104)) :=
    (Dev.KeepsTime.setRlgPort s.dev p _).trans (.noteServed _ _ _)
  show onDev (fun s => (s.tstamp p d fine.toNat).applyLate s.now) s = _
  rw [onDev, s.dev.tstamp_source p d fine up source orphan, ← kept.now, Dev.applyLate_still]

/-! ### Fret and idle samples (R153, R232) -/

/-- Between the two states the Ruling domain and the instants of idle-period samples stand. -/
structure Dev.KeepsSampler (s t : Dev) : Prop where
  rlg : t.rlg = s.rlg
  idleAt : t.sch.idleAt = s.sch.idleAt

namespace Dev.KeepsSampler

theorem refl (s : Dev) : s.KeepsSampler s := ⟨rfl, rfl⟩

theorem trans {s t u : Dev} (h : s.KeepsSampler t) (k : t.KeepsSampler u) : s.KeepsSampler u :=
  ⟨k.rlg.trans h.rlg, k.idleAt.trans h.idleAt⟩

theorem fold {β : Type} (f : Dev → β → Dev) (h : ∀ (s : Dev) (x : β), s.KeepsSampler (f s x)) (l : List β) (s : Dev) :
    s.KeepsSampler (l.foldl f s) := by
  induction l generalizing s with
  | nil => exact refl s
  | cons x l ih => exact trans (h s x) (ih _)

theorem sampleQueue (s : Dev) (q : Nat) (l : Waiting) : s.KeepsSampler (s.sampleQueue q l) := ⟨rfl, rfl⟩

theorem sample (s : Dev) (p : Nat) : s.KeepsSampler (s.sample p) :=
  trans (fold _ (fun s _ => sampleQueue s _ _) _ s) (fold _ (fun s _ => sampleQueue s _ _) _ _)

theorem rest (s : Dev) (x : QPkt) : s.KeepsSampler (s.rest x) := by
  unfold Dev.rest
  split
  · split <;> exact ⟨rfl, rfl⟩
  · exact ⟨rfl, rfl⟩

theorem joinAs (s : Dev) (x : QPkt) (arr : Option (Nat × Nat)) (adaptive : Bool) : s.KeepsSampler (s.joinAs x arr adaptive).1 := by
  unfold Dev.joinAs
  dsimp only
  split
  · exact ⟨rfl, rfl⟩
  · exact ⟨rfl, rfl⟩
  · refine trans ?_ (rest _ _)
    split <;> exact ⟨rfl, rfl⟩
  · split
    · exact trans (t := s.bump Reg.rteAdaptHops) ⟨rfl, rfl⟩ (rest _ _)
    · exact rest s _

theorem join {s t : Dev} (h : s.KeepsSampler t) (leaf : Leaf) (arr : Option (Nat × Nat)) (inPort own : Option Nat) (p : Packet)
    (adaptive : Bool) : s.KeepsSampler (t.join leaf arr inPort own p adaptive).1 := trans h (joinAs _ _ _ _)

theorem telemetrySend {s t : Dev} (h : s.KeepsSampler t) : s.KeepsSampler t.telemetrySend := by
  refine trans h ?_
  unfold Dev.telemetrySend
  extract_lets w b n from_ body hdr rte u
  split
  · exact refl t
  · exact trans (join (s := t) (t := u) ⟨rfl, rfl⟩ _ _ _ _ _ _) ⟨rfl, rfl⟩

theorem cmapTake (s : Dev) (entry : Nat) : s.KeepsSampler (s.cmapTake entry) := telemetrySend ⟨rfl, rfl⟩

/-- A sample of a port's queues, and the congestion map record it may call for. -/
theorem sampled (s : Dev) (p entry : Nat) (c : Bool) :
    s.KeepsSampler (if c then (s.sample p).cmapTake entry else s.sample p) := by
  split
  · exact trans (sample s p) (cmapTake _ _)
  · exact sample s p

end Dev.KeepsSampler

/-- FRET_BOUNDARY into a fret not seen yet keeps it and samples. -/
theorem Dev.fretBoundary_keeps (s : Dev) (p c i a : Nat) (current : s.fretAt p s.now = some (c, i, a))
    (unseen : (s.rlgPort p).fret ≠ (c + 1, i)) :
    (s.setRlgPort p { s.rlgPort p with fret := (c + 1, i) }).KeepsSampler (s.fretBoundary p) := by
  have fresh : ((s.rlgPort p).fret == (c + 1, i)) = false := by simpa using unseen
  simp only [Dev.fretBoundary, current, fresh, Bool.false_eq_true, if_false]
  exact .sampled _ p i _

/-- IDLE_PERIOD_SAMPLE once the period has passed keeps the instant and samples. -/
theorem Dev.idleSample_keeps (s : Dev) (p : Nat) (bare : s.tabCount p = 0) (on_ : 0 < bits (s.st Reg.schHistCfg) 19 0)
    (due : tget (fun _ => 0) s.sch.idleAt p + nsTicks (bits (s.st Reg.schHistCfg) 19 0) ≤ s.osc) :
    ({ s with sch := { s.sch with idleAt := tset (fun _ => 0) s.sch.idleAt p s.osc } } : Dev).KeepsSampler (s.idleSample p) := by
  have period : (bits (s.st Reg.schHistCfg) 19 0 == 0) = false := by simpa using Nat.ne_of_gt on_
  have now : ¬ s.osc < tget (fun _ => 0) s.sch.idleAt p + nsTicks (bits (s.st Reg.schHistCfg) 19 0) := Nat.not_lt.mpr due
  simp only [Dev.idleSample, bare, period, now, bne_self_eq_false, Bool.or_false, decide_false, Bool.false_eq_true, if_false]
  exact .sampled _ p 0xFFFF _

/-! ### The obligation -/

/-- HIST_READ by a view that holds the register, the block out of reset (R154). -/
theorem exec_histRead (v : View) (s : State) (view : v = .pf ∨ v = .port) (up : s.dev.inReset Reg.schHistData0 = false) :
    exec (.histRead v) s = .next { s with dev := s.dev.histRead } := by
  rcases view with rfl | rfl <;>
  · show Host.Outcome.next _ = _
    simp only [up, Bool.false_eq_true, if_false]

/-- Settles O3: its commands one by one. The model's readings that it rests on are log entries 1 (a wrap within a tick), 23 (a
timestamp flit's STATE and DEPTH count as the neighbour's) and 25 (SERVED from them). -/
theorem rulingTimeFlitsAndSamples : Obligations.RulingTimeFlitsAndSamples := by
  unfold Obligations.RulingTimeFlitsAndSamples
  refine ⟨⟨exec_rlgSnap, exec_rlgSet_source, ?_, ?_⟩, ⟨?_, ?_⟩, ?_, ?_, ?_⟩
  · intro w s refused
    refine ⟨_, exec_rlgSet_refused w s refused, Dev.post_err_ne _ _ _, ?_⟩
    exact congrArg (fun d => { s with dev := d }) (Dev.postErr_eq s.dev _ _ _ _ _ _)
  · intro s runs near
    have core := SameCore.epochRecord
      ({ s.dev with rlg := { s.dev.rlg with time := 0, epoch := s.dev.rlg.epoch + 1 } } : Dev) s.dev.rlg.epoch
    exact ⟨_, exec_epochWrap s runs near, congrArg (·.rlg) core, rfl, congrArg (·.conns) core, congrArg (·.rings) core,
      congrArg (·.capo) core⟩
  · intro p fine s up
    obtain ⟨time, state, depth, seq, lastTx, lastRx, lastSeq⟩ :=
      tstampFields_get (time := s.dev.fineNow fine.toNat) (depth := s.dev.rlgDepth) (Nat.lt_trans s.dev.beaconState_lt (by decide))
        (s.dev.rlgPort p).txSeq.isLt (s.dev.rlgPort p).lastTx.isLt (s.dev.rlgPort p).lastRx.isLt (s.dev.rlgPort p).lastSeq.isLt
    exact ⟨_, _, exec_timestampFlitSend p fine s up, rfl, time, state, depth, seq, lastTx, lastRx, lastSeq, rfl⟩
  · intro p d fine s up source orphan
    rw [exec_tstamp_source p d fine s up source orphan, s.dev.noteServed_source_seen p _ _ _ source]
    rfl
  · intro p s c i a current unseen
    exact ⟨_, rfl, (s.dev.fretBoundary_keeps p c i a current unseen).rlg, rfl⟩
  · intro p s bare on_ due
    have kept := s.dev.idleSample_keeps p bare on_ due
    exact ⟨_, rfl, kept.idleAt, kept.rlg, rfl⟩
  · intro v s view up
    exact exec_histRead v s view up

end Sys2Proof.Machine

namespace Sys2Proof.Machine

/-! ### Writes of a register that the physical function and the register port hold -/

/-- A command that no virtual function has acts through the other two views. -/
theorem pfOnly_held {v : View} (view : v = .pf ∨ v = .port) (f : Dev → Dev) (s : Dev) : pfOnly v f s = f s := by
  rcases view with rfl | rfl
  · rfl
  · rfl

/-- An 8-byte write that such a command stands for acts once the journal has its copy. -/
theorem onWrite_held {v : View} (view : v = .pf ∨ v = .port) (off : Nat) (w : Word) (f : Dev → Dev) (s : State) :
    onWrite v off w (pfOnly v f) s = .next { s with dev := f (s.tapped v off w) } := by
  rw [onWrite, onDev, pfOnly_held view, State.tapped]

/-- The journal's copy of a write leaves the core. -/
theorem State.sameCore_tapped (s : State) (v : View) (off : Nat) (w : Word) : s.dev.SameCore (s.tapped v off w) :=
  SameCore.tapWrite _ _ _ _ _

section
variable (s : State) (v : View) (off : Nat) (w : Word)

@[simp] theorem State.tapped_capo : (s.tapped v off w).capo = s.dev.capo := congrArg (·.capo) (s.sameCore_tapped v off w)
@[simp] theorem State.tapped_rlg : (s.tapped v off w).rlg = s.dev.rlg := congrArg (·.rlg) (s.sameCore_tapped v off w)
@[simp] theorem State.tapped_run : (s.tapped v off w).run = s.dev.run := congrArg (·.run) (s.sameCore_tapped v off w)
@[simp] theorem State.tapped_now : (s.tapped v off w).now = s.dev.now := congrArg (·.now) (s.sameCore_tapped v off w)
@[simp] theorem State.tapped_capoBusy : (s.tapped v off w).capoBusy = s.dev.capoBusy :=
  congrArg (·.capoBusy) (s.sameCore_tapped v off w)
@[simp] theorem State.tapped_capoArmed : (s.tapped v off w).capoArmed = s.dev.capoArmed :=
  congrArg (·.capoArmed) (s.sameCore_tapped v off w)
@[simp] theorem State.tapped_applyInstant : (s.tapped v off w).applyInstant = s.dev.applyInstant :=
  congrArg (·.applyInstant) (s.sameCore_tapped v off w)
@[simp] theorem State.tapped_drainWindow : (s.tapped v off w).drainWindow = s.dev.drainWindow :=
  congrArg (·.drainWindow) (s.sameCore_tapped v off w)

end

/-! ### CHECK (R60) -/

/-- CHECK of a stage begins checking. -/
theorem Dev.checkCmd_stage (s : Dev) (stage : s.capo.st = .staged ∨ s.capo.st = .passed ∨ s.capo.st = .failed) :
    s.checkCmd = { s with capo := { s.capo with st := .checking } } := by
  unfold Dev.checkCmd
  rcases stage with st | st | st
  · rw [st]
  · rw [st]
  · rw [st]

theorem exec_check {v : View} (view : v = .pf ∨ v = .port) (s : State) :
    exec (.check v) s = .next { s with dev := (s.tapped v Reg.capoCtl 3).checkCmd } := onWrite_held view _ _ _ s

/-! ### CHECK_DONE (R60) -/

/-- The bits set for a list of failures are those of their codes. -/
theorem testBit_codes (l : Fails) (a k : Nat) :
    (l.foldl (fun a x => a ||| 2 ^ x.1) a).testBit k = (a.testBit k || l.any fun x => x.1 == k) := by
  induction l generalizing a with
  | nil => simp
  | cons x l ih =>
    rw [List.foldl_cons, ih, Nat.testBit_or, Nat.testBit_two_pow, List.any_cons, Bool.or_assoc]
    rfl

/-- CHECK_DONE changes the Capo alone. -/
theorem Dev.checkDone_frame (s : Dev) : s.checkDone = { s with capo := s.checkDone.capo } := by
  unfold Dev.checkDone
  split
  · rfl
  · rfl

/-- A stage passes where no check fails. -/
theorem Dev.checkDone_st (s : Dev) (checking : s.capo.st = .checking) :
    s.checkDone.capo.st = if s.checkAll = [] then .passed else .failed := by
  simp [Dev.checkDone, checking]

/-- CAPO_CHECK_FAIL has the bit of each code that failed. -/
theorem Dev.checkDone_checkFail (s : Dev) (checking : s.capo.st = .checking) {k : Nat} (in_ : k < 32) :
    bit s.checkDone.capo.checkFail k = s.checkAll.any fun x => x.1 == k := by
  have mask : s.checkDone.capo.checkFail = BitVec.ofNat 32 (s.checkAll.foldl (fun a x => a ||| 2 ^ x.1) 0) := by
    simp [Dev.checkDone, checking]
  rw [mask, bit, BitVec.getLsbD_ofNat, testBit_codes]
  simp [in_]

/-- Where it is not the boot Score's, CHECK_DONE does nothing more. -/
theorem exec_checkDone (s : State) (other : s.dev.rst.bootScore ≠ 2) :
    exec .checkDone s = .next { s with dev := s.dev.checkDone } := by
  have rst : s.dev.checkDone.rst = s.dev.rst := congrArg (·.rst) s.dev.checkDone_frame
  show onDev Dev.checkDoneBoot s = _
  simp [onDev, Dev.checkDoneBoot, rst, other]

/-! ### ARM, DISARM, DISCARD (R63, R67) -/

/-- ARM of a PASSED stage, the device knowing the time and the instant far enough ahead. -/
theorem Dev.armCmd_passed (s : Dev) (passed : s.capo.st = .passed) (stamp : s.rlg.lock.stampOk = true)
    (ahead : s.now + s.drainWindow + 1024000 ≤ s.applyInstant) :
    s.armCmd = { s with capo := { s.capo with st := .armed, applyAt := s.applyInstant, armResult := 0x01 } } := by
  simp [Dev.armCmd, passed, stamp, Nat.not_lt.mpr ahead, Dev.armEnds]

theorem exec_arm {v : View} (view : v = .pf ∨ v = .port) (s : State) :
    exec (.arm v) s = .next { s with dev := (s.tapped v Reg.capoCtl 4).armCmd } := onWrite_held view _ _ _ s

theorem Dev.capoArmed_iff (s : Dev) : s.capoArmed = true ↔ s.capo.st = .armed ∨ s.capo.st = .draining := by
  simp [Dev.capoArmed]

theorem Dev.disarmCmd_armed (s : Dev) (armed : s.capoArmed = true) :
    s.disarmCmd = { s with capo := { s.capo with st := .passed, armResult := 0x06 } } := if_pos armed

theorem exec_disarm {v : View} (view : v = .pf ∨ v = .port) (s : State) :
    exec (.disarm v) s = .next { s with dev := (s.tapped v Reg.capoCtl 5).disarmCmd } := onWrite_held view _ _ _ s

theorem Dev.discardCmd_free (s : Dev) (free : s.capoBusy = false) :
    s.discardCmd = { s with shadow := s.run, capo := s.capo.noStage } := by
  simp [Dev.discardCmd, free]

theorem exec_discard {v : View} (view : v = .pf ∨ v = .port) (s : State) :
    exec (.discard v) s = .next { s with dev := (s.tapped v Reg.capoCtl 6).discardCmd } := onWrite_held view _ _ _ s

/-! ### The obligation -/

/-- Settles O9: its commands one by one. That a staged firmware image survives DISCARD is log entry 114. -/
theorem capoCommands : Obligations.CapoCommands := by
  unfold Obligations.CapoCommands
  refine ⟨?_, ?_, ?_, ?_, ?_⟩
  · intro v s view stage
    rw [exec_check view, Dev.checkCmd_stage _ (by simpa using stage), State.tapped_capo]
  · intro s checking other
    refine ⟨_, exec_checkDone s other, s.dev.checkDone_st checking, fun k in_ => s.dev.checkDone_checkFail checking in_, ?_⟩
    exact congrArg (fun d => { s with dev := d }) s.dev.checkDone_frame
  · intro v s view passed stamp ahead
    rw [exec_arm view, Dev.armCmd_passed _ (by simpa using passed) (by simpa using stamp) (by simpa using ahead),
      State.tapped_capo, State.tapped_applyInstant]
  · intro v s view armed
    rw [exec_disarm view, Dev.disarmCmd_armed _ (by simpa [Dev.capoArmed_iff] using armed), State.tapped_capo]
  · intro v s view free
    refine ⟨_, exec_discard view s, ?_⟩
    rw [Dev.discardCmd_free _ (by simpa using free), State.tapped_run, State.tapped_capo]
    exact ⟨rfl, rfl, rfl, rfl⟩

end Sys2Proof.Machine

namespace Sys2Proof.Machine

/-! ### Copying a source into the staging area leaves the core (R56) -/

namespace SameCore

theorem pinnedAsk (s : Dev) (fn : Nat) : s.SameCore (s.pinnedAsk fn) := by
  unfold Dev.pinnedAsk
  split
  · exact bump s _
  · exact refl s

theorem extRead (s : Dev) (env : Env) (boot : Bool) (sel : Word) (off n : Nat) : s.SameCore (s.extRead env boot sel off n).1 := by
  unfold Dev.extRead
  extract_lets a
  split
  case isTrue =>
    have read := inkRead s boot a n
    generalize s.inkRead boot a n = r at read ⊢
    obtain ⟨u, o, b⟩ := r
    cases o with
    | _ => exact read
  case isFalse =>
    split
    · exact pinnedAsk s 0
    next p _ =>
      have read := trans (pinnedAsk s 0) (readT _ env 0 .host p n 0x01 0 0)
      generalize (s.pinnedAsk 0).readT env 0 .host p n = r at read ⊢
      obtain ⟨u, o, b⟩ := r
      cases o with
      | _ => exact read

theorem extWrite (s : Dev) (env : Env) (boot : Bool) (sel : Word) (off : Nat) (b : List Byte) :
    s.SameCore (s.extWrite env boot sel off b).1 := by
  unfold Dev.extWrite
  extract_lets a
  split
  case isTrue =>
    have wrote := inkWrite s boot a b
    generalize s.inkWrite boot a b = r at wrote ⊢
    obtain ⟨u, o⟩ := r
    cases o with
    | _ => exact wrote
  case isFalse =>
    split
    · exact pinnedAsk s 0
    next p _ =>
      have wrote := trans (pinnedAsk s 0) (writeT _ env 0 .host p b 0 0 false)
      generalize (s.pinnedAsk 0).writeT env 0 .host p b = r at wrote ⊢
      obtain ⟨u, o⟩ := r
      cases o with
      | _ => exact wrote

theorem copyIn (k : Nat) (s : Dev) (env : Env) (src : Word) (dst off left : Nat) (acc : List (List Byte)) :
    s.SameCore (Dev.copyIn k s env src dst off left acc).1 := by
  induction k generalizing s off left acc with
  | zero => exact refl s
  | succ k ih =>
    have read := extRead s env true src off (min 64 left)
    rw [Dev.copyIn]
    generalize s.extRead env true src off (min 64 left) = r at read ⊢
    obtain ⟨u, _ | b⟩ := r
    · exact read
    · have wrote := trans read (extWrite u env true u.stagingSel (dst + off) b)
      dsimp only
      generalize u.extWrite env true u.stagingSel (dst + off) b = q at wrote ⊢
      obtain ⟨v, _ | _⟩ := q
      · exact wrote
      · exact trans wrote (ih v _ _ _)

end SameCore

/-! ### Staging an image changes the stage alone (R55, R56) -/

/-- The two states differ at most in the shadows and the Capo. -/
def Dev.StageOnly (s t : Dev) : Prop := t = { s with shadow := t.shadow, capo := t.capo }

namespace Dev.StageOnly

theorem refl (s : Dev) : s.StageOnly s := rfl

theorem trans {s t u : Dev} (h : s.StageOnly t) (k : t.StageOnly u) : s.StageOnly u := by
  unfold Dev.StageOnly at *
  rw [k, h]

theorem fold {β : Type} {f : Dev → β → Dev} (h : ∀ (s : Dev) (x : β), s.StageOnly (f s x)) (l : List β) (s : Dev) :
    s.StageOnly (l.foldl f s) := by
  induction l generalizing s with
  | nil => exact refl s
  | cons x l ih => exact trans (h s x) (ih _)

/-- A branch that changes the stage alone on both sides. -/
theorem ite {s t u : Dev} {c : Prop} [Decidable c] (h : s.StageOnly t) (k : s.StageOnly u) : s.StageOnly (if c then t else u) := by
  split
  · exact h
  · exact k

theorem stageCell (s : Dev) (c : Nat) (v : Word) : s.StageOnly (s.stageCell c v) := rfl
theorem unstage (s : Dev) (lo hi : Nat) : s.StageOnly (s.unstage lo hi) := rfl
theorem secIncomplete (s : Dev) : s.StageOnly s.secIncomplete := rfl
theorem secRefuse (s : Dev) (type code i : Nat) : s.StageOnly (s.secRefuse type code i) := rfl

theorem stageRun (s : Dev) (cell : Nat → Nat) (b : List Byte) (i n : Nat) : s.StageOnly (s.stageRun cell b i n) :=
  fold (fun s _ => stageCell s _ _) _ s

/-- A section that may end short of what it declares. -/
theorem mayEndShort {s t : Dev} (c : Prop) [Decidable c] (h : s.StageOnly t) : s.StageOnly (if c then t.secIncomplete else t) :=
  ite (trans h (secIncomplete t)) h

theorem stageRoutes (s : Dev) (b : List Byte) : s.StageOnly (s.stageRoutes b) := by
  have cfg : s.StageOnly (((s.unstage (rteCell 0) (altCell 0)).stageCell Reg.rteCfg (w8 b 0)).stageCell Reg.rteCfg1 (w8 b 8)) := rfl
  exact ite (secIncomplete s) (mayEndShort _ (trans (trans cfg (stageRun _ _ _ _ _)) (stageRun _ _ _ _ _)))

theorem stageAlts (s : Dev) (b : List Byte) : s.StageOnly (s.stageAlts b) :=
  mayEndShort _ (trans (unstage s _ _) (stageRun _ _ _ _ _))

theorem stageTabs (s : Dev) (b : List Byte) (k p i : Nat) : s.StageOnly (Dev.stageTabs s b k p i) := by
  induction k generalizing s p i with
  | zero => exact refl s
  | succ k ih => exact trans (stageRun s _ _ _ _) (ite (secIncomplete _) (ih _ _ _))

theorem stageTablature (s : Dev) (b : List Byte) : s.StageOnly (s.stageTablature b) :=
  ite (secIncomplete s) (trans (trans (unstage s _ _) (stageRun _ _ _ _ _)) (stageTabs _ _ _ _ _))

theorem stageSlots (n : Nat) (s : Dev) (i : Nat) (seen : List Nat) (b : List Byte) :
    s.StageOnly (Dev.stageSlots n s i seen b) := by
  induction n generalizing s i seen b with
  | zero => exact refl s
  | succ n ih =>
    exact ite (secIncomplete s) (trans (ite (secRefuse s _ _ _) (stageRun s _ _ _ _)) (ih _ _ _ _))

theorem stageChords (s : Dev) (b : List Byte) : s.StageOnly (s.stageChords b) :=
  ite (secIncomplete s) (trans (trans (ite (secRefuse s _ _ _) (refl s)) (unstage _ _ _)) (stageSlots _ _ _ _ _))

theorem stagePtns (s : Dev) (b : List Byte) : s.StageOnly (s.stagePtns b) :=
  ite (secIncomplete s) (mayEndShort _ (trans (trans (unstage s _ _) (stageRun _ _ _ _ _)) (stageRun _ _ _ _ _)))

theorem stageSched (s : Dev) (b : List Byte) : s.StageOnly (s.stageSched b) := by
  refine mayEndShort _ (fold (fun s i => ?_) _ s)
  cases schTarget (leAt b (16 * i) 4) (leAt b (16 * i + 4) 4) with
  | none => exact secRefuse s _ _ _
  | some c => exact stageCell s _ _

theorem stageEth (s : Dev) (b : List Byte) : s.StageOnly (s.stageEth b) := by
  refine mayEndShort _ (trans (trans (unstage s _ _) (unstage _ _ _)) (fold (fun s i => ?_) _ _))
  exact ite (stageRun s _ _ _ _) (secRefuse s _ _ _)

theorem stageInk (s : Dev) (b : List Byte) : s.StageOnly (s.stageInk b) :=
  mayEndShort _ (trans (unstage s _ _) (stageRun _ _ _ _ _))

theorem stageSection (s : Dev) (type : Nat) (b : List Byte) : s.StageOnly (s.stageSection type b) := by
  unfold Dev.stageSection
  extract_lets c t
  have cleared : s.StageOnly t := rfl
  split
  · exact trans cleared (stageRoutes t b)
  · exact trans cleared (stageAlts t b)
  · exact trans cleared (stageTablature t b)
  · exact trans cleared (stageChords t b)
  · exact trans cleared (stagePtns t b)
  · exact trans cleared (stageSched t b)
  · exact trans cleared (stageEth t b)
  · exact trans cleared (stageInk t b)
  · exact cleared

theorem stageHeader (s : Dev) (img : List Byte) : s.StageOnly (s.stageHeader img) := by
  have three : s.StageOnly (((s.stageCell Reg.rlgCfg (w8 img 64)).stageCell Reg.rlgTabPeriod (w8 img 72)).stageCell
      Reg.rlgTabGuard (w8 img 80)) := rfl
  exact trans three (fold (fun s _ => stageCell s _ _) _ _)

end Dev.StageOnly

/-- Beside the stage, an image staged changes the digest kept of it. -/
theorem Dev.stageImage_frame (s : Dev) (img : List Byte) (n : Nat) : s.stageImage img n = { s with
    shadow := (s.stageImage img n).shadow, capo := (s.stageImage img n).capo, det := (s.stageImage img n).det } := by
  have staged : ∀ rlg : Bool, s.StageOnly ((scoreDir img).foldl (fun s d => s.stageSection d.1 (slice img d.2.1 d.2.2))
      (if rlg then s.stageHeader img else s)) := fun rlg =>
    .trans (.ite (.stageHeader s img) (.refl s)) (.fold (fun s d => .stageSection s _ _) _ _)
  unfold Dev.stageImage
  extract_lets whole id gen dir rlg t u types
  have frame : u = { s with shadow := u.shadow, capo := u.capo } := staged rlg
  rw [frame]

/-! ### LOAD and LOAD_DONE (R56) -/

/-- LOAD, not refused, latches what is to be read. -/
theorem Dev.loadCmd_taken (s : Dev) (taken : s.loadGate scoreMax = none) :
    s.loadCmd = { s with capo := { s.capo with
      loadPrev := s.capo.st, st := .loading, loadSrc := s.reg Reg.capoLoadSrc, loadLen := (s.reg Reg.capoLoadLen).toNat } } := by
  rw [Dev.loadCmd, taken]

theorem exec_load {v : View} (view : v = .pf ∨ v = .port) {w : Word} (cmd : bits w 7 0 = 1) (s : State) :
    exec (.load v w) s = .next { s with dev := (s.tapped v Reg.capoCtl w).loadCmd } := by
  let d := s.tapped v Reg.capoCtl w
  show Host.Outcome.next { s with dev := if bits w 7 0 = 1 then pfOnly v Dev.loadCmd d else d } = _
  rw [if_pos cmd, pfOnly_held view]

/-- LOAD_DONE of an image that is copied whole and verifies stages it. -/
theorem Dev.loadDone_staged (s : Dev) (f : Flash) (env : Env) {u : Dev} {img : List Byte} (loading : s.capo.st = .loading)
    (up : s.rst.coreUp = true)
    (copied : (s.enter env).copyIn (ceilDiv s.capo.loadLen 64) env s.capo.loadSrc 0 0 s.capo.loadLen [] = (u, some img))
    (verifies : u.scoreCode f img s.capo.loadLen = 0) :
    s.loadDone f env = (u.stageImage img s.capo.loadLen).loadEnds 0 := by
  simp [Dev.loadDone, loading, up, copied, verifies]

/-- The state once a source has been copied differs from the one before in no field of the core. -/
theorem SameCore.copied {s u : Dev} {env : Env} {k : Nat} {src : Word} {dst off left : Nat} {acc : List (List Byte)}
    {img : Option (List Byte)} (copied : (s.enter env).copyIn k env src dst off left acc = (u, img)) : s.SameCore u := by
  have core := trans (enter s env) (copyIn k (s.enter env) env src dst off left acc)
  rwa [copied] at core

/-- Where it is not the boot Score's, LOAD_DONE does nothing more. -/
theorem exec_loadDone (env : Env) (s : State) (other : (s.dev.loadDone s.flash env).rst.bootScore ≠ 2) :
    exec (.loadDone env) s = .next { s with dev := s.dev.loadDone s.flash env } := by
  show onDevF (fun f s => s.loadDoneBoot f env) s = _
  simp [onDevF, Dev.loadDoneBoot, other]

/-! ### LOAD_FW (R73, R403) -/

/-- LOAD_FW of an image that is copied whole and verifies stages it as firmware. -/
theorem Dev.loadFwCmd_staged (s : Dev) (f : Flash) (env : Env) {u : Dev} {img : List Byte} (taken : s.loadGate fwMax = none)
    (copied : (s.enter env).copyIn (ceilDiv (s.reg Reg.capoLoadLen).toNat 64) env (s.reg Reg.capoLoadSrc) fwRegion 0
      (s.reg Reg.capoLoadLen).toNat [] = (u, some img))
    (verifies : fwCode f img (s.reg Reg.capoLoadLen).toNat = 0) :
    s.loadFwCmd f env = { u with capo := { u.capo with
      fwStaged := true, fw := some (fwImageOf img), st := .staged, checkCode := 0xFF, loadResult := 0 } } := by
  simp [Dev.loadFwCmd, taken, copied, verifies, Dev.loadEnds]

theorem exec_loadFw {v : View} (view : v = .pf ∨ v = .port) (env : Env) (s : State) :
    exec (.loadFw v env) s = .next { s with dev := (s.tapped v Reg.capoCtl 2).loadFwCmd s.flash env } := by
  show Host.Outcome.next { s with dev := pfOnly v (fun d => d.loadFwCmd s.flash env) (s.tapped v Reg.capoCtl 2) } = _
  rw [pfOnly_held view]

/-! ### The drain window and STORE (R69, R74) -/

/-- DRAIN_OPEN of an armed Capo whose window is reached. -/
theorem exec_drainOpen (s : State) (armed : s.dev.capo.st = .armed) (mask : s.dev.capo.drainMask ≠ 0)
    (reached : s.dev.capo.applyAt ≤ s.dev.now + s.dev.drainWindow) :
    exec .drainOpen s = .next { s with dev := { s.dev with capo := { s.dev.capo with st := .draining } } } := by
  have masked : (s.dev.capo.drainMask != 0) = true := bne_iff_ne.mpr mask
  show onDev Dev.drainOpen s = _
  simp only [onDev, Dev.drainOpen, armed, masked, reached, decide_true, Bool.and_self, if_true]

/-- STORE of a signed running image that the image region still holds. -/
theorem Dev.storeCmd_held (s : Dev) (v : View) {n : Nat} {g : BitVec 256} {u : Dev} {img : List Byte}
    (running : s.capo.runImage = some (n, g)) (signed : s.capo.unsignedRun = false)
    (read : s.stagingRead {} 0 n = (u, some img)) (same : digest256 img = g) :
    s.storeCmd v = { u with rst := { u.rst with jobs := u.rst.jobs ++
      [{ what := .score img u.stagingBase, left := ceilDiv n 65536 + 1 }] } } := by
  simp [Dev.storeCmd, running, signed, read, same]

theorem exec_store {v : View} (view : v = .pf ∨ v = .port) (s : State) :
    exec (.store v) s = .next { s with dev := (s.tapped v Reg.capoCtl 7).storeCmd v } := onWrite_held view _ _ _ s

/-! ### FW_COPY_DONE and FINGERPRINT_DONE (R73, R341) -/

/-- The core released on the firmware `w`, whose write to flash is queued. -/
def Dev.coreReleased (s : Dev) (w : FwImage) : Dev :=
  { s with
    capo := { s.capo with coreHeld := false }
    rst := { s.rst with
      coreUp := true, coreImage := some w, kickAt := s.osc
      jobs := s.rst.jobs ++ [{ what := .firmware w.bytes, left := ceilDiv w.bytes.length 65536 + 1 }] } }

/-- FW_COPY_DONE of held firmware releases the core on it and measures it. -/
theorem exec_fwCopyDone (s : State) {w : FwImage} (held : s.dev.capo.coreHeld = true) (fw : s.dev.capo.fw = some w) :
    exec .fwCopyDone s = .next { s with dev := (s.dev.coreReleased w).measure 2 w.digest w.version } := by
  show onDev Dev.fwCopyDone s = _
  rw [onDev, Dev.fwCopyDone, held, fw]
  rfl

/-- FINGERPRINT_DONE of a pending fingerprint. -/
theorem exec_fingerprintDone (s : State) (pending : s.dev.det.fpPending = true) :
    exec .fingerprintDone s = .next { s with dev := { s.dev with det := { s.dev.det with
      fpPending := false, fpValid := true
      fingerprint := BitVec.ofNat 64 (ofLe (shake256 8 (s.dev.fpInput s.flash))) } } } := by
  show onDevF (fun f s => s.fpDone f) s = _
  rw [onDevF, Dev.fpDone, pending]
  rfl

/-! ### The obligation -/

/-- Settles O8: its commands one by one. The model's readings that it rests on are log entries 31 (LOAD latches its source and
length, and its end waits for the core) and 32 (STORE compares digests, and LOAD_FW makes a stage that is still to be checked). -/
theorem capoLoadsAndEngine : Obligations.CapoLoadsAndEngine := by
  unfold Obligations.CapoLoadsAndEngine
  refine ⟨⟨?_, ?_, ?_⟩, exec_drainOpen, ?_, ?_, ?_⟩
  · intro v w s view cmd d taken
    rw [exec_load view cmd, Dev.loadCmd_taken _ taken]
  · intro env s u img loading up other copied verifies
    have staged := s.dev.loadDone_staged s.flash env loading up copied verifies
    have rst : (s.dev.loadDone s.flash env).rst = s.dev.rst := by
      rw [staged]
      exact (congrArg (·.rst) (u.stageImage_frame img s.dev.capo.loadLen)).trans (congrArg (·.rst) (SameCore.copied copied))
    refine ⟨_, exec_loadDone env s (by rwa [rst]), by rw [staged], ?_⟩
    rw [staged]
    exact ⟨rfl, rfl, rfl, congrArg (·.run) (u.stageImage_frame img s.dev.capo.loadLen)⟩
  · intro v env s u img view d n taken copied verifies
    rw [exec_loadFw view, Dev.loadFwCmd_staged _ s.flash env taken copied verifies]
  · intro v s n g u img view d running signed read same
    rw [exec_store view, Dev.storeCmd_held d v (by simpa [d] using running) (by simpa [d] using signed) read same]
  · intro s w held fw
    exact ⟨_, exec_fwCopyDone s held fw, rfl, rfl, rfl, rfl, rfl, rfl, rfl⟩
  · intro s pending
    exact ⟨_, exec_fingerprintDone s pending, rfl, rfl, BitVec.toNat_ofNat _ _, rfl⟩

end Sys2Proof.Machine

namespace Sys2Proof.Machine

/-! ### Rings and completion rings that a state lists -/

/-- A value other than the default reads back in any table, canonical or not. -/
theorem tget_tset_listed {α : Type} [DecidableEq α] {d : Nat → α} (t : Tbl α) {k : Nat} {x : α} (listed : x ≠ d k) :
    tget d (tset d t k x) k = x := by
  rw [tset, if_neg listed, tget_tput_same]

/-- A ring set to anything but a fresh one reads back. -/
theorem Dev.ring_setRing (s : Dev) (r : Nat) {x : Ring} (listed : x ≠ {}) : (s.setRing r x).ring r = x :=
  tget_tset_listed s.rings listed

theorem Dev.ring_setRing_torn (s : Dev) (r : Nat) {x : Ring} (torn : x.torn = true) : (s.setRing r x).ring r = x :=
  s.ring_setRing r fun fresh => by simp [fresh] at torn

theorem Dev.cq_setCq_enabled (s : Dev) (q : Nat) {x : Cq} (on_ : x.st = .enabled) : (s.setCq q x).cq q = x :=
  tget_tset_listed s.cqs fun fresh => by simp [fresh] at on_

/-! ### Writes of the registers of selected rings -/

/-- The physical function and the register port own whatever they select. -/
theorem Dev.owned_held {v : View} (view : v = .pf ∨ v = .port) (s : Dev) {off : Nat} (w : Word) (f : Dev → Dev)
    (up : s.inReset off = false) : s.owned v off w f = f s := by
  rcases view with rfl | rfl
  · simp [Dev.owned, Dev.gated, up, Dev.selOwned]
  · simp [Dev.owned, Dev.gated, up, Dev.selOwned]

section
variable {v : View} (view : v = .pf ∨ v = .port) {w : Word} {off : Nat} {f : Dev → Dev} (s : State)
variable (up : (s.tapped v off w).inReset off = false)
include view up

/-- A write through them, the block out of reset, acts once the journal has its copy. -/
theorem onWrite_owned : onWrite v off w (fun d => d.owned v off w f) s = .next { s with dev := f (s.tapped v off w) } :=
  congrArg (fun d : Dev => Host.Outcome.next ({ s with dev := d } : State)) (Dev.owned_held view _ w f up)

/-- So does one that the command's operands and the selection make this command. -/
theorem onWrite_owned_if {p : Dev → Bool} (chosen : p (s.tapped v off w) = true) :
    onWrite v off w (fun d => if p d then d.owned v off w f else d) s = .next { s with dev := f (s.tapped v off w) } :=
  congrArg (fun d : Dev => Host.Outcome.next ({ s with dev := d } : State)) ((if_pos chosen).trans (Dev.owned_held view _ w f up))

end

/-! ### The commands of RING_CTL (R99, R100) -/

section
variable {v : View} (view : v = .pf ∨ v = .port) {w : Word} (s : State)
variable (up : (s.tapped v Reg.ringCtl w).inReset Reg.ringCtl = false)
include view up

theorem exec_ringEnable (cmd : bits w 7 0 = 1) (work : (s.tapped v Reg.ringCtl w).selKind v = false) :
    exec (.ringEnable v w) s = .next { s with
      dev := (s.tapped v Reg.ringCtl w).enableRing ((s.tapped v Reg.ringCtl w).selRing v) } :=
  onWrite_owned_if view s up (p := fun d => bits w 7 0 = 1 && !d.selKind v) (by simp [cmd, work])

theorem exec_ringDisable (cmd : bits w 7 0 = 2) (work : (s.tapped v Reg.ringCtl w).selKind v = false) :
    exec (.ringDisable v w) s = .next { s with
      dev := (s.tapped v Reg.ringCtl w).disableRing ((s.tapped v Reg.ringCtl w).selRing v) } :=
  onWrite_owned_if view s up (p := fun d => bits w 7 0 = 2 && !d.selKind v) (by simp [cmd, work])

theorem exec_cqEnable (cmd : bits w 7 0 = 1) (kind : (s.tapped v Reg.ringCtl w).selKind v = true) :
    exec (.cqEnable v w) s = .next { s with
      dev := (s.tapped v Reg.ringCtl w).enableCq ((s.tapped v Reg.ringCtl w).selRing v) } :=
  onWrite_owned_if view s up (p := fun d => bits w 7 0 = 1 && d.selKind v) (by simp [cmd, kind])

theorem exec_cqDisable (cmd : bits w 7 0 = 2) (kind : (s.tapped v Reg.ringCtl w).selKind v = true) :
    exec (.cqDisable v w) s = .next { s with
      dev := (s.tapped v Reg.ringCtl w).disableCq v ((s.tapped v Reg.ringCtl w).selRing v) w } :=
  onWrite_owned_if view s up (p := fun d => bits w 7 0 = 2 && d.selKind v) (by simp [cmd, kind])

end

/-! ### RING_ENABLE and RING_DISABLE (R99) -/

/-- Table 4.6: memory in Inkwell, within the partition's share and of a size between the limits, is well placed. -/
theorem Dev.ringPlaceBad_ink (s : Dev) {part lo hi unit : Nat} {base cfg : Word} (target : bits base 11 10 = 2)
    (share : s.inShare part (bits base 63 12 * 4096) (2 ^ sizeLog2 cfg * unit) = true) (least : lo ≤ sizeLog2 cfg)
    (most : sizeLog2 cfg ≤ hi) : s.ringPlaceBad part base cfg lo hi unit = none := by
  simp [Dev.ringPlaceBad, target, share, Nat.not_lt.mpr least, Nat.not_lt.mpr most]

/-- ENABLE that passes every check of Table 4.6. -/
theorem Dev.enableRing_passed (s : Dev) (r : Nat) (off_ : (s.ring r).st = .disabled) (held : s.ringHeld r = true)
    (placed : s.ringPlaceBad (ringPart r) (s.ring r).base (s.ring r).cfg 6 20 64 = none)
    (own : ringPart (s.ring r).cq = ringPart r) (on_ : (s.cq (s.ring r).cq).st = .enabled)
    (open_ : (s.ptn (ringPart r)).st.refuses = false) :
    s.enableRing r = s.setRing r { s.ring r with
      st := .enabled, enableResult := 0, errCode := 0, held := false, torn := false, dbPending := false, scanning := true,
      discarding := false, resumeAfter := false, head := (s.ring r).start, taken := [],
      fetchPos := BitVec.ofNat 32 (bits (s.ring r).start 31 0), fetchSeq := BitVec.ofNat 16 (bits (s.ring r).start 47 32) } := by
  simp [Dev.enableRing, off_, held, placed, own, on_, open_]

/-- ENABLE of a ring that is not DISABLED only tells so. -/
theorem Dev.enableRing_busy (s : Dev) (r : Nat) (busy : (s.ring r).st ≠ .disabled) :
    s.enableRing r = s.setRing r { s.ring r with enableResult := 0x01 } := by
  simp [Dev.enableRing, busy]

theorem Dev.disableRing_enabled (s : Dev) (r : Nat) (on_ : (s.ring r).st = .enabled) :
    s.disableRing r = s.setRing r { s.ring r with
      st := .disabling, discarding := true, scanning := false, resumeAfter := false } := by
  simp [Dev.disableRing, on_]

/-! ### CQ_ENABLE and CQ_DISABLE (R100) -/

/-- ENABLE of a completion ring that passes every check of Table 4.6. -/
theorem Dev.enableCq_passed (s : Dev) (q : Nat) (off_ : (s.cq q).st = .disabled) (held : s.cqHeld q = true)
    (placed : s.ringPlaceBad (ringPart q) (s.cq q).base (s.cq q).cfg 7 22 32 = none)
    (open_ : (s.ptn (ringPart q)).st.refuses = false) :
    s.enableCq q = s.setCq q { s.cq q with
      st := .enabled, enableResult := 0, errCode := 0, reserved := 0, owed := [], rereadAt := none
      tail := BitVec.ofNat 32 (bits (s.cq q).start 31 0), head := BitVec.ofNat 32 (bits (s.cq q).start 31 0) } := by
  simp [Dev.enableCq, off_, held, placed, open_]

/-- DISABLE of a completion ring all of whose work rings are DISABLED. -/
theorem Dev.disableCq_unbound (s : Dev) (v : View) (q : Nat) (w : Word)
    (unbound : ∀ p ∈ s.rings, p.2.cq = q → p.2.st = .disabled) :
    s.disableCq v q w = s.setCq q { s.cq q with st := .disabled } := by
  have none_ : s.rings.any (fun p => p.2.cq == q && decide (p.2.st ≠ .disabled)) = false := by
    simpa using unbound
  rw [Dev.disableCq, none_]
  rfl

/-! ### The obligation -/

/-- Settles O13: its commands one by one. That CQ_ENABLE takes RING_START as the last head read is log entry 115. -/
theorem ringStates : Obligations.RingStates := by
  unfold Obligations.RingStates
  intro v w s view d r x q placed up
  refine ⟨?_, ?_, ?_, ?_, ?_⟩
  · rintro cmd work off_ held ⟨target, share⟩ least most own on_ open_
    rw [exec_ringEnable view s up cmd work,
      Dev.enableRing_passed _ _ off_ held (d.ringPlaceBad_ink target share least most) own on_ open_]
  · intro cmd work busy
    rw [exec_ringEnable view s up cmd work, Dev.enableRing_busy _ _ busy]
  · intro cmd work on_
    rw [exec_ringDisable view s up cmd work, Dev.disableRing_enabled _ _ on_]
  · rintro cmd kind off_ held ⟨target, share⟩ least most open_
    rw [exec_cqEnable view s up cmd kind,
      Dev.enableCq_passed _ _ off_ held (d.ringPlaceBad_ink target share least most) open_]
  · intro cmd kind unbound
    rw [exec_cqDisable view s up cmd kind, Dev.disableCq_unbound _ _ _ _ unbound]

end Sys2Proof.Machine

namespace Sys2Proof.Machine

/-! ### TORN_REREAD (R84) -/

/-- A continuation unit of the wrong phase: the entry is torn (R83). -/
theorem Dev.readRest_torn {s u : Dev} {env : Env} {r k : Nat} {p : BitVec 32} {unit : BitVec 512} (left : Nat)
    (acc : List (BitVec 512)) (read : s.readUnit env r (p + BitVec.ofNat 32 k) = (u, .ok unit))
    (stale : bits unit 0 0 ≠ phaseAt (sizeLog2 (u.ring r).cfg) (p + BitVec.ofNat 32 k).toNat) :
    s.readRest env r p (left + 1) k acc = (u, .torn) := by
  simp only [Dev.readRest, read, bne_iff_ne.mpr stale, if_true]

/-- Where nothing is taken, an entry fits that is no longer than the prefetch limit. -/
theorem Ring.fits_of_empty {x : Ring} {n : Nat} (empty : x.taken = []) (short : n ≤ x.prefetch) : x.fetched + n ≤ x.prefetch := by
  simpa [Ring.fetched, empty] using short

/-- A scan that finds an entry torn again sets its next re-read 1 us ahead, and ends; a doorbell that waited starts the next. -/
theorem Dev.scanLoop_tornAgain {s u u' : Dev} {env : Env} {r n : Nat} {x : Ring} {h : BitVec 512} (fuel : Nat)
    (ring_ : s.ring r = x) (again : x.torn = true) (read : s.readUnit env r x.fetchPos = (u, .ok h))
    (fresh : bits h 0 0 = phaseAt (sizeLog2 x.cfg) x.fetchPos.toNat) (len : lenOf (bits h 7 4) = n)
    (limit : x.fetched + n ≤ x.prefetch) (room : u.cachedUnits + n ≤ 65536)
    (torn : u.readRest env r x.fetchPos (n - 1) 1 [h] = (u', .torn)) (same : u'.ring r = x) :
    s.scanLoop (fuel + 1) env r =
      (u'.setRing r { x with tornAt := u'.now + 1024000 }).setRing r
        { x with tornAt := u'.now + 1024000, scanning := x.dbPending, dbPending := false } := by
  have marked : (u'.setRing r { x with torn := true, tornAt := u'.now + 1024000 }).ring r =
      { x with torn := true, tornAt := u'.now + 1024000 } := Dev.ring_setRing_torn u' r rfl
  rw [Dev.scanLoop]
  simp [ring_, read, fresh, len, Nat.not_lt.mpr limit, Nat.not_lt.mpr room, torn, same, again, marked]

/-- Nothing is taken: there is no entry at the launch point to check. -/
theorem Dev.settleHead_empty {s : Dev} {r : Nat} (empty : (s.ring r).taken = []) (fuel : Nat) (env : Env) :
    s.settleHead fuel env r = s := by
  cases fuel with
  | zero => rfl
  | succ fuel => rw [Dev.settleHead, empty]

/-- A re-read that is due counts itself, and scans. -/
theorem Dev.rereadTorn_due {s : Dev} {env : Env} {r : Nat} (torn : ((s.enter env).ring r).torn = true)
    (idle : ((s.enter env).ring r).scanning = false) (few : ((s.enter env).ring r).tornTries < 16)
    (due : ((s.enter env).ring r).tornAt ≤ (s.enter env).now) (may : (s.enter env).mayFetch r = true) :
    s.rereadTorn env r = ((((s.enter env).setRing r { (s.enter env).ring r with
      scanning := true, tornTries := ((s.enter env).ring r).tornTries + 1 }).scanLoop 300 env r).settleHead 256 env r).settle := by
  simp [Dev.rereadTorn, torn, idle, few, due, may]

theorem exec_tornReread (ring : Fin 16384) (env : Env) (s : State) :
    exec (.tornReread ring env) s = .next { s with dev := s.dev.rereadTorn env ring } := rfl

/-! ### INVAL, RING_RESUME and RING_DISCARD_DONE (R88) -/

section
variable {v : View} (view : v = .pf ∨ v = .port) {w : Word} (s : State)
variable (up : (s.tapped v Reg.ringInval w).inReset Reg.ringInval = false)
variable (work : (s.tapped v Reg.ringInval w).selKind v = false)
include view up work

theorem exec_inval (inval : bit w 0 = true) :
    exec (.inval v w) s = .next { s with
      dev := (s.tapped v Reg.ringInval w).ringInval ((s.tapped v Reg.ringInval w).selRing v) (bit w 1) } := by
  refine (onWrite_owned_if view s up (p := fun _ => bit w 0) inval).trans ?_
  simp [Dev.writeInval, work, inval]

theorem exec_ringResume (keeps : bit w 0 = false) (resume : bit w 1 = true) :
    exec (.ringResume v w) s = .next { s with
      dev := (s.tapped v Reg.ringInval w).ringResumeCmd ((s.tapped v Reg.ringInval w).selRing v) } := by
  show onWrite v Reg.ringInval w (fun d => if bit w 0 then d else d.owned v Reg.ringInval w fun d => d.writeInval v w) s = _
  simp only [keeps, Bool.false_eq_true, if_false, onWrite_owned view s up, Dev.writeInval, work, resume, if_true]

end

theorem Dev.ringInval_enabled (s : Dev) {r : Nat} (resume : Bool) (on_ : (s.ring r).st = .enabled) :
    s.ringInval r resume = s.setRing r { s.ring r with discarding := true, resumeAfter := resume, scanning := false } := by
  simp [Dev.ringInval, on_]

/-- RESUME, in the three cases of R88. -/
theorem Dev.ringResumeCmd_eq (s : Dev) (r : Nat) :
    s.ringResumeCmd r = s.setRing r (
      if (s.ring r).st ≠ .enabled then { s.ring r with held := false }
      else if (s.ring r).discarding = true then { s.ring r with resumeAfter := true }
      else { s.ring r with held := false, scanning := true, dbPending := false }) := by
  rw [apply_ite (s.setRing r), apply_ite (s.setRing r)]
  rfl

/-- The ring once its discard is complete, before it is held or scans again. -/
def Ring.discarded (x : Ring) : Ring :=
  { x with
    taken := [], discarding := false, torn := false, changed := x.marked
    fetchPos := BitVec.ofNat 32 (bits x.head 31 0), fetchSeq := BitVec.ofNat 16 (bits x.head 47 32) }

/-- The end of the discard of an ENABLED ring. -/
theorem Dev.discardDone_enabled (s : Dev) {r : Nat} (discards : (s.ring r).discarding = true) (on_ : (s.ring r).st = .enabled) :
    s.discardDone r = s.setRing r (if (s.ring r).resumeAfter = true
      then { (s.ring r).discarded with held := false, resumeAfter := false, scanning := true, dbPending := false }
      else { (s.ring r).discarded with held := true }) := by
  rw [apply_ite (s.setRing r)]
  simp only [Dev.discardDone, discards, on_, Ring.discarded, Bool.not_true, Bool.false_eq_true, if_false]

theorem exec_ringDiscardDone (ring : Fin 16384) (s : State) :
    exec (.ringDiscardDone ring) s = .next { s with dev := s.dev.discardDone ring } := rfl

/-! ### The obligation -/

/-- Settles O12: its commands one by one. -/
theorem tornEntriesAndInvalidation : Obligations.TornEntriesAndInvalidation := by
  unfold Obligations.TornEntriesAndInvalidation
  refine ⟨?_, ?_, ?_, ?_⟩
  · intro ring env s u u' h k d x p torn idle few due empty may d' read same fresh two limit room next same' stale y
    have reread : d'.ring ring = { x with scanning := true, tornTries := x.tornTries + 1 } := d.ring_setRing_torn ring torn
    have ends := Dev.scanLoop_tornAgain (n := 2) 299 reread torn read fresh (congrArg lenOf two)
      (Ring.fits_of_empty empty limit) room
      (Dev.readRest_torn 0 _ next (by rw [same', reread]; exact stale)) (same'.trans reread)
    have none_ : ((d'.scanLoop 300 env ring).ring ring).taken = [] := by
      rw [ends, Dev.ring_setRing_torn _ _ (by exact torn)]
      exact empty
    rw [exec_tornReread, Dev.rereadTorn_due torn idle few due may, Dev.settleHead_empty none_, ends]
  · intro v w s view inval d r up work on_ y
    rw [exec_inval view s up work inval, Dev.ringInval_enabled _ _ on_]
  · intro v w s view keeps resume d r up work x y
    rw [exec_ringResume view s up work keeps resume, Dev.ringResumeCmd_eq]
  · intro ring s discards on_ x y z
    rw [exec_ringDiscardDone, Dev.discardDone_enabled _ discards on_]
    rfl

end Sys2Proof.Machine

namespace Sys2Proof.Machine

/-! ### RING_CTR_WRITE (R93) -/

theorem exec_ringCtrWrite {v : View} (view : v = .pf ∨ v = .port) {w : Word} (s : State)
    (up : (s.tapped v Reg.ringCtr w).inReset Reg.ringCtr = false) :
    exec (.ringCtrWrite v w) s = .next { s with dev := (s.tapped v Reg.ringCtr w).writeCtr v w } :=
  onWrite_owned view s up

/-! ### CQ_HEAD_READ and CQ_HEAD_REREAD (R97) -/

/-- A completion ring once its head is read: where no slot is free, the next read follows 1 us later. -/
def Cq.withHead (x : Cq) (h : BitVec 32) (now : Nat) : Cq :=
  { x with head := h, rereadAt := if ({ x with head := h } : Cq).free then none else some (now + 1024000) }

/-- A head that does not pass the tail by more than the ring's size is taken, and owed records follow. -/
theorem Dev.readHead_taken {s u : Dev} {env : Env} {q : Nat} {b : List Byte}
    (read : s.ringRead env (ringPart q) (s.cq q).base (bits (s.cq q).headAddr 63 3 * 8) 4 = (u, .ok b))
    (same : u.cq q = s.cq q) (within : ((s.cq q).tail - BitVec.ofNat 32 (ofLe b)).toNat ≤ (s.cq q).size) :
    s.readHead env q =
      (u.setCq q ((s.cq q).withHead (BitVec.ofNat 32 (ofLe b)) u.now)).cqOwed env q (s.cq q).owed.length := by
  simp only [Dev.readHead, read, same, if_neg (Nat.not_lt.mpr within)]
  rfl

/-- The read falls due where no slot is free and no re-read is set. -/
theorem exec_cqHeadRead_due {cq : Fin 16384} {env : Env} (s : State) (on_ : ((s.dev.enter env).cq cq).st = .enabled)
    (full : ((s.dev.enter env).cq cq).free = false) (first : ((s.dev.enter env).cq cq).rereadAt = none) :
    exec (.cqHeadRead cq env) s = .next { s with dev := (s.dev.enter env).readHead env cq } := by
  show onDev (fun d => d.cqHeadDue env cq) s = _
  simp [onDev, Dev.cqHeadDue, on_, full, first]

/-- The re-read falls due at its time, while launches or owed records wait. -/
theorem exec_cqHeadReread_due {cq : Fin 16384} {env : Env} {t : Nat} (s : State) (on_ : ((s.dev.enter env).cq cq).st = .enabled)
    (wanted : (s.dev.enter env).cqWanted cq = true) (set_ : ((s.dev.enter env).cq cq).rereadAt = some t)
    (due : t ≤ (s.dev.enter env).now) :
    exec (.cqHeadReread cq env) s = .next { s with dev := (s.dev.enter env).readHead env cq } := by
  show onDev (fun d => d.cqHeadAgain env cq) s = _
  simp [onDev, Dev.cqHeadAgain, on_, wanted, set_, due]

/-! ### The obligation -/

/-- Settles O14: its commands one by one. That the records of failed rings wait for a slot is log entry 123. -/
theorem countersAndHeads : Obligations.CountersAndHeads := by
  unfold Obligations.CountersAndHeads
  refine ⟨?_, ?_⟩
  · intro v w s view d up y
    exact exec_ringCtrWrite view s up
  · intro cq env s u b c d x command on_ read same h within y z
    have reads : exec c s = .next { s with dev := d.readHead env cq } := by
      rcases command with ⟨rfl, full, first⟩ | ⟨rfl, wanted, t, set_, due⟩
      · exact exec_cqHeadRead_due s on_ full first
      · exact exec_cqHeadReread_due s on_ wanted set_ due
    rw [reads, Dev.readHead_taken read same within]
    rfl

end Sys2Proof.Machine

namespace Sys2Proof.Machine

/-! ### What writing records leaves: the registers that hold what is written to them, the scopes of the journal among them -/

theorem SameCore.ringWrite (s : Dev) (env : Env) (part : Nat) (base : Word) (a : Nat) (b : List Byte) :
    s.SameCore (s.ringWrite env part base a b).1 := by
  have asked : s.SameCore (s.ringAsk part (baseTgt base)) := by
    unfold Dev.ringAsk
    split
    · exact pinnedAsk s part
    · exact refl s
  unfold Dev.ringWrite
  split
  case isTrue => exact refl s
  case isFalse =>
    dsimp only
    split
    case h_1 => exact trans asked (bump _ _)
    case h_2 q _ =>
      have wrote := trans asked (writeT _ env part (baseTgt base) q b 0 0 false)
      split
      case h_1 ok => rwa [ok] at wrote
      case h_2 failed => rwa [failed] at wrote

theorem SameCore.interrupt (s : Dev) (fn v : Nat) : s.SameCore (s.interrupt fn v) := by
  unfold Dev.interrupt
  split
  · exact refl s
  · split
    · rfl
    · split
      · split
        · exact refl s
        · rfl
      · rfl

theorem SameCore.rw_eq {s t : Dev} (h : s.SameCore t) : t.rw = s.rw := congrArg (·.rw) h

@[simp] theorem Dev.ringWrite_rw (s : Dev) (env : Env) (part : Nat) (base : Word) (a : Nat) (b : List Byte) :
    (s.ringWrite env part base a b).1.rw = s.rw := SameCore.rw_eq (SameCore.ringWrite s env part base a b)

@[simp] theorem Dev.interrupt_rw (s : Dev) (fn v : Nat) : (s.interrupt fn v).rw = s.rw := SameCore.rw_eq (SameCore.interrupt s fn v)

@[simp] theorem Dev.postErr_rw (s : Dev) (off cls code detail sev : Nat) (part : Option Nat) :
    (s.postErr off cls code detail sev part).rw = s.rw :=
  SameCore.rw_eq (SameCore.postErr s off cls code detail sev part)

@[simp] theorem Dev.ringStop_rw (s : Dev) (r : Nat) (st : RingSt) (err : Byte) : (s.ringStop r st err).rw = s.rw := rfl

@[simp] theorem Dev.stopBound_rw (s : Dev) (q : Nat) (st : RingSt) : (s.stopBound q st).rw = s.rw :=
  foldl_frame (·.rw) (fun s (p : Nat × Ring) => s.ringStop p.1 st 0) (fun s p => s.ringStop_rw p.1 st 0) _ s

@[simp] theorem Dev.cqFaulted_rw (s : Dev) (r : Nat) (p : BitVec 32) : (s.cqFaulted r p).rw = s.rw := by
  simp [Dev.cqFaulted]

@[simp] theorem Dev.cqFail_rw (s : Dev) (q : Nat) (err : Byte) : (s.cqFail q err).rw = s.rw := by
  unfold Dev.cqFail
  dsimp only
  split
  · simp
  · rw [foldl_frame (·.rw) (fun u (p : Nat × Ring) => u.cqFaulted p.1 (s.cq q).tail) (fun u p => u.cqFaulted_rw p.1 _),
      Dev.postErr_rw, Dev.setCq_rw]

@[simp] theorem Dev.cqWrite_rw (s : Dev) (env : Env) (q : Nat) (body : Nat → List Byte) (loud : Bool) :
    (s.cqWrite env q body loud).rw = s.rw := by
  unfold Dev.cqWrite
  dsimp only
  split
  case isTrue => rfl
  case isFalse =>
    split
    case h_1 u high => rw [Dev.cqFail_rw, ← congrArg (·.1.rw) high, Dev.ringWrite_rw]
    case h_2 u high =>
      have wrote : u.rw = s.rw := by rw [← congrArg (·.1.rw) high, Dev.ringWrite_rw]
      split
      case h_1 u' low => rw [Dev.cqFail_rw, ← congrArg (·.1.rw) low, Dev.ringWrite_rw, wrote]
      case h_2 u' low =>
        have wrote' : u'.rw = s.rw := by rw [← congrArg (·.1.rw) low, Dev.ringWrite_rw, wrote]
        split
        · simp [wrote']
        · simp [wrote']

@[simp] theorem Dev.cqOwed_rw (s : Dev) (env : Env) (q n : Nat) : (s.cqOwed env q n).rw = s.rw := by
  induction n generalizing s with
  | zero => rfl
  | succ n ih =>
    rw [Dev.cqOwed]
    split
    · rfl
    · split
      · rfl
      · simp [ih]

/-! ### An event in no scope of the journal (R346) -/

/-- Which events are in scope is a matter of those registers. -/
theorem Dev.folMatch_congr {s t : Dev} (same : t.rw = s.rw) (attrs : List (Nat × Nat)) : t.folMatch attrs = s.folMatch attrs := by
  have regs : t.reg = s.reg := funext fun off => by rw [Dev.reg, Dev.reg, same]
  rw [Dev.folMatch, Dev.folMatch, Dev.folScopes, Dev.folScopes, regs]

theorem Dev.folCompletion_unscoped {s : Dev} {attrs : List (Nat × Nat)} (unscoped : s.folMatch attrs = none) (q pos : Nat)
    (rec : List Byte) : s.folCompletion attrs q pos rec = s := by
  rw [Dev.folCompletion, Dev.folEvent, unscoped]

theorem Dev.folStatus_unscoped {s : Dev} {attrs : List (Nat × Nat)} (unscoped : s.folMatch attrs = none) (st : Nat) :
    s.folStatus attrs st = s := by
  simp [Dev.folStatus, unscoped]

/-! ### A launched entry whose work has ended (R92) -/

theorem replaceFirst_of_find? {α : Type} {p : α → Bool} {f : α → α} {l : List α} {a : α} (found : l.find? p = some a)
    (same : f a = a) : replaceFirst p f l = l := by
  induction l with
  | nil => rfl
  | cons b l ih =>
    cases h : p b with
    | true =>
      obtain rfl : b = a := by simpa [h] using found
      simp [replaceFirst, h, same]
    | false => simp [replaceFirst, h, ih (by simpa [h] using found)]

section
variable {s : Dev} {ring : Nat} {pos : BitVec 32} {o : Op} (found : s.op? ring pos = some o)
include found

theorem Dev.ring_of_op? : o.ring = ring := by
  have is_ : o.is ring pos = true := List.find?_some (p := fun o : Op => o.is ring pos) found
  simp only [Op.is, Bool.and_eq_true, beq_iff_eq] at is_
  exact is_.1

/-- An entry that has ended waits for nothing more. -/
theorem Dev.wake_ended {d : Done} (ended : o.fin = some d) : s.wake ring pos = s := by
  simp [Dev.wake, found, ended]

/-- Where there is nothing to overwrite with zeros, nothing is written. -/
theorem Dev.zeroOut_none (env : Env) (none_ : o.zero = []) : s.zeroOut env ring pos = s := by
  have kept : replaceFirst (·.is ring pos) (fun o => { o with zero := [] }) s.ops = s.ops :=
    replaceFirst_of_find? found (by rw [← none_])
  simp [Dev.zeroOut, found, none_, Dev.setOp, kept]

/-- Its turn come, its data visible and its zeros written, it completes. -/
theorem Dev.completeAt_due {d : Done} (env : Env) (ended : o.fin = some d) (turn : s.orderMet o = true)
    (flushed : o.flushWait = false) (none_ : o.zero = []) (answered : s.trayOwes ring pos o.entry.scopeSys = false) :
    s.completeAt env ring pos = s.completeOp env o d := by
  simp [Dev.completeAt, found, ended, turn, flushed, none_, answered]

end

/-! ### Its record, then its signal (R92, R94 to R97) -/

/-- The record of an entry that ended with OK, from its phase (Table 4.3). -/
def Op.okRecord (o : Op) (d : Done) (phase : Nat) : List Byte :=
  recordBytes phase 0 o.entry.opcode (b2n (o.entry.scopeSys || o.scopeSys)) (b2n o.entry.solicit) o.ring o.entry.seq.toNat
    o.entry.pos.toNat o.entry.len d.bytes.toNat d.detail.toNat

/-- A completion ring once an entry's reservation is released. -/
def Cq.released (x : Cq) : Cq :=
  { x with
    reserved := x.reserved - 1
    rereadAt := if ({ x with reserved := x.reserved - 1 } : Cq).free then none else x.rereadAt }

/-- The counter that a launched entry signals, where its partition holds it, one higher. -/
def Dev.signalled (s : Dev) (o : Op) : Dev :=
  if o.entry.signalEn && o.entry.signalIdx < s.ctrsOf o.part then s.ctrSignal o.part o.entry.signalIdx false else s

/-- A record in a ring without interrupts: bytes 8 to 31, then bytes 0 to 7, then the tail moves (R95). -/
theorem Dev.cqWrite_silent {s u1 u2 : Dev} {env : Env} {q : Nat} {x : Cq} {body : Nat → List Byte} (cq_ : s.cq q = x)
    (on_ : x.st = .enabled) (silent : bit x.cfg 8 = false) (loud : Bool)
    (high : s.ringWrite env (ringPart q) x.base (bits x.base 63 12 * 4096 + x.tail.toNat % x.size * 32 + 8)
      ((body (phaseAt (sizeLog2 x.cfg) x.tail.toNat)).drop 8) = (u1, true))
    (low : u1.ringWrite env (ringPart q) x.base (bits x.base 63 12 * 4096 + x.tail.toNat % x.size * 32)
      ((body (phaseAt (sizeLog2 x.cfg) x.tail.toNat)).take 8) = (u2, true)) :
    s.cqWrite env q body loud = u2.setCq q { x with tail := x.tail + 1 } := by
  simp [Dev.cqWrite, cq_, on_, silent, high, low]

/-- An entry that asks for a record and ended with OK, its writes having reached nothing a FENCE waits for, in no scope. -/
theorem Dev.completeOp_ok {s : Dev} (env : Env) {o : Op} {d : Done} {q : Nat} (ring_ : (s.ring o.ring).cq = q)
    (ok : d.status = 0) (asked : o.entry.complete = true) (apart : o.reach = 0)
    (slot : ((s.cq q).tail - (s.cq q).head).toNat < (s.cq q).size) (unscoped : s.folMatch (o.entry.attrs o.ring) = none) :
    s.completeOp env o d =
      ((((s.dropOp o).setCq q (s.cq q).released).cqWrite env q (o.okRecord d) o.entry.solicit).cqOwed env q
        (s.cq q).owed.length).signalled o := by
  have merged : s.reachMerge o = s := by simp [Dev.reachMerge, apart]
  have before : ((s.dropOp o).setCq q (s.cq q).released).folMatch (o.entry.attrs o.ring) = none :=
    (Dev.folMatch_congr (by rfl) _).trans unscoped
  have after : (((((s.dropOp o).setCq q (s.cq q).released).cqWrite env q (o.okRecord d) o.entry.solicit).cqOwed env q
      (s.cq q).owed.length)).folMatch (o.entry.attrs o.ring) = none :=
    (Dev.folMatch_congr (by simp) _).trans before
  have steps : s.completeOp env o d =
      ((((((s.dropOp o).setCq q (s.cq q).released).folCompletion (o.entry.attrs o.ring) q (s.cq q).tail.toNat
        (o.okRecord d (phaseAt (sizeLog2 (s.cq q).cfg) (s.cq q).tail.toNat))).cqWrite env q (o.okRecord d)
          o.entry.solicit).cqOwed env q (s.cq q).owed.length).folStatus (o.entry.attrs o.ring) 0).signalled o := by
    simp only [Dev.completeOp, ring_, merged, asked, ok, Nat.not_le.mpr slot, ne_eq, not_true_eq_false, decide_false,
      Bool.and_false, Bool.or_false, Bool.not_false, Bool.true_and, Bool.false_eq_true, if_false, if_true]
    rfl
  rw [steps, Dev.folCompletion_unscoped before, Dev.folStatus_unscoped after]

/-! ### The obligation -/

theorem exec_entryComplete (ring : Fin 16384) (pos : BitVec 32) (env : Env) (s : State) :
    exec (.entryComplete ring pos env) s = .next { s with
      dev := ((((s.dev.enter env).wake ring pos).zeroOut env ring pos).completeAt env ring pos).settle } := rfl

/-- Settles O15: the entry completes, and its completion is record, owed records, signal. That the records of failed rings wait
for a slot is log entry 123. -/
theorem entryCompletes : Obligations.EntryCompletes := by
  unfold Obligations.EntryCompletes
  rintro ⟨ring, _⟩ pos env s o d u1 u2 a found ended ok flushed turn apart none_ answered asked unscoped n q x on_ slot silent y y'
    b record at0 high low u z
  obtain rfl : o.ring = ring := Dev.ring_of_op? found
  rw [exec_entryComplete, Dev.wake_ended found ended, Dev.zeroOut_none found env none_,
    Dev.completeAt_due found env ended turn flushed none_ answered, Dev.completeOp_ok env rfl ok asked apart slot unscoped,
    Dev.cqWrite_silent (x := x.released) (body := o.okRecord d) (Dev.cq_setCq_enabled _ q on_) on_ silent _ high low]
  rfl

end Sys2Proof.Machine

namespace Sys2Proof.Machine

/-! ### A connection's context -/

/-- A context that no longer is a fresh one reads back. -/
theorem Dev.conn_setConn (s : Dev) (c : Nat) {x : Conn} (listed : x ≠ {}) : (s.setConn c x).conn c = x :=
  tget_tset_listed s.conns listed

theorem Dev.conn_setConn_active (s : Dev) (c : Nat) {x : Conn} (active : x.st = .active) : (s.setConn c x).conn c = x :=
  s.conn_setConn c fun fresh => by simp [fresh] at active

/-- Two devices with the same table of connections have the same contexts. -/
theorem Dev.conn_congr {s t : Dev} (same : t.conns = s.conns) (c : Nat) : t.conn c = s.conn c := by
  rw [Dev.conn, same, Dev.conn]

/-! ### The context cache (R138) -/

/-- Beside the core's rest, writing a context back touches only the list of contexts that were. -/
theorem Dev.ctxStore_sameCore (s : Dev) (c : Nat) :
    ∃ l : List (Nat × Bool), Dev.SameCore { s with connBacked := l } (s.ctxStore c) := by
  refine ⟨(c, (s.ctxInk c).isSome) :: s.connBacked.filter (·.1 != c), ?_⟩
  unfold Dev.ctxStore
  extract_lets b t
  split
  case h_1 => exact SameCore.inkWrite t _ _ _
  case h_2 =>
    split
    · exact SameCore.trans (SameCore.pinnedAsk t 0) (SameCore.setKeyBytes _ _ _)
    · exact SameCore.refl t
  case h_3 =>
    split
    · exact SameCore.pinnedAsk t 0
    · exact SameCore.refl t

@[simp] theorem Dev.ctxStore_conns (s : Dev) (c : Nat) : (s.ctxStore c).conns = s.conns := by
  obtain ⟨_, same⟩ := s.ctxStore_sameCore c
  exact congrArg (·.conns) same

@[simp] theorem Dev.ctxStore_rw (s : Dev) (c : Nat) : (s.ctxStore c).rw = s.rw := by
  obtain ⟨_, same⟩ := s.ctxStore_sameCore c
  exact congrArg (·.rw) same

@[simp] theorem Dev.ctxTouch_conns (s : Dev) (c : Nat) : (s.ctxTouch c).conns = s.conns := by
  unfold Dev.ctxTouch
  dsimp only
  split
  · exact s.ctxStore_conns _
  · rfl

@[simp] theorem Dev.ctxTouch_rw (s : Dev) (c : Nat) : (s.ctxTouch c).rw = s.rw := by
  unfold Dev.ctxTouch
  dsimp only
  split
  · exact s.ctxStore_rw _
  · rfl

@[simp] theorem Dev.ctxTouch_conn (s : Dev) (c n : Nat) : (s.ctxTouch c).conn n = s.conn n :=
  Dev.conn_congr (s.ctxTouch_conns c) n

/-- Whether a packet has been under way for too long rests on CONN_CFG and the packet. -/
@[simp] theorem Dev.ctxTouch_stale (s : Dev) (c : Nat) (p : Packet) (a : Arrival) : (s.ctxTouch c).stale p a = s.stale p a := by
  rw [Dev.stale, Dev.lifetime, Dev.reg, Dev.ctxTouch_rw]
  rfl

/-! ### A packet in whole meets an ACTIVE connection (R125, R138) -/

section
variable {s : Dev} {p : Packet} {env : Env} {port : Nat} {arr : Arrival}
variable (found : ((s.enter env).rte.local_.find? fun q => q.1 == p && (s.enter env).whole q.2.1 p) = some (p, port, arr))
variable (meets : (s.delivered env p port arr).Meets p)
include found meets

theorem Dev.receive_meets : s.receive env p =
    if isData p then ((s.delivered env p port arr).ctxTouch p.dconn).rxData env p.dconn p arr
    else ((s.delivered env p port arr).ctxTouch p.dconn).rxReply p.dconn p arr := by
  have taken : s.receive env p = (s.delivered env p port arr).rxConn env p arr := by
    simp only [Dev.receive, found, Dev.delivered]
  obtain ⟨vc, plen, cached, marked, waiting, -, -⟩ := meets
  rw [taken]
  generalize s.delivered env p port arr = u at *
  simp [Dev.rxConn, Nat.not_le.mpr vc, Nat.not_lt.mpr plen, cached, marked, waiting]

end

/-! ### Steps 2 to 4 of R125 -/

section
variable {s : Dev} {c : Nat} {p : Packet} {a : Arrival} (active : (s.conn c).st = .active) (blot : (s.conn c).blotEnd = 0)
include active blot

theorem Dev.rxData_stale (env : Env) (old : s.stale p a = true) : s.rxData env c p a = s.bump (Reg.connDrops 1) := by
  simp [Dev.rxData, active, blot, old, Dev.dropConn]

variable (fresh : s.stale p a = false)
include fresh

theorem Dev.rxData_beyond (env : Env) (ahead : 65536 ≤ psnDiff (BitVec.ofNat 32 p.psn) (s.conn c).rcvNxt) :
    s.rxData env c p a = s.bump (Reg.connDrops 2) := by
  simp [Dev.rxData, active, blot, fresh, ahead, Dev.dropConn]

theorem Dev.rxData_duplicate (env : Env) (near : -65536 ≤ psnDiff (BitVec.ofNat 32 p.psn) (s.conn c).rcvNxt)
    (before : psnDiff (BitVec.ofNat 32 p.psn) (s.conn c).rcvNxt < 0) :
    s.rxData env c p a = ((s.bump Reg.connDup).noteDup c p a).sendAck c := by
  have inside : ¬ (psnDiff (BitVec.ofNat 32 p.psn) (s.conn c).rcvNxt < -65536 ∨
    65536 ≤ psnDiff (BitVec.ofNat 32 p.psn) (s.conn c).rcvNxt) := by omega
  simp [Dev.rxData, active, blot, fresh, inside, before]

theorem Dev.rxData_inOrder (env : Env) (next : psnDiff (BitVec.ofNat 32 p.psn) (s.conn c).rcvNxt = 0)
    (open_ : ∀ q, s.connPart c = some q → (s.ptn q).st = .active) (taking : (s.conn c).rnrActive = false) :
    s.rxData env c p a = s.accept env c 0 p a := by
  have works : ((s.connPart c).map s.ptn).any (fun q => q.st.refuses) = false := by
    cases part : s.connPart c with
    | none => rfl
    | some q => simp [open_ q part, PtnSt.refuses]
  simp [Dev.rxData, active, blot, fresh, next, taking, works]

end

/-! ### Steps 5 to 7 of R125 for the next packet in order -/

/-- An intact packet of a connection without encryption, or one checked before, goes on as it is. -/
theorem Dev.accept_sound {s : Dev} {c : Nat} {p : Packet} {a : Arrival} (env : Env) (d : Nat)
    (sound : a.verified = true ∨ (s.conn c).enc = false ∧ p.enc = false ∧ p.icrc = icrcConn p) :
    s.accept env c d p a = s.keyStep env c d p { a with verified := true } := by
  rcases sound with checked | ⟨plain, clear, agrees⟩
  · simp [Dev.accept, Dev.integrity, checked]
  · cases checked : a.verified with
    | true => simp [Dev.accept, Dev.integrity, checked]
    | false => simp [Dev.accept, Dev.integrity, checked, plain, clear, agrees]

theorem Dev.keyStep_passed {s k : Dev} {env : Env} {c : Nat} {p : Packet}
    (cached : p.ptype = 1 → s.keyCachedAt (BitVec.ofNat 32 p.rkey) = true)
    (passed : (if p.ptype = 1 then s.keyCheck (BitVec.ofNat 32 p.rkey) ((s.connPart c).getD 0) p.raddr p.payload.length (rW + rRM)
      else (s, none)) = (k, none)) (d : Nat) (a : Arrival) : s.keyStep env c d p a = k.placeStep env c d p a := by
  by_cases write : p.ptype = 1
  · rw [if_pos write] at passed
    simp [Dev.keyStep, write, cached write, passed]
  · rw [if_neg write, Prod.mk.injEq] at passed
    simp [Dev.keyStep, write, passed.1]

/-- RCV_NXT moves on by one where no packet ahead of it was received (R124). -/
def Conn.advanced (x : Conn) : Conn :=
  { x with rcvNxt := x.rcvNxt + 1, rcvHi := if x.rcvNxt + 1 = 0 then x.rcvHi + 1 else x.rcvHi, rcvMap := 0 }

theorem Dev.advance_alone (s : Dev) (env : Env) (c n : Nat) (alone : (s.conn c).rcvMap = 0) :
    Dev.advance (n + 1) s env c = s.setConn c (s.conn c).advanced := by
  simp [Dev.advance, alone, bit, Conn.advanced]

@[simp] theorem Dev.flushStart_conns (s : Dev) (fn : Nat) : (s.flushStart fn).1.conns = s.conns := by
  unfold Dev.flushStart
  split <;> rfl

/-- Accepting a packet leaves its connection ACTIVE, and what of later packets was received. -/
theorem Dev.acceptOne_conn {s : Dev} {c : Nat} (active : (s.conn c).st = .active) (p : Packet) :
    ((s.acceptOne c p).conn c).st = .active ∧ ((s.acceptOne c p).conn c).rcvMap = (s.conn c).rcvMap := by
  unfold Dev.acceptOne
  extract_lets x t served
  have noted : t.conn c = { x with rnrActive := x.rnrActive && x.rnrPsn.toNat != p.psn } := s.conn_setConn_active c active
  have kept : (t.conn c).st = .active ∧ (t.conn c).rcvMap = (s.conn c).rcvMap := by
    rw [noted]
    exact ⟨active, rfl⟩
  split
  case isTrue => exact kept
  case isFalse =>
    split
    case isFalse => exact kept
    case isTrue =>
      have flushed := Dev.conn_congr (served.flushStart_conns ((served.connPart c).getD 0)) c
      generalize served.flushStart ((served.connPart c).getD 0) = r at flushed ⊢
      obtain ⟨u, id⟩ := r
      obtain ⟨active', map⟩ : (u.conn c).st = .active ∧ (u.conn c).rcvMap = (s.conn c).rcvMap := by
        rw [flushed]
        exact kept
      dsimp only
      rw [Dev.conn_setConn_active]
      · exact ⟨active', map⟩
      · exact active'

/-- A change of an ACTIVE connection that leaves it ACTIVE. -/
theorem Dev.setConn_active (s : Dev) (c : Nat) {x : Conn} (active : x.st = .active) : ((s.setConn c x).conn c).st = .active := by
  rw [Dev.conn_setConn_active s c active, active]

theorem Dev.noteRx_active {s : Dev} {c : Nat} (active : (s.conn c).st = .active) (p : Packet) (a : Arrival) :
    ((s.noteRx c p a).conn c).st = .active :=
  Dev.setConn_active s c active

/-- The next packet in order is placed or executed: RCV_NXT moves on, the next ACK is noted and sent where one is due, and
messages complete (R124, R128, R130, R135). -/
theorem Dev.placeStep_next {k u : Dev} {env : Env} {c : Nat} {p : Packet}
    (room : ((k.conn c).msgs.filter fun m => m.count != 0).length < 16)
    (placed : ((k.setConn c (if p.first then k.openMsg (k.conn c) p else k.conn c)).noteMsg c p).process env c p = (u, .ok))
    (alone : (u.conn c).rcvMap = 0) (active : (u.conn c).st = .active) (a : Arrival) :
    k.placeStep env c 0 p a =
      (((((u.acceptOne c p).setConn c ((u.acceptOne c p).conn c).advanced).noteRx c p a).ackRule c p).closeMsgs c).settle := by
  obtain ⟨active', map⟩ := Dev.acceptOne_conn active p
  have advanced := Dev.advance_alone (u.acceptOne c p) env c 199 (map.trans alone)
  have moved := (u.acceptOne c p).setConn_active c (x := ((u.acceptOne c p).conn c).advanced) active'
  have going := Dev.noteRx_active moved p a
  simp only [BitVec.ofNat_eq_ofNat] at room
  simp [Dev.placeStep, Nat.not_le.mpr room, placed, advanced, going]

/-! ### The obligation -/

/-- The commands of the packet types differ in the type they ask for alone. -/
theorem exec_packet {c : Instr} {k : Nat} {p : Packet} {env : Env} {s : State}
    (command : exec c s = onDev (fun d => if p.ptype == k then d.receive env p else d) s) (type : p.ptype = k) :
    exec c s = .next { s with dev := s.dev.receive env p } := by
  simp [command, onDev, type]

/-- Settles O28: one argument for the six packet types, by the packet's distance from RCV_NXT. -/
theorem dataPacketsAreReceived : Obligations.DataPacketsAreReceived := by
  unfold Obligations.DataPacketsAreReceived
  intro p env s port arr received
  have each (ptype : Nat) (c : Instr) (low : 1 ≤ ptype) (high : ptype ≤ 6)
      (command : exec c s = onDev (fun d => if p.ptype == ptype then d.receive env p else d) s) : received ptype c := by
    intro type n d found a meets b x dist checked open_
    have data : isData p = true := by simp [isData, type, low, high]
    have active : (b.conn n).st = .active := (congrArg Conn.st (a.ctxTouch_conn n n)).trans meets.active
    have blot : (b.conn n).blotEnd = 0 := (congrArg Conn.blotEnd (a.ctxTouch_conn n n)).trans meets.blot
    have done : exec c s = .next { s with dev := b.rxData env n p arr } := by
      rw [exec_packet command type, Dev.receive_meets found meets, if_pos data]
    rw [done]
    refine ⟨?_, ?_⟩
    · intro old
      rw [Dev.rxData_stale active blot env old]
    · intro fresh
      refine ⟨?_, ?_, ?_⟩
      · intro k u next rcvMap taking sound cached passed z room placed alone active' v y w
        rw [Dev.rxData_inOrder active blot fresh env next open_ taking, Dev.accept_sound env 0 sound,
          Dev.keyStep_passed cached passed, Dev.placeStep_next room placed alone active']
        rfl
      · intro near before
        rw [Dev.rxData_duplicate active blot fresh env near before]
      · intro ahead
        rw [Dev.rxData_beyond active blot fresh env ahead]
  exact ⟨each 1 _ (by omega) (by omega) rfl, each 2 _ (by omega) (by omega) rfl, each 3 _ (by omega) (by omega) rfl,
    each 4 _ (by omega) (by omega) rfl, each 5 _ (by omega) (by omega) rfl, each 6 _ (by omega) (by omega) rfl⟩

end Sys2Proof.Machine

namespace Sys2Proof.Machine

/-! ### Ending launched entries changes the entries and the flushes that are due (R122, R201) -/

/-- The two devices differ at most in their launched entries and the host attach. -/
def Dev.WorkOnly (s t : Dev) : Prop := t = { s with ops := t.ops, hst := t.hst }

namespace Dev.WorkOnly

theorem refl (s : Dev) : s.WorkOnly s := rfl

theorem trans {s t u : Dev} (h : s.WorkOnly t) (k : t.WorkOnly u) : s.WorkOnly u := by
  unfold Dev.WorkOnly at *; rw [k, h]

theorem conns {s t : Dev} (h : s.WorkOnly t) : t.conns = s.conns := congrArg (·.conns) h
theorem mem {s t : Dev} (h : s.WorkOnly t) : t.mem = s.mem := congrArg (·.mem) h
theorem run {s t : Dev} (h : s.WorkOnly t) : t.run = s.run := congrArg (·.run) h

theorem fold {β : Type} {f : Dev → β → Dev} (h : ∀ (s : Dev) (x : β), s.WorkOnly (f s x)) (l : List β) (s : Dev) :
    s.WorkOnly (l.foldl f s) := by
  induction l generalizing s with
  | nil => exact refl s
  | cons x l ih => exact trans (h s x) (ih _)

theorem setOp (s : Dev) (ring : Nat) (pos : BitVec 32) (f : Op → Op) : s.WorkOnly (s.setOp ring pos f) := rfl

theorem flushStart (s : Dev) (fn : Nat) : s.WorkOnly (s.flushStart fn).1 := by
  unfold Dev.flushStart
  split
  · exact refl s
  · rfl

theorem finish (s : Dev) (ring : Nat) (pos : BitVec 32) (d : Done) : s.WorkOnly (s.finish ring pos d) := by
  unfold Dev.finish
  split
  · exact refl s
  · split
    · exact refl s
    · extract_lets d'
      split
      · exact trans (flushStart s _) (setOp _ _ _ _)
      · exact setOp s _ _ _

theorem connOpDone (s : Dev) (o : Op) : s.WorkOnly (s.connOpDone o) := by
  unfold Dev.connOpDone
  dsimp only
  split
  · exact refl s
  · split
    · exact finish s _ _ _
    · exact finish s _ _ _

theorem ackedOne (s : Dev) (t : TxPkt) : s.WorkOnly (s.ackedOne t) := by
  unfold Dev.ackedOne
  split
  · exact refl s
  · dsimp only
    split
    · exact trans (setOp s _ _ _) (connOpDone _ _)
    · exact setOp s _ _ _

end Dev.WorkOnly

/-! ### A partition that waits for work to end may quiesce connections (R333) -/

/-- The two contexts differ at most in STATE. -/
def Conn.SameButSt (x y : Conn) : Prop := y = { x with st := y.st }

theorem Conn.SameButSt.refl (x : Conn) : x.SameButSt x := rfl

theorem Conn.SameButSt.trans {x y z : Conn} (h : x.SameButSt y) (k : y.SameButSt z) : x.SameButSt z := by
  unfold Conn.SameButSt at *; rw [k, h]

/-- A change of listed contexts in STATE alone. -/
theorem tget_map_sameButSt {f : Nat × Conn → Nat × Conn} (key : ∀ p, (f p).1 = p.1)
    (value : ∀ p : Nat × Conn, p.2.SameButSt (f p).2) (t : Tbl Conn) (c : Nat) : (tget (fun _ => {}) t c).SameButSt (tget (fun _ => {}) (t.map f) c) := by
  induction t with
  | nil => exact .refl _
  | cons p t ih =>
    obtain ⟨j, x⟩ := p
    obtain ⟨y, changed⟩ : ∃ y, f (j, x) = (j, y) := ⟨(f (j, x)).2, Prod.ext (key (j, x)) rfl⟩
    have value' : x.SameButSt y := by simpa [changed] using value (j, x)
    rw [List.map_cons, changed, tget, tget]
    split
    · exact value'
    · split
      · exact .refl _
      · exact ih

theorem Dev.quiesceConns_conn (s : Dev) (part c : Nat) : (s.conn c).SameButSt ((s.quiesceConns part).conn c) := by
  refine tget_map_sameButSt (fun p => ?_) (fun p => ?_) s.conns c
  · split <;> rfl
  · split <;> rfl

theorem Dev.settlePtn_conn (s : Dev) (part c : Nat) : (s.conn c).SameButSt ((s.settlePtn part).conn c) := by
  unfold Dev.settlePtn
  split
  · have quiesced := s.quiesceConns_conn part c
    dsimp only
    split
    · exact quiesced
    · exact quiesced
  · split
    · exact .refl _
    · exact .refl _
  · exact .refl _

theorem Dev.settle_conn (s : Dev) (c : Nat) : (s.conn c).SameButSt (s.settle.conn c) := by
  unfold Dev.settle
  generalize s.ptns = l
  induction l generalizing s with
  | nil => exact .refl _
  | cons p l ih => exact (s.settlePtn_conn p.1 c).trans (ih _)

/-- What waits for work to end changes connections and partitions alone. -/
theorem Dev.settlePtn_frame (s : Dev) (part : Nat) : (s.settlePtn part).mem = s.mem ∧ (s.settlePtn part).run = s.run := by
  unfold Dev.settlePtn
  split
  · dsimp only
    split
    · exact ⟨rfl, rfl⟩
    · exact ⟨rfl, rfl⟩
  · split
    · exact ⟨rfl, rfl⟩
    · exact ⟨rfl, rfl⟩
  · exact ⟨rfl, rfl⟩

@[simp] theorem Dev.settle_mem (s : Dev) : s.settle.mem = s.mem :=
  foldl_frame (·.mem) (fun s (p : Nat × Ptn) => s.settlePtn p.1) (fun s p => (s.settlePtn_frame p.1).1) _ s

@[simp] theorem Dev.settle_run (s : Dev) : s.settle.run = s.run :=
  foldl_frame (·.run) (fun s (p : Nat × Ptn) => s.settlePtn p.1) (fun s p => (s.settlePtn_frame p.1).2) _ s

/-! ### ACK at the sender (R131) -/

/-- What an ACK of `psn` with the map `sack` makes of the send side of `x`. -/
structure Conn.Acked (x : Conn) (psn : BitVec 32) (sack : BitVec 128) (y : Conn) : Prop where
  sndUna : y.sndUna = psn
  sackTx : y.sackTx = sack
  length : y.tx.length = (x.tx.filter fun u => !(u.sent && psnDiff u.psn psn < 0)).length
  left : ∀ u ∈ y.tx, u.sent = true → 0 ≤ psnDiff u.psn psn
  counts : psn ≠ x.sndUna → y.retryCount = 0 ∧ y.rnrCount = 0 ∧ y.busyCount = 0

theorem Conn.Acked.sameButSt {x y z : Conn} {psn : BitVec 32} {sack : BitVec 128} (h : x.Acked psn sack y) (same : y.SameButSt z) :
    x.Acked psn sack z := by
  rw [same]
  exact ⟨h.sndUna, h.sackTx, h.length, h.left, h.counts⟩

/-- Marking holes changes when packets are due. -/
theorem Conn.Acked.markHoles {x y : Conn} {psn : BitVec 32} {sack : BitVec 128} (h : x.Acked psn sack y) (s : Dev) :
    x.Acked psn sack (s.markHoles y) where
  sndUna := h.sndUna
  sackTx := h.sackTx
  length := by simp [Dev.markHoles, h.length]
  left := by
    intro u in_
    simp only [Dev.markHoles, List.mem_map] at in_
    obtain ⟨t, was, rfl⟩ := in_
    simpa only [apply_ite TxPkt.sent, apply_ite TxPkt.psn, ite_self] using h.left t was
  counts := h.counts

/-- The two contexts have the same STATE, the same packets to send and the same acknowledged ones. -/
structure Conn.KeepsSends (x y : Conn) : Prop where
  st : y.st = x.st := by rfl
  tx : y.tx = x.tx := by rfl
  sndUna : y.sndUna = x.sndUna := by rfl
  sackTx : y.sackTx = x.sackTx := by rfl

theorem Conn.KeepsSends.trans {x y z : Conn} (h : x.KeepsSends y) (k : y.KeepsSends z) : x.KeepsSends z :=
  ⟨k.st.trans h.st, k.tx.trans h.tx, k.sndUna.trans h.sndUna, k.sackTx.trans h.sackTx⟩

theorem Conn.KeepsSends.ite {c : Prop} [Decidable c] {x y z : Conn} (yes : x.KeepsSends y) (no : x.KeepsSends z) :
    x.KeepsSends (if c then y else z) := by
  split
  · exact yes
  · exact no

/-- The window's reaction to an ACK leaves them (R143). -/
theorem Dev.onAck_keepsSends (s : Dev) (x : Conn) (ackedP ackedB ecn owd : Nat) :
    x.KeepsSends (s.onAck x ackedP ackedB ecn owd) := by
  unfold Dev.onAck
  extract_lets
  refine .ite ?_ ?_
  · extract_lets
    exact .ite {} {}
  · extract_lets
    exact .ite {} {}

/-- A round-trip sample leaves them (R131). -/
theorem rttSample_keepsSends (x : Conn) (m : Nat) : x.KeepsSends (rttSample x m) := {}

/-- An ACK from SND_UNA to SND_NXT: the send side, then the entries whose packets it acknowledges. -/
theorem Dev.rxAck_within (s : Dev) (c : Nat) (p : Packet) (acked : 0 ≤ psnDiff (BitVec.ofNat 32 p.psn) (s.conn c).sndUna)
    (sent_ : 0 ≤ psnDiff (s.conn c).sndNxt (BitVec.ofNat 32 p.psn)) :
    ∃ (y : Conn) (u : Dev), s.rxAck c p = u.settle ∧ (s.setConn c y).WorkOnly u ∧ y.st = (s.conn c).st ∧
      (s.conn c).Acked (BitVec.ofNat 32 p.psn) (BitVec.ofNat 128 (p.f 383 256)) y := by
  unfold Dev.rxAck
  extract_lets x a sack x' gone fresh bytes left x1 ecn x2 rtt x3 adv x4 s1
  have within : ¬ ((psnDiff a x.sndUna < 0 || psnDiff x.sndNxt a < 0) = true) := by simp [a, x]; omega
  rw [if_neg within]
  have sends : x1.KeepsSends x3 := .trans (.ite {} (s.onAck_keepsSends _ _ _ _ _)) (.ite (rttSample_keepsSends _ _) {})
  have sends' : x1.KeepsSends x4 := sends.trans (.ite {} {})
  refine ⟨s.markHoles x4, _, rfl, .fold (fun s t => .ackedOne s t) gone _, sends'.st, Conn.Acked.markHoles ?_ s⟩
  refine ⟨sends'.sndUna, sends'.sackTx, ?_, ?_, ?_⟩
  · rw [sends'.tx]
    exact List.length_map _
  · intro u in_
    rw [sends'.tx] at in_
    obtain ⟨t, was, rfl⟩ := List.mem_map.mp in_
    have kept := (List.mem_filter.mp was).2
    intro sent
    simpa [show t.sent = true from sent] using kept
  · intro moved
    have adv_ : adv = true := by simpa [adv] using moved
    simp [x4, adv_]

/-! ### NAK at the sender (R131, R445, Table 6.8) -/

/-- The context once the code of a NAK is noted. -/
def Conn.naked (x : Conn) (p : Packet) : Conn := { x with lastNak := BitVec.ofNat 8 (p.f 263 256) }

/-- A NAK that names a packet sent and not acknowledged, by its code. -/
theorem Dev.rxNak_open {s u : Dev} {c : Nat} {p : Packet} {x : Conn} {code : Nat} {psn : BitVec 32}
    (told : p.f 263 256 = code) (named : BitVec.ofNat 32 (p.f 351 320) = psn)
    (noted : s.setConn c ((s.conn c).naked p) = u) (read : u.conn c = x)
    (sent_ : 0 ≤ psnDiff psn (s.conn c).sndUna) (unacked : psnDiff psn (s.conn c).sndNxt < 0) :
    (code = 1 → tfind x.seqRetxAt psn.toNat = none → s.rxNak c p = u.setConn c { x.resend (· == psn) with
      seqRetxAt := tput (x.seqRetxAt.filter fun r => x.srtt.toNat > (u.rlg.time - r.2).toNat) psn.toNat u.rlg.time }) ∧
    (code = 2 → x.wait = none → s.rxNak c p =
      u.setConn c { x with wait := some (false, u.osc + nsTicks (p.f 319 288), psn) }) ∧
    (code = 3 → x.wait = none → ∃ at_ ≥ u.osc, s.rxNak c p = u.setConn c { x with wait := some (true, at_, psn) }) ∧
    (4 ≤ code → code ≤ 0x0D → s.rxNak c p =
      (u.endConn c .error (nakStatus code) (some psn) (u.nakDetail c code (p.f 319 288) psn)).settle) := by
  subst told named read noted
  unfold Dev.rxNak
  extract_lets x₀ code arg psn open_ req u x ok y e ep r ru
  have opened : open_ = true := by simpa [open_] using ⟨sent_, unacked⟩
  refine ⟨?_, ?_, ?_, ?_⟩
  · intro sequence first
    have due : ok = true := by
      simp only [ok]
      rw [show tfind x.seqRetxAt psn.toNat = none from first]
    simp [show code = 1 from sequence, opened, due]
    rfl
  · intro rnr idle
    simp [show code = 2 from rnr, opened, show x.wait = none from idle]
    rfl
  · intro busy idle
    refine ⟨u.osc + ceilDiv ru 8192, Nat.le_add_right _ _, ?_⟩
    simp [show code = 3 from busy, opened, show x.wait = none from idle]
    rfl
  · intro low high
    have known : ¬ (code = 0 ∨ 14 ≤ code) := by omega
    simp [known, show 4 ≤ code from low, opened]
    rfl

/-! ### A reply in whole that meets an ACTIVE connection -/

theorem Dev.rxReply_sound {s : Dev} {c : Nat} {p : Packet} {a : Arrival} (active : (s.conn c).st = .active)
    (blot : (s.conn c).blotEnd = 0) (fresh : s.stale p a = false) (agrees : p.icrc = icrcConn p) :
    s.rxReply c p a = if p.ptype == 7 then s.rxAck c p else s.rxNak c p := by
  simp [Dev.rxReply, active, blot, fresh, agrees]

theorem Dev.receive_reply {s : Dev} {p : Packet} {env : Env} {port : Nat} {arr : Arrival}
    (found : ((s.enter env).rte.local_.find? fun q => q.1 == p && (s.enter env).whole q.2.1 p) = some (p, port, arr))
    (meets : (s.delivered env p port arr).Meets p) (fresh : (s.delivered env p port arr).stale p arr = false)
    (agrees : p.icrc = icrcConn p) (reply : isData p = false) :
    s.receive env p = if p.ptype == 7 then ((s.delivered env p port arr).ctxTouch p.dconn).rxAck p.dconn p
      else ((s.delivered env p port arr).ctxTouch p.dconn).rxNak p.dconn p := by
  rw [Dev.receive_meets found meets, if_neg (by simp [reply]), Dev.rxReply_sound _ _ _ agrees]
  · rw [Dev.ctxTouch_conn, meets.active]
  · rw [Dev.ctxTouch_conn, meets.blot]
  · rw [Dev.ctxTouch_stale, fresh]

/-! ### The obligation -/

/-- Settles O30: the two packet types, and NAK by its code. -/
theorem acksAndNaks : Obligations.AcksAndNaks := by
  unfold Obligations.AcksAndNaks
  refine ⟨?_, ?_⟩
  · intro p s port arr type agrees n d found a meets fresh b x psn acked sent_
    have active : x.st = .active := (congrArg Conn.st (a.ctxTouch_conn n n)).trans meets.active
    have run : exec (.ack p) s = .next { s with dev := b.rxAck n p } := by
      rw [exec_packet (k := 7) rfl type, Dev.receive_reply found meets fresh agrees (by simp [isData, type])]
      simp [type, b, n, a]
    obtain ⟨y, u, rx, work, st, acks⟩ := b.rxAck_within n p acked sent_
    have kept : u.conn n = y := (Dev.conn_congr work.conns n).trans (b.conn_setConn_active n (st.trans active))
    have sends : x.Acked psn (BitVec.ofNat 128 (p.f 383 256)) (u.settle.conn n) := acks.sameButSt (kept ▸ u.settle_conn n)
    refine ⟨_, run, ?_⟩
    rw [rx]
    exact ⟨sends.sndUna, sends.sackTx, sends.length, sends.left, sends.counts, u.settle_mem.trans work.mem,
      u.settle_run.trans work.run, rfl⟩
  · intro p s port arr type agrees n d found a meets fresh code psn b' x sent_ unacked b
    have active : x.st = .active := (congrArg Conn.st (a.ctxTouch_conn n n)).trans meets.active
    have run : exec (.nak p) s = .next { s with dev := b'.rxNak n p } := by
      rw [exec_packet (k := 8) rfl type, Dev.receive_reply found meets fresh agrees (by simp [isData, type])]
      simp [type, b', n, a]
    obtain ⟨sequence, rnr, busy, fatal⟩ :=
      Dev.rxNak_open (s := b') (p := p) (u := b) rfl rfl rfl (b'.conn_setConn_active n active) sent_ unacked
    rw [run]
    refine ⟨?_, ?_, ?_, ?_⟩
    · intro code_ first
      rw [sequence code_ first]
    · intro code_ idle
      rw [rnr code_ idle]
    · intro code_ idle
      obtain ⟨at_, later, rx⟩ := busy code_ idle
      exact ⟨at_, later, by rw [rx]⟩
    · intro low high
      rw [fatal low high]

end Sys2Proof.Machine

namespace Sys2Proof.Machine

/-! ### The retransmission timer (R131, Table 6.8) -/

section
variable {s : Dev} {c : Nat} (active : (s.conn c).st = .active) (cached : s.ctxCached c = true)
variable (armed : (s.conn c).rtoDeadline ≠ 0#64) (due : (s.conn c).rtoDeadline.toNat ≤ s.rlg.time.toNat)
include active cached armed due

/-- Below the retry limit the packets go again, the timeout doubles and the window falls. -/
theorem Dev.timerExpiry_retry (left : (s.conn c).retryCount.toNat ≠ (s.conn c).retryLimit) :
    s.timerExpiry c = s.setConn c { s.onExpiry ((s.conn c).resend fun psn => !(s.conn c).sacked psn) with
      retryCount := (s.conn c).retryCount + 1
      rto := BitVec.ofNat 48 (min (2 * (s.conn c).rto.toNat) (s.conn c).rtoMax)
      rtoDeadline := s.rlg.time + BitVec.ofNat 64 (min (2 * (s.conn c).rto.toNat) (s.conn c).rtoMax) } := by
  simp [Dev.timerExpiry, active, cached, armed, Nat.not_lt.mpr due, left]
  rfl

/-- At the limit the window falls and the connection ends. -/
theorem Dev.timerExpiry_limit (spent : (s.conn c).retryCount.toNat = (s.conn c).retryLimit) :
    s.timerExpiry c = ((s.setConn c (s.onExpiry (s.conn c))).endConn c .error
      (if (s.conn c).refused then stPeer else stRetry) (some (s.conn c).sndUna)
      ((s.setConn c (s.onExpiry (s.conn c))).ownDetail c)).settle := by
  simp [Dev.timerExpiry, active, cached, armed, Nat.not_lt.mpr due, spent]

end

/-! ### The end of a wait (R131) -/

/-- Within the limit, packets from the refused PSN on go again. -/
theorem Dev.waitEnd_within {s : Dev} {c t : Nat} {psn : BitVec 32} {busy : Bool} (active : (s.conn c).st = .active)
    (cached : s.ctxCached c = true) (waits : (s.conn c).wait = some (busy, t, psn)) (past : t ≤ s.osc)
    (within : (if busy then (s.conn c).busyLimit else (s.conn c).rnrLimit) = 255 ∨
      (if busy then (s.conn c).busyCount.toNat else (s.conn c).rnrCount.toNat) + 1 ≤
        if busy then (s.conn c).busyLimit else (s.conn c).rnrLimit) :
    let y := (s.conn c).resend fun q => 0 ≤ psnDiff q psn
    let k := BitVec.ofNat 8 (min ((if busy then (s.conn c).busyCount.toNat else (s.conn c).rnrCount.toNat) + 1) 255)
    s.waitEnd c busy = s.setConn c
      (if busy then { y with wait := none, busyCount := k } else { y with wait := none, rnrCount := k }) := by
  intro y k
  unfold Dev.waitEnd
  extract_lets x wanted again n lim
  have within' : lim = 255 ∨ n ≤ lim := by
    cases busy
    · exact within
    · exact within
  have ends : ¬ ((busy != busy || decide (s.osc < t) || decide (x.st ≠ .active)) = true) := by
    simp [show x.st = .active from active, Nat.not_lt.mpr past]
  have inside : ¬ ((lim != 255 && decide (lim < n)) = true) := by
    simp
    omega
  rw [show x.wait = some (busy, t, psn) from waits]
  dsimp only
  rw [if_neg ends, if_neg (by simp [cached]), if_neg inside]
  cases busy
  · rfl
  · rfl

/-! ### Delayed acknowledgements (R130) -/

theorem Dev.ackExpiry_due {s : Dev} {c t : Nat} (active : (s.conn c).st = .active) (since : (s.conn c).ackSince = some t)
    (pending : (s.conn c).ackPending ≠ 0#9) (due : t + nsTicks s.ackDelay ≤ s.osc) : s.ackExpiry c = s.sendAck c := by
  simp [Dev.ackExpiry, active, since, pending, due]

/-! ### The obligation -/

theorem exec_retransmitTimer (c : BitVec 20) (s : State) :
    exec (.retransmitTimer c) s = .next { s with dev := s.dev.timerExpiry c.toNat } := rfl

theorem exec_waitEnd (busy : Bool) (c : BitVec 20) (s : State) :
    exec (if busy then .busyWaitEnd c else .rnrWaitEnd c) s = .next { s with dev := s.dev.waitEnd c.toNat busy } := by
  cases busy
  · rfl
  · rfl

theorem exec_ackDelayExpiry (c : BitVec 20) (s : State) :
    exec (.ackDelayExpiry c) s = .next { s with dev := s.dev.ackExpiry c.toNat } := rfl

/-- Settles O31: its timers one by one. -/
theorem connectionTimers : Obligations.ConnectionTimers := by
  unfold Obligations.ConnectionTimers
  refine ⟨?_, ?_, ?_⟩
  · intro c s n x active cached armed due rto y cwnd d
    rw [exec_retransmitTimer]
    refine ⟨?_, ?_⟩
    · intro left
      rw [Dev.timerExpiry_retry active cached armed due left]
      rfl
    · intro spent
      rw [Dev.timerExpiry_limit active cached armed due spent]
      rfl
  · intro c s t psn busy n x active cached waits past m limit within y k z
    rw [exec_waitEnd, Dev.waitEnd_within active cached waits past within]
  · intro c s t n x active since pending due h z owed
    rw [exec_ackDelayExpiry, Dev.ackExpiry_due active since pending due, Dev.sendAck]
    refine ⟨?_, ?_⟩
    · intro seen
      rw [if_pos seen, Dev.ackNow, seen]
    · intro unseen
      rw [if_neg unseen]

end Sys2Proof.Machine

namespace Sys2Proof.Machine

/-! ### CONN_CTL (R122, R123) -/

section
variable {v : View} (view : v = .pf ∨ v = .port) {w : Word} (s : State)
include view

/-- A write that the command's operands alone make this command acts once the journal has its copy. -/
theorem onWrite_owned_chosen {off : Nat} {f : Dev → Dev} {c : Prop} [Decidable c] (up : (s.tapped v off w).inReset off = false)
    (chosen : c) :
    onWrite v off w (fun d => if c then d.owned v off w f else d) s = .next { s with dev := f (s.tapped v off w) } := by
  simp only [chosen, if_true]
  exact onWrite_owned view s up

variable (up : (s.tapped v Reg.connCtl w).inReset Reg.connCtl = false)
include up

theorem exec_connEnable (cmd : bits w 7 0 = 1) :
    exec (.connEnable v w) s = .next { s with dev := (s.tapped v Reg.connCtl w).connCmd v w } :=
  onWrite_owned_chosen view s up cmd

theorem exec_connAbort (cmd : bits w 7 0 = 2) :
    exec (.connAbort v w) s = .next { s with dev := (s.tapped v Reg.connCtl w).connCmd v w } :=
  onWrite_owned_chosen view s up cmd

theorem exec_connReset (cmd : bits w 7 0 = 3) :
    exec (.connReset v w) s = .next { s with dev := (s.tapped v Reg.connCtl w).connCmd v w } :=
  onWrite_owned_chosen view s up cmd

end

section
variable (s : Dev) (v : View) {w : Word}

theorem Dev.connCmd_enable (cmd : bits w 7 0 = 1) : s.connCmd v w =
    if s.connEnableCode (s.selConn v) = 0 then s.connOpen (s.selConn v)
    else s.setConn (s.selConn v) { s.conn (s.selConn v) with enableResult := s.connEnableCode (s.selConn v) } := by
  simp only [Dev.connCmd, cmd]

theorem Dev.connCmd_abort (cmd : bits w 7 0 = 2) (active : (s.conn (s.selConn v)).st = .active) :
    s.connCmd v w = (s.endConn (s.selConn v) .error stDependency none 0).settle := by
  simp only [Dev.connCmd, cmd, active, if_true]

theorem Dev.connCmd_reset (cmd : bits w 7 0 = 3) (ended : (s.conn (s.selConn v)).st = .error ∨
    (s.conn (s.selConn v)).st = .hostLost ∨ (s.conn (s.selConn v)).st = .quiesced) :
    s.connCmd v w =
      let x := s.conn (s.selConn v)
      let y := s.setConn (s.selConn v) { x with
        st := .reset, errStatus := 0, resetAt := s.rlg.time, fetching := false, tx := [], holding := []
        cfg := if x.ctxLost then 0 else x.cfg, ctxLost := false }
      if x.ctxLost then y.ctxStore (s.selConn v) else y := by
  have ends : (decide ((s.conn (s.selConn v)).st = .error) || decide ((s.conn (s.selConn v)).st = .hostLost) ||
    decide ((s.conn (s.selConn v)).st = .quiesced)) = true := by simpa [or_assoc] using ended
  simp only [Dev.connCmd, cmd, ends, if_true]

end

theorem Dev.connEnableCode_busy {s : Dev} {c : Nat} (busy : (s.conn c).st ≠ .reset) : s.connEnableCode c = 0x01 := by
  simp [Dev.connEnableCode, busy]

/-! ### Fetches (R138, R163) -/

theorem Dev.ctxFetched_ok {s : Dev} {env : Env} {c : Nat} (asked : ((s.enter env).conn c).fetching = true)
    (still : (s.enter env).inkMoving 3 = false) (ok : (s.enter env).fetchCtx env c = .ok) :
    s.ctxFetched env c = ((s.enter env).ctxAsk c).ctxEnd env c .ok := by
  simp [Dev.ctxFetched, asked, still, ok]

theorem exec_contextFetchDone (c : BitVec 20) (env : Env) (s : State) :
    exec (.contextFetchDone c env) s = .next { s with dev := s.dev.ctxFetched env c.toNat } := rfl

theorem Dev.keyFetched_sound {s : Dev} {k : Nat} (asked : s.xlt.keyFetch.contains k = true) (still : s.inkMoving 4 = false) :
    s.keyFetched k false =
      (Dev.keyLoad { s with xlt := { s.xlt with keyFetch := s.xlt.keyFetch.filter (· != k) } } k).drainAll {} := by
  simp only [Dev.keyFetched, asked, still]
  rfl

theorem exec_keyFetchDone (k : BitVec 22) (poison : Bool) (s : State) :
    exec (.keyFetchDone k poison) s = .next { s with dev := s.dev.keyFetched k.toNat poison } := rfl

/-! ### The end of a blot (R304, R305) -/

@[simp] theorem Dev.rest_conns (s : Dev) (x : QPkt) : (s.rest x).conns = s.conns := by
  unfold Dev.rest
  split
  · split
    · rfl
    · rfl
  · rfl

/-- A packet that joins a leaf changes no connection. -/
@[simp] theorem Dev.joinAs_conns (s : Dev) (x : QPkt) (arr : Option (Nat × Nat)) (adaptive : Bool) :
    (s.joinAs x arr adaptive).1.conns = s.conns := by
  unfold Dev.joinAs
  extract_lets p u
  split
  · rfl
  · rfl
  · have counted : u.conns = s.conns := by
      simp only [u]
      split
      · rfl
      · rfl
    exact (u.rest_conns _).trans counted
  · dsimp only
    split
    · exact Dev.rest_conns _ _
    · exact Dev.rest_conns _ _

theorem Dev.setConn_msgs (s : Dev) (c : Nat) {x : Conn} (listed : x ≠ {}) : ((s.setConn c x).conn c).msgs = x.msgs := by
  rw [Dev.conn_setConn s c listed]

theorem Dev.refuseOwn_msgs (s : Dev) (c k : Nat) : ((s.refuseOwn (some c) k).conn c).msgs = (s.conn c).msgs := by
  unfold Dev.refuseOwn
  dsimp only
  split
  · exact s.setConn_msgs c fun fresh => Bool.noConfusion (congrArg Conn.refused fresh)
  · rfl

/-- A reply that is queued may tell its connection that the router refused it, nothing else (R219). -/
theorem Dev.queueControl_msgs (s : Dev) (c : Nat) (p : Packet) : ((s.queueControl (some c) p).conn c).msgs = (s.conn c).msgs := by
  unfold Dev.queueControl
  have joined : (s.join .control none none (some c) (sealIcrc p) (s.startsAdaptive p)).1.conns = s.conns :=
    Dev.joinAs_conns s _ none _
  generalize s.join .control none none (some c) (sealIcrc p) (s.startsAdaptive p) = r at joined ⊢
  obtain ⟨u, dropped⟩ := r
  have same : (u.conn c).msgs = (s.conn c).msgs := congrArg Conn.msgs (Dev.conn_congr joined c)
  cases dropped with
  | none => exact same
  | some k => exact (u.refuseOwn_msgs c k).trans same

/-- A NAK leaves the open messages of its connection. -/
theorem Dev.sendNak_msgs (s : Dev) {c : Nat} (ends : (s.conn c).blotEnd ≠ 0#8) (e : Echo) (dst dconn : Nat) (psn : BitVec 32)
    (code arg : Nat) : ((s.sendNak c e dst dconn psn code arg).conn c).msgs = (s.conn c).msgs := by
  unfold Dev.sendNak
  extract_lets x again keep h u
  split
  · rfl
  · have noted : (u.conn c).msgs = x.msgs := s.setConn_msgs c fun fresh => ends (congrArg Conn.blotEnd fresh)
    exact (Dev.queueControl_msgs _ c _).trans noted

theorem Dev.blotDone_clean {s : Dev} {c : Nat} (owed : (s.conn c).blotEnd ≠ 0#8) (clean : (s.conn c).blotting = [])
    (none_ : (s.conn c).msgs = []) :
    s.blotDone c = let x := s.conn c
      ((s.sendNak c x.blotEcho x.peerNode x.peerConn x.blotPsn (statusNak x.blotEnd.toNat) 0).endConn c .error x.blotEnd.toNat none
        (connStatusDetail c x.blotPsn)).settle := by
  simp [Dev.blotDone, owed, clean, s.sendNak_msgs owed, none_]

theorem exec_blotDone (c : BitVec 20) (s : State) : exec (.blotDone c) s = .next { s with dev := s.dev.blotDone c.toNat } := rfl

/-! ### The obligation -/

/-- Settles O32: its commands one by one. -/
theorem connectionCommands : Obligations.ConnectionCommands := by
  unfold Obligations.ConnectionCommands
  refine ⟨?_, ?_, ?_, ?_⟩
  · intro v w s view a n x up
    refine ⟨?_, ?_, ?_, ?_⟩
    · intro cmd code
      rw [exec_connEnable view s up cmd, Dev.connCmd_enable a v cmd, if_pos code]
    · intro cmd busy
      have code : a.connEnableCode n = 0x01 := Dev.connEnableCode_busy busy
      rw [exec_connEnable view s up cmd, Dev.connCmd_enable a v cmd, if_neg (by rw [code]; decide), code]
    · intro cmd active
      rw [exec_connAbort view s up cmd, Dev.connCmd_abort a v cmd active]
    · intro cmd ended y
      rw [exec_connReset view s up cmd, Dev.connCmd_reset a v cmd ended]
  · intro c env s n a d x asked still ok y z
    rw [exec_contextFetchDone, Dev.ctxFetched_ok asked still ok]
    rfl
  · intro k s asked still x d
    rw [exec_keyFetchDone, Dev.keyFetched_sound asked still]
  · intro c s n x owed clean none_ u
    rw [exec_blotDone, Dev.blotDone_clean owed clean none_]

end Sys2Proof.Machine

namespace Sys2Proof.Machine

/-! ### A packet that leaves changes no exchange (R45, R145, R218 to R222) -/

@[simp] theorem Dev.charge_exchs (s : Dev) (key rate cap n : Nat) : (s.charge key rate cap n).exchs = s.exchs := by
  unfold Dev.charge
  split <;> rfl

theorem Dev.SameCore.exchs {s t : Dev} (h : s.SameCore t) : t.exchs = s.exchs := congrArg (·.exchs) h

theorem Dev.SameCore.isEth {s t : Dev} (h : s.SameCore t) (p : Nat) : t.isEth p = s.isEth p := by
  have run : t.run = s.run := congrArg (·.run) h
  simp only [Dev.isEth, Dev.st, run]

theorem SameCore.folPkt (s : Dev) (tx : Bool) (part port : Nat) (attrs : List (Nat × Nat)) (p : Packet) :
    s.SameCore (s.folPkt tx part port attrs p) := by
  unfold Dev.folPkt
  split
  · exact refl s
  · dsimp only
    split
    · exact trans (folTap s _ _ _) (folTap _ _ _ _)
    · exact folTap s _ _ _

@[simp] theorem Dev.sendUnit_exchs (s : Dev) (port kind : Nat) (d : BitVec 512) : (s.sendUnit port kind d).exchs = s.exchs := rfl

@[simp] theorem Dev.sendFlits_exchs (s : Dev) (port vc kind : Nat) (us : List (BitVec 512)) :
    (s.sendFlits port vc kind us).exchs = s.exchs :=
  List.foldlRecOn (motive := fun t : Dev => t.exchs = s.exchs) us _ rfl fun t kept u _ =>
    (t.sendUnit_exchs port kind u).trans kept

@[simp] theorem Dev.freeRoom_exchs (s : Dev) (x : QPkt) : (s.freeRoom x).exchs = s.exchs := by
  unfold Dev.freeRoom
  split
  · split <;> rfl
  · rfl

theorem Dev.depart_exchs (s : Dev) (p : Nat) (x : QPkt) (k : Packet) : (s.depart p x k).exchs = s.exchs := by
  unfold Dev.depart
  extract_lets v h stamped n mark k marked _ numbered come freed cut attrs traced shown flitted
  have numbered_ : numbered.exchs = s.exchs := by
    simp only [numbered, marked]
    split <;> rfl
  have freed_ : freed.exchs = numbered.exchs := by
    simp only [freed, Dev.freeRoom_exchs]
    split
    · rfl
    · exact Dev.sendFlits_exchs _ _ _ _ _
  have cut_ : cut.exchs = freed.exchs := by
    simp only [cut]
    split
    · split <;> rfl
    · rfl
  have traced_ : traced.exchs = cut.exchs := by
    simp only [traced]
    split
    · rfl
    · exact Dev.SameCore.exchs (SameCore.folPkt _ _ _ _ _ _)
  have shown_ : shown.exchs = traced.exchs := by
    simp only [shown]
    split <;> rfl
  have flitted_ : flitted.exchs = shown.exchs := by
    simp only [flitted]
    split <;> rfl
  have kept : flitted.exchs = s.exchs := by rw [flitted_, shown_, traced_, cut_, freed_, numbered_]
  split
  · exact kept
  · split <;> exact kept

/-! ### What does not apply at a quiet fabric port -/

/-- No packet waits for an adaptive route, so none is tried again (R217). -/
theorem Dev.retryAdaptive_still (s : Dev) (routed : ∀ y ∈ s.sch.q, y.kind2 = false) : s.retryAdaptive = s :=
  List.foldlRecOn (motive := (· = s)) s.sch.q _ rfl fun _ still y in_ => by simp [still, routed y in_]

/-- No Pluck flit is queued, so none leaves between the flits of a packet (R278). -/
theorem Dev.insertFlits_none (s : Dev) (env : Env) (p : Nat) (routed : ∀ y ∈ s.sch.q, y.kind2 = false)
    (packets : ∀ y ∈ s.queued p, isPluck y.pkt = false) : s.insertFlits env p = s := by
  have none_ : (s.sch.q.filter fun x => x.port == p && isPluck x.pkt) = [] := by
    refine List.filter_eq_nil_iff.mpr fun y in_ flit => ?_
    obtain ⟨here, pluck⟩ := Bool.and_eq_true_iff.mp flit
    have queued : y ∈ s.queued p := List.mem_filter.mpr ⟨in_, by simp [here, routed y in_]⟩
    simp [packets y queued] at pluck
  simp only [Dev.insertFlits, Dev.pluckQueue, none_, List.foldl_nil]

theorem Dev.feedPort_idle (s : Dev) (env : Env) (p : Nat) (idle : s.exchs = []) : s.feedPort env p = s := by
  simp only [Dev.feedPort, idle, List.foldl_nil]

theorem Dev.strumGoOn_idle (s : Dev) (env : Env) (idle : s.exchs = []) : s.strumGoOn env = s := by
  simp only [Dev.strumGoOn, idle, List.foldl_nil]

theorem Dev.fetchForTx_none (s : Dev) (none_ : s.conns = []) : s.fetchForTx = s := by
  simp only [Dev.fetchForTx, none_, List.foldl_nil]

theorem Dev.sendUnrouted_none (s : Dev) (env : Env) (none_ : s.conns = []) : s.sendUnrouted env = s := by
  simp only [Dev.sendUnrouted, none_, List.foldl_nil]

/-! ### A packet of a fabric port's control queue starts (R147, R150, R151) -/

/-- A packet of the control queue that its port starts: its shaper is charged and it leaves its queue. -/
def Dev.startControl (s : Dev) (p : Nat) (x : QPkt) : Dev :=
  let cw := s.st (Reg.schPortCtrl p)
  let c := s.charge (shaperKey p 1) (bits cw 17 0) (bits cw 33 18 * 64) (s.slen p x.len)
  ({ c with sch := { c.sch with q := eraseFirst (· == x) c.sch.q } } : Dev).depart p x x.pkt

theorem Dev.startControl_exchs (s : Dev) (p : Nat) (x : QPkt) : (s.startControl p x).exchs = s.exchs :=
  (Dev.depart_exchs _ _ _ _).trans (Dev.charge_exchs _ _ _ _ _)

theorem Dev.send_queued (s : Dev) (env : Env) (p : Nat) {x : QPkt} (unconnected : x.conn = none) :
    s.send env p x = ({ s with sch := { s.sch with q := eraseFirst (· == x) s.sch.q } } : Dev).depart p x x.pkt := by
  simp only [Dev.send, unconnected]

section
variable {s : Dev} {env : Env} {p : Nat}

/-- At a port where nothing else applies the chosen packet of the control queue starts. -/
theorem Dev.portStart_control {x : QPkt} (conns : (s.enter env).conns = []) (routed : ∀ y ∈ (s.enter env).sch.q, y.kind2 = false)
    (packets : ∀ y ∈ (s.enter env).queued p, isPluck y.pkt = false) (up : (s.enter env).usable p = true)
    (free : (s.enter env).portBusy p = false) (chosen : (s.enter env).choose p = some (x, none)) (control : x.leaf = .control)
    (unconnected : x.conn = none) (open_ : (s.enter env).curFret p = none) : s.portStart env p = (s.enter env).startControl p x := by
  unfold Dev.portStart
  rw [Dev.fetchForTx_none _ conns, Dev.retryAdaptive_still _ routed, Dev.sendUnrouted_none _ env conns]
  simp only [up, Dev.insertFlits_none _ env p routed packets, free, chosen, control, open_, Option.any_none, Bool.not_true,
    Bool.not_false, Bool.and_true, decide_true, Bool.false_eq_true, if_false, if_true]
  exact Dev.send_queued _ env p unconnected

/-- PORT_PACKET_START on a fabric port of a device without a running exchange is the port's start, then what waits settles. -/
theorem Dev.portPacket_idle (fabric : s.isEth p = false) (idle : ((s.enter env).enter env).exchs = [])
    (ends : ((s.enter env).portStart env p).exchs = []) : s.portPacket env p = ((s.enter env).portStart env p).settle := by
  have entered : (s.enter env).exchs = [] := by rw [← Dev.SameCore.exchs (SameCore.enter (s.enter env) env), idle]
  simp only [Dev.portPacket, fabric, Bool.false_eq_true, if_false, Dev.feedPort_idle _ env p entered, Dev.strumGoOn_idle _ env ends]

end

/-! ### A control frame of an Ethernet port starts (R150, R151) -/

/-- A control frame that waits at a port whose link is up starts once its shaper admits it. -/
theorem Dev.ethStart_frame {s : Dev} {p : Nat} {f : List Byte} {rest : List (List Byte)} {cw : Word}
    (up : (s.ethPort (p - 14)).link = true) (waits : (s.ethPort (p - 14)).frames = f :: rest)
    (control : s.st (Reg.schPortCtrl p) = cw) (admits : s.shaperOk (shaperKey p 1) (bits cw 17 0) (bits cw 33 18 * 64) = true) :
    s.ethStart p = ((s.setEth (p - 14) { s.ethPort (p - 14) with frames := rest }).charge (shaperKey p 1) (bits cw 17 0)
      (bits cw 33 18 * 64) (s.slen p f.length)).ethDepart p f := by
  simp only [Dev.ethStart, up, waits, control, admits, Bool.not_true, Bool.false_eq_true, if_false, if_true]

@[simp] theorem Dev.charge_replaying (s : Dev) (key rate cap n : Nat) : (s.charge key rate cap n).replaying = s.replaying := by
  unfold Dev.charge
  split <;> rfl

/-- Outside replay a frame that starts is counted and sent (R349). -/
theorem Dev.ethDepart_live {s : Dev} (live : s.replaying = false) (p : Nat) (f : List Byte) :
    s.ethDepart p f = (s.bump (Reg.ethCounts (p - 14) 1)).emit (.eth p f) := by
  simp only [Dev.ethDepart, live, Bool.false_eq_true, if_false]

/-! ### The obligation -/

theorem exec_portPacketStart (port : Fin 16) (env : Env) (s : State) :
    exec (.portPacketStart port env) s = .next { s with dev := s.dev.portPacket env port } := rfl

/-- Settles O35: a packet of the control queue of a quiet fabric port, and a control frame of an Ethernet port. -/
theorem portsStartPackets : Obligations.PortsStartPackets := by
  unfold Obligations.PortsStartPackets
  refine ⟨?_, ?_⟩
  · intro port env s x p b _ fabric idle conns routed packets up free chosen control unconnected open_ cw c left
    have started : (s.dev.enter env).portStart env p = b.startControl p x :=
      Dev.portStart_control conns routed packets up free chosen control unconnected open_
    have ends : ((s.dev.enter env).portStart env p).exchs = [] := by rw [started, Dev.startControl_exchs, idle]
    have fabric_ : s.dev.isEth p = false := by rw [← Dev.SameCore.isEth (SameCore.enter s.dev env) p, fabric]
    rw [exec_portPacketStart, Dev.portPacket_idle fabric_ idle ends, started]
    rfl
  · intro port env s f rest p b eth _ live up waits cw admits c
    have live_ : c.replaying = false := (Dev.charge_replaying _ _ _ _ _).trans live
    have entered : s.dev.portPacket env port = b.ethStart p := if_pos eth
    rw [exec_portPacketStart, entered, Dev.ethStart_frame up waits rfl admits, Dev.ethDepart_live live_]

end Sys2Proof.Machine

namespace Sys2Proof.Machine

/-! ### The check of an operand (R163, R167, R168) -/

/-- What keeps the core leaves the key table and the translation cache. -/
theorem SameCore.xlt_eq {s t : Dev} (h : s.SameCore t) : t.xlt = s.xlt := congrArg (·.xlt) h

/-- The device once a fetch has read the memory behind a slot: what `Dev.keyLoad` has before it looks at what it found. -/
def Dev.keyRead (s : Dev) (i : Nat) : Dev :=
  match s.keyInk i with
  | some a => s.eccRange false a 32
  | none => if s.reach 0 .host then s.pinnedAsk 0 else s

theorem SameCore.keyRead (s : Dev) (i : Nat) : s.SameCore (s.keyRead i) := by
  unfold Dev.keyRead
  split
  · exact eccRange s _ _ _
  · split
    · exact pinnedAsk s 0
    · exact refl s

/-- A slot's place in the key cache is no entry of the table. -/
@[simp] theorem Dev.keyTouch_keys (s : Dev) (i : Nat) : (s.keyTouch i).xlt.keys = s.xlt.keys := rfl

/-- Fetching an entry writes none. -/
@[simp] theorem Dev.keyLoad_keys (s : Dev) (i : Nat) : (s.keyLoad i).xlt.keys = s.xlt.keys := by
  have read : ((s.bump Reg.keyMisses).keyRead i).xlt.keys = s.xlt.keys := by
    rw [SameCore.xlt_eq (SameCore.keyRead _ i), Dev.bump_xlt]
  unfold Dev.keyLoad
  split
  · rfl
  · dsimp only
    split
    · exact read
    · exact read
    · rw [Dev.keyTouch_keys, SameCore.xlt_eq (SameCore.postErr _ _ _ _ _ _ _)]
      exact read

@[simp] theorem Dev.keyLoad_keyEntry (s : Dev) (i j : Nat) : (s.keyLoad i).keyEntry j = s.keyEntry j := by
  rw [Dev.keyEntry, Dev.keyLoad_keys, Dev.keyEntry]

/-- An operand's check answers with the first step of Table 8.5 that fails on the slot's entry. -/
theorem Dev.keyCheck_status (s : Dev) (k : BitVec 32) (part a n need : Nat) :
    (s.keyCheck k part a n need).2 =
      (keyFail (s.keyEntry (keyIndex k)) ((s.keyLoad (keyIndex k)).keyBad (keyIndex k)) k part a n need).map (·.1) := by
  simp only [Dev.keyCheck, Dev.keyLoad_keyEntry]
  split
  · next passed => rw [passed]; rfl
  · next failed => rw [failed]; rfl

/-- Where steps 1 to 3 of Table 8.5 pass, step 4 fails exactly on an access that leaves the key's range. -/
theorem keyFail_bounds_iff {e : BitVec 256} {k : BitVec 32} {part : Nat} (valid : keyValid e = true)
    (gen : keyGen e = bits k 31 24) (cls : keyClass e = bits k 23 22) (owner : keyPtn e = part) (a n need : Nat) :
    (keyFail e false k part a n need).map (·.1) = some stKeyBounds ↔
      ¬ (keyBase e ≤ a ∧ a + n ≤ keyBase e + keyLast e + 1) := by
  have early : keyFail e false k part a n need =
      if a < keyBase e || keyBase e + keyLast e + 1 < a + n then some (stKeyBounds, 3)
      else if keyRights e &&& need != need then some (stKeyRights, 4)
      else none := by simp [keyFail, valid, gen, cls, owner]
  have outside : (decide (a < keyBase e) || decide (keyBase e + keyLast e + 1 < a + n)) = true ↔
      ¬ (keyBase e ≤ a ∧ a + n ≤ keyBase e + keyLast e + 1) := by
    rw [Bool.or_eq_true, decide_eq_true_eq, decide_eq_true_eq]
    omega
  rw [early, ← outside]
  split
  · next out => simp [out]
  · next inside =>
    split
    · simp [inside, stKeyRights, stKeyBounds]
    · simp [inside]

/-- Settles O56: `keyFail_bounds_iff` on the entry that the check reads, which loading the slot leaves as it was. -/
theorem keyBounds : Obligations.KeyBounds := by
  unfold Obligations.KeyBounds
  intro s k part a n need e valid sound gen cls owner
  have bounds : (s.keyCheck k part a n need).2 = some stKeyBounds ↔
      ¬ (keyBase e ≤ a ∧ a + n ≤ keyBase e + keyLast e + 1) := by
    rw [Dev.keyCheck_status, sound]
    exact keyFail_bounds_iff valid gen cls owner a n need
  refine ⟨bounds, fun empty last => ?_⟩
  rw [Ne, bounds, Decidable.not_not, empty, last]
  omega

end Sys2Proof.Machine

namespace Sys2Proof.Machine

/-! ### A partition that waits only for a miss settles (R333) -/

/-- What settles a partition changes connections and partitions alone. -/
theorem Dev.settlePtn_eq (s : Dev) (part : Nat) :
    s.settlePtn part = { s with conns := (s.settlePtn part).conns, ptns := (s.settlePtn part).ptns } := by
  unfold Dev.settlePtn
  split
  · dsimp only
    split
    · rfl
    · rfl
  · split
    · rfl
    · rfl
  · rfl

@[simp] theorem Dev.settle_xlt (s : Dev) : s.settle.xlt = s.xlt :=
  foldl_frame (·.xlt) (fun s (p : Nat × Ptn) => s.settlePtn p.1) (fun s p => congrArg (·.xlt) (s.settlePtn_eq p.1)) _ s

@[simp] theorem Dev.settle_out (s : Dev) : s.settle.out = s.out :=
  foldl_frame (·.out) (fun s (p : Nat × Ptn) => s.settlePtn p.1) (fun s p => congrArg (·.out) (s.settlePtn_eq p.1)) _ s

@[simp] theorem Dev.settle_cnt (s : Dev) : s.settle.cnt = s.cnt :=
  foldl_frame (·.cnt) (fun s (p : Nat × Ptn) => s.settlePtn p.1) (fun s p => congrArg (·.cnt) (s.settlePtn_eq p.1)) _ s

/-! ### What goes on where a miss ends (R175, R178) -/

theorem Dev.resumeStalled_idle (s : Dev) (env : Env) (idle : s.ops = []) : s.resumeStalled env = s := by
  simp only [Dev.resumeStalled, idle, List.filter_nil, List.foldl_nil]

theorem Dev.resumeGroups_idle (s : Dev) (env : Env) (idle : s.ops = []) : s.resumeGroups env = s := by
  simp only [Dev.resumeGroups, idle, List.filter_nil, List.foldl_nil]

/-- The pending list stays where no page request of it may be sent. -/
theorem Dev.priNext_full (n : Nat) (s : Dev) (full : ∀ m ∈ s.xlt.misses, m.st = .pend → s.priRoom m.fn = false) :
    Dev.priNext n s = s := by
  cases n with
  | zero => rfl
  | succ n =>
    have none_ : s.xlt.misses.find? (fun m => decide (m.st = .pend) && s.priRoom m.fn) = none := by
      rw [List.find?_eq_none]
      intro m listed
      simpa using full m listed
    simp only [Dev.priNext, none_]

/-- With no entry launched and no page request to send, the end of a miss only settles the partitions that waited for it. -/
theorem Dev.missOver_idle (s : Dev) (idle : s.ops = []) (full : ∀ m ∈ s.xlt.misses, m.st = .pend → s.priRoom m.fn = false) :
    s.missOver = s.settle := by
  rw [Dev.missOver, Dev.priNext_full _ s full, Dev.resumeStalled_idle s {} idle, Dev.resumeGroups_idle s {} idle]

theorem Dev.missOver_none (s : Dev) (idle : s.ops = []) (none_ : s.xlt.misses = []) : s.missOver = s.settle :=
  s.missOver_idle idle (by simp [none_])

theorem Dev.missOver_sent (s : Dev) (idle : s.ops = []) {m : Miss} (only : s.xlt.misses = [m]) (sent : m.st ≠ .pend) :
    s.missOver = s.settle :=
  s.missOver_idle idle (by simp [only, sent])

/-! ### ATS_ENABLE_CHANGE (R170) -/

/-- The device with the ATS Enable of a function set, and without its cached translations and those of its pinned addresses (log
entry 124). -/
def Dev.atsSet (s : Dev) (fn : Nat) (on : Bool) : Dev :=
  let a := s.setFn fn { s.fn fn with ats := on }
  { a with
    xlt := { a.xlt with cache := a.xlt.cache.filter fun y => y.part != fn }
    hst := { a.hst with xlate := a.hst.xlate.filter fun y => y.1 != fn } }

/-- Where no miss is in progress none of a function's ends. -/
theorem Dev.missesGone_none (s : Dev) (fn : Nat) (none_ : s.xlt.misses = []) : s.missesGone fn = s := by
  simp only [Dev.missesGone, none_, List.filter_nil, lateOf, List.filterMap_nil, List.append_nil]
  rw [← none_]

theorem Dev.atsEnable_change (s : Dev) {fn : Nat} {on : Bool} (held : fn ≤ s.hst.numVf.toNat) (change : (s.fn fn).ats ≠ on)
    (none_ : s.xlt.misses = []) (idle : s.ops = []) :
    s.atsEnable fn on = if on then s.atsSet fn on else (s.atsSet fn on).settle := by
  have ends : ((s.atsSet fn on).missesGone fn).missOver = (s.atsSet fn on).settle := by
    rw [Dev.missesGone_none (s.atsSet fn on) fn none_, Dev.missOver_none (s.atsSet fn on) idle none_]
  have set : s.atsEnable fn on = if on then s.atsSet fn on else ((s.atsSet fn on).missesGone fn).missOver := by
    unfold Dev.atsEnable
    rw [if_neg (by simpa [change] using held)]
    rfl
  rw [set, ends]

/-! ### The only miss in progress (R175 to R177) -/

theorem Miss.is_self (m : Miss) : m.is m.fn m.pasid m.page = true := by simp [Miss.is]

section
variable {s : Dev} {m : Miss} (only : s.xlt.misses = [m])
include only

theorem Dev.missOf_only : s.missOf m.fn m.pasid m.page = some m := by simp [Dev.missOf, only]

theorem Dev.dropMiss_only : s.dropMiss m = s.setMisses [] := by simp [Dev.dropMiss, only, eraseFirst, m.is_self]

theorem Dev.replaceMiss_only (f : Miss → Miss) : replaceFirst (fun y => y.is m.fn m.pasid m.page) f s.xlt.misses = [f m] := by
  simp [only, replaceFirst, m.is_self]

end

/-- The device after the only miss faulted, for each access that waits for it (log entry 136). -/
def Dev.onlyFaulted (s : Dev) (m : Miss) : Dev :=
  let t := s.setMisses []
  { t with xlt := { t.xlt with faulted := t.xlt.faulted ++ m.who.map fun w => (w, m.key, m.page) } }

/-- The only miss with its Page Request sent. -/
def Dev.asked (s : Dev) (m : Miss) : Miss :=
  { m with st := .pri, group := (s.freeGroup m.fn).getD 0, deadline := s.osc + s.priTimeout }

/-- The translation that a grant of the only miss gives, for the registration `e`. -/
def Miss.granted (m : Miss) (e : BitVec 256) (write : Bool) (size final : Nat) : XltEnt :=
  let n := max size 4096
  { part := m.fn, index := keyIndex m.key, gen := BitVec.ofNat 8 (keyGen e), page := m.page / n * n, size := n
    final := final / n * n, write := write, pasid := m.pasid, sticky := keyClass e == 1, ask := some (m.page / n * n) }

/-- A translation put into the cache, or held for the access that waits for it where the cache has no entry for it (log
entry 108). -/
def Dev.xltTake (s : Dev) (cls : Nat) (y : XltEnt) (write : Bool) : Dev :=
  if (s.xltRoom cls y).isSome then s.xltInsert cls y else s.xltHold y write

theorem Dev.xltInsert_frame (s : Dev) (cls : Nat) (y : XltEnt) :
    (s.xltInsert cls y).xlt.misses = s.xlt.misses ∧ (s.xltInsert cls y).ops = s.ops := by
  unfold Dev.xltInsert
  split
  · exact ⟨rfl, rfl⟩
  · exact ⟨rfl, rfl⟩

theorem Dev.xltTake_frame (s : Dev) (cls : Nat) (y : XltEnt) (write : Bool) :
    (s.xltTake cls y write).xlt.misses = s.xlt.misses ∧ (s.xltTake cls y write).ops = s.ops := by
  unfold Dev.xltTake
  split
  · exact s.xltInsert_frame cls y
  · exact ⟨rfl, rfl⟩

/-- A page request of a function may be sent where its allocation has room and a group index is free, no other being out. -/
theorem Dev.priRoom_alone {s : Dev} {m : Miss} (only : s.xlt.misses = [m]) (quiet : m.st ≠ .pri) (fn : Nat) :
    s.priRoom fn = true ↔ 0 < (s.fn fn).priAlloc ∧ ∃ g < 512, (fn, g) ∉ s.xlt.lateGroups := by
  simp [Dev.priRoom, Dev.priOut, Dev.priOutAll, Dev.freeGroup, only, quiet, priCapacity]

/-- The group index of a page request that may be sent is free. -/
theorem Dev.freeGroup_sound {s : Dev} {fn : Nat} (room : s.priRoom fn = true) :
    (s.freeGroup fn).getD 0 < 512 ∧ (fn, (s.freeGroup fn).getD 0) ∉ s.xlt.lateGroups := by
  have some_ : (s.freeGroup fn).isSome = true := by
    rw [Dev.priRoom, Bool.and_eq_true] at room
    exact room.2
  obtain ⟨g, found⟩ := Option.isSome_iff_exists.mp some_
  have listed := List.mem_of_find?_eq_some found
  have free := List.find?_some found
  rw [found]
  rw [Bool.and_eq_true] at free
  exact ⟨List.mem_range.mp listed, by simpa using free.1⟩

section
variable {s : Dev} {m : Miss} (only : s.xlt.misses = [m])
include only

theorem Dev.missFault_only : s.missFault m = s.onlyFaulted m := by rw [Dev.missFault, Dev.dropMiss_only only]; rfl

theorem Dev.missGrant_only (write : Bool) (size final : Nat) :
    s.missGrant m write size final =
      (s.setMisses []).xltTake (keyClass (s.region m.key)) (m.granted (s.region m.key) write size final) m.write := by
  have size_ : (if size < 4096 then 4096 else size) = max size 4096 := by
    split
    · exact (Nat.max_eq_right (by omega)).symm
    · exact (Nat.max_eq_left (by omega)).symm
  simp only [Dev.missGrant, Dev.dropMiss_only only, size_]
  rfl

theorem Dev.missRefused_faults (last : m.st = .again ∨ (s.fn m.fn).pri = false) : s.missRefused m = s.onlyFaulted m := by
  unfold Dev.missRefused
  rw [if_pos (by simpa using last), Dev.missFault_only only]

theorem Dev.missRefused_waits (first : m.st = .ats) (pri : (s.fn m.fn).pri = true) (full : s.priRoom m.fn = false) :
    s.missRefused m = s.setMisses [{ m with st := .pend }] := by
  unfold Dev.missRefused
  rw [if_neg (by simp [first, pri]), if_neg (by simp [full]), if_pos (by simp [only, first, priPending]),
    Dev.replaceMiss_only only]

theorem Dev.missRefused_sends (first : m.st = .ats) (pri : (s.fn m.fn).pri = true) (room : s.priRoom m.fn = true) :
    s.missRefused m = ((s.setMisses [s.asked m]).bump Reg.xltPriReqs).emit
      (.ats 1 m.fn m.pasid m.page (s.asked m).group m.write) := by
  unfold Dev.missRefused
  rw [if_neg (by simp [first, pri]), if_pos room]
  simp only [Dev.priSend, Dev.replaceMiss_only only, Dev.asked]

end

/-- A miss whose Translation Request is out waits neither for a page request nor for its answer. -/
theorem Miss.unanswered {m : Miss} (sent : m.st = .ats ∨ m.st = .again) : ¬ (m.st = .pend || m.st = .pri) = true := by
  rcases sent with st | st
  · simp [st]
  · simp [st]

/-! ### PRI Response Failure (R176) -/

/-- The device with a function stopped and the record of it posted. -/
def Dev.stopFn (s : Dev) (fn : Nat) : Dev :=
  ({ s with xlt := { s.xlt with stopped := s.xlt.stopped ||| BitVec.ofNat 64 (2 ^ fn) } } : Dev).postErr Reg.keySel 0x06 0x02 fn 2
    (some fn)

@[simp] theorem Dev.postErr_xlt (s : Dev) (off cls code detail sev : Nat) (part : Option Nat) :
    (s.postErr off cls code detail sev part).xlt = s.xlt := SameCore.xlt_eq (SameCore.postErr s off cls code detail sev part)

@[simp] theorem Dev.postErr_ops (s : Dev) (off cls code detail sev : Nat) (part : Option Nat) :
    (s.postErr off cls code detail sev part).ops = s.ops :=
  congrArg (·.ops) (SameCore.postErr s off cls code detail sev part : Dev.SameCore s _)

/-- Where no miss is in progress a Response Failure only stops the function. -/
theorem Dev.priFail_none (s : Dev) (fn : Nat) (none_ : s.xlt.misses = []) : s.priFail fn = s.stopFn fn := by
  simp only [Dev.priFail, Dev.stopFn, Dev.missesGone_none s fn none_, none_, List.filter_nil, List.flatMap_nil, List.append_nil]

/-- Ending a miss and then its fault come to the fault alone. -/
theorem Dev.missFault_dropMiss {s : Dev} {m : Miss} (only : s.xlt.misses = [m]) :
    (s.dropMiss m).missFault m = s.onlyFaulted m := by
  rw [Dev.dropMiss_only only]
  rfl

/-- The miss that an answer to a page request's group is of. -/
theorem Dev.prgFind_only {s : Dev} {m : Miss} (only : s.xlt.misses = [m]) (waits : m.st = .pri) :
    s.xlt.misses.find? (fun y => y.fn == m.fn && decide (y.st = .pri) && y.group == m.group) = some m := by simp [only, waits]

section
variable {s : Dev} {m : Miss} {fn page group : Nat} (only : s.xlt.misses = [m]) (idle : s.ops = []) (owner : m.fn = fn)
include only idle owner

/-! ### ATS_COMPLETION (R175) -/

section
variable (at_ : m.page = page) (sent : m.st = .ats ∨ m.st = .again)
include at_ sent

/-- A grant of what the access needs ends the miss, its translation taken; where it takes no cache entry it is held for the access
(log entry 108). -/
theorem Dev.atsDone_grants {r w : Bool} (some_ : r = true ∨ w = true) (enough : m.write = true → w = true) (size : Nat)
    (addr : Word) : s.atsDone fn m.pasid page (.grant r w size addr) =
      ((s.setMisses []).xltTake (keyClass (s.region m.key)) (m.granted (s.region m.key) w size addr.toNat) m.write).settle := by
  subst owner at_
  have grants : ((r || w) && (!m.write || w)) = true := by
    rw [Bool.and_eq_true, Bool.or_eq_true]
    refine ⟨some_, ?_⟩
    cases write : m.write with
    | false => rfl
    | true => exact enough write
  obtain ⟨misses, ops⟩ := (s.setMisses []).xltTake_frame (keyClass (s.region m.key))
    (m.granted (s.region m.key) w size addr.toNat) m.write
  simp only [Dev.atsDone, Dev.missOf_only only, if_neg (Miss.unanswered sent), if_pos grants, Dev.missGrant_only only]
  exact Dev.missOver_none _ (ops.trans idle) misses

omit idle in
/-- Any other answer refuses the access. -/
theorem Dev.atsDone_refuses {a : AtsAnswer} (refusal : a = .error ∨ a = .none) :
    s.atsDone fn m.pasid page a = (s.missRefused m).missOver := by
  subst owner at_
  rcases refusal with rfl | rfl
  · simp only [Dev.atsDone, Dev.missOf_only only, if_neg (Miss.unanswered sent)]
  · simp only [Dev.atsDone, Dev.missOf_only only, if_neg (Miss.unanswered sent)]

/-- A refusal after Success faults, and one of a function with PRI off (log entry 51). -/
theorem Dev.atsDone_faults {a : AtsAnswer} (refusal : a = .error ∨ a = .none) (last : m.st = .again ∨ (s.fn fn).pri = false) :
    s.atsDone fn m.pasid page a = (s.onlyFaulted m).settle := by
  rw [Dev.atsDone_refuses only owner at_ sent refusal, Dev.missRefused_faults only (owner ▸ last),
    Dev.missOver_none (s.onlyFaulted m) idle rfl]

end

/-- A refusal waits in the pending list where no page request may be sent. -/
theorem Dev.atsDone_waits {a : AtsAnswer} (at_ : m.page = page) (refusal : a = .error ∨ a = .none) (first : m.st = .ats)
    (pri : (s.fn fn).pri = true) (full : (s.fn fn).priAlloc = 0 ∨ ∀ g < 512, (fn, g) ∈ s.xlt.lateGroups) :
    s.atsDone fn m.pasid page a = (s.setMisses [{ m with st := .pend }]).settle := by
  have none_ : ¬ (0 < (s.fn fn).priAlloc ∧ ∃ g < 512, (fn, g) ∉ s.xlt.lateGroups) := by
    rintro ⟨room, g, in_, free⟩
    rcases full with zero | late
    · omega
    · exact free (late g in_)
  have before : s.priRoom fn = false := by
    rw [← Bool.not_eq_true, Dev.priRoom_alone only (by simp [first])]
    exact none_
  have after : (s.setMisses [{ m with st := .pend }]).priRoom fn = false := by
    rw [← Bool.not_eq_true, Dev.priRoom_alone (s := s.setMisses [{ m with st := .pend }]) rfl (by simp)]
    exact none_
  rw [Dev.atsDone_refuses only owner at_ (.inl first) refusal,
    Dev.missRefused_waits only first (owner ▸ pri) (owner ▸ before)]
  refine Dev.missOver_idle _ idle fun x listed _ => ?_
  rw [List.mem_singleton.mp listed]
  exact owner ▸ after

/-- A first refusal sends a Page Request where there is room. -/
theorem Dev.atsDone_sends {a : AtsAnswer} (at_ : m.page = page) (refusal : a = .error ∨ a = .none) (first : m.st = .ats)
    (pri : (s.fn fn).pri = true) (room : s.priRoom fn = true) :
    s.atsDone fn m.pasid page a = (((s.setMisses [s.asked m]).bump Reg.xltPriReqs).emit
      (.ats 1 fn m.pasid m.page (s.asked m).group m.write)).settle := by
  rw [Dev.atsDone_refuses only owner at_ (.inl first) refusal,
    Dev.missRefused_sends only first (owner ▸ pri) (owner ▸ room), owner]
  exact Dev.missOver_sent _ idle rfl nofun

/-! ### PRG_RESPONSE and PRI_TIMEOUT (R176) -/

section
variable (grp : m.group = group) (waits : m.st = .pri)
include grp waits

section
variable (due : (fn, group) ∉ s.xlt.lateGroups)
include due

/-- Success asks for the translation again. -/
theorem Dev.prgResponse_success : s.prgResponse fn group 0 =
    (((s.setMisses [{ m with st := .again }]).bump Reg.xltAtsReqs).emit (.ats 0 fn m.pasid m.page 0 m.write)).settle := by
  subst owner grp
  simp only [Dev.prgResponse, if_neg (mt List.contains_iff_mem.mp due), Dev.prgFind_only only waits, Dev.replaceMiss_only only]
  exact Dev.missOver_sent _ idle rfl nofun

/-- Invalid Request makes the miss fault. -/
theorem Dev.prgResponse_invalid : s.prgResponse fn group 1 = (s.onlyFaulted m).settle := by
  subst owner grp
  simp only [Dev.prgResponse, if_neg (mt List.contains_iff_mem.mp due), Dev.prgFind_only only waits, Dev.missFault_only only]
  exact Dev.missOver_none _ idle rfl

/-- Any other code, the reserved ones too, makes the miss fault and stops the function (log entry 51). -/
theorem Dev.prgResponse_failure (n : Nat) : s.prgResponse fn group (n + 2) = ((s.onlyFaulted m).stopFn fn).settle := by
  subst owner grp
  simp only [Dev.prgResponse, if_neg (mt List.contains_iff_mem.mp due), Dev.prgFind_only only waits,
    Dev.missFault_dropMiss only, Dev.priFail_none (s.onlyFaulted m) m.fn rfl]
  exact Dev.missOver_none _ ((Dev.postErr_ops _ _ _ _ _ _ _).trans idle) (congrArg (·.misses) (Dev.postErr_xlt _ _ _ _ _ _ _))

end

/-- A page request that times out makes the miss fault, and its group waits for the late answer. -/
theorem Dev.priLate_only (past : m.deadline ≤ s.osc) :
    s.priLate fn group =
      (let a := s.onlyFaulted m
       ({ a with xlt := { a.xlt with lateGroups := a.xlt.lateGroups ++ [(fn, group)] } } : Dev).settle) := by
  subst owner grp
  have found : s.xlt.misses.find? (fun y => y.fn == m.fn && decide (y.st = .pri) && y.group == m.group &&
      decide (y.deadline ≤ s.osc)) = some m := by simp [only, waits, past]
  simp only [Dev.priLate, found, Dev.missFault_only only]
  exact Dev.missOver_none _ idle rfl

end

end

/-- The late answer to a group that timed out frees it. -/
theorem Dev.prgResponse_late {s : Dev} {fn group : Nat} (late : (fn, group) ∈ s.xlt.lateGroups) (code : Nat) :
    s.prgResponse fn group code =
      { s with xlt := { s.xlt with lateGroups := s.xlt.lateGroups.filter (· != (fn, group)) } } :=
  if_pos (List.contains_iff_mem.mpr late)

/-! ### PRI_ENABLE_CHANGE (R176) -/

/-- Clearing a bit leaves every other. -/
theorem bit_clear (w : BitVec 64) (n : Nat) {i : Nat} (in_ : i < 64) :
    bit (w &&& ~~~(BitVec.ofNat 64 (2 ^ n))) i = (bit w i && i != n) := by
  rw [bit, BitVec.getLsbD_and, BitVec.getLsbD_not, BitVec.getLsbD_ofNat, Nat.testBit_two_pow, bit]
  by_cases same : n = i
  · simp only [in_, same, decide_true, Bool.and_self, Bool.not_true, Bool.and_false, bne_self_eq_false]
  · have other : (i != n) = true := bne_iff_ne.mpr (Ne.symm same)
    simp only [in_, same, other, decide_true, decide_false, Bool.and_false, Bool.not_false, Bool.and_self]

theorem Dev.priEnable_on {s : Dev} {fn : Nat} (held : fn ≤ s.hst.numVf.toNat) (off : (s.fn fn).pri = false) :
    s.priEnable fn true =
      (let a := s.setFn fn { s.fn fn with pri := true }
       { a with xlt := { a.xlt with stopped := a.xlt.stopped &&& ~~~(BitVec.ofNat 64 (2 ^ fn)) } }) := by
  unfold Dev.priEnable
  rw [if_neg (by simpa [off] using held)]
  rfl

theorem Dev.priEnable_off {s : Dev} {fn : Nat} (held : fn ≤ s.hst.numVf.toNat) (on_ : (s.fn fn).pri = true) :
    s.priEnable fn false =
      (let a := s.setFn fn { s.fn fn with pri := false }
       { a with xlt := { a.xlt with lateGroups := a.xlt.lateGroups.filter fun g => g.1 != fn } }) := by
  unfold Dev.priEnable
  rw [if_neg (by simpa [on_] using held)]
  rfl

/-! ### XLT_INVAL (R183) -/

section
variable {s : Dev} (v : View) {w : Word}

theorem Dev.xltInval_busy (busy : s.xlt.invalBusy = true) : s.xltInval v w = s.hostErr v Reg.xltInval 0x02 w := if_pos busy

/-- With ALL the translations and the cached key entries of the named partition are dropped. -/
theorem Dev.xltInval_partition (free : s.xlt.invalBusy = false) (all : bit w 32 = true) :
    s.xltInval v w = { s with xlt := { s.xlt with
      invalBusy := true
      cache := s.xlt.cache.filter fun y => y.part != bits w 29 24
      keyCached := s.xlt.keyCached.filter fun k => s.keyPart k != some (bits w 29 24) } } := by
  simp only [Dev.xltInval, free, all, if_true, Bool.false_eq_true, if_false]

/-- Without ALL the translations of the named slot are dropped, where the slot is the named partition's. -/
theorem Dev.xltInval_slot (free : s.xlt.invalBusy = false) (one : bit w 32 = false) :
    s.xltInval v w = { s with xlt := { s.xlt with
      invalBusy := true
      cache := s.xlt.cache.filter fun y => !(y.index == bits w 21 0 && s.keyPart (bits w 21 0) == some (bits w 29 24)) } } := by
  simp only [Dev.xltInval, free, one, Bool.false_eq_true, if_false]

end

/-- XLT_INVAL through the physical function or the register port, its block out of reset. -/
theorem exec_xltInval {v : View} (view : v = .pf ∨ v = .port) {w : Word} (s : State)
    (up : (s.tapped v Reg.xltInval w).inReset Reg.xltInval = false) :
    exec (.xltInval v w) s = .next { s with dev := (s.tapped v Reg.xltInval w).xltInval v w } := by
  have gate : (s.tapped v Reg.xltInval w).gated v Reg.xltInval w (fun d => d.xltInval v w) =
      (s.tapped v Reg.xltInval w).xltInval v w := if_neg (by simp [up])
  exact (onWrite_held view _ _ _ s).trans (by rw [gate])

/-! ### KEY_RANGE_INIT_DONE (R162) -/

theorem Dev.settleHeads_none (s : Dev) (part : Nat) (none_ : s.rings = []) : s.settleHeads part = s := by
  simp only [Dev.settleHeads, none_, List.foldl_nil]

/-- Whether a slot lies in the key range of a partition. -/
def Dev.keyMine (s : Dev) (n k : Nat) : Bool := inRange (recKeyFirst (s.ptnRec n)) (recKeyCount (s.ptnRec n)) k

/-- The translation state with the key range of a partition empty. -/
def Dev.rangeEmptied (s : Dev) (n : Nat) : Xlt :=
  { s.xlt with
    rangeInit := s.xlt.rangeInit.filter (· != n)
    keys := s.xlt.keys.filter fun e => !s.keyMine n e.1
    keyPoison := s.xlt.keyPoison.filter fun k => !s.keyMine n k
    keyCached := s.xlt.keyCached.filter fun k => !s.keyMine n k
    past := s.xlt.past.filter fun p => !s.keyMine n (keyIndex p.1)
    cache := s.xlt.cache.filter fun y => !s.keyMine n y.index }

/-- With no ring in use the end of a key range's writing empties the range, in its table and in the memory behind it. -/
theorem Dev.keyInitDone_asked {s : Dev} {n : Nat} (asked : n ∈ s.xlt.rangeInit) (none_ : s.rings = []) :
    s.keyInitDone n = { s.setPtn n { s.ptn n with initPending := false } with
      xlt := s.rangeEmptied n, mem := s.mem.filter fun b => !(s.slotOfKey n b.1).any (s.keyMine n) } := by
  unfold Dev.keyInitDone
  rw [if_neg (by simpa using asked)]
  exact Dev.settleHeads_none _ n none_

/-! ### ATS_INVALIDATION (R174) -/

/-- What stays where the elements of a property are dropped. -/
theorem mem_filter_not {α : Type} {l : List α} {p : α → Bool} {x : α} {q : Prop} (dropped : p x = true ↔ q) :
    x ∈ l.filter (fun y => !p y) ↔ x ∈ l ∧ ¬ q := by
  rw [List.mem_filter, ← dropped, Bool.not_eq_true, Bool.not_eq_true']

/-- Whether a cached translation is of a function and of the PASID given, if one is, and overlaps `n` bytes from `lo` on. -/
def XltEnt.overlaps (y : XltEnt) (fn : Nat) (pasid : Option (BitVec 20)) (lo n : Nat) : Bool :=
  y.part == fn && (match pasid with | some p => y.pasid == p | none => true) &&
    (match y.ask with | some a => a < lo + n && lo < a + y.size | none => false)

theorem XltEnt.overlaps_iff (y : XltEnt) (fn : Nat) (pasid : Option (BitVec 20)) (lo n : Nat) :
    y.overlaps fn pasid lo n = true ↔
      y.part = fn ∧ (∀ p, pasid = some p → y.pasid = p) ∧ ∃ a, y.ask = some a ∧ a < lo + n ∧ lo < a + y.size := by
  unfold XltEnt.overlaps
  rw [Bool.and_eq_true, Bool.and_eq_true, and_assoc, beq_iff_eq]
  refine and_congr_right fun _ => and_congr ?_ ?_
  · cases pasid with
    | none => simp
    | some p => simp
  · cases y.ask with
    | none => simp
    | some a => simp

/-- The device without the translations of a function and PASID that overlap `n` bytes from `lo` on. -/
def Dev.invalidated (s : Dev) (fn : Nat) (pasid : Option (BitVec 20)) (lo n : Nat) : Dev :=
  { s with
    xlt := { s.xlt with cache := s.xlt.cache.filter fun y => !y.overlaps fn pasid lo n }
    hst := { s.hst with xlate := s.hst.xlate.filter fun y =>
      !(pasid.isNone && y.1 == fn && y.2.1 < lo + n && lo < y.2.1 + 4096) } }

theorem Dev.atsInval_eq (s : Dev) (fn : Nat) (pasid : Option (BitVec 20)) (addr size : Nat) :
    s.atsInval fn pasid addr size =
      (let n := 4096 * 2 ^ size
       let lo := addr / n * n
       ((s.invalidated fn pasid lo n).bump Reg.xltAtsInvals).emit (.ats 2 fn (pasid.getD 0) lo size false)) := rfl

/-! ### The obligation -/

theorem exec_atsEnableChange (fn : Fin 64) (on : Bool) (s : State) :
    exec (.atsEnableChange fn on) s = .next { s with dev := s.dev.atsEnable fn on } := rfl

theorem exec_atsInvalidation (fn : Fin 64) (pasid : Option (BitVec 20)) (addr : Word) (size : BitVec 6) (s : State) :
    exec (.atsInvalidation fn pasid addr size) s = .next { s with dev := s.dev.atsInval fn pasid addr.toNat size.toNat } := rfl

theorem exec_atsCompletion (fn : Fin 64) (pasid : BitVec 20) (page : BitVec 52) (a : AtsAnswer) (s : State) :
    exec (.atsCompletion fn pasid page a) s = .next { s with dev := s.dev.atsDone fn pasid (page.toNat * 4096) a } := rfl

theorem exec_prgResponse (fn : Fin 64) (group : BitVec 9) (code : BitVec 4) (s : State) :
    exec (.prgResponse fn group code) s = .next { s with dev := s.dev.prgResponse fn group.toNat code.toNat } := rfl

theorem exec_priTimeout (fn : Fin 64) (group : BitVec 9) (s : State) :
    exec (.priTimeout fn group) s = .next { s with dev := s.dev.priLate fn group.toNat } := rfl

theorem exec_priEnableChange (fn : Fin 64) (on : Bool) (s : State) :
    exec (.priEnableChange fn on) s = .next { s with dev := s.dev.priEnable fn on } := rfl

theorem exec_keyRangeInitDone (part : Fin 64) (s : State) :
    exec (.keyRangeInitDone part) s = .next { s with dev := s.dev.keyInitDone part } := rfl

/-- Settles O45, from what each message does to the only miss in progress: `Dev.missOver_idle` is the common end, where no entry
is launched and no page request is to be sent. How a miss ends rests on log entries 51, 108 and 136, what stands for
pinned addresses on 124. -/
theorem translationMessages : Obligations.TranslationMessages := by
  unfold Obligations.TranslationMessages
  refine ⟨?atsEnableChange, ?atsInvalidation, ?atsCompletion, ?prgResponse, ?prgResponseLate,
    ?priEnableChange, ?xltInval, ?xltInvalDone, ?keyRangeInitDone⟩
  case atsEnableChange =>
    intro fn on s held change none_ idle a x h b
    rw [exec_atsEnableChange, Dev.atsEnable_change s.dev held change none_ idle]
    rfl
  case atsInvalidation =>
    intro fn pasid addr size s n lo
    refine ⟨_, exec_atsInvalidation fn pasid addr size s, fun y => ?_, fun y => ?_, rfl, rfl, rfl⟩
    · exact mem_filter_not (y.overlaps_iff fn pasid lo n)
    · exact mem_filter_not (by simp [and_assoc, lo, n])
  case atsCompletion =>
    intro fn page m s only idle owner at_ sent ended faulted e
    refine ⟨?_, fun a refusal => ⟨fun last => ?_, fun first pri full => ?_, fun first pri alloc free => ?_⟩⟩
    · intro r w size addr some_ enough n y after
      have taken : y = m.granted (s.dev.region m.key) w size addr.toNat := by simp only [Miss.granted, owner, y, n, e]
      rw [exec_atsCompletion, Dev.atsDone_grants only idle owner at_ sent some_ enough, ← taken]
      rfl
    · rw [exec_atsCompletion, Dev.atsDone_faults only idle owner at_ sent refusal last]
      rfl
    · rw [exec_atsCompletion, Dev.atsDone_waits only idle owner at_ refusal first pri full]
    · have room : s.dev.priRoom fn = true := (Dev.priRoom_alone only (by simp [first]) _).mpr ⟨alloc, free⟩
      obtain ⟨in_, fresh⟩ := Dev.freeGroup_sound room
      have group : (s.dev.asked m).group = (s.dev.freeGroup fn).getD 0 := by rw [Dev.asked, owner]
      rw [← group] at in_ fresh
      refine ⟨_, s.dev.asked m, exec_atsCompletion .., ?_⟩
      rw [Dev.atsDone_sends only idle owner at_ refusal first pri room, Dev.settle_xlt, Dev.settle_out, Dev.settle_cnt]
      exact ⟨rfl, by simp only [Dev.asked], in_, fresh, rfl, rfl⟩
  case prgResponse =>
    intro fn group code m s only idle owner waits grp ended lost
    refine ⟨fun due => ⟨?_, ?_, fun other => ?_⟩, fun past => ?_⟩
    · rintro rfl
      rw [exec_prgResponse, show (0 : BitVec 4).toNat = 0 from rfl, Dev.prgResponse_success only idle owner grp waits due]
    · rintro rfl
      rw [exec_prgResponse, show (1 : BitVec 4).toNat = 1 from rfl, Dev.prgResponse_invalid only idle owner grp waits due]
      rfl
    · obtain ⟨n, code_⟩ := Nat.exists_eq_add_of_le' other
      rw [exec_prgResponse, code_, Dev.prgResponse_failure only idle owner grp waits due n]
      rfl
    · rw [exec_priTimeout, Dev.priLate_only only idle owner grp waits past]
      rfl
  case prgResponseLate =>
    intro fn group code s late x
    rw [exec_prgResponse, Dev.prgResponse_late late]
  case priEnableChange =>
    intro fn s held
    refine ⟨fun off => ?_, fun on_ => ?_⟩
    · refine ⟨_, exec_priEnableChange fn true s, fun i in_ => ?_, ?_⟩
      · rw [Dev.priEnable_on held off]
        exact bit_clear _ _ in_
      · rw [Dev.priEnable_on held off]
    · rw [exec_priEnableChange, Dev.priEnable_off held on_]
  case xltInval =>
    intro v w s view a up
    refine ⟨fun busy => ?_, fun free => ⟨_, exec_xltInval view s up, ?_⟩⟩
    · rw [exec_xltInval view s up, Dev.xltInval_busy v busy]
    · cases all : bit w 32 with
      | true =>
        rw [Dev.xltInval_partition v free all]
        exact ⟨rfl, rfl, fun _ => ⟨fun y => by simp, fun k => by simp⟩, nofun⟩
      | false =>
        rw [Dev.xltInval_slot v free all]
        exact ⟨rfl, rfl, nofun, fun _ => ⟨rfl, fun y => mem_filter_not (by simp)⟩⟩
  case xltInvalDone => exact fun s => rfl
  case keyRangeInitDone =>
    intro part s asked none_ mine
    refine ⟨_, exec_keyRangeInitDone part s, ?_⟩
    rw [Dev.keyInitDone_asked asked none_]
    refine ⟨?_, fun e => ?_, fun y => ?_, fun b => ?_, rfl⟩
    · simp [Dev.rangeEmptied]
    · simp [Dev.rangeEmptied, Dev.keyMine, mine]
    · simp [Dev.rangeEmptied, Dev.keyMine, mine]
    · refine List.mem_filter.trans (and_congr_right fun _ => ?_)
      cases s.dev.slotOfKey part b.1 with
      | none => simp
      | some k => simp [Dev.keyMine, mine]

end Sys2Proof.Machine

namespace Sys2Proof.Machine

/-! ### What the world outside did leaves the tray ports -/

/-- With no deed of the world outside before it, a command meets the device as it was. -/
@[simp] theorem Dev.enter_none (s : Dev) : s.enter {} = s := by
  have cfg : s.hostCfg {} = s := by
    unfold Dev.hostCfg
    split
    · rfl
    · rfl
  have granted : s.hst.xlate.filter (fun _ => true) = s.hst.xlate := List.filter_eq_self.mpr fun _ _ => rfl
  rw [Dev.enter, cfg]
  show ({ s with hst := { s.hst with xlate := s.hst.xlate.filter fun _ => true } } : Dev) = s
  rw [granted]

theorem Dev.hostCfg_tray (s : Dev) (e : Env) : (s.hostCfg e).tray = s.tray := by
  unfold Dev.hostCfg
  split
  · rfl
  · dsimp only
    generalize fold : e.cfg.foldl _ s = u
    have fns : u.tray = s.tray := by
      rw [← fold]
      exact foldl_frame (·.tray) _ (fun s c => by split <;> rfl) e.cfg s
    repeat' split
    all_goals exact fns

@[simp] theorem Dev.enter_trayPort (s : Dev) (e : Env) (k : Nat) : (s.enter e).trayPort k = s.trayPort k := by
  show tget _ (s.hostCfg e).tray k = _
  rw [Dev.hostCfg_tray, Dev.trayPort]

/-! ### A directory in which no agent holds a line (R192) -/

section
variable {s : Dev} (none_ : s.hst.dir = [])
include none_

theorem Dev.dirLine_none (g a : Nat) : s.dirLine g a = .i := by
  rw [Dev.dirLine, none_, tget]

/-- No agent is to be asked for a line. -/
theorem Dev.askers_none (g a : Nat) (write : Bool) : s.askers g a write = [] := by
  rw [Dev.askers, List.filter_eq_nil_iff]
  intro h _
  rw [Dev.dirLine_none none_]
  simp

/-- To take a line from an accelerator that holds none is nothing. -/
theorem Dev.setDir_none (k a : Nat) : s.setDir (k + 1) a .i = s := by
  have same : tset (fun _ => .i) s.hst.dir (dirKey (k + 1) a) .i = s.hst.dir := by rw [none_]; rfl
  rw [Dev.setDir, same, if_neg k.succ_ne_zero]

theorem Dev.recall_none (g a : Nat) (w : Bool) : s.recall g a w = s := by
  simp [Dev.recall, none_]

end

/-- A fold whose start each listed element leaves as it is. -/
theorem foldl_stays {α β : Type} {f : α → β → α} {a : α} {l : List β} (stays : ∀ b ∈ l, f a b = a) : l.foldl f a = a := by
  induction l with
  | nil => rfl
  | cons b l ih =>
    rw [List.foldl_cons, stays b List.mem_cons_self]
    exact ih fun c in_ => stays c (List.mem_cons_of_mem b in_)

/-- The check of a line that is read changes no host state. -/
theorem Dev.eccRead_hst (s : Dev) (c off : Nat) : (s.eccRead c off).hst = s.hst := by
  unfold Dev.eccRead
  split
  · rfl
  · rfl
  · dsimp only
    rw [Dev.postErr_eq]
    rfl

theorem Dev.eccRange_hst (s : Dev) (boot : Bool) (a n : Nat) : (s.eccRange boot a n).hst = s.hst := by
  refine foldl_frame (·.hst) _ (fun s l => ?_) _ s
  split
  · split
    · rfl
    · exact Dev.eccRead_hst ..
  · rfl

theorem Dev.inkRead_hst_none {s : Dev} (none_ : s.hst.dir = []) (boot : Bool) (a n : Nat) :
    (s.inkRead boot a n).1.hst = s.hst := by
  have recalled : (linesOf a n).foldl (fun s l => s.recall 5 l false) s = s := by
    refine foldl_stays fun l _ => ?_
    exact Dev.recall_none none_ 5 l false
  simp only [Dev.inkRead, recalled, Dev.bumpBy_hst, Dev.eccRange_hst]

/-! ### A request that its partition's meter passes takes effect at once (R155, R192, R193) -/

/-- A request of the row's opcode that is served as `Dev.Serves` says goes on with the device once it is metered. -/
theorem Dev.trayReq_serves {s v g : Dev} {env : Env} {k opc n : Nat} {m : TrayMsg} (h : (s.enter env).Serves k m n v g)
    (row : m.opc = opc) (unfenced : opc ≠ 8) : s.trayReq env k opc m = g.trayServe k m := by
  obtain ⟨up, bell, part, meter, counted, allowed, -⟩ := h
  subst counted
  rw [Dev.enter_trayPort] at up
  simp [Dev.trayReq, row, up, unfenced, bell, part, Dev.trayMetered, meter, allowed]

/-- A request of which no agent is to be asked, and no line of which is asked for, waits for nothing. -/
theorem Dev.trayServe_free {s : Dev} {k : Nat} {m : TrayMsg} (free : s.trayBlocked k m = false)
    (unasked : s.traySnoop k m = (s, false)) : s.trayServe k m = s.trayDo k m := by
  simp [Dev.trayServe, free, unasked]

theorem Dev.trayBlocked_unasked {s : Dev} {k : Nat} {m : TrayMsg} (unfenced : m.opc ≠ 8)
    (asked : ∀ p ∈ s.tray, p.2.snoops = []) : s.trayBlocked k m = false := by
  have idle : ∀ a, s.lineBusy a = false := fun a => by
    simp only [Dev.lineBusy, List.any_eq_false]
    intro p in_
    simp [asked p in_]
  simp [Dev.trayBlocked, unfenced, idle]

theorem Dev.traySnoop_none {s : Dev} {k : Nat} {m : TrayMsg} (none_ : s.hst.dir = []) : s.traySnoop k m = (s, false) := by
  unfold Dev.traySnoop
  split
  · rfl
  · refine foldl_stays fun l _ => ?_
    simp [Dev.askers_none none_]

/-- The host gives up no line where it holds none that the request needs. -/
theorem Dev.hostLines_none {s : Dev} {m : TrayMsg} (host : ∀ l ∈ m.lineList, m.opc = 8 ∨ s.dirLine 0 l = .i) :
    m.lineList.foldl (fun s l => if m.opc == 0x08 then s else
      if decide (s.dirLine 0 l = .i) || (decide (s.dirLine 0 l = .s) && !m.writes) then s
      else (if m.writes then s.setDir 0 l .i else s.setDir 0 l .s).backInval l) s = s := by
  refine foldl_stays fun l in_ => ?_
  rcases host l in_ with fence | unheld
  · simp [fence]
  · simp [unheld]

/-! ### The effect of each request, where the host holds none of its lines (Table 9.8) -/

section
variable {s : Dev} {k : Nat} {m : TrayMsg} (host : ∀ l ∈ m.lineList, m.opc = 8 ∨ s.dirLine 0 l = .i)
include host

theorem Dev.trayDo_rdCur (row : m.opc = 1) : s.trayDo k m = s.trayRead k m false := by
  rw [Dev.trayDo, Dev.hostLines_none host]; simp only [row]

theorem Dev.trayDo_rd (row : m.opc = 2 ∨ m.opc = 3) : s.trayDo k m = s.trayRead k m true := by
  rcases row with row | row
  · rw [Dev.trayDo, Dev.hostLines_none host]; simp only [row]
  · rw [Dev.trayDo, Dev.hostLines_none host]; simp only [row]

theorem Dev.trayDo_wrLine (row : m.opc = 4) : s.trayDo k m = s.trayWrite k m m.laddr (m.data.take (64 * m.lines)) := by
  rw [Dev.trayDo, Dev.hostLines_none host]; simp only [row]

theorem Dev.trayDo_wrPart (row : m.opc = 5) :
    s.trayDo k m = s.trayWrite k m (m.laddr + m.start) (slice m.data m.start (min m.cnt (64 - m.start))) := by
  rw [Dev.trayDo, Dev.hostLines_none host]; simp only [row]

theorem Dev.trayDo_evictDirty_held (row : m.opc = 6) (held : s.dirLine (k + 1) m.laddr ≠ .i) :
    s.trayDo k m = s.trayWrite k m m.laddr (m.data.take 64) := by
  rw [Dev.trayDo, Dev.hostLines_none host]; simp only [row]

theorem Dev.trayDo_evictDirty_unheld (row : m.opc = 6) (unheld : s.dirLine (k + 1) m.laddr = .i) :
    s.trayDo k m = s.traySend k (trayReply m 0x21 2 []) := by
  rw [Dev.trayDo, Dev.hostLines_none host]; simp only [row, unheld]

theorem Dev.trayDo_evictClean (row : m.opc = 7) : s.trayDo k m = m.lineList.foldl (fun s l => s.setDir (k + 1) l .i) s := by
  rw [Dev.trayDo, Dev.hostLines_none host]; simp only [row]

theorem Dev.trayDo_fence (row : m.opc = 8) : s.trayDo k m = s.traySend k (trayReply m 0x21 1 []) := by
  rw [Dev.trayDo, Dev.hostLines_none host]; simp only [row]

end

section
variable {s : Dev} {k : Nat} {m : TrayMsg} (none_ : s.hst.dir = [])
include none_

theorem Dev.givenUp_none (l : List Nat) : l.foldl (fun s l => s.setDir (k + 1) l .i) s = s := by
  refine foldl_stays fun l _ => ?_
  exact Dev.setDir_none none_ k l

/-- The lines of a read that no agent held are answered in E, or granted not at all. -/
theorem Dev.trayRead_none {u : Dev} {b : List Byte} (read : s.inkRead false m.laddr (64 * m.lines) = (u, .ok, b)) (grant : Bool) :
    s.trayRead k m grant = (if grant then m.lineList.foldl (fun s l => s.setDir (k + 1) l .e) u else u).traySend k
      (trayReply m 0x20 (if grant then 2 else 0) b) := by
  have still : u.hst.dir = [] := by
    rw [← none_, ← Dev.inkRead_hst_none none_ false m.laddr (64 * m.lines), read]
  simp [Dev.trayRead, Dev.givenUp_none none_, read, Dev.dirLine_none still]
  cases grant <;> rfl

/-- Nor has a request to wait, where no agent holds a line and none is asked for one. -/
theorem Dev.trayServe_none (unfenced : m.opc ≠ 8) (asked : ∀ p ∈ s.tray, p.2.snoops = []) : s.trayServe k m = s.trayDo k m :=
  Dev.trayServe_free (Dev.trayBlocked_unasked unfenced asked) (Dev.traySnoop_none none_)

end

theorem Dev.trayWrite_ok {s u : Dev} {k : Nat} {m : TrayMsg} {a : Nat} {b : List Byte}
    (write : (m.lineList.foldl (fun s l => s.setDir (k + 1) l .i) s).inkWrite false a b = (u, .ok)) :
    s.trayWrite k m a b = u.traySend k (trayReply m 0x21 2 []) := by
  simp only [Dev.trayWrite, write]

/-- An eviction waits for nothing and asks no agent. -/
theorem Dev.trayServe_evict {s : Dev} {k : Nat} {m : TrayMsg} (evicts : m.opc = 6 ∨ m.opc = 7) : s.trayServe k m = s.trayDo k m := by
  rcases evicts with row | row
  · exact Dev.trayServe_free (by simp [Dev.trayBlocked, row]) (by simp [Dev.traySnoop, row])
  · exact Dev.trayServe_free (by simp [Dev.trayBlocked, row]) (by simp [Dev.traySnoop, row])

/-- A FENCE_REQ with no earlier request of its port waiting is answered. -/
theorem Dev.trayReq_fence {s : Dev} {k : Nat} {m : TrayMsg} (up : (s.trayPort k).st = .up) (row : m.opc = 8)
    (none_ : (s.trayPort k).waiting = []) : s.trayReq {} k 8 m = s.traySend k (trayReply m 0x21 1 []) := by
  have free := Dev.trayServe_free (s := s) (k := k) (m := m) (by simp [Dev.trayBlocked, row, none_]) (by simp [Dev.traySnoop, row])
  simp [Dev.trayReq, row, up, free, Dev.trayDo_fence fun l _ => .inl row]

/-- A request of an address in no partition is answered with ERR UNMAPPED. -/
theorem Dev.trayReq_unmapped {s : Dev} {env : Env} {k : Nat} {m : TrayMsg} (up : (s.trayPort k).st = .up) (row : m.opc = 1)
    (nowhere : (s.enter env).trayPart m = none) : s.trayReq env k 1 m = (s.enter env).trayErr k m 1 := by
  simp [Dev.trayReq, row, up, TrayMsg.isBell, nowhere]

/-! ### Snoops of the device's copies (R187) -/

/-- A snoop of the row's opcode on a port that is UP. -/
theorem Dev.traySnooped_row {s : Dev} {k opc : Nat} {m : TrayMsg} (up : (s.trayPort k).st = .up) (row : m.opc = opc) :
    s.traySnooped k opc m =
      (let keys := m.lineList.map fun a => trayKey k a / 64
       let had := keys.any fun l => s.hst.cacheLines.contains l
       let t : Dev := if opc == 0x10 then
         { s with hst := { s.hst with cacheLines := s.hst.cacheLines.filter fun l => !keys.contains l } } else s
       t.traySend k (trayReply m 0x22 (if had && opc != 0x10 then 2 else 0) [])) := by
  rw [Dev.traySnooped, if_neg (by simp [up, row])]

/-! ### Flits (R190, R191) -/

/-- A tray port set to anything but a fresh one reads back. -/
theorem Dev.trayPort_setTray_up (s : Dev) (k : Nat) {x : TrayPort} (up : x.st = .up) : (s.setTray k x).trayPort k = x :=
  tget_tset_listed s.tray fun fresh => by simp [fresh] at up

/-- Tray port k is UP and expects the flit `q`, for which it has asked no replay, and memory is `mem`. -/
structure Dev.Expects (s : Dev) (k : Nat) (q : BitVec 12) (mem : Tbl Byte) : Prop where
  up : (s.trayPort k).st = .up
  seq : (s.trayPort k).rxSeq = q
  replays : (s.trayPort k).replays = 0
  mem : s.mem = mem

namespace Dev.Expects

variable {s t : Dev} {k : Nat} {q : BitVec 12} {mem : Tbl Byte}

theorem of_same (h : s.Expects k q mem) (tray : t.tray = s.tray) (same : t.mem = s.mem) : t.Expects k q mem := by
  have port : t.trayPort k = s.trayPort k := by rw [Dev.trayPort, tray, Dev.trayPort]
  exact ⟨(congrArg (·.st) port).trans h.up, (congrArg (·.rxSeq) port).trans h.seq, (congrArg (·.replays) port).trans h.replays,
    same.trans h.mem⟩

theorem setTray (x : TrayPort) (up : x.st = .up) (seq : x.rxSeq = q) (replays : x.replays = 0) (same : s.mem = mem) :
    (s.setTray k x).Expects k q mem := by
  have port := s.trayPort_setTray_up k up
  exact ⟨(congrArg (·.st) port).trans up, (congrArg (·.rxSeq) port).trans seq, (congrArg (·.replays) port).trans replays, same⟩

/-- Messages and flits that leave change neither what the port expects nor that it is UP. -/
theorem trayPump (h : s.Expects k q mem) (n : Nat) : (Dev.trayPump n s k).Expects k q mem := by
  induction n generalizing s with
  | zero => exact h
  | succ n ih =>
    rw [Dev.trayPump]
    split
    · exact h
    · split
      · next m _ => exact ih ((setTray ((s.trayPort k).load m) h.up h.seq h.replays h.mem).of_same rfl rfl)
      · split
        · exact h
        · exact ih ((setTray (s.trayPort k).sendFlit h.up h.seq h.replays h.mem).of_same rfl rfl)

/-- Nor does what a flit acknowledges, asks for and returns. -/
theorem trayAck (h : s.Expects k q mem) (f : TrayFlit) : (s.trayAck k f).Expects k q mem := by
  refine trayPump ?_ _
  have taken := fun x up seq replays => setTray (s := s) (k := k) (q := q) x up seq replays h.mem
  split
  · exact List.foldlRecOn (motive := fun t : Dev => t.Expects k q mem) _ _ (taken _ h.up h.seq h.replays)
      fun t kept u _ => kept.of_same rfl rfl
  · exact taken _ h.up h.seq h.replays

/-- Nor do the messages in its slots. -/
theorem traySlots (h : s.Expects k q mem) (l : List (BitVec 128)) : (s.traySlots k l).1.Expects k q mem := by
  refine List.foldlRecOn (motive := fun p : Dev × Nat × Nat × Nat => p.1.Expects k q mem) l _ h fun p kept d _ => ?_
  dsimp only
  split
  · exact kept
  · split
    · refine kept.of_same ?_ ?_
      · rw [Dev.postErr_eq]
        rfl
      · rw [Dev.postErr_eq]
        rfl
    · split
      · exact setTray _ kept.up kept.seq kept.replays kept.mem
      · exact setTray _ kept.up kept.seq kept.replays kept.mem

end Dev.Expects

section
variable {s : Dev} {k : Nat} {b : List Byte} (up : (s.trayPort k).st = .up)
include up

/-- A flit whose CRC fails is asked for again. -/
theorem Dev.trayFlitRx_bad (bad : flitCrcOk b = false) :
    s.trayFlitRx k b =
      (s.setTray k { s.trayPort k with replays := (s.trayPort k).replays + 1 }).trayIdle k true (0, 0, 0) := by
  simp [Dev.trayFlitRx, up, bad]

section
variable (sound : flitCrcOk b = true) (ordinary : leAt b 0 2 < 4096)
include sound ordinary

theorem Dev.trayFlitRx_idle (idle : ∀ d ∈ (flitOf b).slots, d = 0) : s.trayFlitRx k b = s.trayAck k (flitOf b) := by
  have none_ : (flitOf b).slots.all (· == 0) = true := by simpa using idle
  rw [Dev.trayFlitRx, if_neg (by simp [up]), if_neg (by simp [sound]), if_neg (Nat.not_le.mpr ordinary), if_pos none_]

variable (carries : ∃ d ∈ (flitOf b).slots, d ≠ 0)
include carries

/-- A flit that is later than the one expected makes the port ask for that one; one seen before changes nothing. -/
theorem Dev.trayFlitRx_other (other : (flitOf b).seq ≠ (s.trayPort k).rxSeq.toNat) :
    s.trayFlitRx k b = if halfBefore 12 (s.trayPort k).rxSeq.toNat (flitOf b).seq then
      (s.setTray k { s.trayPort k with replays := (s.trayPort k).replays + 1 }).trayIdle k true (0, 0, 0) else s := by
  rw [Dev.trayFlitRx, if_neg (by simp [up]), if_neg (by simp [sound]), if_neg (Nat.not_le.mpr ordinary),
    if_neg (by simpa using carries), if_neg (by simpa using other)]

/-- The flit expected moves the expected sequence number on. -/
theorem Dev.trayFlitRx_next (next : (flitOf b).seq = (s.trayPort k).rxSeq.toNat) :
    (s.trayFlitRx k b).Expects k ((s.trayPort k).rxSeq + 1) s.mem := by
  rw [Dev.trayFlitRx, if_neg (by simp [up]), if_neg (by simp [sound]), if_neg (Nat.not_le.mpr ordinary),
    if_neg (by simpa using carries), if_pos (by simpa using next)]
  have came := Dev.Expects.setTray (s := s) (k := k)
    { s.trayPort k with rxSeq := (s.trayPort k).rxSeq + 1, replays := 0, firstFlit := true } up rfl rfl rfl
  have taken := (came.trayAck (flitOf b)).traySlots (flitOf b).slots
  dsimp only
  generalize ((s.setTray k _).trayAck k (flitOf b)).traySlots k (flitOf b).slots = p at taken ⊢
  exact taken.of_same rfl rfl

end

end

/-! ### The obligation -/

theorem exec_rdCur (port : Fin 4) (m : TrayMsg) (env : Env) (s : State) :
    exec (.rdCur port m env) s = .next { s with dev := s.dev.trayReq env port 1 m } := rfl

theorem exec_rdShared (port : Fin 4) (m : TrayMsg) (env : Env) (s : State) :
    exec (.rdShared port m env) s = .next { s with dev := s.dev.trayReq env port 2 m } := rfl

theorem exec_rdOwn (port : Fin 4) (m : TrayMsg) (env : Env) (s : State) :
    exec (.rdOwn port m env) s = .next { s with dev := s.dev.trayReq env port 3 m } := rfl

theorem exec_wrLine (port : Fin 4) (m : TrayMsg) (s : State) :
    exec (.wrLine port m) s = .next { s with dev := s.dev.trayReq {} port 4 m } := rfl

theorem exec_wrPart (port : Fin 4) (m : TrayMsg) (env : Env) (s : State) :
    exec (.wrPart port m env) s = .next { s with dev := s.dev.trayReq env port 5 m } := rfl

theorem exec_evictDirty (port : Fin 4) (m : TrayMsg) (s : State) :
    exec (.evictDirty port m) s = .next { s with dev := s.dev.trayReq {} port 6 m } := rfl

theorem exec_evictClean (port : Fin 4) (m : TrayMsg) (s : State) :
    exec (.evictClean port m) s = .next { s with dev := s.dev.trayReq {} port 7 m } := rfl

theorem exec_fenceReq (port : Fin 4) (m : TrayMsg) (s : State) :
    exec (.fenceReq port m) s = .next { s with dev := s.dev.trayReq {} port 8 m } := rfl

theorem exec_snpInv (port : Fin 4) (m : TrayMsg) (s : State) :
    exec (.snpInv port m) s = .next { s with dev := s.dev.traySnooped port 0x10 m } := rfl

theorem exec_snpData (port : Fin 4) (m : TrayMsg) (s : State) :
    exec (.snpData port m) s = .next { s with dev := s.dev.traySnooped port 0x11 m } := rfl

theorem exec_snpCur (port : Fin 4) (m : TrayMsg) (s : State) :
    exec (.snpCur port m) s = .next { s with dev := s.dev.traySnooped port 0x12 m } := rfl

theorem exec_trayFlitRx (port : Fin 4) (b : List Byte) (s : State) :
    exec (.trayFlitRx port b) s = .next { s with dev := s.dev.trayFlitRx port b } := rfl

theorem exec_trayReplayExhausted (port : Fin 4) (s : State) :
    exec (.trayReplayExhausted port) s = .next { s with dev := s.dev.trayRetrain port } := rfl

/-- Settles O48. A request that its meter passes takes effect at once (`Dev.trayReq_serves`), with no line to recall where no
agent holds one (`Dev.trayServe_none`); a flit is taken by its CRC, its slots and its sequence number. That RD_SHARED is granted
E, that EVICT_CLEAN is not answered and that EVICT_DIRTY of a line not held is answered CMP is log entry 54. -/
theorem trayRequestsAreServed : Obligations.TrayRequestsAreServed := by
  unfold Obligations.TrayRequestsAreServed
  refine ⟨?requests, ?evicts, ?others⟩
  case requests =>
    intro port m env s n v g serves none_ held
    have host : ∀ l ∈ m.lineList, m.opc = 8 ∨ g.dirLine 0 l = .i := fun l _ => .inr (Dev.dirLine_none none_ 0 l)
    have given := Dev.givenUp_none (k := port) none_ m.lineList
    have served : ∀ {opc : Nat}, m.opc = opc → opc ≠ 8 → s.dev.trayReq env port opc m = g.trayDo port m :=
      fun row unfenced => (Dev.trayReq_serves serves row unfenced).trans
        (Dev.trayServe_none none_ (row ▸ unfenced) serves.asked)
    refine ⟨fun u b read => ⟨fun row => ?_, fun row => ?_, fun row => ?_⟩, fun u quiet row write => ?_, fun u row write => ?_⟩
    · rw [exec_rdCur, served row (by decide), Dev.trayDo_rdCur host row, Dev.trayRead_none none_ read]
      rfl
    · rw [exec_rdShared, served row (by decide), Dev.trayDo_rd host (.inl row), Dev.trayRead_none none_ read]
      rfl
    · rw [exec_rdOwn, served row (by decide), Dev.trayDo_rd host (.inr row), Dev.trayRead_none none_ read]
      rfl
    · subst quiet
      rw [exec_wrLine, served row (by decide), Dev.trayDo_wrLine host row, Dev.trayWrite_ok (by rwa [given])]
    · rw [exec_wrPart, served row (by decide), Dev.trayDo_wrPart host row, Dev.trayWrite_ok (by rwa [given])]
  case evicts =>
    intro port m s n v g serves single host given
    have line : m.lineList = [m.laddr] := by simp [TrayMsg.lineList, single]
    have host : ∀ l ∈ m.lineList, m.opc = 8 ∨ g.dirLine 0 l = .i := by simp [line, host]
    have served : ∀ {opc : Nat}, m.opc = opc → opc = 6 ∨ opc = 7 → s.dev.trayReq {} port opc m = g.trayDo port m := by
      intro opc row evicts
      rw [Dev.trayReq_serves (by rwa [Dev.enter_none]) row (by omega), Dev.trayServe_evict (row ▸ evicts)]
    refine ⟨fun u row held write => ?_, fun row unheld => ?_, fun row => ?_⟩
    · rw [exec_evictDirty, served row (.inl rfl), Dev.trayDo_evictDirty_held host row held,
        Dev.trayWrite_ok (by rw [line]; exact write)]
    · rw [exec_evictDirty, served row (.inl rfl), Dev.trayDo_evictDirty_unheld host row unheld]
    · rw [exec_evictClean, served row (.inr rfl), Dev.trayDo_evictClean host row, line]
      rfl
  case others =>
    intro port m env s up x
    refine ⟨fun row none_ => ?fence, fun row nowhere => ?unmapped, ⟨fun row => ?_, fun row => ?_, fun row => ?_⟩, fun b => ?flits,
      fun spent => ?exhausted⟩
    case fence => rw [exec_fenceReq, Dev.trayReq_fence up row none_]
    case unmapped => rw [exec_rdCur, Dev.trayReq_unmapped up row nowhere]; rfl
    case flits =>
      refine ⟨fun again => ?_, fun sound ordinary => ⟨fun idle => ?_, fun carries other before => ?_, fun carries next => ?_⟩⟩
      · rw [exec_trayFlitRx]
        cases sound : flitCrcOk b with
        | false => rw [Dev.trayFlitRx_bad up sound]
        | true =>
          obtain ⟨ordinary, carries, other, missing⟩ := again.resolve_left (by simp [sound])
          rw [Dev.trayFlitRx_other up sound ordinary carries other, if_pos missing]
      · rw [exec_trayFlitRx, Dev.trayFlitRx_idle up sound ordinary idle]
      · rw [exec_trayFlitRx, Dev.trayFlitRx_other up sound ordinary carries other, if_neg (by simpa using before)]
      · obtain ⟨up', seq, replays, mem⟩ := Dev.trayFlitRx_next up sound ordinary carries next
        exact ⟨_, exec_trayFlitRx port b s, seq, replays, up', mem, rfl⟩
    case exhausted => rw [exec_trayReplayExhausted, Dev.trayRetrain, if_pos (by simp [up, x, spent])]
    · rw [exec_snpInv, Dev.traySnooped_row up row]
      simp
    · rw [exec_snpData, Dev.traySnooped_row up row]
      simp
    · rw [exec_snpCur, Dev.traySnooped_row up row]
      simp

end Sys2Proof.Machine

namespace Sys2Proof.Machine

/-! ### The only request outstanding on a tray port is answered (R194) -/

/-- A request that serves no entry and no packet has nothing behind it that goes on or fails. -/
theorem Dev.trayServed_own {r : TrayReq} (unserved : r.op = none) (own : r.who = 0) (s : Dev) (k : Nat) (ok : Bool) :
    s.trayServed k r ok = s := by
  have nobody : s.ops.find? (fun o => r.who != 0 && opWho o.ring o.entry.pos == r.who) = none := by simp [own]
  simp only [Dev.trayServed, unserved, nobody]
  simp [own]

/-- In a table of ports in canonical form the only request outstanding, which serves nothing, ends and no other is sent. -/
theorem Dev.trayEnded_only {s : Dev} {k : Nat} {r : TrayReq} (canonical : twf (fun _ => {}) s.tray = true)
    (only : (s.trayPort k).reqs = [r]) (sent : r.sent = true) (unserved : r.op = none) (own : r.who = 0) (ok : Bool) :
    s.trayEnded k r ok = s.setTray k { s.trayPort k with reqs := [] } := by
  have idle : (s.setTray k { s.trayPort k with reqs := [] }).trayPort k = { s.trayPort k with reqs := [] } :=
    tget_tset_same _ _ _ _ canonical
  rw [Dev.trayEnded, Dev.trayServed_own unserved own]
  simp [Dev.trayRequestEnd, only, eraseFirst, sent, Dev.trayIssue, idle]

theorem exec_data (port : Fin 4) (m : TrayMsg) (s : State) :
    exec (.data port m) s = .next { s with dev := s.dev.trayData port m } := rfl

/-- A read of one line that was sent under tag 0. -/
def readSent : TrayReq := { sent := true, msg := { hdr := trayHdr 0x01 0 1 0 0 } }

/-- Tray port 0 listed twice: first with a read outstanding and otherwise as at reset, then with a request that is still to be
sent. -/
def portListedTwice : State :=
  { dev := { tray := [(0, { reqs := [readSent] }), (0, { peerTags := 1, reqs := [{}] })] } }

/-- Refutes O49: its first clause has an answered request just leave the port's list, in every state, while the end of a request
also sends the next one that the peer's TAGS barred (`Dev.trayRequestEnd`). In `portListedTwice`, whose table is not in canonical
form, DATA ends the request of the first entry, which is then that of a fresh port and goes; the second comes to light, and its
request is sent. The clause lacks the hypothesis that the table is canonical, which those of SNP_RSP and TRAY_PORT_DOWN have and
under which the request ends as it says (`Dev.trayEnded_only`). -/
theorem not_trayAnswersAndPorts : ¬ Obligations.TrayAnswersAndPorts := by
  unfold Obligations.TrayAnswersAndPorts
  rintro ⟨answers, -⟩
  obtain ⟨data, -⟩ := answers 0 { hdr := trayHdr 0x20 0 1 0 0 } readSent portListedTwice rfl rfl (by decide) rfl rfl
  have ended := data (by decide) (by decide) (by decide)
  rw [exec_data] at ended
  have same := congrArg (fun t : State => (t.dev.trayPort 0).reqs.map (·.sent)) (Host.Outcome.next.inj ended)
  exact absurd same (by decide)

end Sys2Proof.Machine

namespace Sys2Proof.Machine

/-! ### A deterministic route (R209, R213 to R215) -/

/-- The class a lookup routes a packet by: its arrival channel's, or its PTYPE's where it starts here (R212). -/
def routeClass (arr : Option (Nat × Nat)) (p : Packet) : Nat :=
  match arr with
  | some _ => p.vc / 3
  | none => (ptypeClass p.ptype).getD 0

/-- A condition that would have ended a lookup otherwise did not hold where it gives a port and a deterministic channel. -/
theorem Routed.det_of_ite {c : Prop} [Decidable c] {r x : Routed} {q vc : Nat}
    (routed : (if c then r else x) = .det q vc) (other : r ≠ .det q vc := by nofun) : ¬ c ∧ x = .det q vc := by
  split at routed
  case isTrue => exact absurd routed other
  case isFalse passed => exact ⟨passed, routed⟩

/-- A lookup that gives a port and a deterministic channel has found no local destination and taken steps 5 to 8 of
Table 10.5. -/
theorem Dev.route_det {s : Dev} {arr : Option (Nat × Nat)} {p : Packet} {adaptive : Bool} {q vc : Nat}
    (routed : s.route arr p adaptive = .det q vc) :
    ¬ (s.capo.nodeSet = true ∧ p.dst = s.node) ∧
      s.routeDet arr (s.routeEntry (s.nodeIndex p.dst)) (routeClass arr p) p = .det q vc := by
  unfold Dev.route at routed
  obtain ⟨away, routed⟩ := Routed.det_of_ite routed
  obtain ⟨-, routed⟩ := Routed.det_of_ite routed
  obtain ⟨-, routed⟩ := Routed.det_of_ite routed
  obtain ⟨-, routed⟩ := Routed.det_of_ite routed
  obtain ⟨-, routed⟩ := Routed.det_of_ite routed
  exact ⟨by simpa using away, routed⟩

/-- The port that the flow value picks is a usable one of those given. -/
theorem Dev.flowPort_some {s : Dev} {ports : List Nat} {p : Packet} {q : Nat} (picked : s.flowPort ports p = some q) :
    q ∈ ports ∧ s.usable q = true := by
  unfold Dev.flowPort at picked
  dsimp only at picked
  split at picked
  case isTrue => nomatch picked
  case isFalse => exact List.mem_filter.mp (List.mem_of_getElem? picked)

theorem Dev.mem_dirPorts {s : Dev} {dir q : Nat} (member : q ∈ s.dirPorts dir) : s.portDir q = dir := by
  simpa using (List.mem_filter.mp member).2

/-- A packet leaves on a deterministic channel of the kind BEFORE or AFTER. -/
theorem Dev.outKind_binary (s : Dev) {arr : Option (Nat × Nat)} (dir : Nat) (kinds : ∀ a, arr = some a → a.2 < 3) :
    s.outKind arr dir = 0 ∨ s.outKind arr dir = 1 := by
  unfold Dev.outKind
  dsimp only
  split
  · exact .inr rfl
  · cases arr with
    | none => exact .inl rfl
    | some a =>
      have kind := kinds a rfl
      dsimp only
      split
      case isTrue same =>
        have turned : a.2 ≠ 2 := by simpa using (Bool.and_eq_true_iff.mp same).1
        omega
      case isFalse => exact .inl rfl

/-- What steps 5 to 8 of Table 10.5 have checked of a port and channel they give. -/
theorem Dev.routeDet_det {s : Dev} {arr : Option (Nat × Nat)} {e : Word} {cls q vc : Nat} {p : Packet}
    (routed : s.routeDet arr e cls p = .det q vc) :
    s.usable q = true ∧ s.portDir q = detDir e cls ∧ detDir e cls < 8 ∧ (∀ a, arr = some a → a.1 ≠ detDir e cls) ∧
      vc = 3 * cls + s.outKind arr (detDir e cls) := by
  unfold Dev.routeDet at routed
  obtain ⟨held, routed⟩ := Routed.det_of_ite routed
  obtain ⟨turns, routed⟩ := Routed.det_of_ite routed
  split at routed
  case h_1 => nomatch routed
  case h_2 picked =>
    obtain ⟨rfl, rfl⟩ := Routed.det.inj routed
    obtain ⟨member, usable⟩ := Dev.flowPort_some picked
    refine ⟨usable, Dev.mem_dirPorts member, Nat.not_le.mp held, ?_, rfl⟩
    rintro a rfl same
    exact turns (by simpa using same)

/-- Settles O34: the lookup took steps 5 to 8 of Table 10.5 (`Dev.route_det`), and these give no other port and channel. -/
theorem routesLeaveByUsablePorts : Obligations.RoutesLeaveByUsablePorts := by
  unfold Obligations.RoutesLeaveByUsablePorts
  intro s arr k adaptive q vc kinds routed
  obtain ⟨away, steps⟩ := Dev.route_det routed
  obtain ⟨usable, dir, held, turns, channel⟩ := Dev.routeDet_det steps
  refine ⟨usable, dir, held, fun a arrived => dir ▸ turns a arrived, ?_, away⟩
  rw [channel]
  rcases s.outKind_binary (detDir (s.routeEntry (s.nodeIndex k.dst)) (routeClass arr k)) kinds with before | after
  · rw [before]; exact .inl rfl
  · rw [after]; exact .inr rfl

end Sys2Proof.Machine

namespace Sys2Proof.Machine

/-! ### PACKET_LOOKUP and ADAPTIVE_ESCAPE (R213 to R217, R227) -/

theorem exec_packetLookup (port : Fin 16) (k : Packet) (s : State) :
    exec (.packetLookup port k) s = .next { s with dev := s.dev.lookup port k } := rfl

theorem exec_adaptiveEscape (port : Fin 16) (s : State) :
    exec (.adaptiveEscape port) s = .next { s with dev := s.dev.escape port } := rfl

/-- The device once the packet in arrival on port p has entered the lookup pipeline (R16). -/
def Dev.inLookup (s : Dev) (p : Nat) (k : Packet) : Dev := s.setLink p ((s.link p).lookedUp k)

/-- Port p carries packets, its router is out of reset, and the packet is no Pluck flit of channel 11: its lookup keeps it here
or sends it on. -/
structure Dev.Admits (s : Dev) (p : Nat) (k : Packet) : Prop where
  fabric : s.isEth p = false
  up : s.inReset Reg.rteCfg = false
  standing : s.portDown p = false
  carries : s.portCarries p = true
  channel : isPluck k = false ∨ k.vc ≠ 11

theorem Dev.Admits.noPluck {s : Dev} {p : Nat} {k : Packet} (admits : s.Admits p k) : (isPluck k && k.vc == 11) = false := by
  rcases admits.channel with other | other <;> simp [other]

section
variable {s a : Dev} {p : Nat} {k : Packet} (found : s.inLookup p k = a) (admits : a.Admits p k)
include found admits

/-- A packet for this device, of a known type, channel and length, is kept for local processing. -/
theorem Dev.lookup_here (set : a.capo.nodeSet = true) (here : k.dst = a.node) (type : ptypeOk k.ptype = true)
    (vc : k.vc < 12) (plen : k.plen ≤ 4096) :
    s.lookup p k = (a.returnCredit p k.vc (a.arrived p k)).toLocal k p := by
  have sound : ¬ (!ptypeOk k.ptype || 12 ≤ k.vc || 4096 < k.plen) = true := by simp [type, vc, plen]
  unfold Dev.inLookup at found
  simp only [Dev.lookup, found, admits.fabric, admits.up, admits.standing, admits.carries, admits.noPluck, set, here, sound,
    beq_self_eq_true, Bool.not_true, Bool.or_self, Bool.and_self, Bool.false_eq_true, if_true, if_false]

/-- A packet that its route sends out by port q on deterministic channel v, and that does not escape, joins its transit leaf. -/
theorem Dev.lookup_det {q v : Nat} (away : a.capo.nodeSet = false ∨ k.dst ≠ a.node)
    (routed : a.route (some (a.portDir p, k.vc % 3)) k (k.vc % 3 == 2) = .det q v)
    (stays : a.escapesNow (some (a.portDir p, k.vc % 3)) k (k.vc % 3 == 2) = false) :
    s.lookup p k = a.rest {
      port := q, vc := v, leaf := .transit k.tc k.vc, pkt := { k with hdr := setHdr k.hdr 75 72 v }, at_ := a.rlg.time
      since := (a.arrival p k).at_, inPort := some p, arrVc := k.vc, arrDir := a.portDir p } := by
  have other : (a.capo.nodeSet && k.dst == a.node) = false := by
    rcases away with unset | other
    · simp [unset]
    · simp [other]
  unfold Dev.inLookup at found
  simp only [Dev.lookup, found, admits.fabric, admits.up, admits.standing, admits.carries, admits.noPluck, other, Dev.join,
    Dev.joinAs, routed, stays, Bool.not_true, Bool.or_self, Bool.false_eq_true, if_false]
  rfl

end

/-- The one packet that waits is adaptive, without a candidate, and stays as it is when it tries again (R217). -/
theorem Dev.retryAdaptive_only {s : Dev} {x : QPkt} (only : s.sch.q = [x])
    (none_ : s.adaptPort (s.queuedBytes · x.vc) x.looked x.vc (flitsOf x.pkt) = none) : s.retryAdaptive = s := by
  simp [Dev.retryAdaptive, only, none_]

/-- The one adaptive packet that waits without a candidate, due at port p, escapes. -/
theorem Dev.escape_only {s : Dev} {p q v : Nat} {x : QPkt} (only : s.sch.q = [x]) (waits : x.kind2 = true)
    (by_ : x.inPort.getD p = p) (due : x.escapeAt ≤ s.osc)
    (none_ : s.adaptPort (s.queuedBytes · x.vc) x.looked x.vc (flitsOf x.pkt) = none)
    (routed : ({ s with sch := { s.sch with q := [] } } : Dev).escapeRoute x.looked x.pkt = .det q v) :
    s.escape p = { s.bump Reg.rteEscapes with sch := { (s.bump Reg.rteEscapes).sch with q := [x.toward q v] } } := by
  have oldest : (s.sch.q.find? fun x => x.kind2 && x.inPort.getD p == p && x.escapeAt ≤ s.osc) = some x := by
    simp [only, waits, by_, due]
  have left : eraseFirst (· == x) s.sch.q = [] := by simp [only, eraseFirst]
  simp only [Dev.escape, Dev.retryAdaptive_only only none_, oldest, Dev.escapeOne, left, routed]
  rfl

/-- Settles O33: the two outcomes of PACKET_LOOKUP (`Dev.lookup_here`, `Dev.lookup_det`), where a packet that rests takes the
shared part of the buffer as log entry 132 reads R218, and the escape (`Dev.escape_only`). -/
theorem packetsAreRouted : Obligations.PacketsAreRouted := by
  unfold Obligations.PacketsAreRouted
  refine ⟨fun port k s _ _ => ?_, fun port s x q v only waits by_ due none_ routed => ?_⟩
  · intro a fabric up standing carries channel
    have admits : a.Admits port k := ⟨fabric, up, standing, carries, channel⟩
    refine ⟨fun set here type vc plen => ?_, fun q v away routed stays => ?_⟩
    · rw [exec_packetLookup, Dev.lookup_here rfl admits set here type vc plen]
      rfl
    · rw [exec_packetLookup, Dev.lookup_det rfl admits away routed stays]
      rfl
  · rw [exec_adaptiveEscape, Dev.escape_only only waits by_ due none_ routed]

end Sys2Proof.Machine

namespace Sys2Proof.Machine

/-! ### RTE_PORT_ENABLE_WRITE (R225) -/

/-- The register port makes no copy for the journal. -/
@[simp] theorem Dev.tapWrite_port (s : Dev) (off : Nat) (w : Word) : s.tapWrite .port off 8 w = s := s.tapPart_port off .both w

theorem exec_rtePortEnableWrite (port : Fin 16) (w : Word) (s : State) (up : s.dev.inReset (Reg.rtePortCfg port) = false) :
    exec (.rtePortEnableWrite .port port w) s = .next { s with dev := s.dev.writeRtePort .port port .both w } := by
  show onWrite .port _ w (pfOnly .port _) s = _
  simp [onWrite, onDev, pfOnly, Dev.gated, up]

@[simp] theorem Dev.postErr_run (s : Dev) (off cls code detail sev : Nat) (part : Option Nat) :
    (s.postErr off cls code detail sev part).run = s.run := by rw [Dev.postErr_eq]

/-- A write of staged fields leaves the registers that hold what is written and the running tables. -/
theorem Dev.stWrite_frame (s : Dev) (v : View) (off : Nat) (h : Half) (w : Word) :
    (s.stWrite v off h w).rw = s.rw ∧ (s.stWrite v off h w).run = s.run := by
  unfold Dev.stWrite Dev.shadowWrite
  split
  case h_1 => exact ⟨rfl, rfl⟩
  case h_2 =>
    split
    case isTrue => exact ⟨rfl, rfl⟩
    case isFalse =>
      split
      case isTrue => exact ⟨rfl, rfl⟩
      case isFalse =>
        split
        case isTrue => exact ⟨Dev.postErr_rw .., Dev.postErr_run ..⟩
        case isFalse => exact ⟨rfl, rfl⟩

/-- RTE_PORT_CFG holds ENABLE alone beside its staged fields (Table 10.13). -/
theorem regRow_rtePortCfg (port : Fin 16) : regRow false (Reg.rtePortCfg port) = some ⟨0x0F0100, 8, 16, .rw, [(5, 5, 1)]⟩ := by
  revert port; decide

/-- Bit 5 of a register reads as it was written, whatever the other bits are. -/
theorem bit_setBits_five (old : Word) (v : Nat) : bit (setBits old 5 5 v) 5 = decide (v % 2 = 1) := by
  rw [bit_eq_bits, setBits, bits_ofNat _ (by decide) (by decide)]
  simp only [Nat.shiftLeft_eq, Nat.shiftRight_eq_div_pow]
  refine decide_eq_decide.mpr ?_
  omega

/-- A write of RTE_PORT_CFG leaves ENABLE as written. -/
theorem Dev.writePlain_portEnabled (s : Dev) (v : View) (port : Fin 16) (w : Word) (canonical : twf rwReset s.rw = true) :
    (s.writePlain v .both (Reg.rtePortCfg port) w).portEnabled port = bit w 5 := by
  have held : (s.writePlain v .both (Reg.rtePortCfg port) w).reg (Reg.rtePortCfg port) =
      setBits (s.reg (Reg.rtePortCfg port)) 5 5 (bits w 5 5) := by
    simp only [Dev.writePlain, regRow_rtePortCfg, Dev.reg, Dev.stWrite_frame]
    exact tget_tset_same rwReset s.rw _ _ canonical
  rw [Dev.portEnabled, held, bit_setBits_five, bit_eq_bits, bits]
  simp

/-- A write of a register leaves the personality of a port. -/
theorem Dev.writePlain_isEth (s : Dev) (v : View) (h : Half) (off p : Nat) (w : Word) :
    (s.writePlain v h off w).isEth p = s.isEth p := by
  have run : (s.writePlain v h off w).run = s.run := by
    unfold Dev.writePlain
    rw [(Dev.stWrite_frame _ v off h w).2]
    split <;> rfl
  simp only [Dev.isEth, Dev.st, run]

/-- RTE_PORT_CFG of a fabric port written: it goes down where ENABLE goes from 1 to 0 (R225). -/
theorem Dev.writeRtePort_fabric {s : Dev} {port : Fin 16} (v : View) (w : Word) (fabric : s.isEth port = false)
    (canonical : twf rwReset s.rw = true) :
    s.writeRtePort v port .both w =
      if s.portEnabled port = true ∧ bit w 5 = false then (s.writePlain v .both (Reg.rtePortCfg port) w).goDown port 4
      else s.writePlain v .both (Reg.rtePortCfg port) w := by
  simp [Dev.writeRtePort, s.writePlain_portEnabled v port w canonical, Dev.writePlain_isEth, fabric]

/-! ### TELEMETRY (R234) -/

theorem exec_telemetry (k : Packet) (s : State) : exec (.telemetry k) s = .next { s with dev := s.dev.telemRx k } := rfl

/-- The device once the packet has left the list of packets for local processing. -/
def Dev.localTaken (s : Dev) (k : Packet) : Dev :=
  { s with rte := { s.rte with local_ := eraseFirst (fun q => q.1 == k) s.rte.local_ } }

/-- The address of the slot of the telemetry buffer that the next packet takes (R234). -/
def Dev.telemSlot (s : Dev) : Nat :=
  bits (s.reg Reg.rteTelemRx) 63 16 * 65536 +
    (s.count Reg.rteTelemRxCount).toNat % 2 ^ min 16 (bits (s.reg Reg.rteTelemRx) 4 0) * 8192

section
variable {s a : Dev} {k : Packet} (type : k.ptype = 0x30)
  (whole : s.rte.local_.any (fun q => q.1 == k && s.whole q.2.1 k) = true) (taken : s.localTaken k = a)
include type whole taken

/-- A telemetry packet in whole is dropped and counted where receiving is off. -/
theorem Dev.telemRx_off (off_ : bit (a.reg Reg.rteTelemRx) 9 = false) : s.telemRx k = a.bump (Reg.rteDrops 5) := by
  unfold Dev.localTaken at taken
  simp [Dev.telemRx, type, whole, taken, off_]

/-- A telemetry packet in whole is written to the next slot of a buffer in Inkwell, and counted. -/
theorem Dev.telemRx_ink {u : Dev} (icrc : icrcOk k = true) (on_ : bit (a.reg Reg.rteTelemRx) 9 = true)
    (ink : bit (a.reg Reg.rteTelemRx) 8 = true)
    (write : a.inkWrite false a.telemSlot (hdrBytes k.hdr ++ k.payload) = (u, .ok)) :
    s.telemRx k = u.bump Reg.rteTelemRxCount := by
  unfold Dev.localTaken at taken
  unfold Dev.telemSlot at write
  simp [Dev.telemRx, type, whole, taken, icrc, on_, ink, Dev.writeT, write]

end

/-- Settles O37: ENABLE as written and the port down by cause 4 (`Dev.writeRtePort_fabric`), and a telemetry packet written and
counted, or dropped (`Dev.telemRx_ink`, `Dev.telemRx_off`). -/
theorem portEnableAndTelemetry : Obligations.PortEnableAndTelemetry := by
  unfold Obligations.PortEnableAndTelemetry
  refine ⟨fun port w s up _ fabric canonical => ?_, fun k s type whole => ?_⟩
  · refine ⟨fun was clear => ?_, fun stays => ?_⟩
    · rw [exec_rtePortEnableWrite port w s up, Dev.writeRtePort_fabric .port w fabric canonical, if_pos ⟨was, clear⟩]
    · rw [exec_rtePortEnableWrite port w s up, Dev.writeRtePort_fabric .port w fabric canonical,
        if_neg fun ⟨was, clear⟩ => by simp [was, clear] at stays]
  · intro r a w
    refine ⟨fun u icrc on_ ink write => ?_, fun off_ => ?_⟩
    · rw [exec_telemetry, Dev.telemRx_ink type whole (a := a) rfl icrc on_ ink write]
    · rw [exec_telemetry, Dev.telemRx_off type whole (a := a) rfl off_]

end Sys2Proof.Machine

namespace Sys2Proof.Machine

/-! ### Link units in sequence (R221) -/

theorem exec_linkUnitRx (port : Fin 16) (u : LinkUnit) (s : State) :
    exec (.linkUnitRx port u) s = .next { s with dev := s.dev.unitRx port u } := rfl

/-- A unit that arrived without error and is of no reserved kind. -/
def unitIntact (u : LinkUnit) : Prop := u.crcOk = true ∧ u.kind.toNat < 7

/-- The kinds of unit that are numbered and replayed: PKT, PLUCK, ABORT and RECOVERY (Table 10.21). -/
def unitSequenced (u : LinkUnit) : Prop := u.kind = 1 ∨ u.kind = 2 ∨ u.kind = 5 ∨ u.kind = 6

theorem unitIntact_iff (u : LinkUnit) : unitIntact u ↔ (!u.crcOk || 7 ≤ u.kind.toNat) = false := by
  simp [unitIntact]

theorem unitSequenced_iff (u : LinkUnit) :
    unitSequenced u ↔ (u.kind == 1 || u.kind == 2 || u.kind == 5 || u.kind == 6) = true := by
  simp [unitSequenced, or_assoc]

theorem seqBefore_ne {a b : BitVec 16} (before : seqBefore a b = true) : b ≠ a := by
  rintro rfl
  simp [seqBefore, halfBefore] at before

/-- A link whose layer is up reads as what was set. -/
theorem Dev.link_setLink_up (s : Dev) (p : Nat) {x : Link} (up : x.up = true) : (s.setLink p x).link p = x :=
  tget_tset_listed _ (by rintro rfl; nomatch up)

/-- The port's link once it has accepted the unit expected: the next LSEQ is expected, and no loss is suspected. -/
def Link.accepted (l : Link) : Link := { l with exp := l.exp + 1, lost := false, requests := 0 }

section
variable {s : Dev} {p : Nat} {u : LinkUnit} (up : s.portUp p = true)
include up

/-- A unit of bad CRC or of a reserved kind: a loss is noted. -/
theorem Dev.unitRx_damaged (damaged : ¬ unitIntact u) : s.unitRx p u = s.setLink p { s.link p with lost := true } := by
  rw [unitIntact_iff, Bool.not_eq_false] at damaged
  simp only [Dev.unitRx, up, damaged, Bool.not_true, Bool.false_eq_true, if_true, if_false]

variable (intact : unitIntact u)
include intact

/-- An intact unsequenced unit ends a loss for which replay was requested where it carries the LSEQ expected, and changes
nothing otherwise. -/
theorem Dev.unitRx_unsequenced (other : ¬ unitSequenced u) :
    s.unitRx p u = if u.seq = (s.link p).exp ∧ (s.link p).requests ≠ 0 then
      s.setLink p { s.link p with lost := false, requests := 0 } else s := by
  rw [unitIntact_iff] at intact
  rw [unitSequenced_iff, Bool.not_eq_true] at other
  simp only [Dev.unitRx, up, intact, other, Bool.not_true, Bool.not_false, Bool.false_eq_true, if_true, if_false]
  simp

variable (sequenced : unitSequenced u)
include sequenced

/-- A sequenced unit with another LSEQ than the one expected: a later one shows a loss. -/
theorem Dev.unitRx_other (other : u.seq ≠ (s.link p).exp) :
    s.unitRx p u = if seqBefore (s.link p).exp u.seq then s.setLink p { s.link p with lost := true } else s := by
  rw [unitIntact_iff] at intact
  rw [unitSequenced_iff] at sequenced
  simp only [Dev.unitRx, up, intact, sequenced, Bool.not_true, Bool.false_eq_true, if_false]
  simp [other]

/-- The sequenced unit expected is accepted; a PKT unit's flit joins the packet in arrival. -/
theorem Dev.unitRx_next (next : u.seq = (s.link p).exp) :
    s.unitRx p u = if u.kind = 1 then (s.setLink p (s.link p).accepted).flitRx p u.data
      else s.setLink p (s.link p).accepted := by
  rw [unitIntact_iff] at intact
  rw [unitSequenced_iff] at sequenced
  simp only [Dev.unitRx, up, intact, sequenced, next, beq_self_eq_true, Bool.not_true, Bool.false_eq_true, if_true, if_false]
  simp [Link.accepted]

end

/-! ### Links that come up and go down (R222, R225) -/

theorem exec_fabricLinkUp (port : Fin 16) (s : State) :
    exec (.fabricLinkUp port) s = .next { s with dev := s.dev.linkUp port } := rfl

theorem exec_linkRetryExhausted (port : Fin 16) (s : State) :
    exec (.linkRetryExhausted port) s = .next { s with dev := s.dev.retryExhausted port } := rfl

theorem exec_signalLockLoss (port : Fin 16) (s : State) :
    exec (.signalLockLoss port) s = .next { s with dev := s.dev.signalLoss port } := rfl

theorem exec_fabricPortDown (port : Fin 16) (s : State) :
    exec (.fabricPortDown port) s = .next { s with dev := s.dev.portLost port } := rfl

/-- The link once its layer comes up: the credit each channel has reserved, nothing sent or received (R218, R222). -/
def Link.opened (now : Nat) : Link :=
  let limits : Tbl (BitVec 16) := (List.range 11).map fun v => (v, if v < 9 then 2048 else 32)
  { up := true, limit := limits, grant := limits, upAt := now }

/-- The link of an enabled, unfenced fabric port with every wavelength LOCKED comes up, no neighbour known. -/
theorem Dev.linkUp_ready {s : Dev} {p : Nat} (fabric : s.isEth p = false) (enabled : s.portEnabled p = true)
    (unfenced : (s.optPort p).fenced = false) (locked : (s.optPort p).locked = true) (release : s.inReset Reg.rteCfg = false)
    (down : (s.link p).up = false) :
    s.linkUp p = (s.setLink p (.opened s.osc)).setRlgPort p { s.rlgPort p with
      beaconAt := none, lossDeclared := false, nbState := 0, nbDepth := 0, sent := [] } := by
  simp only [Dev.linkUp, fabric, enabled, unfenced, locked, release, down, Bool.not_true, Bool.or_self, Bool.false_eq_true,
    if_false]
  rfl

/-- A port that is alone goes down (R72, R225). -/
theorem Dev.goDown_lone {s : Dev} {p : Nat} (code : Nat) (lone : s.Lone p) : s.goDown p code = s.wentDown p code := by
  unfold Dev.goDown Dev.wentDown
  rw [s.localApply_lone p code lone]
  rfl

/-- The port of a fabric link that is up, and that is alone, goes down by each command that names a cause of R225. -/
theorem exec_goesDown {port : Fin 16} {c : Instr} {code : Nat} {s : State} (fabric : s.dev.isEth port = false)
    (up : (s.dev.link port).up = true) (lone : s.dev.Lone port)
    (cause : c = .linkRetryExhausted port ∧ code = 2 ∧ 16 ≤ (s.dev.link port).requests ∨ c = .signalLockLoss port ∧ code = 3 ∨
      c = .fabricPortDown port ∧ code = (if (s.dev.optPort port).fenced then 5 else if s.dev.portEnabled port = false then 4
        else if 16 ≤ (s.dev.link port).requests then 2 else 3)) :
    exec c s = .next { s with dev := s.dev.wentDown port code } := by
  rcases cause with ⟨rfl, rfl, requests⟩ | ⟨rfl, rfl⟩ | ⟨rfl, rfl⟩
  · rw [exec_linkRetryExhausted, ← Dev.goDown_lone 2 lone, Dev.retryExhausted, up, decide_eq_true requests, Bool.and_self, if_pos rfl]
  · rw [exec_signalLockLoss, ← Dev.goDown_lone 3 lone, Dev.signalLoss, if_pos up]
  · rw [exec_fabricPortDown, ← Dev.goDown_lone _ lone, Dev.portLost, fabric, if_neg Bool.false_ne_true]
    simp

/-! ### A packet that is ended on its link (R223) -/

/-- The packet in arrival on port p leaves the input. -/
def Dev.inputFreed (s : Dev) (p : Nat) : Dev := s.setLink p { s.link p with rx := none, cut := none }

/-- The packet that waits is the one in arrival on port p with the header `h`. -/
def QPkt.arrives (x : QPkt) (p : Nat) (h : BitVec 512) : Bool := x.inPort == some p && hdrStill x.pkt.hdr == hdrStill h

theorem exec_linkAbort (port : Fin 16) (s : State) :
    exec (.linkAbort port) s = .next { s with dev := if s.dev.portUp port then s.dev.abortThrough port else s.dev } := rfl

theorem Dev.abortThrough_none {s : Dev} {p : Nat} (none_ : (s.link p).rx = none) : s.abortThrough p = s := by
  simp [Dev.abortThrough, none_]

/-- The packet of header `h` is for this device. -/
def Dev.ours (s : Dev) (h : BitVec 512) : Prop := s.capo.nodeSet = true ∧ ({ hdr := h } : Packet).dst = s.node

/-- The device without the packet of header `h` that port p had kept for local processing. -/
def Dev.localDropped (s : Dev) (p : Nat) (h : BitVec 512) : Dev :=
  { s with rte := { s.rte with
    local_ := eraseFirst (fun q => hdrStill q.1.hdr == hdrStill h && q.2.1 == p) s.rte.local_ } }

/-- The credit of what came of the packet in arrival, its header and the payload `b`. -/
def Dev.flitsReturned (s : Dev) (p : Nat) (h : BitVec 512) (b : List Byte) : Dev :=
  s.returnCredit p ({ hdr := h } : Packet).vc (1 + b.length / 64)

/-- What becomes of a packet that has left the input: dropped where it is kept here, taken from its queue, or followed by an
ABORT on the output it was leaving by. -/
def Dev.arrivalEnded (s : Dev) (p : Nat) (h : BitVec 512) (cut : Option (Nat × Nat)) : Dev :=
  if s.capo.nodeSet && ({ hdr := h } : Packet).dst == s.node then
    ((s.localDropped p h).bump (Reg.rteDrops 4)).pathLost { hdr := h }
  else if s.sch.q.any (·.arrives p h) then { s with sch := { s.sch with q := eraseFirst (·.arrives p h) s.sch.q } }
  else match cut with
    | some (q, v) => (s.sendUnit q 5 (BitVec.ofNat 512 v)).emit (.abort q)
    | none => s

section
variable {s : Dev} {p n : Nat} {h : BitVec 512} {b : List Byte}

/-- A packet not yet looked up leaves the input, and credit is returned for what came. -/
theorem Dev.abortThrough_unseen (arriving : (s.link p).rx = some (h, b, n + 1, false)) :
    s.abortThrough p = ((s.inputFreed p).flitsReturned p h b).arrivalEnded p h (s.link p).cut := by
  simp only [Dev.abortThrough, arriving]
  rfl

/-- A packet that was looked up leaves the input; its room is free where it rests in the port's own part of the buffer. -/
theorem Dev.abortThrough_seen (arriving : (s.link p).rx = some (h, b, n + 1, true)) {o : Option QPkt}
    (queued : s.sch.q.find? (·.arrives p h) = o) :
    s.abortThrough p = (if o.all (·.shared) then s.inputFreed p else (s.inputFreed p).flitsReturned p h b).arrivalEnded p h
      (s.link p).cut := by
  have found : (s.inputFreed p).sch.q.find? (fun x => x.inPort == some p && hdrStill x.pkt.hdr == hdrStill h) = o := queued
  unfold Dev.inputFreed at found
  simp only [Dev.abortThrough, arriving, found]
  cases o <;> rfl

theorem Dev.arrivalEnded_ours (cut : Option (Nat × Nat)) (ours : s.ours h) :
    s.arrivalEnded p h cut = ((s.localDropped p h).bump (Reg.rteDrops 4)).pathLost { hdr := h } := by
  obtain ⟨set, here⟩ := ours
  simp [Dev.arrivalEnded, set, here]

section
variable (away : ¬ s.ours h)
include away

theorem Dev.not_ours : (s.capo.nodeSet && ({ hdr := h } : Packet).dst == s.node) = false := by
  simpa [Dev.ours] using away

theorem Dev.arrivalEnded_only (cut : Option (Nat × Nat)) {x : QPkt} (only : s.sch.q = [x]) (rests : x.arrives p h = true) :
    s.arrivalEnded p h cut = { s with sch := { s.sch with q := [] } } := by
  simp [Dev.arrivalEnded, Dev.not_ours away, only, rests, eraseFirst]

variable (unqueued : ∀ x ∈ s.sch.q, x.arrives p h = false)
include unqueued

theorem Dev.arrivalEnded_uncut : s.arrivalEnded p h none = s := by
  have unfound : s.sch.q.any (·.arrives p h) = false := by simpa using unqueued
  simp [Dev.arrivalEnded, Dev.not_ours away, unfound]

theorem Dev.arrivalEnded_leaving (q v : Nat) :
    s.arrivalEnded p h (some (q, v)) = (s.sendUnit q 5 (BitVec.ofNat 512 v)).emit (.abort q) := by
  have unfound : s.sch.q.any (·.arrives p h) = false := by simpa using unqueued
  simp [Dev.arrivalEnded, Dev.not_ours away, unfound]

end

/-- The only packet that waits is the one in arrival, for another device: it leaves its queue, and its room is free unless it
rests in the shared part of the buffer. -/
theorem Dev.abortThrough_only (arriving : (s.link p).rx = some (h, b, n + 1, true)) (away : ¬ s.ours h) {x : QPkt}
    (only : s.sch.q = [x]) (rests : x.arrives p h = true) :
    s.abortThrough p =
      let c := if x.shared then s.inputFreed p else (s.inputFreed p).flitsReturned p h b
      { c with sch := { c.sch with q := [] } } := by
  have first : s.sch.q.find? (·.arrives p h) = some x := by
    rw [only]
    exact List.find?_cons_of_pos rests
  rw [Dev.abortThrough_seen arriving first]
  cases shared : x.shared with
  | true =>
    simp only [Option.all_some, shared, if_true]
    exact Dev.arrivalEnded_only (s := s.inputFreed p) away _ only rests
  | false =>
    simp only [Option.all_some, shared, Bool.false_eq_true, if_false]
    exact Dev.arrivalEnded_only (s := (s.inputFreed p).flitsReturned p h b) away _ only rests

end

/-! ### The obligation -/

/-- Settles O36: each command by the lemma of its case above. The model's readings that it rests on are log entries 60 (an
unsequenced unit that ends a loss), 62 (the order of the causes of FABRIC_PORT_DOWN) and 132 (no credit for a packet in the
shared part, whose room was granted again at once). -/
theorem linksUpAndDown : Obligations.LinksUpAndDown := by
  unfold Obligations.LinksUpAndDown
  refine ⟨fun port u s up => ?_, fun port s fabric enabled unfenced locked release down => ?_,
    fun port s c code cause fabric up lone => exec_goesDown fabric up lone cause, fun port s none_ => ?_,
    fun port s h b n seen up arriving => ?_⟩
  · have linkUp : (s.dev.link port).up = true := (Bool.and_eq_true_iff.mp up).1
    refine ⟨fun damaged => ?_, fun intact other next requested => ?_, fun intact other calm => ?_,
      fun intact sequenced next => ?_, fun intact sequenced later => ?_, fun intact sequenced other earlier => ?_⟩
    · rw [exec_linkUnitRx, Dev.unitRx_damaged up damaged]
    · rw [exec_linkUnitRx, Dev.unitRx_unsequenced up intact other, if_pos ⟨next, requested⟩]
    · rw [exec_linkUnitRx, Dev.unitRx_unsequenced up intact other, if_neg]
      rintro ⟨next, requested⟩
      exact calm.elim (· next) requested
    · intro m a b
      have accepted : (s.dev.setLink port (s.dev.link port).accepted).link port = (s.dev.link port).accepted :=
        s.dev.link_setLink_up port linkUp
      rw [exec_linkUnitRx, Dev.unitRx_next up intact sequenced next]
      by_cases packet : u.kind = 1
      · rw [if_pos packet, if_neg fun other => other packet, Dev.flitRx, accepted]
        rfl
      · rw [if_neg packet, if_pos packet]
        rfl
    · rw [exec_linkUnitRx, Dev.unitRx_other up intact sequenced (seqBefore_ne later), if_pos later]
    · rw [exec_linkUnitRx, Dev.unitRx_other up intact sequenced other, if_neg (by simp [earlier])]
  · intro limits x
    rw [exec_fabricLinkUp, Dev.linkUp_ready fabric enabled unfenced locked release down]
    rfl
  · rw [exec_linkAbort, Dev.abortThrough_none none_, ite_self]
  · intro l k a ours mine ends
    have ended : ∀ d, s.dev.abortThrough port = d → ends d := by
      rintro d rfl
      show exec (.linkAbort port) s = _
      rw [exec_linkAbort, if_pos up]
    have unfound : (∀ x ∈ s.dev.sch.q, x.arrives port h = false) → s.dev.sch.q.find? (·.arrives port h) = none :=
      fun unqueued => List.find?_eq_none.mpr fun x queued => Bool.eq_false_iff.mp (unqueued x queued)
    refine ⟨fun unseen unqueued away uncut => ended _ ?_, fun looked unqueued here => ended _ ?_,
      fun x looked only rests away => ended _ ?_, fun q v looked unqueued away leaving => ended _ ?_⟩
    · subst unseen
      rw [Dev.abortThrough_unseen arriving, uncut]
      exact Dev.arrivalEnded_uncut away unqueued
    · subst looked
      rw [Dev.abortThrough_seen arriving (unfound unqueued)]
      exact Dev.arrivalEnded_ours _ here
    · subst looked
      exact Dev.abortThrough_only arriving away only rests
    · subst looked
      rw [Dev.abortThrough_seen arriving (unfound unqueued), leaving]
      exact Dev.arrivalEnded_leaving away unqueued q v

end Sys2Proof.Machine

namespace Sys2Proof.Machine

/-! ### Sequenced units sent one after another (R221, R224) -/

/-- A sequenced unit sent is kept on the port's link, under its LSEQ, until it is acknowledged. -/
def Link.keeping (l : Link) (kind : Nat) (d : BitVec 512) : Link :=
  { l with held := l.held ++ [(l.nextSeq, BitVec.ofNat 4 kind, d)], nextSeq := l.nextSeq + 1 }

theorem Link.keeping_ne_default (l : Link) (kind : Nat) (d : BitVec 512) : l.keeping kind d ≠ {} := by
  intro same
  have empty : l.held ++ [(l.nextSeq, BitVec.ofNat 4 kind, d)] = [] := congrArg Link.held same
  simp at empty

theorem Dev.sendUnit_link_same (s : Dev) (p kind : Nat) (d : BitVec 512) :
    (s.sendUnit p kind d).link p = (s.link p).keeping kind d :=
  tget_tset_listed s.rte.links (Link.keeping_ne_default _ _ _)

theorem Dev.sendUnit_link_other (s : Dev) {p q : Nat} (kind : Nat) (d : BitVec 512) (other : q ≠ p) :
    (s.sendUnit p kind d).link q = s.link q := by
  have put : (s.sendUnit p kind d).rte.links = tput s.rte.links p ((s.link p).keeping kind d) :=
    if_neg (Link.keeping_ne_default _ _ _)
  rw [Dev.link, put]
  exact tget_tput_other _ _ _ other

/-- The two devices differ at most in their links and in what was sent. -/
def Dev.LinksOnly (s t : Dev) : Prop := t = { s with out := t.out, rte := { s.rte with links := t.rte.links } }

theorem Dev.LinksOnly.trans {s t u : Dev} (h : s.LinksOnly t) (k : t.LinksOnly u) : s.LinksOnly u := by
  unfold Dev.LinksOnly at *
  rw [k, h]

theorem Dev.LinksOnly.sendRecovery (s : Dev) (p : Nat) (d : BitVec 512) : s.LinksOnly (s.sendRecovery p d) := rfl

/-- `t` is `s` once the first `n` of the recovery units `f` have left by port p in order, each kept on its link. -/
structure Dev.RecoverySent (s : Dev) (p : Nat) (f : Nat → BitVec 512) (n : Nat) (t : Dev) : Prop where
  out : t.out = s.out ++ (List.range n).map fun i => .unit p (f i) (linkTag 6 ((s.link p).nextSeq + BitVec.ofNat 16 i) (f i))
  held : (t.link p).held = (s.link p).held ++ (List.range n).map fun i => ((s.link p).nextSeq + BitVec.ofNat 16 i, 6, f i)
  seq : (t.link p).nextSeq = (s.link p).nextSeq + BitVec.ofNat 16 n
  others : ∀ q, q ≠ p → t.link q = s.link q
  frame : s.LinksOnly t

theorem Dev.RecoverySent.none (s : Dev) (p : Nat) (f : Nat → BitVec 512) : s.RecoverySent p f 0 s where
  out := by simp
  held := by simp
  seq := by simp
  others _ _ := rfl
  frame := rfl

theorem Dev.RecoverySent.next {s t : Dev} {p n : Nat} {f : Nat → BitVec 512} (sent : s.RecoverySent p f n t) :
    s.RecoverySent p f (n + 1) (t.sendRecovery p (f n)) where
  out := by
    show t.out ++ [.unit p (f n) (linkTag 6 (t.link p).nextSeq (f n))] = _
    rw [sent.out, sent.seq, List.range_succ, List.map_append, List.append_assoc]
    rfl
  held := by
    rw [Dev.sendRecovery, Dev.sendUnit_link_same]
    show (t.link p).held ++ [((t.link p).nextSeq, 6, f n)] = _
    rw [sent.held, sent.seq, List.range_succ, List.map_append, List.append_assoc]
    rfl
  seq := by
    rw [Dev.sendRecovery, Dev.sendUnit_link_same]
    show (t.link p).nextSeq + 1 = _
    rw [sent.seq, BitVec.ofNat_add, BitVec.add_assoc]
    rfl
  others q other := (t.sendUnit_link_other 6 (f n) other).trans (sent.others q other)
  frame := sent.frame.trans (.sendRecovery t p (f n))

/-- Units sent for each number below `n`, in rising order. -/
theorem Dev.RecoverySent.units (s : Dev) (p : Nat) (f : Nat → BitVec 512) (n : Nat) :
    s.RecoverySent p f n (forUpto n (fun s i => s.sendRecovery p (f i)) s) := by
  induction n with
  | zero => exact .none s p f
  | succ n ih =>
    rw [forUpto, List.range_succ, List.foldl_append]
    exact ih.next

/-! ### The responder (R224) -/

theorem exec_recoveryRequest (port : Fin 16) (d : BitVec 512) (s : State) :
    exec (.recoveryRequest port d) s = .next { s with dev := s.dev.recovRequest s.flash port d } := rfl

theorem exec_recoveryRead (port : Fin 16) (d : BitVec 512) (s : State) :
    exec (.recoveryRead port d) s = .next { s with dev := s.dev.recovRead s.flash port d } := rfl

section
variable {s : Dev} {fl : Flash} {p : Nat} {d : BitVec 512} (up : s.portUp p = true)
include up

theorem Dev.recovRequest_offer {img : List Byte} (op : bits d 7 0 = 1) (held : fl.fw = some img) (core : s.rst.coreUp = true)
    (fits : leAt img 6 1 &&& bits d 15 8 ≠ 0) :
    s.recovRequest fl p d = (s.setRecov p { serving := true }).sendRecovery p
      (recovUnit 2 (leAt img 6 1) 0 (img.length + at_ 32 (digest256 img).toNat)) := by
  simp [Dev.recovRequest, up, op, held, core, fits]

theorem Dev.recovRequest_none (op : bits d 7 0 = 1) (none_ : fl.fw = none) :
    s.recovRequest fl p d = (s.setRecov p {}).sendRecovery p (recovUnit 5 0 0 0) := by
  simp [Dev.recovRequest, up, op, none_]

/-- A READ of a range of the image is answered by its DATA units in order. -/
theorem Dev.recovRead_serves {img : List Byte} (op : bits d 7 0 = 3) (held : fl.fw = some img) (core : s.rst.coreUp = true)
    (serving : (s.recov p).serving = true) (some_ : 0 < bits d 95 64) (short : bits d 95 64 ≤ readLen)
    (within : bits d 63 32 + bits d 95 64 ≤ img.length) :
    s.recovRead fl p d = forUpto (ceilDiv (bits d 95 64) 56) (fun s i => s.sendRecovery p (recovUnit 4 0 (bits d 63 32 + 56 * i)
      (ofLe ((slice img (bits d 63 32) (bits d 95 64)).drop (56 * i) |>.take 56)))) s := by
  have positive : bits d 95 64 ≠ 0 := Nat.ne_of_gt some_
  simp [Dev.recovRead, up, op, held, core, serving, positive, Nat.not_lt.mpr short, Nat.not_lt.mpr within]

end

/-! ### The device that asks (R224, R404) -/

theorem exec_recoveryOffer (port : Fin 16) (d : BitVec 512) (s : State) :
    exec (.recoveryOffer port d) s = .next { s with dev := s.dev.recovOffer s.flash port d } := rfl

theorem exec_recoveryData (port : Fin 16) (d : BitVec 512) (s : State) :
    exec (.recoveryData port d) s = .next { s with dev := s.dev.recovData s.flash port d } := rfl

theorem exec_recoveryNone (port : Fin 16) (s : State) :
    exec (.recoveryNone port) s = .next { s with dev := s.dev.recovNone s.flash port } := rfl

theorem exec_recoveryTimeout (s : State) : exec .recoveryTimeout s = .next { s with dev := s.dev.recovTimeout s.flash } := rfl

theorem leBytes_length (n v : Nat) : (leBytes n v).length = n := by
  induction n generalizing v with
  | zero => rfl
  | succ n ih => rw [leBytes, List.length_cons, ih]

theorem Dev.asking_iff {s : Dev} {p : Nat} :
    s.asking p = true ↔ s.rst.boot = .recovery ∧ s.rst.recovering = true ∧ s.rst.recoveryPort = p := by
  simp [Dev.asking, and_assoc]

section
variable {s : Dev} {fl : Flash} {p : Nat} {d : BitVec 512} (asking : s.asking p = true)
include asking

theorem Dev.nextPort_asking : s.nextPort fl = (s.setRecov p {}).askFrom fl (p + 1) := by
  obtain ⟨-, -, port⟩ := Dev.asking_iff.mp asking
  rw [Dev.nextPort, port]

/-- An OFFER of 1 byte to 16 MiB is recorded, and reads begin. -/
theorem Dev.recovOffer_taken (op : bits d 7 0 = 2) (some_ : 0 < bits d 95 64) (fits : bits d 95 64 ≤ fwMax) :
    s.recovOffer fl p d = Dev.askReads 4 (s.setRecov p {
      total := BitVec.ofNat 32 (bits d 95 64), digest := BitVec.ofNat 256 (bits d 351 96) }).answered p := by
  have positive : bits d 95 64 ≠ 0 := Nat.ne_of_gt some_
  simp [Dev.recovOffer, asking, op, positive, Nat.not_lt.mpr fits]

/-- DATA at the offset due that completes an image as offered, which verifies: it is started. -/
theorem Dev.recovData_whole {img : List Byte} (op : bits d 7 0 = 4) (due : bits d 63 32 = (s.recov p).bytes.length)
    (asked : (s.recov p).bytes.length < (s.recov p).asked)
    (img_ : (s.recov p).bytes ++ (leBytes 56 (bits d 511 64)).take ((s.recov p).total.toNat - (s.recov p).bytes.length) = img)
    (whole : img.length = (s.recov p).total.toNat) (digest : digest256 img = (s.recov p).digest)
    (verifies : fwCode fl img (s.recov p).total.toNat = 0) :
    s.recovData fl p d = (s.setRecov p {}).recoveredStart img := by
  simp [Dev.recovData, asking, op, due, Nat.not_le.mpr asked, img_, whole, digest, verifies]

theorem Dev.recovNone_asking : s.recovNone fl p = s.nextPort fl := if_pos asking

theorem Dev.recovTimeout_asking (late : s.rst.recoveryAt ≤ s.osc) : s.recovTimeout fl = s.nextPort fl := by
  obtain ⟨boot, recovering, -⟩ := Dev.asking_iff.mp asking
  simp [Dev.recovTimeout, boot, recovering, late]

end

/-- Settles O38: the responder (`Dev.recovRead_serves`, `Dev.RecoverySent.units`) and the device that asks. Ports whose link is
down left out, and the limit of 16 MiB, are log entry 95. -/
theorem firmwareRecovery : Obligations.FirmwareRecovery := by
  unfold Obligations.FirmwareRecovery
  refine ⟨fun port d s up => ⟨fun img op held core fits => ?_, fun op none_ => ?_, fun img op held core serving => ?_⟩,
    fun port d s asking => ?_⟩
  · rw [exec_recoveryRequest, Dev.recovRequest_offer up op held core fits]
  · rw [exec_recoveryRequest, Dev.recovRequest_none up op none_]
  · intro off len some_ short within l unit
    have sent := Dev.RecoverySent.units s.dev port unit (ceilDiv len 56)
    refine ⟨{ s with dev := forUpto (ceilDiv len 56) (fun s i => s.sendRecovery port (unit i)) s.dev }, ?_, sent.out, sent.held,
      fun q other => sent.others q fun same => other (Fin.ext same), ?_⟩
    · rw [exec_recoveryRead, Dev.recovRead_serves up op held core serving some_ short within]
    · exact congrArg (fun dev => ({ s with dev := dev } : State)) sent.frame
  · intro x total gone next
    refine ⟨fun op some_ fits => ?_, fun op due asked last more => ?_, ?_, fun late => ?_⟩
    · rw [exec_recoveryOffer, Dev.recovOffer_taken asking op some_ fits]
    · intro img digest verifies
      have whole : img.length = total := by
        rw [List.length_append, List.length_take, leBytes_length]
        omega
      rw [exec_recoveryData, Dev.recovData_whole asking op due asked rfl whole digest verifies]
      rfl
    · rw [exec_recoveryNone, Dev.recovNone_asking asking, Dev.nextPort_asking asking]
      rfl
    · rw [exec_recoveryTimeout, Dev.recovTimeout_asking asking late, Dev.nextPort_asking asking]
      rfl

end Sys2Proof.Machine

namespace Sys2Proof.Machine

/-- A command that leaves another device leaves the state with that device. -/
theorem State.next_dev (s : State) {d e : Dev} (same : d = e) :
    (.next { s with dev := d } : Host.Outcome State Fault Refusal) = .next { s with dev := e } := by rw [same]

/-- Two tests that say the same choose the same. -/
theorem ite_iff {α : Type} {p q : Prop} [Decidable p] [Decidable q] (same : p ↔ q) (a b : α) : (if p then a else b) = if q then a else b :=
  ite_congr (propext same) (fun _ => rfl) (fun _ => rfl)

end Sys2Proof.Machine

namespace Sys2Proof.Machine

/-! ### One step (assumption 1) -/

/-- Settles O1: a step looks at the queue alone. The tick on an empty queue is assumption 1. -/
theorem stepRunsTheFrontCommand : Obligations.StepRunsTheFrontCommand := by
  unfold Obligations.StepRunsTheFrontCommand
  refine ⟨?_, ?_⟩
  · intro c rest s front
    simp only [step, front]
  · intro s none_
    simp only [step, none_]

/-- The outcome is a next state with the queue of `s`. -/
def KeepsQueue (s : State) (o : Host.Outcome State Fault Refusal) : Prop := ∃ t, o = .next t ∧ t.pending = s.pending

namespace KeepsQueue

theorem next {s t : State} (same : t.pending = s.pending) : KeepsQueue s (.next t) := ⟨t, rfl, same⟩

end KeepsQueue

theorem State.unitBegins_pending (s : State) (i : Nat) : (s.unitBegins i).pending = s.pending := by
  unfold State.unitBegins
  dsimp only
  split
  · rfl
  · rfl

theorem State.writeStart_pending (s : State) (v0 v1 : Nat) : (s.writeStart v0 v1).pending = s.pending := by
  unfold State.writeStart
  dsimp only
  split
  · rfl
  · split
    · rfl
    · split
      · rfl
      · exact State.unitBegins_pending _ _

theorem State.unitDone_pending (s : State) : s.unitDone.pending = s.pending := by
  unfold State.unitDone
  dsimp only
  split
  · rfl
  · split
    · rfl
    · rfl

/-- No command stops the block, and none changes the queue behind it: all but four change the device alone, and the four that
change flash leave the queue too. -/
theorem exec_keepsQueue (c : Instr) (s : State) : KeepsQueue s (exec c s) := by
  cases c with
  | powerOn => exact .next rfl
  | modReset =>
    refine .next ?_
    split
    · rfl
    · rfl
  | flashWriteStart v0 v1 => exact .next (s.writeStart_pending v0.toNat v1.toNat)
  | flashUnitDone => exact .next s.unitDone_pending
  | _ => exact ⟨_, rfl, rfl⟩

/-- Settles O2. That a command that stands for an event acts only where the event is due is log entry 7. -/
theorem noStepStops : Obligations.NoStepStops := by
  unfold Obligations.NoStepStops
  intro s
  cases front : s.pending with
  | nil => exact ⟨_, stepRunsTheFrontCommand.2 s front, front⟩
  | cons c rest =>
    obtain ⟨t, runs, queue⟩ := exec_keepsQueue c { s with pending := rest }
    exact ⟨t, (stepRunsTheFrontCommand.1 c rest s front).trans runs, queue⟩

/-! ### Combination in any order (R259, R261) -/

/-- Whatever bits `a` and `b` keep, NaN and the infinities by either value and negative zero by both alone, two values may be
added in either order. -/
theorem keptFlags_right_comm (x y z a b : Bool) :
    ((((x || y) && a || x && y && b) || z) && a || ((x || y) && a || x && y && b) && z && b) =
      ((((x || z) && a || x && z && b) || y) && a || ((x || z) && a || x && z && b) && y && b) := by
  revert x y z a b
  decide

theorem sumFlags_right_comm (x y z : Byte) :
    (((x ||| y) &&& 7 ||| x &&& y &&& flNegzero) ||| z) &&& 7 ||| ((x ||| y) &&& 7 ||| x &&& y &&& flNegzero) &&& z &&& flNegzero =
      (((x ||| z) &&& 7 ||| x &&& z &&& flNegzero) ||| y) &&& 7 ||| ((x ||| z) &&& 7 ||| x &&& z &&& flNegzero) &&& y &&& flNegzero := by
  refine BitVec.eq_of_getLsbD_eq fun i _ => ?_
  simp only [BitVec.getLsbD_or, BitVec.getLsbD_and]
  exact keptFlags_right_comm _ _ _ _ _

theorem combine_right_comm (d : DType) {op : Rop} (free : op = .sum ∨ op = .and ∨ op = .or ∨ op = .xor) (x y z : Acc) :
    combine d op (combine d op x y) z = combine d op (combine d op x z) y := by
  rcases free with rfl | rfl | rfl | rfl
  · have sum : x.a + y.a + z.a = x.a + z.a + y.a := by ac_rfl
    cases int : d.isInt
    · simp only [combine, int, Bool.false_eq_true, if_false]
      rw [sumFlags_right_comm, sum]
    · simp only [combine, int, if_true, sum]
  · have and_ : x.a &&& y.a &&& z.a = x.a &&& z.a &&& y.a := by ac_rfl
    simp only [combine, and_]
  · have or_ : x.a ||| y.a ||| z.a = x.a ||| z.a ||| y.a := by ac_rfl
    simp only [combine, or_]
  · have xor_ : x.a ^^^ y.a ^^^ z.a = x.a ^^^ z.a ^^^ y.a := by ac_rfl
    simp only [combine, xor_]

/-- Settles O23: a fold of a right-commutative operation does not depend on the order of the list. -/
theorem sumIsOrderFree : Obligations.SumIsOrderFree := by
  unfold Obligations.SumIsOrderFree
  intro d op x l l' free perm
  exact perm.foldl_eq' (fun a _ b _ c => combine_right_comm d free c a b) x

end Sys2Proof.Machine

namespace Sys2Proof.Machine

/-! ### Writes of the registers of a block that can be held in reset (R396) -/

/-- A write through the physical function or the register port, the block out of reset, acts once the journal has its copy. -/
theorem onWrite_gated {v : View} (view : v = .pf ∨ v = .port) {w : Word} {off : Nat} (f : Dev → Dev) (s : State)
    (up : (s.tapped v off w).inReset off = false) :
    onWrite v off w (pfOnly v fun d => d.gated v off w f) s = .next { s with dev := f (s.tapped v off w) } := by
  rw [onWrite_held view, Dev.gated, up]
  rfl

/-- So does one that the command's operands make this command. -/
theorem onWrite_gated_chosen {v : View} (view : v = .pf ∨ v = .port) {w : Word} {off : Nat} (f : Dev → Dev) (s : State)
    (up : (s.tapped v off w).inReset off = false) {c : Prop} [Decidable c] (chosen : c) :
    onWrite v off w (fun d => if c then pfOnly v (fun d => d.gated v off w f) d else d) s = .next { s with dev := f (s.tapped v off w) } := by
  simp only [chosen, if_true]
  exact onWrite_gated view f s up

/-! ### Writes of NEXT_SEQ (R250, R253, R294) -/

section
variable (s : Dev) (v : View) (ex : Bool) (k off : Nat) (w : Word)

theorem Dev.seqWrite_refused (busy : s.grpDef ex k = none ∨ (s.grp ex k).run.isSome = true) :
    s.seqWrite v ex k off w = s.hostErr v off 0x02 w := by
  unfold Dev.seqWrite
  split
  · rfl
  · next d defined =>
    have runs : (s.grp ex k).run.isSome = true := busy.resolve_left fun none_ => by simp [none_] at defined
    exact if_pos runs

theorem Dev.seqWrite_idle {d : ChdDef} (defined : s.grpDef ex k = some d) (idle : (s.grp ex k).run = none) :
    s.seqWrite v ex k off w =
      let b := s.setGrp ex k { s.grp ex k with nextSeq := BitVec.ofNat 16 (bits w 15 0), pend := [], early := [], flits := [], credit := [] }
      if ex then b else b.firstCredit k d (d.part * 256) := by
  simp only [Dev.seqWrite, defined, idle, Option.isSome_none, Bool.false_eq_true, if_false]

end

/-- The slot or exchange that CHD_SLOT_SEL or STM_EXCH_SEL selects. -/
def Dev.selGrp (s : Dev) (ex : Bool) : Nat := bits (s.reg (if ex then Reg.stmExchSel else Reg.chdSlotSel)) 11 0

theorem exec_seqWrite {v : View} (view : v = .pf ∨ v = .port) (w : Word) (s : State) (ex : Bool) {off : Nat}
    (off_ : off = if ex then Reg.stmExchSeq else Reg.chdSlotSeq) (up : (s.tapped v off w).inReset off = false) :
    exec (if ex then .stmExchSeqWrite v w else .chdSlotSeqWrite v w) s =
      .next { s with dev := (s.tapped v off w).seqWrite v ex ((s.tapped v off w).selGrp ex) off w } := by
  subst off_
  cases ex
  · exact onWrite_gated view _ s up
  · exact onWrite_gated view _ s up

/-- Settles O22: the same write for slots and for exchanges. That first credits leave at the write is log entry 67. -/
theorem sequencesWrittenWhileIdle : Obligations.SequencesWrittenWhileIdle := by
  unfold Obligations.SequencesWrittenWhileIdle
  intro v w s ex view off c a k x up
  have runs : exec c s = .next { s with dev := a.seqWrite v ex k off w } := exec_seqWrite view w s ex rfl up
  refine ⟨?_, ?_⟩
  · intro busy
    rw [runs, a.seqWrite_refused v ex k off w busy]
  · intro d defined idle b
    rw [runs, a.seqWrite_idle v ex k off w defined idle]

/-! ### The reduction test registers (R275) -/

/-- A command on accepted types, none busy, does its work; how long it is busy, up to 100 ns, is free. -/
theorem Dev.redTest_accepted (s : Dev) (v : View) {w : Word} {d o : DType} {op : Rop} (idle : s.redBusy = false)
    (types : redTypes w = some (d, o, op)) (f : Dev → DType → DType → Rop → RedTest) :
    s.redTest v w f =
      { s with free := s.free + 1, red := { f s.draw.1 d o op with err := false, busyUntil := s.osc + s.draw.2.toNat % 13 } } := by
  simp only [Dev.redTest, idle, types]
  rfl

/-- Settles O24: each command is the test command with its own result. The time it is busy is log entry 73. -/
theorem reductionTests : Obligations.ReductionTests := by
  unfold Obligations.ReductionTests
  intro v w s d o op view a up idle types
  have short : a.draw.2.toNat % 13 ≤ nsTicks 100 := Nat.le_of_lt_succ (Nat.lt_succ_of_lt (Nat.mod_lt _ (by decide)))
  refine ⟨a.osc + a.draw.2.toNat % 13, Nat.add_le_add_left short _, ?_, ?_, ?_⟩
  · intro cmd
    refine (onWrite_gated_chosen view _ s up cmd).trans ?_
    rw [Dev.testLoad, Dev.redTest_accepted _ v idle types]
    rfl
  · intro cmd
    refine (onWrite_gated_chosen view _ s up cmd).trans ?_
    rw [Dev.testCombine, Dev.redTest_accepted _ v idle types]
    rfl
  · intro cmd
    refine (onWrite_gated_chosen view _ s up cmd).trans ?_
    rw [Dev.testRound, Dev.redTest_accepted _ v idle types]
    rfl

/-! ### The cipher's key table (R297, R310) -/

/-- RESULT of a key command on entry i. -/
def Dev.cphCode (s : Dev) (i : Nat) : Byte := if s.cphPart i = none then 0x02 else if s.cphUsers i ≠ 0 then 0x01 else 0x00

theorem Dev.cphCommand_eq (s : Dev) (key : Option (BitVec 256)) (i : Nat) (sel : bits (s.reg Reg.cphKeySel) 15 0 = i) :
    s.cphCommand key = { s with cph := { s.cph with
      data := []
      result := tset (fun _ => 0) s.cph.result i (s.cphCode i)
      keys := if s.cphCode i = 0 then tset (fun _ => none) s.cph.keys i key else s.cph.keys } } := by
  subst sel
  simp [Dev.cphCommand, Dev.cphCode]

theorem exec_cphKey (v : View) (w : Word) (s : State) (load : Bool) (cmd : bits w 7 0 = if load then 1 else 2) :
    exec (if load then .cphKeyLoad v w else .cphKeyErase v w) s = .next { s with dev := (s.tapped v Reg.cphKeyCtl w).cphCtl v w } := by
  cases load
  · exact s.next_dev (if_pos cmd)
  · exact s.next_dev (if_pos cmd)

theorem Dev.cphCtl_pf (s : Dev) {w : Word} (load : Bool) (cmd : bits w 7 0 = if load then 1 else 2) (up : s.inReset Reg.cphKeyCtl = false) :
    s.cphCtl .pf w = s.cphCommand (if load then some s.cphData else none) := by
  cases load
  · simp [Dev.cphCtl, Dev.gated, up, cmd]
  · simp [Dev.cphCtl, Dev.gated, up, cmd]

/-- Settles O27. That a connection not in RESET uses the key it names is log entry 76. -/
theorem cipherKeys : Obligations.CipherKeys := by
  unfold Obligations.CipherKeys
  refine ⟨?_, ?_⟩
  · intro w s load cmd c a i up code
    refine ⟨_, exec_cphKey .pf w s load cmd, ?_⟩
    rw [Dev.cphCtl_pf a load cmd up, Dev.cphCommand_eq a _ i rfl]
    exact ⟨rfl, rfl, fun free => if_pos free, fun kept => if_neg kept, rfl⟩
  · intro v w s load other cmd
    rw [exec_cphKey v w s load cmd]
    cases v with
    | pf => exact absurd rfl other
    | vf n => rfl
    | port => rfl

/-! ### The reset state -/

/-- Settles O59: the state at reset is SECURED, no command waits, and memory lists nothing. -/
theorem resetHoldsTheInvariant : Obligations.ResetHoldsTheInvariant := by
  unfold Obligations.ResetHoldsTheInvariant
  exact ⟨fun retired => absurd retired (by decide), rfl, rfl, Memory.reset_wf⟩

end Sys2Proof.Machine

namespace Sys2Proof.Machine

/-! ### How a packet's sequence stands to a slot's (R243) -/

theorem Slot.seqCase_cur {x : Slot} {r : ChdRun} {n : Nat} (runs : x.run = some r) (same : n = r.seq.toNat) : x.seqCase n = .cur := by
  simp [Slot.seqCase, runs, same]

theorem Slot.seqCase_next {x : Slot} {n : Nat} (idle : x.run = none) (next : n = x.nextSeq.toNat) : x.seqCase n = .next := by
  have none_ahead : (n + 65536 - x.nextSeq.toNat) % 65536 = 0 := by omega
  simp [Slot.seqCase, idle, none_ahead]

/-! ### A packet of a defined slot or exchange is taken from those for local processing -/

theorem Dev.slotPart_defined {s : Dev} {ex : Bool} {k : Nat} {d : ChdDef} (defined : s.grpDef ex k = some d) : s.slotPart ex k = d.part := by
  simp only [Dev.slotPart, defined]

theorem Dev.enter_grpDef (s : Dev) (env : Env) (ex : Bool) (k : Nat) : (s.enter env).grpDef ex k = s.grpDef ex k := by
  have run : (s.enter env).run = s.run := congrArg (·.run) (SameCore.enter s env)
  have cells : (s.enter env).st = s.st := funext fun c => congrArg (fun t => tget stReset t c) run
  simp only [Dev.grpDef, cells]

/-- The definition a packet finds before the outside's deeds is the one it finds after them. -/
theorem Dev.slotPart_entered {s : Dev} {env : Env} {ex : Bool} {k : Nat} {d : ChdDef} (defined : (s.enter env).grpDef ex k = some d) :
    s.slotPart ex k = d.part :=
  Dev.slotPart_defined ((s.enter_grpDef env ex k).symm.trans defined)

/-! ### Chord packets (R241, R243) -/

section
variable {s u : Dev} {env : Env} {port : Nat} {p : Packet} {d : ChdDef} (defined : (s.enter env).grpDef false (p.f 267 256) = some d)
variable (taken : (s.enter env).takeLocal port p d.part = some u) (intact : icrcOk p = true)
variable (still : u.grpDef false (p.f 267 256) = some d)
include defined taken intact still

theorem Dev.rxChord_abort (abort : p.ptype = 0x12) : s.rxChord env port p = u.grpAbort false (p.f 267 256) d p := by
  simp only [Dev.rxChord, Dev.slotPart_entered defined, taken, intact, still, abort]
  rfl

variable {e : Nat} (edge : d.edgeOf p.src = some e)
include edge

theorem Dev.rxChord_data (data : p.ptype = 0x10) : s.rxChord env port p = u.rxChordData env (p.f 267 256) d e p := by
  simp only [Dev.rxChord, Dev.slotPart_entered defined, taken, intact, still, data, edge]
  rfl

theorem Dev.rxChord_credit (credit : p.ptype = 0x11) : s.rxChord env port p = u.rxCredit env (p.f 267 256) d e p := by
  simp only [Dev.rxChord, Dev.slotPart_entered defined, taken, intact, still, credit, edge]
  rfl

end

theorem exec_chordData (port : Fin 16) {p : Packet} (env : Env) (s : State) (data : p.ptype = 0x10) :
    exec (.chordData port p env) s = .next { s with dev := s.dev.rxChord env port p } :=
  s.next_dev (if_pos (beq_iff_eq.mpr data))

theorem exec_chordCredit (port : Fin 16) {p : Packet} (env : Env) (s : State) (credit : p.ptype = 0x11) :
    exec (.chordCredit port p env) s = .next { s with dev := s.dev.rxChord env port p } :=
  s.next_dev (if_pos (beq_iff_eq.mpr credit))

section
variable {u : Dev} {env : Env} {k : Nat} {d : ChdDef} {e : Nat} {p : Packet}

theorem Dev.rxChordData_wanted {r : ChdRun} (runs : (u.slot k).run = some r) (same : p.f 287 272 = r.seq.toNat)
    (agrees : p.f 511 448 = r.sig.toNat) (wanted : u.segWanted k e p r (u.runEntry r) d = true) :
    u.rxChordData env k d e p = (u.stage k e p).chdProgress env k d := by
  simp [Dev.rxChordData, Slot.seqCase_cur runs same, runs, agrees, wanted]

theorem Dev.rxChordData_early (next : (u.slot k).seqCase (p.f 287 272) = .next) (room : u.earlyRoom k e p = true) :
    u.rxChordData env k d e p = u.stage k e p := by
  simp [Dev.rxChordData, next, room]

theorem Dev.rxChordData_ahead (ahead : (u.slot k).seqCase (p.f 287 272) = .ahead) :
    u.rxChordData env k d e p = u.bump (Reg.chdCounts 6) := by
  simp only [Dev.rxChordData, ahead]
  rfl

theorem Dev.rxChordData_stale (stale : (u.slot k).seqCase (p.f 287 272) = .stale) :
    u.rxChordData env k d e p = u.bump (Reg.chdCounts 5) := by
  simp only [Dev.rxChordData, stale]
  rfl

/-- The device once SEG_LIMIT of an edge and a step has been set as a CREDIT says. -/
def Dev.withCredit (u : Dev) (k e : Nat) (p : Packet) : Dev :=
  u.setSlot k { u.slot k with credit := tset (fun _ => 0) (u.slot k).credit (stepKey e (p.f 303 296)) (p.f 383 352) }

theorem Dev.rxCredit_cur (cur : (u.slot k).seqCase (p.f 287 272) = .cur) :
    u.rxCredit env k d e p = (u.withCredit k e p).chdProgress env k d := by
  simp only [Dev.rxCredit, cur, Dev.withCredit]

theorem Dev.rxCredit_next (next : (u.slot k).seqCase (p.f 287 272) = .next) : u.rxCredit env k d e p = u.withCredit k e p := by
  simp only [Dev.rxCredit, next, Dev.withCredit]

end

/-! ### The first sends (Table 11.4, R239, R240) -/

section
variable {s u : Dev} {env : Env} {k : Nat} {d : ChdDef} {r : ChdRun} {e : Entry} {raw : List Byte}

/-- A leaf of the tree sends its segment as it read it. -/
theorem Dev.treeStep_leaf (leaf : d.kids = []) (inner : d.isRoot = false) (combines : e.opcode ≠ 0x42) (left : r.next < e.segs)
    (credit : (s.slot k).credited d d.parent r.next = true)
    (read_ : s.chdRead env d r e (e.segAt r.next).1 (e.segAt r.next).2 = (u, .ok raw)) :
    s.treeStep env k d r e =
      let v := u.setRun false k fun r' => { r' with next := r.next + 1 }
      let z := v.sendSeg k d r d.parent (d.outStep d.parent) 0 0 r.next raw
      some (if (z.slot k).run.isNone then z else z.grantTree k d r e false) := by
  simp [Dev.treeStep, leaf, inner, combines, Nat.not_le.mpr left, credit, read_]

variable (many : 2 ≤ d.members) (fresh : (s.slot k).early = []) (left : r.next < e.segs) (starts : e.ringStarts d (s.slot k) r = true)
include many fresh left starts

/-- A member of a ring sends a segment of the block it sends in round 0. -/
theorem Dev.ringStep_own (kind : e.opcode = 0x43 ∨ e.opcode = 0x45)
    (read_ : s.chdRead env d r e (if e.opcode = 0x43 then e.blockAt (e.blockOut d.members d.me) r.next else (e.segAt r.next).1)
      (e.segAt r.next).2 = (u, .ok raw)) :
    s.ringStep env k d r e = some ((u.setRun false k fun r' => { r' with next := r.next + 1 }).sendSeg k d r (e.ringOut d) d.rstep 0
      (e.blockOut d.members d.me) r.next raw) := by
  have rounds : e.rounds d.members ≠ 0 := by
    unfold Entry.rounds
    split
    · decide
    · omega
  have moves : e.opcode ≠ 0x44 := by omega
  simp [Dev.ringStep, fresh, Nat.not_le.mpr left, starts, rounds, moves, read_]

/-- In an ALLGATHER it is placed in the member's own block first. -/
theorem Dev.ringStep_gather {w : Dev} (kind : e.opcode = 0x44)
    (read_ : s.chdRead env d r e (e.segAt r.next).1 (e.segAt r.next).2 = (u, .ok raw))
    (placed : (u.setRun false k fun r' => { r' with next := r.next + 1 }).chdPlace env k d e (e.blockAt d.me r.next)
      (e.segAt r.next).2 raw = (w, none)) :
    s.ringStep env k d r e = some (w.sendSeg k d r (e.ringOut d) d.rstep 0 d.me r.next raw) := by
  have rounds : e.rounds d.members ≠ 0 := by
    rw [Entry.rounds, kind]
    show d.members - 1 ≠ 0
    omega
  have mine : e.blockOut d.members d.me = d.me := by simp [Entry.blockOut, kind]
  simp [Dev.ringStep, fresh, Nat.not_le.mpr left, starts, rounds, kind, read_, placed, mine]

end

/-- Settles O20: chord packets by type and sequence, and the first sends of a leaf of the tree and of a ring's member. That credit
for one more segment to forward is kept (`Entry.ringStarts`) is log entry 67. -/
theorem chordPacketsAndSteps : Obligations.ChordPacketsAndSteps := by
  unfold Obligations.ChordPacketsAndSteps
  refine ⟨?_, ?_, ?_, ?_⟩
  · intro port p env s u d e k a defined taken intact still edge x n credit
    refine ⟨?_, ?_, ?_, ?_, ?_, ?_⟩
    · intro r data runs same agrees wanted
      rw [exec_chordData port env s data, Dev.rxChord_data defined taken intact still edge data,
        Dev.rxChordData_wanted runs same agrees wanted]
    · intro data idle next room
      rw [exec_chordData port env s data, Dev.rxChord_data defined taken intact still edge data,
        Dev.rxChordData_early (Slot.seqCase_next idle next) room]
    · intro data ahead
      rw [exec_chordData port env s data, Dev.rxChord_data defined taken intact still edge data, Dev.rxChordData_ahead ahead]
    · intro data stale
      rw [exec_chordData port env s data, Dev.rxChord_data defined taken intact still edge data, Dev.rxChordData_stale stale]
    · intro type cur
      rw [exec_chordCredit port env s type, Dev.rxChord_credit defined taken intact still edge type, Dev.rxCredit_cur cur]
      rfl
    · intro type next
      rw [exec_chordCredit port env s type, Dev.rxChord_credit defined taken intact still edge type, Dev.rxCredit_next next]
      rfl
  · intro s u env k d r e raw leaf inner combines left credit read_ v z
    exact Dev.treeStep_leaf leaf inner combines left credit read_
  · intro s u env k d r e raw many kind fresh left starts block read_ v
    exact Dev.ringStep_own many fresh left starts kind read_
  · intro s u w env k d r e raw many kind fresh left starts read_ placed
    exact Dev.ringStep_gather many fresh left starts kind read_ placed

end Sys2Proof.Machine

namespace Sys2Proof.Machine

/-! ### Deadlines (R245, R283, R291) -/

section
variable {s : Dev} {ex : Bool} {k : Nat} {d : ChdDef} {r : ChdRun}

theorem Dev.grpLate_late {w : Wait} (runs : (s.grp ex k).run = some r)
    (late : (r.waits.find? fun w => w.deadline ≤ s.now && r.waits.all fun v => w.deadline ≤ v.deadline) = some w) :
    s.grpLate ex k d = s.grpStop ex k d
      { st := 0x0B, code := 2, off := d.member w.edge, step := w.step, abort := true, issuer := true } := by
  simp only [Dev.grpLate, runs, late]
  rfl

theorem Dev.stmLate_phase (runs : (s.exch k).run = some r) (phase : (s.stmRun k).phase ≠ .data) : s.stmLate k d = s.grpLate true k d := by
  unfold Dev.stmLate
  rw [runs]
  dsimp only
  split
  · next data => exact absurd data phase
  · rfl

theorem Dev.stmLate_data {i : StmIn} (runs : (s.exch k).run = some r) (data : (s.stmRun k).phase = .data)
    (late : ((s.stmRun k).ins.find? fun i => !i.done && s.deadline d (d.steps.length - 1) i.began ≤ s.now) = some i) :
    s.stmLate k d = s.grpStop true k d
      { st := 0x0B, code := 2, off := i.member, step := d.steps.length - 1, abort := true, issuer := true } := by
  simp only [Dev.stmLate, runs, data, late]
  rfl

end

section
variable {slot : BitVec 12} {s : State} {d : ChdDef} {r : ChdRun}

theorem exec_chordDeadline (defined : s.dev.grpDef false slot.toNat = some d) (runs : (s.dev.slot slot.toNat).run = some r)
    (chord : r.opcode.toNat < 0x48) : exec (.chordDeadline slot) s = .next { s with dev := s.dev.grpLate false slot.toNat d } := by
  refine s.next_dev ?_
  simp [defined, runs, chord]

theorem exec_pluckDeadline (defined : s.dev.grpDef false slot.toNat = some d) (runs : (s.dev.slot slot.toNat).run = some r)
    (pluck : 0x48 ≤ r.opcode.toNat) : exec (.pluckDeadline slot) s = .next { s with dev := s.dev.grpLate false slot.toNat d } := by
  refine s.next_dev ?_
  simp [defined, runs, pluck]

theorem exec_strumDeadline (defined : s.dev.grpDef true slot.toNat = some d) :
    exec (.strumDeadline slot) s = .next { s with dev := s.dev.stmLate slot.toNat d } := by
  refine s.next_dev ?_
  simp only [defined]

end

/-! ### Strum packets (R288) -/

/-- The port by which a packet for local processing came, 16 where it is none of them. -/
def Dev.localPort (s : Dev) (p : Packet) : Nat := match s.rte.local_.find? fun q => q.1 == p with | some q => q.2.1 | none => 16

/-- What a Strum packet does at its destination, once it is taken and intact, on a defined exchange. -/
def Dev.rxStrumTaken (u : Dev) (env : Env) (k : Nat) (d : ChdDef) (p : Packet) : Dev :=
  if p.ptype == 0x2A then u.grpAbort true k d p
  else match (u.exch k).seqCase (p.f 287 272) with
    | .cur => (match (u.exch k).run with
      | some r => u.rxMessage env k d r p
      | none => u)
    | .ahead => u.grpBump true .early
    | .next | .nextBusy | .stale => u.grpBump true .stale

theorem Dev.rxStrum_taken {s u : Dev} {env : Env} {p : Packet} {d : ChdDef} (defined : (s.enter env).grpDef true (p.f 267 256) = some d)
    (taken : (s.enter env).takeLocal (s.localPort p) p d.part = some u) (intact : icrcOk p = true)
    (still : u.grpDef true (p.f 267 256) = some d) : s.rxStrum env p = u.rxStrumTaken env (p.f 267 256) d p := by
  have read_ : (s.enter env).takeLocal (s.localPort p) p (s.slotPart true (p.f 267 256)) = some u := by
    rw [Dev.slotPart_entered defined, taken]
  unfold Dev.rxStrum
  dsimp only
  split
  · next none_ => exact absurd (none_.symm.trans read_).symm (Option.some_ne_none u)
  · next v some_ =>
    obtain rfl : v = u := Option.some.inj (some_.symm.trans read_)
    simp only [intact, still]
    rfl

section
variable {u : Dev} {env : Env} {k : Nat} {d : ChdDef} {p : Packet}

theorem Dev.rxStrumTaken_abort (abort : p.ptype = 0x2A) : u.rxStrumTaken env k d p = u.grpAbort true k d p :=
  if_pos (beq_iff_eq.mpr abort)

variable (message : p.ptype ≠ 0x2A)
include message

theorem Dev.rxStrumTaken_cur {r : ChdRun} (runs : (u.exch k).run = some r) (same : p.f 287 272 = r.seq.toNat) :
    u.rxStrumTaken env k d p = u.rxMessage env k d r p := by
  simp [Dev.rxStrumTaken, message, Slot.seqCase_cur runs same, runs]

theorem Dev.rxStrumTaken_next (next : (u.exch k).seqCase (p.f 287 272) = .next) :
    u.rxStrumTaken env k d p = u.grpBump true .stale := by
  simp [Dev.rxStrumTaken, message, next]

end

/-! ### Aborts (R246, R250) -/

theorem Dev.grpBump_grp (s : Dev) (ex : Bool) (c : GrpCnt) (k : Nat) : (s.grpBump ex c).grp ex k = s.grp ex k := by
  cases ex
  · rfl
  · cases c
    all_goals rfl

section
variable {u : Dev} {ex : Bool} {k : Nat} {d : ChdDef} {p : Packet} (known : 1 ≤ p.f 431 428) (few : p.f 431 428 ≤ 4)
include known few

theorem Dev.grpAbort_cur (cur : (u.grp ex k).seqCase (p.f 287 272) = .cur) :
    u.grpAbort ex k d p = (u.grpBump ex .abortRx).grpStop ex k d {
      st := abortStatus (p.f 431 428) (p.f 447 432) d.me, code := p.f 431 428, off := p.f 447 432, step := p.f 303 296, abort := true
      skip := d.edgeOf p.src } := by
  have code : ¬ ((p.f 431 428 == 0 || decide (4 < p.f 431 428)) = true) := by simp; omega
  unfold Dev.grpAbort
  rw [if_neg code]
  dsimp only
  rw [Dev.grpBump_grp, cur]

theorem Dev.grpAbort_later (later : (u.grp ex k).seqCase (p.f 287 272) ∈ [.next, .nextBusy, .ahead]) :
    u.grpAbort ex k d p = (u.grpBump ex .abortRx).recordAbort ex k d {
      seq := BitVec.ofNat 16 (p.f 287 272), code := BitVec.ofNat 4 (p.f 431 428), offender := BitVec.ofNat 16 (p.f 447 432)
      step := BitVec.ofNat 8 (p.f 303 296) } := by
  have code : ¬ ((p.f 431 428 == 0 || decide (4 < p.f 431 428)) = true) := by simp; omega
  unfold Dev.grpAbort
  rw [if_neg code]
  dsimp only
  rw [Dev.grpBump_grp]
  simp only [List.mem_cons, List.not_mem_nil, or_false] at later
  rcases later with case_ | case_ | case_
  · rw [case_]
  · rw [case_]
  · rw [case_]

end

/-- An ABORT packet of a defined slot or exchange, taken and intact, is what R246 and R250 say of aborts. -/
theorem exec_abort {port : Fin 16} {p : Packet} {s : State} {u : Dev} {d : ChdDef} {ex : Bool} {c : Instr} {from_ : Nat}
    (kind : ex = false ∧ p.ptype = 0x12 ∧ c = .chordAbort port p ∨ ex = true ∧ p.ptype = 0x2A ∧ c = .strumAbort p)
    (came : from_ = if ex then s.dev.localPort p else port.val)
    (defined : (s.dev.enter {}).grpDef ex (p.f 267 256) = some d) (taken : (s.dev.enter {}).takeLocal from_ p d.part = some u)
    (intact : icrcOk p = true) (still : u.grpDef ex (p.f 267 256) = some d) :
    exec c s = .next { s with dev := u.grpAbort ex (p.f 267 256) d p } := by
  subst came
  rcases kind with ⟨rfl, type, rfl⟩ | ⟨rfl, type, rfl⟩
  · rw [← Dev.rxChord_abort defined taken intact still type]
    exact s.next_dev (if_pos (beq_iff_eq.mpr type))
  · rw [← Dev.rxStrumTaken_abort (env := {}) type, ← Dev.rxStrum_taken defined taken intact still]
    exact s.next_dev (if_pos (beq_iff_eq.mpr type))

/-- Settles O21. That an abort of the next sequence is recorded while an operation runs is log entry 68, the instant of a deadline
log entry 70. -/
theorem deadlinesAndAborts : Obligations.DeadlinesAndAborts := by
  unfold Obligations.DeadlinesAndAborts
  refine ⟨?_, ?_, ?_⟩
  · intro slot s d r w ex c k defined runs late kind z
    rcases kind with ⟨rfl, chord, rfl⟩ | ⟨rfl, pluck, rfl⟩ | ⟨rfl, phase, rfl⟩
    · rw [exec_chordDeadline defined runs chord, Dev.grpLate_late runs late]
    · rw [exec_pluckDeadline defined runs pluck, Dev.grpLate_late runs late]
    · rw [exec_strumDeadline defined, Dev.stmLate_phase runs phase, Dev.grpLate_late runs late]
  · intro slot s d r i k step defined runs data late z
    rw [exec_strumDeadline defined, Dev.stmLate_data runs data late]
  · intro port p s u d ex c k n code from_ kind defined taken intact still known few b
    rw [exec_abort kind rfl defined taken intact still]
    refine ⟨?_, ?_⟩
    · intro cur z
      rw [Dev.grpAbort_cur known few cur]
    · intro later q
      rw [Dev.grpAbort_later known few later]

/-! ### Messages (R287, R289, R290) -/

theorem Dev.rxMessage_expected {u v : Dev} {env : Env} {k : Nat} {d : ChdDef} {r : ChdRun} {p : Packet} (data : Bool)
    (type : p.ptype = if data then 0x28 else 0x29) (agrees : p.f 511 448 = r.sig.toNat)
    (member : ((u.stmRun k).ins.any fun i => i.member == p.f 319 304) = true)
    (taken : (if data then u.stmPlace env k (u.runEntry r) (p.f 319 304) (p.f 383 352) p.payload
      else u.stmTotal env k (u.runEntry r) (p.f 319 304) (p.f 383 352)) = (v, none)) :
    u.rxMessage env k d r p = v.strumProgress env k d := by
  have ours : ¬ ((p.f 511 448 != r.sig.toNat || !(u.stmRun k).ins.any fun i => i.member == p.f 319 304) = true) := by
    simp only [agrees, member, bne_self_eq_false, Bool.not_true, Bool.or_self, Bool.false_eq_true, not_false_eq_true]
  unfold Dev.rxMessage
  dsimp only
  rw [if_neg ours]
  cases data
  · have other : ¬ ((p.ptype == 0x28) = true) := by simp [type]
    rw [if_neg other, (if_neg Bool.false_ne_true).symm.trans taken]
  · have place : (p.ptype == 0x28) = true := by simp [type]
    rw [if_pos place, (if_pos rfl).symm.trans taken]

theorem exec_strumMessage {p : Packet} (env : Env) (s : State) (data : Bool) (type : p.ptype = if data then 0x28 else 0x29) :
    exec (if data then .strumData p env else .strumEnd p env) s = .next { s with dev := s.dev.rxStrum env p } := by
  cases data
  · exact s.next_dev (if_pos (beq_iff_eq.mpr type))
  · exact s.next_dev (if_pos (beq_iff_eq.mpr type))

/-- Settles O26. That a packet of the next sequence of an idle exchange is counted STALE is log entry 75. -/
theorem strumPackets : Obligations.StrumPackets := by
  unfold Obligations.StrumPackets
  intro p env s u v d data k m a port c type defined taken intact still
  have runs_ : exec c s = .next { s with dev := s.dev.rxStrum env p } := exec_strumMessage env s data type
  have message : p.ptype ≠ 0x2A := by
    rw [type]
    cases data
    · decide
    · decide
  refine ⟨?_, ?_⟩
  · intro r runs same agrees member placed
    rw [runs_, Dev.rxStrum_taken defined taken intact still, Dev.rxStrumTaken_cur message runs same, Dev.rxMessage_expected data type agrees member placed]
  · intro idle next
    rw [runs_, Dev.rxStrum_taken defined taken intact still, Dev.rxStrumTaken_next message (Slot.seqCase_next idle next)]

/-! ### Flits (R243, R277, R280) -/

section
variable {s u : Dev} {port : Nat} {p : Packet} {d : ChdDef} {y : Nat} (ex : Bool) (defined : s.grpDef ex p.pluckSlot = some d)
variable (taken : s.takeLocal port p d.part = some u) (still : u.grpDef ex p.pluckSlot = some d) (edge : d.edgeOf p.src = some y)
include defined taken still edge

/-- A flit that joins the running operation, within its stream. -/
theorem Dev.rxFlit_cur {r : ChdRun} (runs : (u.grp ex p.pluckSlot).run = some r) (same : p.pluckSeq = r.seq.toNat)
    (agrees : p.pluckSig = r.sig.toNat)
    (within : if ex then p.pluckFlit ≤ 1 else ∃ n, pluckCount d ((u.bump (Reg.plkCounts 1)).runEntry r) y p.ptype = some n ∧ p.pluckFlit < n) :
    (if ex then s.rxPhase port p else s.rxPluck port p) =
      let held := (u.bump (Reg.plkCounts 1)).holdFlit ex p.pluckSlot y p
      if ex then held.strumProgress {} p.pluckSlot d else held.pluckProgress {} p.pluckSlot d := by
  have part := Dev.slotPart_defined defined
  cases ex
  · obtain ⟨n, count, below⟩ := within
    have defined' : (u.bump (Reg.plkCounts 1)).grpDef false p.pluckSlot = some d := still
    have runs' : ((u.bump (Reg.plkCounts 1)).slot p.pluckSlot).run = some r := runs
    simp [Dev.rxPluck, part, taken, defined', edge, Slot.seqCase_cur runs' same, runs', agrees, count, Nat.not_le.mpr below]
  · have defined' : (u.bump (Reg.plkCounts 1)).grpDef true p.pluckSlot = some d := still
    have runs' : ((u.bump (Reg.plkCounts 1)).exch p.pluckSlot).run = some r := runs
    have few : ¬ 1 < p.pluckFlit := Nat.not_lt.mpr within
    simp [Dev.rxPhase, part, taken, defined', edge, Slot.seqCase_cur runs' same, runs', agrees, few]

theorem Dev.rxFlit_next (next : (u.grp ex p.pluckSlot).seqCase p.pluckSeq = .next) :
    (if ex then s.rxPhase port p else s.rxPluck port p) = (u.bump (Reg.plkCounts 1)).holdFlit ex p.pluckSlot y p := by
  have part := Dev.slotPart_defined defined
  cases ex
  · have defined' : (u.bump (Reg.plkCounts 1)).grpDef false p.pluckSlot = some d := still
    have next' : ((u.bump (Reg.plkCounts 1)).slot p.pluckSlot).seqCase p.pluckSeq = .next := next
    simp [Dev.rxPluck, part, taken, defined', edge, next']
  · have defined' : (u.bump (Reg.plkCounts 1)).grpDef true p.pluckSlot = some d := still
    have next' : ((u.bump (Reg.plkCounts 1)).exch p.pluckSlot).seqCase p.pluckSeq = .next := next
    simp [Dev.rxPhase, part, taken, defined', edge, next']

theorem Dev.rxFlit_stale (stale : (u.grp ex p.pluckSlot).seqCase p.pluckSeq = .stale) :
    (if ex then s.rxPhase port p else s.rxPluck port p) =
      if ex then (u.bump (Reg.plkCounts 1)).grpBump true .stale else (u.bump (Reg.plkCounts 1)).bump (Reg.plkCounts 4) := by
  have part := Dev.slotPart_defined defined
  cases ex
  · have defined' : (u.bump (Reg.plkCounts 1)).grpDef false p.pluckSlot = some d := still
    have stale' : ((u.bump (Reg.plkCounts 1)).slot p.pluckSlot).seqCase p.pluckSeq = .stale := stale
    simp [Dev.rxPluck, part, taken, defined', edge, stale']
  · have defined' : (u.bump (Reg.plkCounts 1)).grpDef true p.pluckSlot = some d := still
    have stale' : ((u.bump (Reg.plkCounts 1)).exch p.pluckSlot).seqCase p.pluckSeq = .stale := stale
    simp [Dev.rxPhase, part, taken, defined', edge, stale']

end

/-- `c` is the command of flits of a type at a slot (`ex` false) or an exchange. -/
def FlitCommand (port : Fin 16) (h : BitVec 512) (s : State) (ex : Bool) (ptype : Nat) (c : Instr) : Prop :=
  (pluckOf h).ptype = ptype →
    exec c s = .next { s with dev := if ex then s.dev.rxPhase port (pluckOf h) else s.dev.rxPluck port (pluckOf h) }

section
variable {port : Fin 16} {h : BitVec 512} {s : State} {ptype : Nat} {c : Instr}

theorem FlitCommand.ofPluck (act : exec c s = onDev (fun d => if (pluckOf h).ptype == ptype then d.rxPluck port (pluckOf h) else d) s) :
    FlitCommand port h s false ptype c := fun type =>
  act.trans (s.next_dev (if_pos (beq_iff_eq.mpr type)))

theorem FlitCommand.ofPhase (act : exec c s = onDev (fun d => if (pluckOf h).ptype == ptype then d.rxPhase port (pluckOf h) else d) s) :
    FlitCommand port h s true ptype c := fun type =>
  act.trans (s.next_dev (if_pos (beq_iff_eq.mpr type)))

end

/-- Settles O25: one argument for the seven flit types. The counts of Pluck's flits are log entry 74. -/
theorem flitsArrive : Obligations.FlitsArrive := by
  unfold Obligations.FlitsArrive
  intro port h s p k joins
  have joins_of {ex : Bool} {ptype : Nat} {c : Instr} (command : FlitCommand port h s ex ptype c) : joins ex ptype c := by
    intro u d y type defined taken still edge b x held
    rw [command type]
    refine ⟨?_, ?_, ?_⟩
    · intro r runs same agrees within
      subst type
      rw [Dev.rxFlit_cur ex defined taken still edge runs same agrees within]
    · intro idle next
      rw [Dev.rxFlit_next ex defined taken still edge (Slot.seqCase_next idle next)]
    · intro stale
      rw [Dev.rxFlit_stale ex defined taken still edge stale]
  exact ⟨joins_of (.ofPluck rfl), joins_of (.ofPluck rfl), joins_of (.ofPluck rfl), joins_of (.ofPluck rfl), joins_of (.ofPluck rfl),
    joins_of (.ofPhase rfl), joins_of (.ofPhase rfl)⟩

end Sys2Proof.Machine

namespace Sys2Proof.Machine

/-! ### Tables that list a key twice

`tmap` rewrites a table entry by entry. Where a key stands in the list twice, its first rewrite that gives the default removes one
entry and leaves the other as it was. -/

/-- A partition of the model being reset, whose ring 0 is listed twice: with a doorbell counted, then ENABLED. -/
def ringListedTwice : State := { State.reset with dev := { State.reset.dev with
  ptns := [(0, { st := .resetting })], rings := [(0, { doorbells := 1 }), (0, { st := .enabled })] } }

/-- Refutes O47: the clause of PARTITION_RESET_DONE asks the canonical form of the partitions' table alone, not of the rings'
table. Of a ring listed twice (`ringListedTwice`) the reset leaves one entry as it was, and that one is ENABLED. -/
theorem not_partitionStates : ¬ Obligations.PartitionStates := by
  unfold Obligations.PartitionStates
  rintro ⟨-, -, -, resetDone⟩
  obtain ⟨t, runs, -, rings, -⟩ := resetDone 0 ringListedTwice rfl rfl
  obtain rfl : { ringListedTwice with dev := ringListedTwice.dev.ptnResetDone 0 } = t := Host.Outcome.next.inj runs
  have left : ((ringListedTwice.dev.ptnResetDone 0).ring 0).st = .enabled := rfl
  exact absurd (left.symm.trans (rings 0 rfl).1) (by decide)

/-- A booted device whose slot 0 is listed twice: idle with a NEXT_SEQ, then with an operation running. -/
def slotListedTwice : State := { State.reset with dev := { State.reset.dev with
  rst := { boot := .done }, slots := [(0, { nextSeq := 1 }), (0, { run := some {} })] } }

/-- The slot that a warm reset leaves of `slotListedTwice`. -/
theorem slotListedTwice_warmReset :
    (0, ({ run := some {} } : Slot)) ∈ (slotListedTwice.dev.warmReset .port).slots := by
  decide +kernel

/-- Refutes O42: the clause of WARM_RESET does not ask the canonical form of the slots' table. Of a slot listed twice
(`slotListedTwice`) the reset leaves one entry as it was, and that one runs an operation. -/
theorem not_warmResetAndShutdown : ¬ Obligations.WarmResetAndShutdown := by
  unfold Obligations.WarmResetAndShutdown
  intro h
  obtain ⟨t, runs, -, -, -, -, -, -, -, -, -, idle, -⟩ := (h .port slotListedTwice (.inr rfl)).1.1 rfl rfl
  obtain rfl : { slotListedTwice with dev := slotListedTwice.dev.warmReset .port } = t := Host.Outcome.next.inj runs
  exact absurd (idle _ slotListedTwice_warmReset) (by decide)

end Sys2Proof.Machine

namespace Sys2Proof.Machine

/-! ### The tray ports and the host's lines leave the core alone -/

namespace SameCore

theorem trayErr (s : Dev) (k : Nat) (m : TrayMsg) (arg : Nat) : s.SameCore (s.trayErr k m arg) :=
  trans (bump s _) (traySend _ _ _)

theorem setDirs (s : Dev) (l : List Nat) (g : Nat) (x : Line) : s.SameCore (l.foldl (fun s a => s.setDir g a x) s) :=
  fold _ (fun s a => setDir s g a x) l s

theorem trayRead (s : Dev) (k : Nat) (m : TrayMsg) (grant : Bool) : s.SameCore (s.trayRead k m grant) := by
  unfold Dev.trayRead
  have read := trans (setDirs s m.lineList (k + 1) .i) (inkRead _ false m.laddr (64 * m.lines))
  dsimp only
  split
  · next u b ends =>
    rw [ends] at read
    refine trans read (trans ?_ (traySend _ _ _))
    split
    · exact setDirs _ _ _ _
    · exact refl _
  · next u o _ _ ends =>
    rw [ends] at read
    exact trans read (trayErr _ _ _ _)

theorem trayWrite (s : Dev) (k : Nat) (m : TrayMsg) (a : Nat) (b : List Byte) : s.SameCore (s.trayWrite k m a b) := by
  unfold Dev.trayWrite
  have written := trans (setDirs s m.lineList (k + 1) .i) (inkWrite _ false a b)
  dsimp only
  split
  · next u ends =>
    rw [ends] at written
    exact trans written (traySend _ _ _)
  · next u o _ ends =>
    rw [ends] at written
    exact trans written (trayErr _ _ _ _)

theorem trayDo (s : Dev) (k : Nat) (m : TrayMsg) : s.SameCore (s.trayDo k m) := by
  unfold Dev.trayDo
  extract_lets u
  have start : s.SameCore u := fold _ (fun s l => by
    split
    · exact refl s
    · split
      · exact refl s
      · split <;> rfl) _ s
  refine trans start ?_
  split
  · exact trayRead _ _ _ _
  · exact trayRead _ _ _ _
  · exact trayRead _ _ _ _
  · exact trayWrite _ _ _ _ _
  · exact trayWrite _ _ _ _ _
  · split
    · exact traySend _ _ _
    · exact trayWrite _ _ _ _ _
  · exact setDirs _ _ _ _
  · exact traySend _ _ _
  · exact refl _

theorem traySnoop (s : Dev) (k : Nat) (m : TrayMsg) : s.SameCore (s.traySnoop k m).1 := by
  unfold Dev.traySnoop
  split
  · exact refl s
  · generalize m.lineList = l
    suffices H : ∀ q : Dev × Bool, s.SameCore q.1 → s.SameCore (l.foldl (fun (q : Dev × Bool) l =>
        let ask := q.1.askers (k + 1) l m.writes
        (ask.foldl (fun s h => s.snoopSend h (if m.writes then 0x10 else 0x11) l) q.1, q.2 || !ask.isEmpty)) q).1 from
      H (s, false) (refl s)
    induction l with
    | nil => intro q core; exact core
    | cons a l ih => intro q core; exact ih _ (trans core (fold _ (fun s h => snoopSend s h _ _) _ _))

theorem trayServe (s : Dev) (k : Nat) (m : TrayMsg) : s.SameCore (s.trayServe k m) := by
  unfold Dev.trayServe
  have snooped := traySnoop s k m
  split
  · exact setTray s k _
  · split
    · next u ends => rw [ends] at snooped; exact trans snooped (setTray _ _ _)
    · next u ends => rw [ends] at snooped; exact trans snooped (trayDo _ _ _)

theorem steps (f : Dev → Nat → Dev) (h : ∀ (s : Dev) (k : Nat), s.SameCore (f s k)) (n : Nat) (s : Dev) :
    s.SameCore (forUpto n f s) := by
  unfold forUpto
  exact fold _ (fun s k => h s k) _ s

theorem trayRetryAll (s : Dev) : s.SameCore s.trayRetryAll :=
  steps _ (fun s k => trans (setTray s k _) (fold _ (fun s m => trayServe s k m) _ _)) 4 s

theorem linesLost (s : Dev) (g off : Nat) : s.SameCore (s.linesLost g off) := by
  unfold Dev.linesLost
  extract_lets mine h
  refine trans (t := { s with hst := h }) rfl (fold _ (fun s p => ?_) _ _)
  split
  · exact refl s
  · dsimp only
    split <;> rfl

end SameCore

/-! ### What launches no entry -/

/-- Where no entry is launched in the one state, none is in the other. -/
def Dev.StaysIdle (s t : Dev) : Prop := s.ops = [] → t.ops = []

namespace Dev.StaysIdle

theorem refl (s : Dev) : s.StaysIdle s := id

theorem trans {s t u : Dev} (h : s.StaysIdle t) (k : t.StaysIdle u) : s.StaysIdle u := fun idle => k (h idle)

theorem of_same {s t : Dev} (same : t.ops = s.ops) : s.StaysIdle t := same.trans

theorem of_core {s t : Dev} (core : s.SameCore t) : s.StaysIdle t := of_same (congrArg (·.ops) core)

theorem fold {β : Type} {f : Dev → β → Dev} (h : ∀ (s : Dev) (x : β), s.StaysIdle (f s x)) (l : List β) (s : Dev) :
    s.StaysIdle (l.foldl f s) := by
  induction l generalizing s with
  | nil => exact refl s
  | cons x l ih => exact (h s x).trans (ih _)

theorem setOp (s : Dev) (ring : Nat) (pos : BitVec 32) (f : Op → Op) : s.StaysIdle (s.setOp ring pos f) := by
  intro idle
  simp only [Dev.setOp, idle, replaceFirst]

theorem finish (s : Dev) (ring : Nat) (pos : BitVec 32) (d : Done) : s.StaysIdle (s.finish ring pos d) := by
  intro idle
  simp only [Dev.finish, Dev.op?, idle, List.find?_nil]

theorem fenceEnd (s : Dev) (ring : Nat) (pos : BitVec 32) : s.StaysIdle (s.fenceEnd ring pos) := by
  intro idle
  simp only [Dev.fenceEnd, Dev.op?, idle, List.find?_nil]

theorem connOpDone (s : Dev) (o : Op) : s.StaysIdle (s.connOpDone o) := by
  unfold Dev.connOpDone
  dsimp only
  split
  · exact refl s
  · split
    · exact finish _ _ _ _
    · exact finish _ _ _ _

theorem settlePtn (s : Dev) (part : Nat) : s.StaysIdle (s.settlePtn part) := of_same (congrArg (·.ops) (s.settlePtn_eq part))

theorem settle (s : Dev) : s.StaysIdle s.settle := fold (fun s (p : Nat × Ptn) => settlePtn s p.1) _ s

theorem rest (s : Dev) (x : QPkt) : s.StaysIdle (s.rest x) := by
  unfold Dev.rest
  split
  · split
    · exact of_same rfl
    · exact of_same rfl
  · exact of_same rfl

theorem joinAs (s : Dev) (x : QPkt) (arr : Option (Nat × Nat)) (adaptive : Bool) : s.StaysIdle (s.joinAs x arr adaptive).1 := by
  unfold Dev.joinAs
  extract_lets p u
  split
  · exact of_same rfl
  · exact of_same rfl
  · refine trans (t := u) (of_same ?_) (rest _ _)
    simp only [u]
    split <;> rfl
  · dsimp only
    split
    · exact trans (of_same (s.bump_ops _)) (rest _ _)
    · exact rest _ _

theorem refuseOwn (s : Dev) (own : Option Nat) (k : Nat) : s.StaysIdle (s.refuseOwn own k) := by
  unfold Dev.refuseOwn
  split
  · split
    · exact of_same rfl
    · exact refl s
  · exact refl s

theorem queueControl (s : Dev) (own : Option Nat) (p : Packet) : s.StaysIdle (s.queueControl own p) := by
  unfold Dev.queueControl
  have joined : s.StaysIdle (s.join .control none none own (sealIcrc p) (s.startsAdaptive p)).1 := joinAs s _ none _
  split
  · next u k ends => rw [ends] at joined; exact joined.trans (refuseOwn _ _ _)
  · next u ends => rw [ends] at joined; exact joined

theorem placesAcked (s : Dev) (c : Nat) : s.StaysIdle (s.placesAcked c) := by
  unfold Dev.placesAcked
  split
  · exact of_same rfl
  · exact refl s

theorem ackNow (s : Dev) (c : Nat) : s.StaysIdle (s.ackNow c) := by
  unfold Dev.ackNow
  extract_lets x v h u
  exact (placesAcked s c).trans (trans (of_same rfl) (queueControl u _ _))

theorem raise (s : Dev) (c : Nat) (m : MsgRec) : s.StaysIdle (s.raise c m) := by
  have answered : s.StaysIdle (match (s.conn c).readPsn.find? (fun r => r.1 == m.aux) with
    | none => s
    | some r =>
      let x := s.conn c
      let s := s.setConn c { x with
        readPsn := x.readPsn.filter fun q => q.1 != r.1
        atomicOut := if m.ptype == 6 then x.atomicOut - 1 else x.atomicOut }
      let s := s.setOp r.2.1 r.2.2 fun o => { o with respDone := true }
      match s.op? r.2.1 r.2.2 with
      | some o => s.connOpDone o
      | none => s) := by
    split
    · exact refl s
    · extract_lets x u w
      refine trans (t := w) (setOp _ _ _ _) ?_
      split
      · exact connOpDone _ _
      · exact refl _
  unfold Dev.raise
  split
  · split
    · split
      · exact of_same rfl
      · exact refl s
    · exact refl s
  · split
    · exact (setOp s _ _ _).trans (finish _ _ _ _)
    · exact refl s
  · exact answered
  · exact answered
  · exact refl s

theorem closeMsgs (s : Dev) (c : Nat) : s.StaysIdle (s.closeMsgs c) := by
  unfold Dev.closeMsgs
  extract_lets x nxt past done u
  exact trans (t := u) (of_same rfl) (fold (fun s m => raise s c m) done u)

theorem ackSeen (s : Dev) (c : Nat) : s.StaysIdle (s.ackSeen c) := by
  unfold Dev.ackSeen
  dsimp only
  split
  · exact (closeMsgs s c).trans (ackNow _ c)
  · exact closeMsgs s c

theorem rsigFail (s : Dev) (m : MsgRec) : s.StaysIdle (s.rsigFail m) := by
  unfold Dev.rsigFail
  split
  · split
    · exact of_same rfl
    · exact refl s
  · exact refl s

theorem sendNak (s : Dev) (c : Nat) (e : Echo) (dst dconn : Nat) (psn : BitVec 32) (code arg : Nat) :
    s.StaysIdle (s.sendNak c e dst dconn psn code arg) := by
  unfold Dev.sendNak
  extract_lets x again keep h u
  split
  · exact refl s
  · exact trans (t := u.bump Reg.connNakTx) (of_same rfl) (queueControl _ _ _)

theorem endConn (s : Dev) (c : Nat) (st : ConnSt) (status : Nat) (cause : Option (BitVec 32)) (detail : Nat) :
    s.StaysIdle (s.endConn c st status cause detail) := by
  unfold Dev.endConn
  extract_lets x mine u v w
  have ended : s.StaysIdle u := fold (fun s o => by
    dsimp only
    split
    · exact finish _ _ _ _
    · exact finish _ _ _ _) _ _
  have received : u.StaysIdle v := fold (fun s m => by
    split
    · exact finish _ _ _ _
    · exact refl _) _ _
  have posted : v.StaysIdle w := of_core (SameCore.postErr _ _ _ _ _ _ _)
  exact ended.trans (received.trans (posted.trans (of_same rfl)))

theorem sourceFault (s : Dev) (c : Nat) (rq : BitVec 32) (t : TxPkt) (request : t.req = some rq) (st : Nat) (key : BitVec 32) :
    s.StaysIdle (s.sourceFault c t st key) := by
  unfold Dev.sourceFault
  simp only [request]
  exact (sendNak _ _ _ _ _ _ _ _).trans ((endConn _ _ _ _ _ _).trans (settle _))

theorem pktUnreached (s : Dev) (c : Nat) (psn : BitVec 32) (read : Bool) (key : BitVec 32) :
    s.StaysIdle (s.pktUnreached c psn read key) := by
  unfold Dev.pktUnreached
  extract_lets x u
  split
  · exact refl s
  · split
    · exact sourceFault s c psn _ rfl _ _
    · exact (sendNak _ _ _ _ _ _ _ _).trans ((fold rsigFail _ _).trans ((endConn _ _ _ _ _ _).trans (settle _)))

theorem trayServed (s : Dev) (k : Nat) (r : TrayReq) (ok : Bool) : s.StaysIdle (s.trayServed k r ok) := by
  intro idle
  unfold Dev.trayServed
  simp only [Dev.op?, idle, List.find?_nil, ite_self]
  split
  · next ring pos _ =>
    split
    · exact ((setOp s ring pos _).trans (fenceEnd _ ring pos)) idle
    · exact ackSeen s _ idle
  · next found => exact absurd found (by simp)
  · split
    · exact idle
    · split
      · split
        · exact ackSeen s _ idle
        · exact idle
      · exact pktUnreached s _ _ _ _ idle

theorem trayReset (s : Dev) (k : Nat) (st : TraySt) : s.StaysIdle (s.trayReset k st) := by
  unfold Dev.trayReset
  extract_lets x u h v w y
  have start : s.StaysIdle w := trans (t := v) (of_same rfl) (of_core (SameCore.linesLost v _ _))
  have served : w.StaysIdle y := fold (fun s r => trayServed s k r false) _ w
  exact start.trans (served.trans (of_core (SameCore.trayRetryAll y)))

theorem trayDown (s : Dev) (k : Nat) (st : TraySt) : s.StaysIdle (s.trayDown k st) := by
  unfold Dev.trayDown
  split
  · exact refl s
  · have start := trayReset s k st
    generalize s.trayReset k st = u at start ⊢
    have posted : (u.bump (Reg.trayPortDowns k)).StaysIdle _ := of_core (SameCore.postErr _ (Reg.trayPortStatus 0) 0x08 0x03 k 2 none)
    exact start.trans (trans (of_same (u.bump_ops _)) (posted.trans (settle _)))

theorem hostWarm (s : Dev) : s.StaysIdle s.hostWarm := by
  unfold Dev.hostWarm
  extract_lets h u
  exact trans (t := u) (of_same rfl) (of_core (SameCore.linesLost u _ _))

end Dev.StaysIdle

/-! ### A reset of the data plane (R389, R394, R396) -/

/-- The reset of the data plane ends every launched entry. -/
theorem Dev.resetPlane_ops (s : Dev) : s.resetPlane.ops = [] := by
  unfold Dev.resetPlane
  extract_lets u v c
  have emptied : u.ops = [] := Dev.StaysIdle.hostWarm _ rfl
  have down : u.StaysIdle v := Dev.StaysIdle.fold (fun s k => Dev.StaysIdle.trayDown s k .training) _ u
  have idle := down emptied
  clear_value u v c
  refine Dev.StaysIdle.settle _ ?_
  exact idle

theorem Dev.planeReset_ops (s : Dev) (cause : Byte) : (s.planeReset cause).ops = [] := by
  have idle := s.resetPlane_ops
  unfold Dev.planeReset
  generalize s.resetPlane = u at idle ⊢
  exact idle

theorem Dev.planeReset_cause (s : Dev) (cause : Byte) : (s.planeReset cause).rst.cause = cause := by
  unfold Dev.planeReset
  generalize s.resetPlane = u
  rfl

/-- What the self-tests and the flash writes of a shutdown leave: launched entries and the cause. -/
def Dev.SamePlane (s t : Dev) : Prop := t.ops = s.ops ∧ t.rst.cause = s.rst.cause

theorem Dev.SamePlane.trans {s t u : Dev} (h : s.SamePlane t) (k : t.SamePlane u) : s.SamePlane u :=
  ⟨k.1.trans h.1, k.2.trans h.2⟩

theorem Dev.SamePlane.refl (s : Dev) : s.SamePlane s := ⟨rfl, rfl⟩

theorem Dev.SamePlane.steps {f : Dev → Nat → Dev} (h : ∀ (s : Dev) (k : Nat), s.SamePlane (f s k)) (n : Nat) (s : Dev) :
    s.SamePlane (forUpto n f s) := by
  unfold forUpto
  generalize List.range n = l
  induction l generalizing s with
  | nil => exact .refl s
  | cons k l ih => exact (h s k).trans (ih _)

theorem Dev.selfTest_samePlane (s : Dev) : s.SamePlane s.selfTest := by
  unfold Dev.selfTest
  generalize 16 = n
  refine Dev.SamePlane.steps ?_ n s
  intro s w
  exact ⟨rfl, rfl⟩

theorem Dev.addJob_samePlane (s : Dev) (w : FlashWhat) (units : Nat) : s.SamePlane (s.addJob w units) := ⟨rfl, rfl⟩

theorem Dev.lifeWrite_samePlane (s : Dev) (f : Flash) : s.SamePlane (s.lifeWrite f) := by
  unfold Dev.lifeWrite
  split
  · exact .refl s
  · exact s.addJob_samePlane _ _

theorem Dev.shutdownWrites_samePlane (s : Dev) (f : Flash) : s.SamePlane (s.shutdownWrites f) := by
  have drawn : s.SamePlane s.draw.1.draw.1 := ⟨rfl, rfl⟩
  exact drawn.trans ((Dev.addJob_samePlane _ _ _).trans (Dev.lifeWrite_samePlane _ f))

theorem Dev.darkIfDone_idle {s : Dev} (idle : s.ops = []) : s.darkIfDone.ops = [] ∧ s.darkIfDone.rst.cause = s.rst.cause := by
  unfold Dev.darkIfDone
  split
  · exact ⟨rfl, rfl⟩
  · exact ⟨idle, rfl⟩

section
variable {s : Dev} {v : View}

theorem Dev.warmReset_refused (early : s.rst.boot ≠ .done) : s.warmReset v = s.hostErr v Reg.rstCtl 0x02 1 := if_pos (.inl early)

theorem Dev.shutdown_refused (f : Flash) (early : s.rst.boot ≠ .done) : s.shutdown f v = s.hostErr v Reg.rstCtl 0x02 2 :=
  if_pos (.inl early)

theorem Dev.warmReset_acts (done : s.rst.boot = .done) (on : s.rst.shutting = false) :
    (s.warmReset v).rst.cause = 0x05 ∧ (s.warmReset v).ops = [] := by
  have acts : s.warmReset v = (s.planeReset 0x05).bump (Reg.rstCounts 2) := if_neg (by simp [done, on])
  have cause := s.planeReset_cause 0x05
  have idle := s.planeReset_ops 0x05
  rw [acts]
  generalize s.planeReset 0x05 = u at cause idle ⊢
  exact ⟨cause, idle⟩

theorem Dev.shutdown_acts (f : Flash) (done : s.rst.boot = .done) (on : s.rst.shutting = false) :
    (s.shutdown f v).rst.cause = 0x06 ∧ (s.shutdown f v).ops = [] := by
  unfold Dev.shutdown
  rw [if_neg (by simp [done, on])]
  extract_lets u r w y
  have tested : (s.planeReset 0x06).SamePlane u := Dev.selfTest_samePlane _
  have written : u.SamePlane w := by
    clear_value u
    simp only [w]
    split
    · exact Dev.shutdownWrites_samePlane _ f
    · exact ⟨rfl, rfl⟩
  obtain ⟨ops, cause⟩ := tested.trans written
  have idle : w.ops = [] := ops.trans (s.planeReset_ops 0x06)
  have named : w.rst.cause = 0x06 := cause.trans (s.planeReset_cause 0x06)
  clear_value w
  obtain ⟨none_, same⟩ := Dev.darkIfDone_idle (s := { w with rst := { y with shutting := true } }) idle
  exact ⟨same.trans named, none_⟩

end

/-- Settles O57: where BOOT is not DONE the first test of each command refuses it; else each resets the data plane under its own
cause, after which nothing is launched again. -/
theorem resetCommandsActOnlyWhenBooted : Obligations.ResetCommandsActOnlyWhenBooted := by
  unfold Obligations.ResetCommandsActOnlyWhenBooted
  have same : ∀ (s : State) (v : View) (w : Word), (s.tapped v Reg.rstCtl w).rst = s.dev.rst := fun s v w =>
    congrArg (·.rst) (s.sameCore_tapped v Reg.rstCtl w)
  refine ⟨?_, ?_, ?_⟩
  · intro v s view early
    have tapped (w : Word) : (s.tapped v Reg.rstCtl w).rst.boot ≠ .done := by rwa [same]
    refine ⟨?_, ?_⟩
    · exact (onWrite_held view _ _ _ s).trans (by rw [Dev.warmReset_refused (tapped 1)])
    · rcases view with rfl | rfl
      · exact s.next_dev (Dev.shutdown_refused s.flash (tapped 2))
      · exact s.next_dev (Dev.shutdown_refused s.flash (tapped 2))
  · intro v s view done on
    have tapped (w : Word) : (s.tapped v Reg.rstCtl w).rst.boot = .done ∧ (s.tapped v Reg.rstCtl w).rst.shutting = false := by
      rw [same]; exact ⟨done, on⟩
    refine ⟨⟨_, onWrite_held view _ _ _ s, ?_⟩, ?_⟩
    · exact Dev.warmReset_acts (tapped 1).1 (tapped 1).2
    · rcases view with rfl | rfl
      · exact ⟨_, rfl, Dev.shutdown_acts s.flash (tapped 2).1 (tapped 2).2⟩
      · exact ⟨_, rfl, Dev.shutdown_acts s.flash (tapped 2).1 (tapped 2).2⟩
  · intro n s
    exact ⟨rfl, rfl⟩

end Sys2Proof.Machine

namespace Sys2Proof.Machine

/-- The outcome of a command of the physical function and the register port that also reads flash or OTP. -/
theorem onWriteF_held {v : View} (view : v = .pf ∨ v = .port) (off : Nat) (w : Word) (f : Flash → Dev → Dev) (s : State) :
    onWriteF v off w (fun fl => pfOnly v (f fl)) s = .next { s with dev := f s.flash (s.tapped v off w) } := by
  rw [onWriteF, onDevF, pfOnly_held view, State.tapped]

/-! ### The boot ROM, the mailbox and the start of firmware (R403 to R405) -/

section
variable {s : Dev} {f : Flash}

theorem Dev.bootRom_runs (freed : 4 ≤ s.rst.released) (rom : s.rst.boot = .rom) (blank : f.state ≠ 0) (retired : f.state ≠ 4) :
    s.bootRom f = match f.fw with
      | some img => if fwCode f img img.length == 0 then s.imageStart img else s.mailboxWait
      | none => s.mailboxWait := by
  have runs : ¬ (s.rst.released < 4 || decide (s.rst.boot ≠ .rom) || f.state == 0 || f.state == 4) = true := by
    simp only [Bool.or_eq_true, decide_eq_true_eq, beq_iff_eq, not_or]
    exact ⟨⟨⟨Nat.not_lt.mpr freed, not_not_intro rom⟩, blank⟩, retired⟩
  exact if_neg runs

theorem Dev.bootRom_image {img : List Byte} (freed : 4 ≤ s.rst.released) (rom : s.rst.boot = .rom) (blank : f.state ≠ 0)
    (retired : f.state ≠ 4) (stored : f.fw = some img) (verifies : fwCode f img img.length = 0) : s.bootRom f = s.imageStart img := by
  rw [Dev.bootRom_runs freed rom blank retired]
  simp only [stored, verifies, beq_self_eq_true, if_true]

theorem Dev.bootRom_none (freed : 4 ≤ s.rst.released) (rom : s.rst.boot = .rom) (blank : f.state ≠ 0)
    (retired : f.state ≠ 4) (stored : f.fw = none) : s.bootRom f = s.mailboxWait := by
  rw [Dev.bootRom_runs freed rom blank retired]
  simp only [stored]

/-- The state with GO set. -/
def Dev.mailboxGone (s : Dev) : Dev := s.setReg Reg.rstMboxCtl (s.reg Reg.rstMboxCtl ||| 1)

section
variable {env : Env} (awaited : s.mailboxGone.rst.boot = .recovery) (step1 : s.mailboxGone.rst.recovering = false)
  (active : s.mailboxGone.hst.dlActive = true)
include awaited step1 active

theorem Dev.mailboxGo_verified {u : Dev} {img : List Byte} (fits : (s.mailboxGone.reg Reg.rstMboxLen).toNat ≤ fwMax)
    (read : Dev.extReadAll (ceilDiv (s.mailboxGone.reg Reg.rstMboxLen).toNat 64) (s.mailboxGone.enter env) env 0
      (s.mailboxGone.reg Reg.rstMboxAddr).toNat (s.mailboxGone.reg Reg.rstMboxLen).toNat [] = (u, some img))
    (verifies : fwCode f img (s.mailboxGone.reg Reg.rstMboxLen).toNat = 0) :
    s.mailboxGo f env = (u.setReg Reg.rstMboxCtl 2).recoveredStart img := by
  unfold Dev.mailboxGo
  unfold Dev.mailboxGone at awaited step1 active fits read verifies
  generalize s.setReg Reg.rstMboxCtl (s.reg Reg.rstMboxCtl ||| 1) = a at awaited step1 active fits read verifies ⊢
  dsimp only
  rw [if_neg (by simp [awaited, step1, active]), if_neg (Nat.not_lt.mpr fits), read]
  simp only [verifies, beq_self_eq_true, if_true]
  rfl

theorem Dev.mailboxGo_tooLong (long : fwMax < (s.mailboxGone.reg Reg.rstMboxLen).toNat) :
    s.mailboxGo f env = (s.mailboxGone.setReg Reg.rstMboxCtl 6).askFrom f 0 := by
  unfold Dev.mailboxGo
  unfold Dev.mailboxGone at awaited step1 active long ⊢
  generalize s.setReg Reg.rstMboxCtl (s.reg Reg.rstMboxCtl ||| 1) = a at awaited step1 active long ⊢
  dsimp only
  rw [if_neg (by simp [awaited, step1, active])]
  exact if_pos long

end

theorem Dev.mailboxExpiry_due (boot : s.rst.boot = .recovery) (step1 : s.rst.recovering = false) (due : s.rst.recoveryAt ≤ s.osc) :
    s.mailboxExpiry f = s.askFrom f 0 :=
  if_pos (by simp [boot, step1, due])

end

/-- Settles O39: by the branches of each command's function. An image above 16 MiB refused unread, and BOOT at the start of
firmware, are log entry 95. -/
theorem bootGoesOn : Obligations.BootGoesOn := by
  unfold Obligations.BootGoesOn
  refine ⟨?_, ?_, ?_, ?_⟩
  · intro s freed rom blank retired
    refine ⟨fun img stored verifies => ?_, fun stored => ?_⟩
    · exact s.next_dev
        (Dev.bootRom_image freed rom blank retired stored verifies)
    · exact s.next_dev
        (Dev.bootRom_none freed rom blank retired stored)
  · intro v env s view t a n awaited step1 active
    have runs : exec (.mailboxGo v env) s = .next { s with dev := t.mailboxGo s.flash env } :=
      onWriteF_held view _ _ (fun f d => d.mailboxGo f env) s
    refine ⟨fun u img fits read verifies => ?_, fun long => ?_⟩
    · rw [runs, Dev.mailboxGo_verified awaited step1 active fits read verifies]
    · rw [runs, Dev.mailboxGo_tooLong awaited step1 active long]
      rfl
  · intro s boot step1 due
    exact s.next_dev (Dev.mailboxExpiry_due boot step1 due)
  · intro t s w boot image started a r b
    refine s.next_dev ?_
    simp only [Dev.firmwareStart, boot, image]
    exact congrArg (fun d : Dev => d.fpStart.checkStarts s.flash) (if_pos started)

/-! ### The watchdog and block reset (R397, R398) -/

section
variable {s : Dev}

theorem Dev.coreGone_running (on : s.rst.shutting = false) : s.coreGone = s := if_neg (by simp [on])

theorem Dev.watchdog_due (intact : Bool) (on : bit (s.reg Reg.rstWdtCfg) 16 = true) (up : s.rst.coreUp = true)
    (due : s.rst.kickAt + msTicks (max 1 (bits (s.reg Reg.rstWdtCfg) 15 0)) ≤ s.osc) (running : s.rst.shutting = false) :
    s.watchdog intact =
      let r : Rst := { s.rst with coreUp := false, boot := if intact then .firmware else .rom }
      (({ s with rst := r } : Dev).bump (Reg.rstCounts 3)).postErr Reg.rstCtl 0x11 0x02 0 1 := by
  have acts : ¬ (!bit (s.reg Reg.rstWdtCfg) 16 || !s.rst.coreUp ||
      s.osc < s.rst.kickAt + msTicks (max 1 (bits (s.reg Reg.rstWdtCfg) 15 0))) = true := by
    simp [on, up, Nat.not_lt.mpr due]
  unfold Dev.watchdog
  dsimp only
  rw [if_neg acts]
  refine Dev.coreGone_running ?_
  rw [Dev.postErr_eq]
  exact running

theorem Dev.blockCmd_busy {v : View} {w : Word} (busy : s.rst.block ≠ none) : s.blockCmd v w = s.hostErr v Reg.rstBlockCtl 0x02 w :=
  if_pos (Option.isSome_iff_ne_none.mpr busy)

theorem Dev.blockCmd_waits {v : View} {w : Word} (free : s.rst.block = none) (least : 1 ≤ bits w 7 0) (most : bits w 7 0 ≤ 6)
    (port : bits w 7 0 = 2 → bits w 9 8 < 2) (time : bits (s.reg Reg.rstIdleTimeout) 15 0 ≠ 0) :
    s.blockCmd v w = { s with rst := { s.rst with
      block := some (BitVec.ofNat 8 (bits w 7 0), BitVec.ofNat 2 (bits w 9 8),
        s.osc + usTicks (bits (s.reg Reg.rstIdleTimeout) 15 0)) } } := by
  have code : (BitVec.ofNat 8 (bits w 7 0)).toNat = bits w 7 0 := by
    rw [BitVec.toNat_ofNat]; omega
  have some_ : BitVec.ofNat 8 (bits w 7 0) ≠ 0 := fun zero => by rw [zero] at code; exact absurd code (by simp; omega)
  have arg : BitVec.ofNat 8 (bits w 7 0) = 2 → (BitVec.ofNat 2 (bits w 9 8)).toNat < 2 := fun eth => by
    have := port (code.symm.trans (congrArg BitVec.toNat eth))
    rw [BitVec.toNat_ofNat]; omega
  have known : ¬ (BitVec.ofNat 8 (bits w 7 0) == 0 || 7 ≤ (BitVec.ofNat 8 (bits w 7 0)).toNat ||
      (BitVec.ofNat 8 (bits w 7 0) == 2 && 2 ≤ (BitVec.ofNat 2 (bits w 9 8)).toNat)) = true := by
    simp only [Bool.or_eq_true, Bool.and_eq_true, beq_iff_eq, decide_eq_true_eq, not_or, not_and]
    exact ⟨⟨some_, by omega⟩, fun eth => Nat.not_le.mpr (arg eth)⟩
  unfold Dev.blockCmd
  dsimp only
  rw [if_neg (by simp [free]), if_neg known, if_neg time]

theorem Dev.blockIdle_pending {code : Byte} {arg : BitVec 2} {t : Nat} (pending : s.rst.block = some (code, arg, t)) (idle : Bool) :
    s.blockIdle idle = if idle then s.blockDone code arg false else if t ≤ s.osc then s.blockDone code arg true else s := by
  simp only [Dev.blockIdle, pending]

end

/-- Settles O40: by the branches of each command's function; the watchdog's record leaves the reset controller as it is. -/
theorem watchdogAndBlockReset : Obligations.WatchdogAndBlockReset := by
  unfold Obligations.WatchdogAndBlockReset
  refine ⟨?_, ?_, ?_, ?_⟩
  · intro v s view a
    exact onWrite_held view _ _ _ s
  · intro intact s c on up due running r a
    exact s.next_dev (Dev.watchdog_due intact on up due running)
  · intro v w s view a t
    have runs : exec (.blockReset v w) s = .next { s with dev := a.blockCmd v w } := onWrite_held view _ _ _ s
    refine ⟨fun busy => ?_, ?_⟩
    · rw [runs, Dev.blockCmd_busy busy]
    · intro free least most port time r
      rw [runs, Dev.blockCmd_waits free least most port time]
  · intro code arg t s pending
    refine ⟨?_, fun early => ?_⟩
    · exact s.next_dev (Dev.blockIdle_pending pending true)
    · refine s.next_dev ?_
      exact (Dev.blockIdle_pending pending false).trans (if_neg (Nat.not_le.mpr early))

/-! ### Resets of everything, trim load and release (R387 to R389, R392, R395, R399, R400, R410, R430) -/

/-- A start outside FIELD_DIAG measures nothing, and flash and OTP stand. -/
theorem State.startOver_plain {s : State} (plain : s.flash.state ≠ 3) (cause : Byte) (count : Nat) :
    s.startOver cause count = { s with dev := s.dev.startOver cause count } := by
  rw [State.startOver, Flash.restart, if_neg plain, if_neg plain]

/-- A start in FIELD_DIAG ends it, and the change is measured. -/
theorem State.startOver_fieldDiag {s : State} (diag : s.flash.state = 3) (cause : Byte) (count : Nat) :
    s.startOver cause count =
      { s with dev := (s.dev.startOver cause count).measure 4 0 2, flash := { s.flash with state := 2 } } := by
  rw [State.startOver, Flash.restart, if_pos diag, if_pos diag]

section
variable {s : Dev} {f : Flash}

theorem Dev.thermalTrip_powered (power : s.rst.powerFail = false) :
    s.thermalTrip = (s.goDark 0x04 true).bump (Reg.rstCounts 6) := if_neg (by simp [power])

section
variable (power : s.rst.powerFail = false) (trim : s.rst.boot = .trim) (invalid : s.rst.trimValid = false)
  (fails : s.rst.trimFails < 8)
include power trim invalid fails

theorem Dev.trimPass_open :
    ¬ (s.rst.powerFail || decide (s.rst.boot ≠ .trim) || s.rst.trimValid || 8 ≤ s.rst.trimFails) = true := by
  simp [power, trim, invalid, Nat.not_le.mpr fails]

theorem Dev.trimPass_bad : s.trimPass f false = { s with rst := { s.rst with trimFails := s.rst.trimFails + 1 } } := by
  rw [Dev.trimPass, if_neg (Dev.trimPass_open power trim invalid fails)]
  rfl

theorem Dev.trimPass_good : s.trimPass f true = (({ s with
    rst := { s.rst with trimValid := true, trimFails := 0, released := 1 }
    det := { s.det with trimClass := f.trimClass }
    mseg := { s.mseg with mac := f.mac } } : Dev).measure 1 0 (BitVec.ofNat 64 (f.stepping.toNat + at_ 16 f.trimClass.toNat))).fpStart := by
  rw [Dev.trimPass, if_neg (Dev.trimPass_open power trim invalid fails)]
  rfl

end

theorem Dev.release_next (least : 1 ≤ s.rst.released) (most : s.rst.released ≤ 8) (on : s.rst.shutting = false)
    (held : ∀ t, s.rst.warmAt = some t → t ≤ s.osc) (trained : s.rst.released = 5 → s.ink.trained = true) :
    s.release = { s with
      rst := { s.rst with
        released := s.rst.released + 1, warmAt := none, boot := if s.rst.released = 3 then .rom else s.rst.boot }
      capo := if s.rst.released = 5 then { s.capo with down := 0xFFFF } else s.capo } := by
  refine if_neg ?_
  simp only [Bool.or_eq_true, Bool.and_eq_true, decide_eq_true_eq, Option.any_eq_true, Bool.not_eq_true', not_or, not_and,
    not_exists, Nat.not_lt, Bool.not_eq_false]
  exact ⟨⟨⟨⟨by omega, by omega⟩, by simp [on]⟩, held⟩, trained⟩

end

/-- Settles O41: by the branches of each command's function. Memory outside the device stands by assumption 3 (log entry 3), and
the power-on count is 1 after the clearing by log entry 100. -/
theorem resetsTrimAndRelease : Obligations.ResetsTrimAndRelease := by
  unfold Obligations.ResetsTrimAndRelease
  refine ⟨⟨?_, ?_, ?_, ?_, ?_⟩, ?_, ?_⟩
  · intro s plain
    refine ⟨?_, fun power => ?_⟩
    · exact congrArg Host.Outcome.next (State.startOver_plain plain _ 0)
    · exact congrArg Host.Outcome.next ((if_neg (by simp [power])).trans (State.startOver_plain plain 0x03 1))
  · intro s diag
    exact ⟨_, congrArg Host.Outcome.next (State.startOver_fieldDiag diag _ 0), rfl, rfl, rfl⟩
  · intro s power
    exact congrArg Host.Outcome.next (if_pos power)
  · intro s c either
    rcases either with rfl | rfl
    · exact ⟨rfl, _, rfl, rfl, rfl, fun _ => rfl⟩
    · exact ⟨rfl, _, rfl, rfl, rfl, fun _ => rfl⟩
  · intro s power
    exact ⟨_, s.next_dev (Dev.thermalTrip_powered power),
      rfl, rfl, rfl, rfl, rfl, rfl, rfl, rfl⟩
  · intro s power trim invalid fails
    refine ⟨?_, ?_⟩
    · exact s.next_dev
        (Dev.trimPass_bad (f := s.flash) power trim invalid fails)
    · exact ⟨_, s.next_dev
        (Dev.trimPass_good (f := s.flash) power trim invalid fails), rfl, rfl, rfl, rfl⟩
  · intro s n least most on held trained r c
    exact s.next_dev (Dev.release_next least most on held trained)

end Sys2Proof.Machine

namespace Sys2Proof.Machine

/-! ### The flash write engine (R401, R402, R406) -/

theorem Dev.darkIfDone_running {s : Dev} (on : s.rst.shutting = false) : s.darkIfDone = s := if_neg (by simp [on])

/-- The measurement of the bank, where the voltages give an energy. -/
theorem Dev.measureBank_some (s : Dev) {v0 v1 n : Nat} (energy : holdupE v0 v1 = some n) :
    s.measureBank v0 v1 = { s with rst := { s.rst with holdup := cap24 n, holdupAt := s.osc } } := by
  simp only [Dev.measureBank, energy]

section
variable {s : State} {i : Nat}

/-- The write that is next and not begun: the bank is measured, and the write refused or its first unit begun. -/
theorem State.writeStart_next {v0 v1 : Nat} (next : s.dev.jobAt = some i) (up : s.dev.rst.coreUp = true)
    (power : s.dev.rst.powerFail = false) (stopped : (s.dev.job i).running = false) (tried : (s.dev.job i).retryAt = none)
    (new : (s.dev.job i).done = 0) :
    s.writeStart v0 v1 = if ((s.dev.measureBank v0 v1).rst.holdup).toNat < (s.dev.job i).what.needs
      then { s with dev := (s.dev.measureBank v0 v1).jobRefused s.flash i }
      else ({ s with dev := s.dev.measureBank v0 v1 } : State).unitBegins i := by
  have open_ : ¬ (!s.dev.rst.coreUp || s.dev.rst.powerFail || (s.dev.job i).running || (s.dev.job i).retryAt.isSome ||
      (s.dev.job i).done % 64 != 0) = true := by
    rw [up, power, stopped, tried, new]
    decide
  simp only [State.writeStart, next]
  exact if_neg open_

/-- A START_COUNT write begins: flash stands. -/
theorem State.unitBegins_startCount {c : Word} (new : (s.dev.job i).done = 0) (what : (s.dev.job i).what = .startCount c) :
    s.unitBegins i = { s with dev := s.dev.setJob i { s.dev.job i with running := true } } := by
  rw [State.unitBegins, if_pos new, what]
  dsimp only [Dev.stamped, Flash.begun]
  rw [← what]

section
variable (running : ((List.range s.dev.rst.jobs.length).find? fun i => (s.dev.job i).running) = some i)
include running

theorem State.unitDone_more (more : 2 ≤ (s.dev.job i).left) :
    s.unitDone = { s with dev := s.dev.setJob i { s.dev.job i with
      done := (s.dev.job i).done + 1, left := (s.dev.job i).left - 1
      running := ((s.dev.job i).done + 1) % 64 != 0 && s.dev.rst.coreUp && !s.dev.rst.powerFail } } := by
  simp only [State.unitDone, running]
  exact if_neg (Nat.not_le.mpr more)

theorem State.unitDone_last (last : (s.dev.job i).left ≤ 1) :
    s.unitDone = { s with
      dev := ((s.dev.dropJob i).jobDone (s.flash.stored (s.dev.job i).what) (s.dev.job i).what).darkIfDone
      flash := s.flash.stored (s.dev.job i).what } := by
  simp only [State.unitDone, running]
  exact if_pos last

end
end

/-- Settles O43: by the branches of the engine's start and end of a unit. -/
theorem flashEngine : Obligations.FlashEngine := by
  unfold Obligations.FlashEngine
  refine ⟨?_, ?_, fun s => rfl⟩
  · intro v0 v1 s i n next energy up power j stopped tried new r a
    have measured : s.dev.measureBank v0.toNat v1.toNat = a := s.dev.measureBank_some energy
    have runs : exec (.flashWriteStart v0 v1) s = .next (if (cap24 n).toNat < j.what.needs
        then { s with dev := a.jobRefused s.flash i } else ({ s with dev := a } : State).unitBegins i) := by
      refine congrArg Host.Outcome.next ?_
      rw [State.writeStart_next next up power stopped tried new, measured]
    refine ⟨fun low => ?_, fun c what enough => ?_⟩
    · rw [runs, if_pos low]
    · rw [runs, if_neg (Nat.not_lt.mpr enough)]
      exact congrArg Host.Outcome.next (State.unitBegins_startCount (s := { s with dev := a }) new what)
  · intro s i running j
    refine ⟨fun more => ?_, fun c last what on => ?_, fun c last what on => ?_⟩
    · exact congrArg Host.Outcome.next (State.unitDone_more running more)
    · refine congrArg Host.Outcome.next ((State.unitDone_last running last).trans ?_)
      rw [what]
      have ended : ((s.dev.dropJob i).jobDone (s.flash.stored (.startCount c)) (.startCount c)).darkIfDone =
          (s.dev.dropJob i).jobDone (s.flash.stored (.startCount c)) (.startCount c) := Dev.darkIfDone_running on
      rw [ended]
      rfl
    · refine ⟨_, congrArg Host.Outcome.next (State.unitDone_last running last), ?_⟩
      rw [what]
      have ended : ((s.dev.dropJob i).jobDone (s.flash.stored (.nonce c)) (.nonce c)).darkIfDone =
          (s.dev.dropJob i).jobDone (s.flash.stored (.nonce c)) (.nonce c) := Dev.darkIfDone_running on
      rw [ended]
      exact ⟨rfl, rfl, rfl, rfl⟩

/-! ### Lifecycle and attestation commands (R407 to R412) -/

section
variable {s : Dev} {f : Flash}

theorem Dev.lcsCmd_busy {v : View} {code : Nat} {g : Dev → Dev} (busy : s.lcs.cmd ≠ none) :
    s.lcsCmd v code g = s.hostErr v Reg.lcsCtl 0x02 (BitVec.ofNat 64 code) := if_pos (Option.isSome_iff_ne_none.mpr busy)

theorem Dev.lcsCmd_free {v : View} {code : Nat} {g : Dev → Dev} (free : s.lcs.cmd = none) : s.lcsCmd v code g = g s :=
  if_neg (by simp [free])

theorem Dev.exitDiag_diag (diag : f.state = 3) : s.exitDiag f = s.lcsJob 3 (.state 2) := if_pos (by simp [diag])
theorem Dev.exitDiag_wrong (wrong : f.state ≠ 3) : s.exitDiag f = s.lcsEnd 0x01 := if_neg (by simpa using wrong)

theorem Dev.secure_ready (provisioned : f.state = 1) (ready : f.secureReady = true) : s.secure f = s.lcsJob 4 (.state 2) :=
  if_pos (by simp [provisioned, ready])
theorem Dev.secure_wrong (wrong : f.state ≠ 1) : s.secure f = s.lcsEnd 0x01 := if_neg (by simp [show ¬ f.state = 1#4 from wrong])

/-- A token that is read whole: the nonce is used up, and the token's code decides. -/
theorem Dev.tokenCmd_read {env : Env} {code : Byte} {dest : BitVec 4} {u : Dev} {b : List Byte}
    (state : f.state = 2 ∨ dest = 4 ∧ f.state = 3)
    (read : Dev.extReadAll (ceilDiv tokenLen 64) (s.enter env) env (s.reg Reg.lcsReqAddr) 0 tokenLen [] = (u, some b)) :
    s.tokenCmd f env code dest =
      if u.tokenCode f b dest.toNat = 0 then ({ u with lcs := { u.lcs with nonceFresh := false } } : Dev).lcsJob code (.state dest)
      else ({ u with lcs := { u.lcs with nonceFresh := false } } : Dev).lcsEnd (u.tokenCode f b dest.toNat) := by
  have right : ¬ (f.state != 2 && !(dest == 4 && f.state == 3)) = true := by
    rcases state with state | ⟨rfl, state⟩
    · simp [state]
    · simp [state]
  simp only [Dev.tokenCmd, right, read, beq_iff_eq]
  rfl

theorem Dev.provision_read {env : Env} {u : Dev} {b : List Byte} (state : f.state = 1)
    (read : Dev.extReadAll 32 (s.enter env) env (s.reg Reg.lcsReqAddr) 0 2048 [] = (u, some b)) (least : 1 ≤ leAt b 0 1)
    (most : leAt b 0 1 ≤ 10) (open_ : bit f.provisioned (leAt b 0 1 - 1) = false) :
    s.provision f env = u.lcsJob 7 (.provision (leAt b 0 1) (BitVec.ofNat 256 (leAt b 8 32))) := by
  have known : ¬ (leAt b 0 1 = 0 || 10 < leAt b 0 1) = true := by simp; omega
  simp only [Dev.provision, state, read, known, open_, if_false, bne_self_eq_false, Bool.false_eq_true]

theorem Dev.attest_written {env : Env} {u : Dev} (state : f.state ≠ 4) (fits : (s.report f).length ≤ (s.reg Reg.lcsReqLen).toNat)
    (written : (s.enter env).extWriteAll env ((s.enter env).reg Reg.lcsReqAddr) (s.report f) = (u, true)) :
    s.attest f env = u.lcsEnd 0 := by
  simp only [Dev.attest, beq_iff_eq, state, if_false, Nat.not_lt.mpr fits, written]

end

/-- Settles O44: every command is refused while one runs; else the branches of each command's function. -/
theorem lifecycleCommands : Obligations.LifecycleCommands := by
  unfold Obligations.LifecycleCommands
  intro v env s view t f ends asks
  have runs : exec (.nonce v) s = .next { s with dev := (t 1).lcsCmd v 1 fun d => d.nonceCmd f } ∧
      exec (.enterDiag v env) s = .next { s with dev := (t 2).lcsCmd v 2 fun d => d.tokenCmd f env 2 3 } ∧
      exec (.exitDiag v) s = .next { s with dev := (t 3).lcsCmd v 3 fun d => d.exitDiag f } ∧
      exec (.secure v) s = .next { s with dev := (t 4).lcsCmd v 4 fun d => d.secure f } ∧
      exec (.retire v env) s = .next { s with dev := (t 5).lcsCmd v 5 fun d => d.tokenCmd f env 5 4 } ∧
      exec (.attest v env) s = .next { s with dev := (t 6).lcsCmd v 6 fun d => d.attest f env } ∧
      exec (.provision v env) s = .next { s with dev := (t 7).lcsCmd v 7 fun d => d.provision f env } :=
    ⟨onWriteF_held view _ _ (fun f d => d.lcsCmd v 1 fun d => d.nonceCmd f) s,
      onWriteF_held view _ _ (fun f d => d.lcsCmd v 2 fun d => d.tokenCmd f env 2 3) s,
      onWriteF_held view _ _ (fun f d => d.lcsCmd v 3 fun d => d.exitDiag f) s,
      onWriteF_held view _ _ (fun f d => d.lcsCmd v 4 fun d => d.secure f) s,
      onWriteF_held view _ _ (fun f d => d.lcsCmd v 5 fun d => d.tokenCmd f env 5 4) s,
      onWriteF_held view _ _ (fun f d => d.lcsCmd v 6 fun d => d.attest f env) s,
      onWriteF_held view _ _ (fun f d => d.lcsCmd v 7 fun d => d.provision f env) s⟩
  obtain ⟨nonce, enterDiag, exitDiag, secure, retire, attest, provision⟩ := runs
  refine ⟨?_, fun free => ?_⟩
  · intro n c row busy
    simp only [List.mem_cons, Prod.mk.injEq, List.not_mem_nil, or_false] at row
    rcases row with ⟨rfl, rfl⟩ | ⟨rfl, rfl⟩ | ⟨rfl, rfl⟩ | ⟨rfl, rfl⟩ | ⟨rfl, rfl⟩ | ⟨rfl, rfl⟩ | ⟨rfl, rfl⟩
    · rw [nonce, Dev.lcsCmd_busy busy]
    · rw [enterDiag, Dev.lcsCmd_busy busy]
    · rw [exitDiag, Dev.lcsCmd_busy busy]
    · rw [secure, Dev.lcsCmd_busy busy]
    · rw [retire, Dev.lcsCmd_busy busy]
    · rw [attest, Dev.lcsCmd_busy busy]
    · rw [provision, Dev.lcsCmd_busy busy]
  · have idle (n : Nat) : (t n).lcs.cmd = none := (congrArg (·.lcs.cmd) (s.sameCore_tapped v Reg.lcsCtl (BitVec.ofNat 64 n))).trans free
    refine ⟨?_, fun diag => ?_, fun wrong => ?_, fun state ready => ?_, fun wrong => ?_, ?_, ?_, ?_⟩
    · rw [nonce, Dev.lcsCmd_free (idle 1)]
      rfl
    · rw [exitDiag, Dev.lcsCmd_free (idle 3), Dev.exitDiag_diag diag]
      rfl
    · rw [exitDiag, Dev.lcsCmd_free (idle 3), Dev.exitDiag_wrong wrong]
      rfl
    · rw [secure, Dev.lcsCmd_free (idle 4), Dev.secure_ready state ready]
      rfl
    · rw [secure, Dev.lcsCmd_free (idle 4), Dev.secure_wrong wrong]
      rfl
    · intro diag u b state n dest a read used c
      have token : exec c s = .next { s with dev := a.tokenCmd f env (BitVec.ofNat 8 n) dest } := by
        cases diag
        · exact retire.trans (by rw [Dev.lcsCmd_free (idle 5)]; rfl)
        · exact enterDiag.trans (by rw [Dev.lcsCmd_free (idle 2)]; rfl)
      have right : f.state = 2 ∨ dest = 4 ∧ f.state = 3 :=
        state.imp_right fun ⟨leaves, state⟩ => ⟨by simp only [dest, leaves]; rfl, state⟩
      rw [token, Dev.tokenCmd_read right read]
      refine ⟨fun valid => ?_, fun refused => ?_⟩
      · rw [if_pos valid]
        rfl
      · rw [if_neg refused]
        rfl
    · intro u b state read least most open_
      rw [provision, Dev.lcsCmd_free (idle 7), Dev.provision_read state read least most open_]
      rfl
    · intro u state fits written
      rw [attest, Dev.lcsCmd_free (idle 6), Dev.attest_written state fits written]
      rfl

end Sys2Proof.Machine

namespace Sys2Proof.Machine

/-! ### Channels of Inkwell, read after a write -/

section
variable {s : Dev} (wf : twf (fun _ => {}) s.ink.chans = true)
include wf

theorem Dev.chan_setChan_same (c : Nat) (x : Chan) : (s.setChan c x).chan c = x := tget_tset_same _ _ _ _ wf
theorem Dev.chan_setChan_ne {c k : Nat} (other : k ≠ c) (x : Chan) : (s.setChan c x).chan k = s.chan k := tget_tset_ne _ _ _ _ _ other wf
theorem Dev.setChan_wf (c : Nat) (x : Chan) : twf (fun _ => {}) (s.setChan c x).ink.chans = true := twf_tset _ _ _ _ wf

end

/-- A step for channel `k` changes that channel, as `G` says, and no other, and keeps `P`. -/
structure ChanStep (P : Dev → Prop) (G : Nat → Chan → Chan) (f : Dev → Nat → Dev) : Prop where
  keeps : ∀ s k, P s → P (f s k)
  own : ∀ s k, P s → (f s k).chan k = G k (s.chan k)
  others : ∀ s k j, P s → j ≠ k → (f s k).chan j = s.chan j

/-- A step for each of the first `n` channels changes each of these once, and no other. -/
theorem ChanStep.steps {P : Dev → Prop} {G : Nat → Chan → Chan} {f : Dev → Nat → Dev} (step : ChanStep P G f) {s : Dev} (start : P s)
    (n : Nat) : P (forUpto n f s) ∧ ∀ c, (forUpto n f s).chan c = if c < n then G c (s.chan c) else s.chan c := by
  induction n with
  | zero => exact ⟨start, fun c => rfl⟩
  | succ n ih =>
    obtain ⟨kept, before⟩ := ih
    have last : forUpto (n + 1) f s = f (forUpto n f s) n := by
      simp only [forUpto, List.range_succ, List.foldl_append, List.foldl_cons, List.foldl_nil]
    rw [last]
    refine ⟨step.keeps _ _ kept, fun c => ?_⟩
    by_cases this : c = n
    · subst this
      rw [step.own _ _ kept, before, if_neg (Nat.lt_irrefl c), if_pos (Nat.lt_succ_self c)]
    · rw [step.others _ _ _ kept this, before]
      exact ite_iff (by omega) _ _

/-! ### Fences (R322) -/

/-- A fenced channel stays as it is; another is fenced for the cause. -/
def Chan.fencedFor (x : Chan) (cause : Byte) : Chan := if x.fenced then x else { x with fenced := true, cause := cause, scrubbing := false }

theorem Dev.fence_open {s : Dev} {c : Nat} (open_ : (s.chan c).fenced = false) (cause : Byte) :
    s.fence c cause = (s.setChan c { s.chan c with fenced := true, cause := cause, scrubbing := false }).postErr
      Reg.inkStatus 0x0C cause.toNat c 3 := if_neg (by simp [open_])

/-- A fence changes channels and error records alone. -/
theorem Dev.fence_eq (s : Dev) (c : Nat) (cause : Byte) :
    s.fence c cause = { s with ink := { s.ink with chans := (s.fence c cause).ink.chans }, err := (s.fence c cause).err } := by
  unfold Dev.fence
  split
  · rfl
  · rw [Dev.postErr_eq]
    rfl

section
variable {s : Dev} (wf : twf (fun _ => {}) s.ink.chans = true) (c : Nat) (cause : Byte)
include wf

theorem Dev.fence_wf : twf (fun _ => {}) (s.fence c cause).ink.chans = true := by
  unfold Dev.fence
  split
  · exact wf
  · rw [Dev.postErr_eq]
    exact Dev.setChan_wf wf _ _

theorem Dev.fence_own : (s.fence c cause).chan c = (s.chan c).fencedFor cause := by
  unfold Dev.fence Chan.fencedFor
  split
  · rfl
  · rw [Dev.postErr_eq]
    exact Dev.chan_setChan_same wf _ _

theorem Dev.fence_others {k : Nat} (other : k ≠ c) : (s.fence c cause).chan k = s.chan k := by
  unfold Dev.fence
  split
  · rfl
  · rw [Dev.postErr_eq]
    exact Dev.chan_setChan_ne wf other _

end

theorem Dev.autoFence_now {s : Dev} {c : Nat} {cause : Byte} (present : (s.chan c).present = true) (which : cause = 0x04 ∨ cause = 0x05) :
    s.autoFence c cause = s.fence c cause := by
  have matters : (cause == 0x04 || cause == 0x05) = true := by
    rcases which with rfl | rfl
    · rfl
    · rfl
  unfold Dev.autoFence
  dsimp only
  rw [if_pos (by rw [present, matters]; rfl)]

/-! ### Training (R312) -/

/-- The cause of Table 15.9 for a channel whose DIMM is `d`, the reference capacity being `g`; 0 for none. -/
def trainCode (d : Nat × Bool × Bool) (g : Nat) : Byte :=
  if d.1 = 0 then 0x01 else if dimmOk d = false ∨ d.1 ≠ g then 0x02 else if d.2.2 = false then 0x03 else 0

/-- A channel after training: its DIMM noted, and a fence where it has a cause and some DIMM is fitted. -/
def Chan.trained (d : Nat × Bool × Bool) (fitted g : Nat) (x : Chan) : Chan :=
  let y := { x with present := d.1 != 0, ranks4 := d.2.1 }
  if fitted = 0 ∨ trainCode d g = 0 then y else y.fencedFor (trainCode d g)

/-- One channel's part of INKWELL_TRAINING_DONE. -/
def Dev.trainChan (fitted g : Nat) (d : Nat × Bool × Bool) (s : Dev) (c : Nat) : Dev :=
  let s := s.setChan c { s.chan c with present := d.1 != 0, ranks4 := d.2.1 }
  if fitted = 0 then s
  else if d.1 = 0 then s.fence c 0x01
  else if !dimmOk d || d.1 ≠ g then s.fence c 0x02
  else if !d.2.2 then s.fence c 0x03
  else s

theorem Dev.inkTrained_once {s : Dev} {l : List (Nat × Bool × Bool)} (new : s.ink.trained = false) (freed : 5 ≤ s.rst.released) :
    s.inkTrained l =
      let all := (List.range 12).map fun c => l.getD c (0, false, false)
      let fitted := (all.filter fun d => d.1 != 0).length
      forUpto 12 (fun s c => s.trainChan fitted (reference all) (l.getD c (0, false, false)) c)
        ({ s with ink := { s.ink with trained := true, reference := reference all, fitted := fitted } }) :=
  if_neg (by simp [new, Nat.not_lt.mpr freed])

/-- A channel is fenced for its DIMM's cause, where some DIMM is fitted and it has one. -/
theorem Dev.trainChan_eq (fitted g : Nat) (d : Nat × Bool × Bool) (s : Dev) (c : Nat) :
    s.trainChan fitted g d c =
      let s := s.setChan c { s.chan c with present := d.1 != 0, ranks4 := d.2.1 }
      if fitted = 0 ∨ trainCode d g = 0 then s else s.fence c (trainCode d g) := by
  unfold Dev.trainChan trainCode
  dsimp only
  by_cases none_ : fitted = 0
  · rw [if_pos none_, if_pos (.inl none_)]
  · rw [if_neg none_]
    simp only [none_, false_or]
    by_cases empty : d.1 = 0
    · simp [empty]
    · by_cases odd : dimmOk d = false ∨ d.1 ≠ g
      · rw [if_neg empty, if_neg empty, if_pos odd, if_pos (by simpa using odd)]
        simp
      · rw [if_neg empty, if_neg empty, if_neg odd, if_neg (by simpa using odd)]
        cases d.2.2
        · simp
        · simp

/-- What training leaves alone: all but the channels and the error records. -/
def Dev.TrainFrame (s t : Dev) : Prop :=
  twf (fun _ => {}) t.ink.chans = true ∧ t = { s with ink := { s.ink with chans := t.ink.chans }, err := t.err }

theorem Dev.trainChan_step (s : Dev) (fitted g : Nat) (at_ : Nat → Nat × Bool × Bool) :
    ChanStep (Dev.TrainFrame s) (fun c => Chan.trained (at_ c) fitted g) (fun s c => s.trainChan fitted g (at_ c) c) := by
  refine ⟨?_, ?_, ?_⟩
  · rintro t k ⟨wf, frame⟩
    have noted := Dev.setChan_wf wf k { t.chan k with present := (at_ k).1 != 0, ranks4 := (at_ k).2.1 }
    rw [Dev.trainChan_eq]
    dsimp only
    split
    · exact ⟨noted, by rw [frame]; rfl⟩
    · refine ⟨Dev.fence_wf noted _ _, ?_⟩
      rw [Dev.fence_eq, frame]
      rfl
  · rintro t k ⟨wf, -⟩
    have noted := Dev.setChan_wf wf k { t.chan k with present := (at_ k).1 != 0, ranks4 := (at_ k).2.1 }
    rw [Dev.trainChan_eq]
    unfold Chan.trained
    dsimp only
    split
    · exact Dev.chan_setChan_same wf _ _
    · rw [Dev.fence_own noted, Dev.chan_setChan_same wf]
  · rintro t k j ⟨wf, -⟩ other
    have noted := Dev.setChan_wf wf k { t.chan k with present := (at_ k).1 != 0, ranks4 := (at_ k).2.1 }
    rw [Dev.trainChan_eq]
    dsimp only
    split
    · exact Dev.chan_setChan_ne wf other _
    · rw [Dev.fence_others noted _ _ other, Dev.chan_setChan_ne wf other]

/-- Training: each channel is trained, and beside the channels only the DIMMs found and the records change. -/
theorem Dev.inkTrained_trains {s : Dev} {l : List (Nat × Bool × Bool)} (new : s.ink.trained = false) (freed : 5 ≤ s.rst.released)
    (wf : twf (fun _ => {}) s.ink.chans = true) :
    let all := (List.range 12).map fun c => l.getD c (0, false, false)
    let fitted := (all.filter fun d => d.1 != 0).length
    Dev.TrainFrame ({ s with ink := { s.ink with trained := true, reference := reference all, fitted := fitted } }) (s.inkTrained l) ∧
      ∀ c < 12, (s.inkTrained l).chan c = (s.chan c).trained (l.getD c (0, false, false)) fitted (reference all) := by
  intro all fitted
  rw [Dev.inkTrained_once new freed]
  let u : Dev := { s with ink := { s.ink with trained := true, reference := reference all, fitted := fitted } }
  obtain ⟨frame, chans⟩ := (u.trainChan_step fitted (reference all) fun c => l.getD c (0, false, false)).steps (s := u) ⟨wf, rfl⟩ 12
  exact ⟨frame, fun c known => (chans c).trans (if_pos known)⟩

theorem Chan.fencedFor_present (x : Chan) (cause : Byte) : (x.fencedFor cause).present = x.present := by
  unfold Chan.fencedFor
  split
  · rfl
  · rfl

theorem Chan.trained_present (d : Nat × Bool × Bool) (fitted g : Nat) (x : Chan) : (x.trained d fitted g).present = (d.1 != 0) := by
  unfold Chan.trained
  dsimp only
  split
  · rfl
  · exact Chan.fencedFor_present _ _

theorem Chan.trained_fenced (d : Nat × Bool × Bool) {fitted : Nat} (some_ : fitted ≠ 0) (g : Nat) {x : Chan} (open_ : x.fenced = false) :
    (x.trained d fitted g).fenced = (trainCode d g != 0) ∧ (trainCode d g ≠ 0 → (x.trained d fitted g).cause = trainCode d g) := by
  unfold Chan.trained Chan.fencedFor
  dsimp only
  by_cases sound : trainCode d g = 0
  · rw [if_pos (.inr sound), sound]
    exact ⟨open_, fun cause => absurd rfl cause⟩
  · rw [if_neg (not_or.mpr ⟨some_, sound⟩), if_neg (by simp [open_])]
    exact ⟨(bne_iff_ne.mpr sound).symm, fun _ => rfl⟩

/-! ### The patrol scrubber (R320, R321) -/

/-- SCRUB_PASS marks the channel it reads, where that is present and unfenced and a period is set. -/
def Chan.scrubs (c : Nat) (on : Bool) (k : Nat) (x : Chan) : Chan := { x with scrubbing := k == c && on && !x.fenced && x.present }

/-- What the marks leave alone: all but the channels. -/
def Dev.MarkFrame (s t : Dev) : Prop :=
  twf (fun _ => {}) t.ink.chans = true ∧ t = { s with ink := { s.ink with chans := t.ink.chans } }

theorem Dev.scrubMark_step (s : Dev) (c : Nat) :
    ChanStep (Dev.MarkFrame s) (Chan.scrubs c (s.ink.scrubPeriod != 0)) (fun s k =>
      s.setChan k { s.chan k with scrubbing := k == c && s.ink.scrubPeriod != 0 && !(s.chan k).fenced && (s.chan k).present }) := by
  refine ⟨?_, ?_, ?_⟩
  · rintro t k ⟨wf, frame⟩
    exact ⟨Dev.setChan_wf wf k _, by rw [frame]; rfl⟩
  · rintro t k ⟨wf, frame⟩
    have period : t.ink.scrubPeriod = s.ink.scrubPeriod := congrArg (·.ink.scrubPeriod) frame
    rw [Dev.chan_setChan_same wf, period]
    rfl
  · rintro t k j ⟨wf, -⟩ other
    exact Dev.chan_setChan_ne wf other _

/-- The channels marked for a pass of the scrubber over channel `c`. -/
def Dev.scrubMarks (s : Dev) (c : Nat) : Dev :=
  forUpto 12 (fun s k => s.setChan k { s.chan k with
    scrubbing := k == c && s.ink.scrubPeriod != 0 && !(s.chan k).fenced && (s.chan k).present }) s

theorem Dev.scrubMarks_frame {s : Dev} (wf : twf (fun _ => {}) s.ink.chans = true) (c : Nat) : s.MarkFrame (s.scrubMarks c) :=
  ((s.scrubMark_step c).steps ⟨wf, rfl⟩ 12).1

theorem Dev.scrubMarks_chan {s : Dev} (wf : twf (fun _ => {}) s.ink.chans = true) {c : Nat} (known : c < 12) :
    (s.scrubMarks c).chan c = (s.chan c).scrubs c (s.ink.scrubPeriod != 0) c :=
  (((s.scrubMark_step c).steps (s := s) ⟨wf, rfl⟩ 12).2 c).trans (if_pos known)

/-- What has befallen the bits of a line of channel `c` is noted. -/
def Dev.upset (s : Dev) (c off ecc : Nat) : Dev :=
  if ecc = 0 then s else { s with ink := { s.ink with errors := tset (fun _ => 0) s.ink.errors (lineKey c off) ecc } }

section
variable {s : Dev} {c off ecc : Nat}

theorem Dev.upset_eq : s.upset c off ecc = { s with ink := { s.ink with errors := (s.upset c off ecc).ink.errors } } := by
  unfold Dev.upset
  split
  · rfl
  · rfl

theorem Dev.upset_error (befallen : ecc ≠ 0) : tget (fun _ => 0) (s.upset c off ecc).ink.errors (lineKey c off) = ecc := by
  rw [Dev.upset, if_neg befallen]
  simp only [tset, befallen, if_false]
  exact tget_tput_same _ _ _ _

/-- A correctable error is corrected and counted. -/
theorem Dev.eccRead_one (one : tget (fun _ => 0) s.ink.errors (lineKey c off) = 1) :
    s.eccRead c off = ({ s with ink := { s.ink with errors := terase s.ink.errors (lineKey c off) } } : Dev).bump (Reg.inkCe c) := by
  simp only [Dev.eccRead, one]

/-- The state after the read of a line with an uncorrectable error, its record not yet posted. -/
def Dev.lineLost (s : Dev) (c off : Nat) : Dev :=
  (({ s with ink := { s.ink with
      errors := terase s.ink.errors (lineKey c off), poison := lineKey c off :: s.ink.poison } } : Dev).setChan c { s.chan c with
        lastUe := BitVec.ofNat 64 (off / 64 * 64)
        ueTimes := s.osc :: (s.chan c).ueTimes.filter fun t => s.osc < t + secTicks 3600 }).bump (Reg.inkUe c)

/-- A line with an uncorrectable error is poisoned and counted, and a record posted. -/
theorem Dev.eccRead_more (more : 2 ≤ tget (fun _ => 0) s.ink.errors (lineKey c off)) :
    s.eccRead c off = (s.lineLost c off).postErr Reg.inkStatus 0x0C 0x10 (c + at_ 8 (off / 64 * 64)) 2 := by
  unfold Dev.eccRead
  split
  · next zero => omega
  · next one => omega
  · rfl

theorem Dev.lineLost_chan (wf : twf (fun _ => {}) s.ink.chans = true) :
    (s.lineLost c off).chan c = { s.chan c with
      lastUe := BitVec.ofNat 64 (off / 64 * 64)
      ueTimes := s.osc :: (s.chan c).ueTimes.filter fun t => s.osc < t + secTicks 3600 } := tget_tset_same _ _ _ _ wf

theorem Dev.chan_postErr (o cls code detail sev : Nat) (part : Option Nat) (k : Nat) :
    (s.postErr o cls code detail sev part).chan k = s.chan k := by
  rw [Dev.postErr_eq]
  rfl

/-- A read of a line leaves the mark of its channel. -/
theorem Dev.eccRead_scrubbing (wf : twf (fun _ => {}) s.ink.chans = true) :
    ((s.eccRead c off).chan c).scrubbing = (s.chan c).scrubbing := by
  match found : tget (fun _ => 0) s.ink.errors (lineKey c off) with
  | 0 => simp only [Dev.eccRead, found]
  | 1 => rw [Dev.eccRead_one found]; rfl
  | n + 2 => rw [Dev.eccRead_more (by omega), Dev.chan_postErr, Dev.lineLost_chan wf]

section
variable (on : s.ink.scrubPeriod ≠ 0) (present : (s.chan c).present = true) (open_ : (s.chan c).fenced = false) (known : c < 12)
  (wf : twf (fun _ => {}) s.ink.chans = true)
include on present open_ known wf

theorem Dev.scrubMarks_scrubbing : ((s.scrubMarks c).chan c).scrubbing = true := by
  rw [Dev.scrubMarks_chan wf known]
  simp [Chan.scrubs, on, open_, present]

theorem Dev.scrub_running (time : s.osc < s.ink.scrubAt + secTicks (3600 * s.ink.scrubPeriod)) (within : off < s.ink.reference) :
    s.scrub c off ecc = ((s.scrubMarks c).upset c off ecc).eccRead c off := by
  have running : ¬ (s.ink.scrubPeriod = 0 || s.ink.scrubAt + secTicks (3600 * s.ink.scrubPeriod) ≤ s.osc) = true := by
    simp [on, Nat.not_le.mpr time]
  have reads : ¬ (!((s.scrubMarks c).chan c).scrubbing || (s.scrubMarks c).ink.reference ≤ off) = true := by
    have same : (s.scrubMarks c).ink.reference = s.ink.reference := congrArg (·.ink.reference) (Dev.scrubMarks_frame wf c).2
    rw [Dev.scrubMarks_scrubbing on present open_ known wf, same]
    simp [Nat.not_le.mpr within]
  unfold Dev.scrub
  dsimp only
  rw [if_neg running]
  exact if_neg reads

end
end

/-- Settles O50: training and the scrubber's marks are one step for each channel (`ChanStep`); a line's outcome is its ECC read's. -/
theorem inkwellUpkeep : Obligations.InkwellUpkeep := by
  unfold Obligations.InkwellUpkeep
  refine ⟨?_, ?_, ?_, ?_, ?_, ?_⟩
  · intro d s new freed wf at12 all
    obtain ⟨⟨-, frame⟩, chans⟩ := Dev.inkTrained_trains (l := d.chans) new freed wf
    refine ⟨_, rfl, ?_, ?_, ?_, ?_, ?_, ?_, rfl⟩
    · exact congrArg (·.ink.trained) frame
    · exact congrArg (·.ink.reference) frame
    · intro c known
      exact (congrArg Chan.present (chans c known)).trans (Chan.trained_present _ _ _ _)
    · intro c known ⟨x, listed, holds⟩ open_ code
      have some_ : (all.filter fun d => d.1 != 0).length ≠ 0 :=
        Nat.ne_of_gt (List.length_pos_of_mem (List.mem_filter.mpr ⟨listed, bne_iff_ne.mpr holds⟩))
      have fenced := Chan.trained_fenced (at12 c) some_ (reference all) open_
      rwa [← chans c known] at fenced
    · have rest := congrArg (fun d : Dev => ({ d.ink with
        trained := s.dev.ink.trained, reference := s.dev.ink.reference, fitted := s.dev.ink.fitted, chans := s.dev.ink.chans } : Ink)) frame
      exact rest
    · exact congrArg (·.mem) frame
  · intro region s k
    rfl
  · intro s r l q still fill found
    refine ⟨{ s with dev := ({ s.dev with ink := { s.dev.ink with fill := l } } : Dev).clearRegion q }, ?_, rfl, ?_, ?_, rfl⟩
    · refine s.next_dev ?_
      simp only [Dev.fillDone, still, fill, found]
    · intro e
      simp [Dev.clearRegion]
    · intro p
      simp [Dev.clearRegion]
  · intro chan off ecc s x on time present open_ within wf
    have marks : ((s.dev.scrubMarks chan).chan chan).scrubbing = true := Dev.scrubMarks_scrubbing on present open_ chan.isLt wf
    obtain ⟨sound, marked⟩ := Dev.scrubMarks_frame wf chan
    have upset : ecc.toNat ≠ 0 → _ := Dev.upset_error (s := s.dev.scrubMarks chan) (c := chan) (off := off.toNat)
    have noted := Dev.upset_eq (s := s.dev.scrubMarks chan) (c := chan) (off := off.toNat) (ecc := ecc.toNat)
    refine ⟨_, s.next_dev
      (Dev.scrub_running (ecc := ecc.toNat) on present open_ chan.isLt wf time within), ?_⟩
    generalize s.dev.scrubMarks chan = r at marks sound marked upset noted ⊢
    generalize r.upset chan off.toNat ecc.toNat = u at upset noted ⊢
    have chans : u.ink.chans = r.ink.chans := congrArg (·.ink.chans) noted
    have sound : twf (fun _ => {}) u.ink.chans = true := by rwa [chans]
    have marks : (u.chan chan).scrubbing = true := by rw [Dev.chan, chans]; exact marks
    have cnt : u.cnt = s.dev.cnt := (congrArg (·.cnt) noted).trans (congrArg (·.cnt) marked)
    have poison : u.ink.poison = s.dev.ink.poison := (congrArg (·.ink.poison) noted).trans (congrArg (·.ink.poison) marked)
    refine ⟨?_, ?_, ?_, ?_, rfl⟩
    · exact (Dev.eccRead_mem _ _ _).trans ((congrArg (·.mem) noted).trans (congrArg (·.mem) marked))
    · exact (Dev.eccRead_scrubbing sound).trans marks
    · rintro rfl
      dsimp only
      rw [Dev.eccRead_one (upset (by decide))]
      exact ⟨congrArg (fun c => tset (fun _ => 0) c (Reg.inkCe chan) (satAdd (tget (fun _ => 0) c (Reg.inkCe chan)) 1)) cnt, poison⟩
    · intro more
      dsimp only
      rw [Dev.eccRead_more (by rw [upset (by omega)]; exact more), Dev.chan_postErr, Dev.lineLost_chan sound, Dev.postErr_eq]
      exact ⟨congrArg (fun c => tset (fun _ => 0) c (Reg.inkUe chan) (satAdd (tget (fun _ => 0) c (Reg.inkUe chan)) 1)) cnt,
        congrArg (lineKey chan off.toNat :: ·) poison, rfl⟩
  · intro chan cause s x present open_ which
    exact s.next_dev
      ((Dev.autoFence_now present which).trans (Dev.fence_open open_ cause))
  · intro v chan w s view a x up open_ asked
    refine (onWrite_gated view _ s up).trans ?_
    refine s.next_dev ?_
    exact (if_pos asked).trans (Dev.fence_open open_ 0x07)

end Sys2Proof.Machine

namespace Sys2Proof.Machine

/-- A key set to what it reads as leaves the table. -/
theorem tset_tget {α : Type} [DecidableEq α] {d : Nat → α} {t : Tbl α} {k : Nat} (wf : twf d t = true) : tset d t k (tget d t k) = t := by
  obtain ⟨-, listed⟩ := (twf_iff d t).mp wf
  clear wf
  unfold tset
  induction t with
  | nil => exact if_pos rfl
  | cons p t ih =>
    obtain ⟨j, v⟩ := p
    have ih := ih fun q mem => listed q (List.mem_cons_of_mem _ mem)
    by_cases own : j = k
    · subst own
      have set : v ≠ d j := listed (j, v) List.mem_cons_self
      simp [tget, tput, set]
    · by_cases past : k < j
      · simp [tget, terase, own, past]
      · simp only [tget, terase, tput, own, past, if_false]
        split at ih
        · next unset => rw [if_pos unset, ih]
        · next set => rw [if_neg set, ih]

/-! ### Memory and the journal (R345): a write of Inkwell leaves the Folio, and a record moves its writer alone -/

theorem Dev.trayPump_fol (n : Nat) (s : Dev) (k : Nat) : (Dev.trayPump n s k).fol = s.fol := by
  induction n generalizing s with
  | zero => rfl
  | succ n ih =>
    rw [Dev.trayPump]
    split
    · rfl
    · split
      · exact ih _
      · split
        · rfl
        · exact ih _

theorem Dev.snoopSend_fol (s : Dev) (k opc a : Nat) : (s.snoopSend k opc a).fol = s.fol := Dev.trayPump_fol _ _ _

theorem Dev.recall_fol (s : Dev) (g a : Nat) (w : Bool) : (s.recall g a w).fol = s.fol := by
  unfold Dev.recall
  split
  · rfl
  · refine foldl_frame (·.fol) _ (fun s h => ?_) _ s
    dsimp only
    split
    · rfl
    · have before : (if w then s.setDir h a .i else s).fol = s.fol := by
        split
        · rfl
        · rfl
      split
      · exact before
      · exact (Dev.snoopSend_fol _ _ _ _).trans before

theorem Dev.eccRead_fol (s : Dev) (c off : Nat) : (s.eccRead c off).fol = s.fol := by
  unfold Dev.eccRead
  split
  · rfl
  · rfl
  · dsimp only
    rw [Dev.postErr_eq]
    rfl

theorem Dev.inkWriteLine_fol (s : Dev) (boot : Bool) (l : Nat) (part : List (Nat × Byte)) : (s.inkWriteLine boot l part).1.fol = s.fol := by
  unfold Dev.inkWriteLine
  split
  · rfl
  · split
    · rfl
    · extract_lets i u
      have read : u.fol = s.fol := by
        simp only [u]
        split
        · rfl
        · exact Dev.eccRead_fol s _ _
      split
      · exact read
      · refine (foldl_frame (·.fol) _ (fun s p => ?_) part u).trans read
        rfl

theorem Dev.inkWrite_fol (s : Dev) (boot : Bool) (a : Nat) (b : List Byte) : (s.inkWrite boot a b).1.fol = s.fol := by
  unfold Dev.inkWrite
  generalize linesOf a b.length = ls
  generalize ((List.range b.length).zip b |>.map fun p => (a + p.1, p.2)) = cells
  suffices H : ∀ q : Dev × MemOut, q.1.fol = s.fol → (ls.foldl (fun (q : Dev × MemOut) l =>
      let (s, o) := (q.1.recall 5 l true).inkWriteLine boot l (cells.filter fun p => p.1 / 64 * 64 == l)
      (s, firstOut [q.2, o])) q).1.fol = s.fol from H (s, .ok) rfl
  induction ls with
  | nil => exact fun q same => same
  | cons l ls ih => exact fun q same => ih _ ((Dev.inkWriteLine_fol _ _ _ _).trans ((Dev.recall_fol _ _ _ _).trans same))

/-- The two Folio states differ at most in where the next record goes: head, SEQ, and what POST may still write. -/
def Fol.SameButWriter (f g : Fol) : Prop := g = { f with head := g.head, seq := g.seq, postLeft := g.postLeft }

namespace Fol.SameButWriter

theorem refl (f : Fol) : f.SameButWriter f := rfl

theorem trans {f g h : Fol} (a : f.SameButWriter g) (b : g.SameButWriter h) : f.SameButWriter h := by
  unfold Fol.SameButWriter at *
  rw [b, a]

theorem st {f g : Fol} (same : f.SameButWriter g) : g.st = f.st := by
  unfold Fol.SameButWriter at same
  rw [same]

theorem markImg {f g : Fol} (same : f.SameButWriter g) : g.markImg = f.markImg := by
  unfold Fol.SameButWriter at same
  rw [same]

theorem folAppend (s : Dev) (r : Region) (kind part : Nat) (time : Word) (body : List Byte) (units : Nat) :
    s.fol.SameButWriter (s.folAppend r kind part time body units).fol := by
  have same := s.inkWrite_fol false (r.base + s.fol.head.toNat) (folBytes kind part units s.fol.seq.toNat time.toNat body)
  unfold Dev.folAppend Fol.SameButWriter
  dsimp only
  rw [same]

theorem folWrite (s : Dev) (kind part : Nat) (time : Word) (body : List Byte) :
    s.fol.SameButWriter (s.folWrite kind part time body).fol := by
  unfold Dev.folWrite
  split
  · exact refl _
  · dsimp only
    refine trans ?_ (folAppend _ _ _ _ _ _ _)
    split
    · exact trans (folAppend s _ _ _ _ _ _) (by rfl)
    · exact refl _

theorem folPut (s : Dev) (kind part : Nat) (time : Word) (body : List Byte) :
    s.fol.SameButWriter (s.folPut kind part time body).fol := by
  unfold Dev.folPut
  split
  · exact folWrite s _ _ _ _
  · exact refl _

end Fol.SameButWriter

/-! ### START, STOP, TRIGGER and REARM (R347) -/

section
variable {s : Dev} {v : View}

theorem Dev.seedRecords_keeps (s : Dev) : s.SameCore s.seedRecords ∧ s.seedRecords.fol.st = s.fol.st := by
  unfold Dev.seedRecords
  refine ⟨SameCore.fold _ (fun t x => SameCore.folPut t _ _ _ _) _ s, ?_⟩
  refine foldl_frame (·.fol.st) _ (fun t x => ?_) _ s
  exact (Fol.SameButWriter.folPut t _ _ _ _).st

theorem Dev.folStart_busy (busy : s.fol.st ≠ .idle) : s.folStart v = s.hostErr v Reg.folCtl 0x02 1 := if_pos busy

theorem Dev.folStart_idle (idle : s.fol.st = .idle) : (s.folStart v).fol.st = .capture ∧ (s.folStart v).rlg = s.rlg := by
  unfold Dev.folStart
  rw [if_neg (not_not_intro idle)]
  extract_lets f u w
  have begun : u.fol.SameButWriter w.fol := Fol.SameButWriter.folPut u _ _ _ _
  have core : u.SameCore w := SameCore.folPut u _ _ _ _
  obtain ⟨seeded, st⟩ := w.seedRecords_keeps
  exact ⟨st.trans begun.st, (congrArg (·.rlg) seeded).trans (congrArg (·.rlg) core)⟩

theorem Dev.folStop_capture (capture : s.fol.st = .capture) :
    s.folStop v = { s.folGap with fol := { s.folGap.fol with st := .idle } } := by
  simp only [Dev.folStop, capture]

theorem Dev.folStop_post (post : s.fol.st = .post) : s.folStop v = s.folFreeze := by
  simp only [Dev.folStop, post]

theorem Dev.folStop_other (capture : s.fol.st ≠ .capture) (post : s.fol.st ≠ .post) : s.folStop v = s.hostErr v Reg.folCtl 0x02 2 := by
  unfold Dev.folStop
  split
  · next st => exact absurd st capture
  · next st => exact absurd st post
  · rfl

theorem Dev.folTriggerCmd_capture (capture : s.fol.st = .capture) : s.folTriggerCmd v = s.folTrigger 0x1 0 := by
  simp only [Dev.folTriggerCmd, capture]

theorem Dev.folTriggerCmd_lost (late : s.fol.st = .post ∨ s.fol.st = .frozen) : s.folTriggerCmd v = s.bump Reg.folTrigLost := by
  rcases late with st | st
  · simp only [Dev.folTriggerCmd, Dev.folTrigger, st]
  · simp only [Dev.folTriggerCmd, Dev.folTrigger, st]

theorem Dev.folTrigger_capture (cause detail : Nat) (capture : s.fol.st = .capture) :
    let t := s.folTrigger cause detail
    let post := bits (s.reg Reg.folCfg) 63 32
    t.fol.freezeAt = s.rlg.time ∧ t.fol.st = (if post = 0 then .frozen else .post) ∧ t.fol.postLeft = post * 1024 := by
  unfold Dev.folTrigger
  simp only [capture]
  have core : s.SameCore _ := SameCore.trans (SameCore.folGap s)
    (SameCore.folPut s.folGap 0x0E 0x3F s.folGap.rlg.time (leBytes 1 cause ++ leBytes 1 detail ++ zeros 14))
  generalize s.folGap.folPut 0x0E 0x3F s.folGap.rlg.time (leBytes 1 cause ++ leBytes 1 detail ++ zeros 14) = u at core ⊢
  have rw_ : u.rw = s.rw := congrArg (·.rw) core
  have rlg : u.rlg = s.rlg := congrArg (·.rlg) core
  have cfg : u.reg Reg.folCfg = s.reg Reg.folCfg := by rw [Dev.reg, rw_]; rfl
  rw [cfg, rlg]
  refine ⟨rfl, ite_iff ?_ _ _, rfl⟩
  omega

theorem Dev.folRearm_frozen (frozen : s.fol.st = .frozen) : s.folRearm v = { s with fol := { s.fol with st := .idle } } := if_pos frozen
theorem Dev.folRearm_other (other : s.fol.st ≠ .frozen) : s.folRearm v = s.hostErr v Reg.folCtl 0x02 4 := if_neg other

/-! ### MARK and its STATE records (R348) -/

theorem Dev.folMark_other (other : s.fol.st ≠ .capture) : s.folMark v = s.hostErr v Reg.folCtl 0x02 5 := if_pos other

/-- With no scope in use a MARK is one record. -/
theorem Dev.folMark_unscoped (capture : s.fol.st = .capture) (unscoped : s.folScopes = []) :
    s.folMark v = s.folPut 0x12 0x3F s.rlg.time (zeros 16) := by
  have ids : ∀ kind lim, s.scopeIds kind lim = [] := fun kind lim => by
    simp only [Dev.scopeIds, unscoped, List.filterMap_nil]; rfl
  have parts : s.markParts = [] := ids 0 64
  have rings : ∀ held, s.markRings held = [] := fun held => by
    simp only [Dev.markRings, ids, parts, List.flatMap_nil, List.append_nil]; rfl
  have slots : ∀ ex, s.markSlots ex = [] := fun ex => by
    have none_ : (s.definedSlots.filter fun k => (s.grpDef ex k).any fun d => [].contains d.part) = [] := by
      simp
    simp only [Dev.markSlots, ids, parts, none_, List.append_nil]; rfl
  have bits_ : ((List.range 64).filter fun k => bit (s.reg (Reg.folScope k)) 63) = [] := by
    rw [List.filter_eq_nil_iff]
    intro k listed used
    have found : (bits (s.reg (Reg.folScope k)) 61 60, bits (s.reg (Reg.folScope k)) 19 0, bit (s.reg (Reg.folScope k)) 62) ∈ s.folScopes :=
      List.mem_filterMap.mpr ⟨k, listed, if_pos used⟩
    rw [unscoped] at found
    exact absurd found List.not_mem_nil
  have conns : (s.conns.filter fun p => decide (p.2.st ≠ .reset) && (s.connPart p.1).any ([] : List Nat).contains) = [] := by
    rw [List.filter_eq_nil_iff]
    intro p _ held
    simp only [Bool.and_eq_true, Option.any_eq_true, List.contains_nil, Bool.false_eq_true, and_false, exists_const] at held
  have body : leBytes 8 0 ++ zeros 8 = zeros 16 := by decide
  unfold Dev.folMark
  rw [if_neg (not_not_intro capture)]
  simp only [rings, slots, parts, bits_, conns, body, List.foldl_nil, List.map_nil, List.sum_nil, List.append_nil]

/-- Where no packet waits for a fetch of the connection, none goes on. -/
theorem Dev.drain_empty {env : Env} {c : Nat} (none_ : (s.conn c).holding = []) (wf : twf (fun _ => {}) s.conns = true) :
    s.drain env c = s := by
  have same : s.setConn c { s.conn c with holding := [] } = s := by
    rw [← none_]
    exact congrArg (fun l => { s with conns := l }) (tset_tget wf)
  unfold Dev.drain
  rw [none_, same]
  rfl

/-- A connection whose STATE record was the only one still to be written, and that holds no packet, goes on. -/
theorem Dev.stateDone_only {env : Env} {c : Nat} {b : List Byte} (only : s.fol.markImg = [(2, c, b)]) (none_ : (s.conn c).holding = [])
    (wf : twf (fun _ => {}) s.conns = true) :
    s.stateDone env c =
      let w := s.folState ((s.connPart c).getD 0x3F) 2 c b
      (({ w with fol := { w.fol with markImg := [] } } : Dev).enter env).settle := by
  have written : s.fol.SameButWriter (s.folState ((s.connPart c).getD 0x3F) 2 c b).fol := Fol.SameButWriter.folPut s _ _ _ _
  have core : s.SameCore (s.folState ((s.connPart c).getD 0x3F) 2 c b) := SameCore.folPut s _ _ _ _
  have img := written.markImg.trans only
  unfold Dev.stateDone Dev.stateWritten
  simp only [only, List.find?_cons, beq_self_eq_true, Bool.and_self]
  generalize s.folState ((s.connPart c).getD 0x3F) 2 c b = w at core img ⊢
  simp only [img, eraseFirst, beq_self_eq_true, Bool.and_self, if_true]
  let u : Dev := { w with fol := { w.fol with markImg := [] } }
  have conns : (u.enter env).conns = s.conns := (congrArg (·.conns) (SameCore.enter u env)).trans (congrArg (·.conns) core)
  refine (if_neg (show ¬ u.markHeld c = true by simp [u, Dev.markHeld])).trans ?_
  rw [Dev.drain_empty]
  · rw [Dev.conn, conns]; exact none_
  · rw [conns]; exact wf

/-- Two words make the 128 bits they are the halves of. -/
theorem halves_append (x : BitVec 128) : (x >>> 64).setWidth 64 ++ x.setWidth 64 = x := by
  ext i lt
  rw [BitVec.getElem_append]
  split
  · next low =>
    rw [BitVec.getElem_setWidth]
    rfl
  · next high =>
    rw [BitVec.getElem_setWidth, BitVec.getLsbD_ushiftRight, show 64 + (i - 64) = i by omega]
    rfl

/-! ### Replay (R349 to R351) -/

theorem Dev.replayEnter_may (may : s.replayMay = true) :
    let t := s.replayEnter v
    t.fol.st = .replayReady ∧ t.det.replay = true ∧ t.capo.down = 0xFFFF := by
  unfold Dev.replayEnter
  rw [if_neg (by simp [may])]
  exact ⟨rfl, rfl, rfl⟩

theorem Dev.replayEnter_not (not_ : s.replayMay = false) : s.replayEnter v = s.hostErr v Reg.folCtl 0x02 6 := if_pos (by simp [not_])

section
variable {env : Env} {u : Dev} (ready : s.fol.st = .replayReady ∨ s.fol.st = .replayDone ∨ s.fol.st = .diverged)
include ready

theorem Dev.replayStart_unread
    (read : Dev.extReadAll (ceilDiv (s.reg Reg.folReplayLen).toNat 64) (s.enter env) env (s.reg Reg.folReplaySrc) 0
      (s.reg Reg.folReplayLen).toNat [] = (u, none)) :
    s.replayStart v env = { u with fol := { u.fol with replayResult := 0x02 } } := by
  unfold Dev.replayStart
  rcases ready with st | st | st
  · simp only [st, read]
  · simp only [st, read]
  · simp only [st, read]

theorem Dev.replayStart_passes {b : List Byte} {l : List FolRec}
    (read : Dev.extReadAll (ceilDiv (s.reg Reg.folReplayLen).toNat 64) (s.enter env) env (s.reg Reg.folReplaySrc) 0
      (s.reg Reg.folReplayLen).toNat [] = (u, some b))
    (parsed : folParse (b.length / 16 + 1) b none [] = some l) (sound : u.replayCode l = 0) :
    s.replayStart v env = u.replayBegin l := by
  have passes : ¬ (u.replayCode l != 0) = true := by rw [sound]; decide
  unfold Dev.replayStart
  rcases ready with st | st | st
  · simp only [st, read, parsed]; exact if_neg passes
  · simp only [st, read, parsed]; exact if_neg passes
  · simp only [st, read, parsed]; exact if_neg passes

end

theorem Dev.replayBegin_of_mark {l : List FolRec} {m : FolRec} (mark : l.find? (fun r => r.is 0x12) = some m) :
    let t := s.replayBegin l
    t.fol.st = .replaying ∧ t.rlg.time = m.time - 102400000 ∧ t.rlg.replayRun = true ∧
      t.fol.recs = (l.dropWhile fun r => !r.is 0x12).filter FolRec.consumed := by
  unfold Dev.replayBegin
  rw [mark]
  exact ⟨rfl, rfl, rfl, rfl⟩

theorem Dev.replayExit_not (not_ : s.fol.st.inReplay = false) : s.replayExit v = s.hostErr v Reg.folCtl 0x02 8 :=
  if_neg (by simp [not_])

theorem Dev.replayExit_in (in_ : s.fol.st.inReplay = true) : s.replayExit v = s.replayEnd := if_pos in_

/-- The partitions at rest again; nothing else changes. -/
theorem Dev.replayRest_eq (s : Dev) : s.replayRest = { s with ptns := s.replayRest.ptns } := by
  unfold Dev.replayRest forUpto
  generalize List.range 63 = l
  induction l generalizing s with
  | nil => rfl
  | cons i l ih =>
    rw [List.foldl_cons]
    split
    · rw [ih]; rfl
    · exact ih s

theorem Dev.replayEnd_leaves (s : Dev) :
    let t := s.replayEnd
    t.det.replay = false ∧ t.fol.st = (if s.folRegion.isSome then .idle else .unavailable) ∧ (s.rlg.lock = .free → t.rlg.time = 0) ∧
      (s.rlg.lock ≠ .free → t.rlg.time = s.rlg.time) ∧ t.mem = s.mem := by
  unfold Dev.replayEnd
  rw [s.replayRest_eq]
  generalize s.replayRest.ptns = p
  refine ⟨rfl, rfl, fun free => ?_, fun kept => ?_, rfl⟩
  · dsimp only
    rw [if_pos free]
  · dsimp only
    rw [if_neg kept]

/-- The last record, a doorbell that is due, is counted, and the range is consumed. -/
theorem Dev.replayInject_lastBell {f : Flash} {r : FolRec} (replaying : s.fol.st = .replaying) (produced : s.fol.produced = [])
    (last : s.fol.recs = [r]) (bell : r.kind = 0x02) (due : s.extend r.time ≤ s.now) :
    s.replayInject f {} =
      let k := leAt r.body 0 2 % 16384
      let a := s.setRing k { s.ring k with doorbells := satAdd (s.ring k).doorbells 1 }
      { a with fol := { a.fol with
        st := .replayDone, replayResult := 0x01, recs := [], produced := [], replayPos := r.seq.setWidth 64 } } := by
  have still : ∀ t : Dev, t.fol.produced = [] → t.compareAll = t := fun t none_ => by
    simp only [Dev.compareAll, none_, List.foldl_nil]
    rw [← none_]
  have input : r.input = true := by simp [FolRec.input, FolRec.is, bell]
  have injected : s.injectNext f {} = s.inject f {} r := by
    unfold Dev.injectNext
    rw [if_neg (not_not_intro replaying), last]
    simp only [List.find?_cons, input]
    exact if_pos due
  have bell_ : s.inject f {} r =
      let k := leAt r.body 0 2 % 16384
      let a := s.consume r
      a.setRing k { a.ring k with doorbells := satAdd (a.ring k).doorbells 1 } := by
    unfold Dev.inject
    rw [bell]
    rfl
  have emptied : (s.consume r).fol.recs = [] := by
    simp [Dev.consume, last, eraseFirst]
  unfold Dev.replayInject
  rw [if_neg (not_not_intro replaying), Dev.enter_none, still s produced, injected, bell_]
  have ends : ∀ t : Dev, t.fol.st = .replaying → t.fol.recs = [] → t.fol.produced = [] →
      t.compareAll.checkLate.replayOver = { t with fol := { t.fol with st := .replayDone, replayResult := 0x01, recs := [], produced := [] } } := by
    intro t st recs none_
    have late : t.checkLate = t := by
      simp only [Dev.checkLate, Dev.lateOutput, recs, List.find?_nil, ite_self]
    rw [still t none_, late]
    exact if_pos ⟨st, by simp [recs]⟩
  exact ends _ replaying emptied produced

end

/-- Settles O51: by the branches of each command's function; a record written moves the journal's writer alone. A range that
cannot be read and a replayed doorbell that only counts are log entry 82. -/
theorem folioCommands : Obligations.FolioCommands := by
  unfold Obligations.FolioCommands
  refine ⟨?_, ?_, ?_, ?_⟩
  · intro v s view a refused
    have rlg (n : Nat) : (a n).rlg = s.dev.rlg := s.tapped_rlg v Reg.folCtl (BitVec.ofNat 64 n)
    have start : exec (.start v) s = .next { s with dev := (a 1).folStart v } := onWrite_held view _ _ _ s
    have stop : exec (.stop v) s = .next { s with dev := (a 2).folStop v } := onWrite_held view _ _ _ s
    have trigger : exec (.trigger v) s = .next { s with dev := (a 3).folTriggerCmd v } := onWrite_held view _ _ _ s
    have rearm : exec (.rearm v) s = .next { s with dev := (a 4).folRearm v } := onWrite_held view _ _ _ s
    have mark : exec (.mark v) s = .next { s with dev := (a 5).folMark v } := onWrite_held view _ _ _ s
    have enter : exec (.replayEnter v) s = .next { s with dev := (a 6).replayEnter v } := onWrite_held view _ _ _ s
    have replay (env : Env) : exec (.replayStart v env) s = .next { s with dev := (a 7).replayStart v env } := onWrite_held view _ _ _ s
    have leave : exec (.replayExit v) s = .next { s with dev := (a 8).replayExit v } := onWrite_held view _ _ _ s
    refine ⟨fun idle => ?_, fun busy => ?_, fun capture => ?_, fun post => ?_, fun capture post => ?_, fun capture => ?_, fun late => ?_,
      fun frozen => ?_, fun other => ?_, fun capture unscoped => ?_, fun other => ?_, fun may => ?_, fun not_ => ?_, ?_, ?_,
      fun in_ => ?_, fun not_ => ?_, ?_⟩
    · obtain ⟨st, same⟩ := Dev.folStart_idle (v := v) idle
      exact ⟨_, start, st, same.trans (rlg 1), rfl⟩
    · rw [start, Dev.folStart_busy busy]
      rfl
    · rw [stop, Dev.folStop_capture capture]
    · rw [stop, Dev.folStop_post post]
      rfl
    · rw [stop, Dev.folStop_other capture post]
      rfl
    · obtain ⟨at_, st, left⟩ := Dev.folTrigger_capture 0x1 0 capture
      have held : (a 3).rw = s.dev.rw := congrArg (·.rw) (s.sameCore_tapped v Reg.folCtl (BitVec.ofNat 64 3))
      have cfg : (a 3).reg Reg.folCfg = s.dev.reg Reg.folCfg := by rw [Dev.reg, held]; rfl
      rw [cfg] at st left
      refine ⟨_, trigger, ?_⟩
      dsimp only
      rw [Dev.folTriggerCmd_capture capture]
      exact ⟨at_.trans (congrArg Rlg.time (rlg 3)), st, left, rfl⟩
    · rw [trigger, Dev.folTriggerCmd_lost late]
    · rw [rearm, Dev.folRearm_frozen frozen]
    · rw [rearm, Dev.folRearm_other other]
      rfl
    · rw [mark, Dev.folMark_unscoped capture unscoped, rlg]
    · rw [mark, Dev.folMark_other other]
      rfl
    · obtain ⟨st, on, down⟩ := Dev.replayEnter_may (v := v) may
      exact ⟨_, enter, st, on, down, rfl⟩
    · rw [enter, Dev.replayEnter_not not_]
      rfl
    · intro env u b l m ready n read parsed sound found
      obtain ⟨st, time, runs, recs⟩ := Dev.replayBegin_of_mark (s := u) found
      refine ⟨_, replay env, ?_⟩
      dsimp only
      rw [Dev.replayStart_passes ready read parsed sound]
      exact ⟨st, time, runs, recs, rfl⟩
    · intro env u ready n read
      rw [replay, Dev.replayStart_unread ready read]
    · obtain ⟨off, st, free, kept, mem⟩ := (a 8).replayEnd_leaves
      refine ⟨_, leave, ?_⟩
      dsimp only
      rw [Dev.replayExit_in in_]
      rw [rlg] at free kept
      exact ⟨off, st, free, kept, mem, rfl⟩
    · rw [leave, Dev.replayExit_not not_]
      rfl
    · intro w b r
      refine ⟨_, onWrite_held view _ _ _ s, ?_, rfl⟩
      exact halves_append r
  · intro s post used
    exact s.next_dev (if_pos ⟨post, used⟩)
  · intro conn env s b c only none_ wf
    exact s.next_dev (Dev.stateDone_only only none_ wf)
  · intro s r replaying produced last bell due
    exact s.next_dev
      (Dev.replayInject_lastBell (f := s.flash) replaying produced last bell due)

end Sys2Proof.Machine

namespace Sys2Proof.Machine

/-! ### Optical ports and laser bays, read after a write -/

section
variable {s : Dev}

theorem Dev.optPort_setOpt_same (wf : twf (fun _ => {}) s.opt = true) (p : Nat) (o : OptPort) : (s.setOpt p o).optPort p = o :=
  tget_tset_same _ _ _ _ wf
theorem Dev.setOpt_wf (wf : twf (fun _ => {}) s.opt = true) (p : Nat) (o : OptPort) : twf (fun _ => {}) (s.setOpt p o).opt = true :=
  twf_tset _ _ _ _ wf
theorem Dev.bay_setBay_same (wf : twf (fun _ => {}) s.bays = true) (i : Nat) (b : Bay) : (s.setBay i b).bay i = b :=
  tget_tset_same _ _ _ _ wf
theorem Dev.setBay_wf (wf : twf (fun _ => {}) s.bays = true) (i : Nat) (b : Bay) : twf (fun _ => {}) (s.setBay i b).bays = true :=
  twf_tset _ _ _ _ wf

end

/-- Wavelengths each named once and changed in turn: each changes as it would alone, and nothing else does. -/
theorem OptPort.foldl_setWl {β : Type} (g : β → Wl → Wl) (l : List (Nat × β)) {o : OptPort} (wf : twf (fun _ => {}) o.wls = true)
    (once : (l.map (·.1)).Nodup) :
    let r := l.foldl (fun o x => o.setWl x.1 (g x.2 (o.wl x.1))) o
    (∀ x ∈ l, r.wl x.1 = g x.2 (o.wl x.1)) ∧ (∀ k, k ∉ l.map (·.1) → r.wl k = o.wl k) := by
  induction l generalizing o with
  | nil => exact ⟨fun x mem => absurd mem List.not_mem_nil, fun k _ => rfl⟩
  | cons y l ih =>
    rw [List.map_cons, List.nodup_cons] at once
    obtain ⟨new, once⟩ := once
    have set : twf (fun _ => {}) (o.setWl y.1 (g y.2 (o.wl y.1))).wls = true := twf_tset _ _ _ _ wf
    have ne (k : Nat) (other : k ≠ y.1) : (o.setWl y.1 (g y.2 (o.wl y.1))).wl k = o.wl k := tget_tset_ne _ _ _ _ _ other wf
    obtain ⟨named, rest⟩ := ih set once
    refine ⟨fun x mem => ?_, fun k out => ?_⟩
    · rcases List.mem_cons.mp mem with rfl | mem
      · exact (rest x.1 new).trans (tget_tset_same _ _ _ _ wf)
      · have other : x.1 ≠ y.1 := fun same => new (same ▸ List.mem_map_of_mem mem)
        exact (named x mem).trans (by rw [ne x.1 other])
    · rw [List.map_cons, List.mem_cons, not_or] at out
      exact (rest k out.2).trans (ne k out.1)

/-- Wavelengths changed in turn change the wavelengths alone. -/
theorem OptPort.foldl_setWl_eq {β : Type} (h : OptPort → β → Nat × Wl) (l : List β) (o : OptPort) :
    l.foldl (fun o x => o.setWl (h o x).1 (h o x).2) o =
      { o with wls := (l.foldl (fun o x => o.setWl (h o x).1 (h o x).2) o).wls } := by
  induction l generalizing o with
  | nil => rfl
  | cons x l ih =>
    rw [List.foldl_cons, ih]
    rfl

theorem OptPort.eachWl_eq (o : OptPort) (f : Wl → Wl) : o.eachWl f = { o with wls := (o.eachWl f).wls } :=
  OptPort.foldl_setWl_eq (fun o w => (w, f (o.wl w))) (List.range 8) o

theorem OptPort.eachWl_wl {o : OptPort} (wf : twf (fun _ => {}) o.wls = true) (f : Wl → Wl) {w : Nat} (known : w < 8) :
    (o.eachWl f).wl w = f (o.wl w) := by
  have each : o.eachWl f = ((List.range 8).map fun w => (w, ())).foldl (fun o x => o.setWl x.1 (f (o.wl x.1))) o := by
    rw [List.foldl_map]
    rfl
  obtain ⟨named, -⟩ := OptPort.foldl_setWl (fun (_ : Unit) => f) ((List.range 8).map fun w => (w, ())) wf (by decide)
  rw [each]
  exact named (w, ()) (List.mem_map.mpr ⟨w, List.mem_range.mpr known, rfl⟩)

theorem Wl.fence_berExp (x : Wl) : x.fence.berExp = x.berExp := by
  unfold Wl.fence
  split
  · rfl
  · rfl

/-! ### A port that nothing crosses, or of the Ethernet personality -/

/-- The two states agree in all that decides whether a port is alone, and in the running configuration. -/
structure Dev.SameTraffic (s t : Dev) : Prop where
  run : t.run = s.run
  rte : t.rte = s.rte
  sch : t.sch = s.sch
  slots : t.slots = s.slots
  exchs : t.exchs = s.exchs
  conns : t.conns = s.conns
  cache : t.connCache = s.connCache
  ops : t.ops = s.ops
  img : t.fol.markImg = s.fol.markImg

/-- The port is one of the Ethernet personality, or nothing crosses it. -/
def Dev.Apart (s : Dev) (p : Nat) : Prop := s.isEth p = true ∨ s.Lone p

namespace Dev.SameTraffic

theorem nextTx {s t : Dev} (same : s.SameTraffic t) (c : Nat) : t.nextTx c = s.nextTx c := by
  have conn : t.conn c = s.conn c := by rw [Dev.conn, same.conns]; rfl
  have op (r : Nat) (pos : BitVec 32) : t.op? r pos = s.op? r pos := by rw [Dev.op?, same.ops]; rfl
  have cached : t.ctxCached c = s.ctxCached c := by rw [Dev.ctxCached, same.cache]; rfl
  have held : t.markHeld c = s.markHeld c := by rw [Dev.markHeld, same.img]; rfl
  unfold Dev.nextTx
  simp only [conn, op, cached, held]

theorem lone {s t : Dev} (same : s.SameTraffic t) {p : Nat} (lone : s.Lone p) : t.Lone p where
  arriving := by rw [Dev.link, same.rte]; exact lone.arriving
  queued := by rw [same.sch]; exact lone.queued
  slots := same.slots.trans lone.slots
  exchs := same.exchs.trans lone.exchs
  offers := by
    rw [same.conns]
    exact fun c mem => (same.nextTx c.1).trans (lone.offers c mem)

theorem isEth {s t : Dev} (same : s.SameTraffic t) (p : Nat) : t.isEth p = s.isEth p := by
  unfold Dev.isEth Dev.st
  rw [same.run]

theorem apart {s t : Dev} (same : s.SameTraffic t) {p : Nat} (apart : s.Apart p) : t.Apart p :=
  apart.imp (fun eth => (same.isEth p).trans eth) same.lone

theorem setOpt (s : Dev) (p : Nat) (o : OptPort) : s.SameTraffic (s.setOpt p o) := ⟨rfl, rfl, rfl, rfl, rfl, rfl, rfl, rfl, rfl⟩

theorem trans {s t u : Dev} (a : s.SameTraffic t) (b : t.SameTraffic u) : s.SameTraffic u :=
  ⟨b.run.trans a.run, b.rte.trans a.rte, b.sch.trans a.sch, b.slots.trans a.slots, b.exchs.trans a.exchs, b.conns.trans a.conns,
    b.cache.trans a.cache, b.ops.trans a.ops, b.img.trans a.img⟩

theorem optErr (s : Dev) (p code wl ber sev : Nat) : s.SameTraffic (s.optErr p code wl ber sev) := by
  unfold Dev.optErr
  rw [Dev.postErr_eq]
  exact ⟨rfl, rfl, rfl, rfl, rfl, rfl, rfl, rfl, rfl⟩

end Dev.SameTraffic

/-! ### Fences of a port (R359, R360) -/

/-- An optical port once fenced for a cause. -/
def OptPort.fencedAs (o : OptPort) (cause : Byte) : OptPort :=
  let o := o.eachWl Wl.fence
  if o.fenced then o else { o with fenced := true, cause := cause, fences := satAdd o.fences 1 }

theorem OptPort.eachWl_fenced (o : OptPort) (f : Wl → Wl) : (o.eachWl f).fenced = o.fenced := by
  rw [OptPort.eachWl_eq]

section
variable {s : Dev} {p : Nat} (apart : s.Apart p)
include apart

theorem Dev.fencePort_apart (cause : Byte) (wl ber : Nat) : s.fencePort p cause wl ber = s.fencedFor p cause wl ber := by
  unfold Dev.fencePort Dev.fencedFor
  extract_lets o a b
  rw [show o.fenced = (s.optPort p).fenced from OptPort.eachWl_fenced _ _]
  split
  · rfl
  · have same : s.SameTraffic b := (Dev.SameTraffic.setOpt s p _).trans (Dev.SameTraffic.optErr _ _ _ _ _ _)
    change (if b.isEth p then _ else b.goDown p 5) = _
    rcases same.apart apart with eth | lone
    · rw [if_pos eth, if_pos eth]
    · rw [Dev.goDown_lone 5 lone]

end

/-! ### What a fence leaves alone -/

/-- The two states differ at most in optical ports, in links and Ethernet ports, in DOWN bits, and in counts and records. -/
def Dev.FenceOnly (s t : Dev) : Prop :=
  t = { s with opt := t.opt, eth := t.eth, rte := t.rte, capo := t.capo, cnt := t.cnt, err := t.err }

namespace Dev.FenceOnly

theorem refl (s : Dev) : s.FenceOnly s := rfl

theorem trans {s t u : Dev} (a : s.FenceOnly t) (b : t.FenceOnly u) : s.FenceOnly u := by
  unfold Dev.FenceOnly at *
  rw [b, a]

theorem postErr (s : Dev) (off cls code detail sev : Nat) (part : Option Nat) : s.FenceOnly (s.postErr off cls code detail sev part) := by
  rw [Dev.postErr_eq]
  rfl

end Dev.FenceOnly

theorem Dev.linkOff_eq (s : Dev) (p : Nat) : s.linkOff p = { s with rte := (s.linkOff p).rte } := by
  have step (l : List Nat) (u : Dev) : l.foldl (fun s q =>
      if (s.link q).cut.any fun c => c.1 == p then s.setLink q { s.link q with cut := none } else s) u = { u with
        rte := (l.foldl (fun s q => if (s.link q).cut.any fun c => c.1 == p then s.setLink q { s.link q with cut := none } else s) u).rte } := by
    induction l generalizing u with
    | nil => rfl
    | cons q l ih =>
      rw [List.foldl_cons]
      split
      · rw [ih]; rfl
      · exact ih u
  unfold Dev.linkOff forUpto
  generalize List.range 16 = l
  rw [step l]
  rfl

theorem Dev.linkOff_only (s : Dev) (p : Nat) : s.FenceOnly (s.linkOff p) ∧ (s.linkOff p).opt = s.opt := by
  rw [Dev.linkOff_eq]
  generalize (s.linkOff p).rte = r
  exact ⟨rfl, rfl⟩

/-- A port that goes down leaves all optical ports. -/
theorem Dev.wentDown_only (s : Dev) (p code : Nat) : s.FenceOnly (s.wentDown p code) ∧ (s.wentDown p code).opt = s.opt := by
  unfold Dev.wentDown
  extract_lets down c a b
  have start : s.FenceOnly b ∧ b.opt = s.opt := by
    simp only [b]
    split
    · exact ⟨.refl s, rfl⟩
    · rw [Dev.postErr_eq]
      exact ⟨rfl, rfl⟩
  split
  · obtain ⟨off, same⟩ := b.linkOff_only p
    exact ⟨start.1.trans off, same.trans start.2⟩
  · exact start

/-- What a fence leaves: the port as `OptPort.fencedAs` has it, and nothing beside `Dev.FenceOnly`. -/
theorem Dev.fencedFor_only (s : Dev) (p : Nat) (cause : Byte) (wl ber : Nat) :
    s.FenceOnly (s.fencedFor p cause wl ber) ∧
      (s.fencedFor p cause wl ber).opt = (s.setOpt p ((s.optPort p).fencedAs cause)).opt := by
  unfold Dev.fencedFor OptPort.fencedAs
  extract_lets o a
  rw [show o.fenced = (s.optPort p).fenced from OptPort.eachWl_fenced _ _]
  have posted : s.FenceOnly a ∧ a.opt = (s.setOpt p { o with fenced := true, cause := cause, fences := satAdd o.fences 1 }).opt := by
    simp only [a, Dev.optErr]
    rw [Dev.postErr_eq]
    exact ⟨rfl, rfl⟩
  clear_value a
  obtain ⟨only, opt⟩ := posted
  split
  · exact ⟨rfl, rfl⟩
  · split
    · exact ⟨only.trans rfl, opt⟩
    · obtain ⟨down, same⟩ := a.wentDown_only p 5
      exact ⟨only.trans down, same.trans opt⟩

section
variable {s : Dev} {p : Nat} (wf : twf (fun _ => {}) s.opt = true)
include wf

theorem Dev.fencedFor_optPort (cause : Byte) (wl ber : Nat) : (s.fencedFor p cause wl ber).optPort p = (s.optPort p).fencedAs cause := by
  rw [Dev.optPort, (s.fencedFor_only p cause wl ber).2]
  exact Dev.optPort_setOpt_same wf p _

end

theorem OptPort.fencedAs_fenced (o : OptPort) (cause : Byte) : (o.fencedAs cause).fenced = true := by
  unfold OptPort.fencedAs
  dsimp only
  split
  · next fenced => exact fenced
  · rfl

theorem OptPort.fencedAs_first {o : OptPort} (open_ : o.fenced = false) (cause : Byte) : (o.fencedAs cause).cause = cause := by
  unfold OptPort.fencedAs
  dsimp only
  rw [OptPort.eachWl_fenced, open_]
  rfl

theorem OptPort.fencedAs_fec (o : OptPort) (cause : Byte) :
    (o.fencedAs cause).fecCorr = o.fecCorr ∧ (o.fencedAs cause).fecUncorr = o.fecUncorr := by
  unfold OptPort.fencedAs
  rw [OptPort.eachWl_eq]
  dsimp only
  split
  · exact ⟨rfl, rfl⟩
  · exact ⟨rfl, rfl⟩

theorem OptPort.fencedAs_berExp {o : OptPort} (wf : twf (fun _ => {}) o.wls = true) (cause : Byte) {w : Nat} (known : w < 8) :
    ((o.fencedAs cause).wl w).berExp = (o.wl w).berExp := by
  have each : ((o.eachWl Wl.fence).wl w).berExp = (o.wl w).berExp := by
    rw [OptPort.eachWl_wl wf Wl.fence known, Wl.fence_berExp]
  unfold OptPort.fencedAs
  generalize o.eachWl Wl.fence = e at each ⊢
  dsimp only
  split
  · exact each
  · exact each

/-! ### BER_WINDOW_END (R358) -/

/-- The wavelengths' BERs as the port keeps them: each of eight, and none above 16 bits. -/
theorem berWindow_list {bers : List Nat} (eight : bers.length = 8) (small : ∀ b ∈ bers, b ≤ 0xFFFF) :
    ((List.range 8).zip bers |>.map fun x => (x.1, min x.2 0xFFFF)) = (List.range 8).map fun w => (w, bers.getD w 0) := by
  refine List.ext_getElem (by simp [eight]) fun w left right => ?_
  have known : w < bers.length := by simpa [eight] using right
  simp [List.getElem?_eq_getElem known, small _ (List.getElem_mem known)]

/-- An optical port with its BERs and the FEC's counts of a window. -/
def OptPort.window (o : OptPort) (bers : List Nat) (corr uncorr : Nat) (bad : Bool) : OptPort :=
  let o := ((List.range 8).map fun w => (w, bers.getD w 0)).foldl (fun o x =>
    o.setWl x.1 { o.wl x.1 with berExp := BitVec.ofNat 16 x.2 }) o
  { o with berBad := bad, fecCorr := satAdd o.fecCorr corr, fecUncorr := satAdd o.fecUncorr uncorr }

section
variable (o : OptPort) (bers : List Nat) (corr uncorr : Nat) (bad : Bool)

theorem OptPort.window_rest : (o.window bers corr uncorr bad).fenced = o.fenced ∧
    (o.window bers corr uncorr bad).fecCorr = satAdd o.fecCorr corr ∧
    (o.window bers corr uncorr bad).fecUncorr = satAdd o.fecUncorr uncorr := by
  unfold OptPort.window
  generalize ((List.range 8).map fun w => (w, bers.getD w 0)) = l
  rw [OptPort.foldl_setWl_eq (fun (o : OptPort) (x : Nat × Nat) => (x.1, { o.wl x.1 with berExp := BitVec.ofNat 16 x.2 }))]
  exact ⟨rfl, rfl, rfl⟩

theorem OptPort.foldl_setWl_wf {β : Type} (h : OptPort → β → Nat × Wl) (l : List β) {o : OptPort} (wf : twf (fun _ => {}) o.wls = true) :
    twf (fun _ => {}) (l.foldl (fun o x => o.setWl (h o x).1 (h o x).2) o).wls = true := by
  induction l generalizing o with
  | nil => exact wf
  | cons x l ih => exact ih (twf_tset _ _ _ _ wf)

variable {o} (wf : twf (fun _ => {}) o.wls = true)
include wf

theorem OptPort.window_wf : twf (fun _ => {}) (o.window bers corr uncorr bad).wls = true := by
  unfold OptPort.window
  generalize ((List.range 8).map fun w => (w, bers.getD w 0)) = l
  exact OptPort.foldl_setWl_wf (fun o (x : Nat × Nat) => (x.1, { o.wl x.1 with berExp := BitVec.ofNat 16 x.2 })) l wf

theorem OptPort.window_berExp {w : Nat} (known : w < 8) :
    ((o.window bers corr uncorr bad).wl w).berExp = BitVec.ofNat 16 (bers.getD w 0) := by
  have once : (((List.range 8).map fun w => (w, bers.getD w 0)).map (·.1)).Nodup := by
    rw [List.map_map]
    exact (List.nodup_range (n := 8))
  have listed : (w, bers.getD w 0) ∈ (List.range 8).map fun w => (w, bers.getD w 0) :=
    List.mem_map.mpr ⟨w, List.mem_range.mpr known, rfl⟩
  unfold OptPort.window
  generalize ((List.range 8).map fun w => (w, bers.getD w 0)) = l at once listed ⊢
  obtain ⟨named, -⟩ := OptPort.foldl_setWl (fun (b : Nat) x => { x with berExp := BitVec.ofNat 16 b }) l wf once
  exact congrArg Wl.berExp (named _ listed)

end

section
variable {s : Dev} {p : Nat} {bers : List Nat} {corr uncorr : Nat} (apart : s.Apart p) (eight : bers.length = 8)
  (small : ∀ b ∈ bers, b ≤ 0xFFFF)

/-- The state with the window's BERs and counts kept. -/
def Dev.windowed (s : Dev) (p : Nat) (bers : List Nat) (corr uncorr : Nat) (bad : Bool) : Dev :=
  s.setOpt p ((s.optPort p).window bers corr uncorr bad)

include apart eight small

/-- What a window of BERs ends in: a fence, a record, or neither. -/
theorem Dev.berWindow_cases (th : Word) (is : th = s.reg Reg.optThresh) :
    (∃ w < 8, bers.getD w 0 < bits th 31 16 ∧
      s.berWindow p bers corr uncorr = (s.windowed p bers corr uncorr true).fencedFor p 0x09 w (bers.getD w 0)) ∨
    (∀ w < 8, bits th 31 16 ≤ bers.getD w 0) ∧ (∃ w < 8, bers.getD w 0 < bits th 15 0 ∧
      s.berWindow p bers corr uncorr = (s.windowed p bers corr uncorr false).optErr p 0x10 w (bers.getD w 0) 1) ∨
    (∀ w < 8, bits th 31 16 ≤ bers.getD w 0) ∧ s.berWindow p bers corr uncorr = s.windowed p bers corr uncorr false := by
  have kept := berWindow_list eight small
  have listed : ∀ x : Nat × Nat, x ∈ ((List.range 8).map fun w => (w, bers.getD w 0)) ↔ x.1 < 8 ∧ x.2 = bers.getD x.1 0 := by
    rintro ⟨w, b⟩
    simp only [List.mem_map, List.mem_range, Prod.mk.injEq]
    constructor
    · rintro ⟨_, known, rfl, rfl⟩
      exact ⟨known, rfl⟩
    · rintro ⟨known, rfl⟩
      exact ⟨w, known, rfl, rfl⟩
  unfold Dev.berWindow
  rw [kept]
  unfold Dev.windowed OptPort.window
  generalize ((List.range 8).map fun w => (w, bers.getD w 0)) = l at listed ⊢
  subst is
  dsimp only
  cases found : l.find? (fun x => decide (x.2 < bits (s.reg Reg.optThresh) 31 16)) with
  | none =>
    right
    have high (w : Nat) (known : w < 8) : bits (s.reg Reg.optThresh) 31 16 ≤ bers.getD w 0 := by
      simpa using List.find?_eq_none.mp found (w, bers.getD w 0) ((listed _).mpr ⟨known, rfl⟩)
    cases found' : l.find? (fun x => decide (x.2 < bits (s.reg Reg.optThresh) 15 0)) with
    | none => exact .inr ⟨high, rfl⟩
    | some x =>
      obtain ⟨known, is⟩ := (listed x).mp (List.mem_of_find?_eq_some found')
      have low := List.find?_some found'
      rw [is] at low
      refine .inl ⟨high, x.1, known, by simpa using low, ?_⟩
      rw [← is]
      rfl
  | some x =>
    left
    obtain ⟨known, is⟩ := (listed x).mp (List.mem_of_find?_eq_some found)
    have low := List.find?_some found
    rw [is] at low
    refine ⟨x.1, known, by simpa using low, ?_⟩
    rw [← is, ← Dev.fencePort_apart ((Dev.SameTraffic.setOpt s p _).apart apart)]
    rfl

end

/-! ### PORT_UNFENCE (R359) -/

section
variable {s : Dev} {v : View} {p : Nat} (fenced : (s.optPort p).fenced = true)
include fenced

/-- Where no cause persists the fence ends, and a lit port seeks. -/
theorem Dev.unfence_clear (present : (s.bay p).present = true) (interlock : (s.bay p).interlock = true)
    (refused : (s.bay p).refused = false) (released : (s.bay p).released = false) (overload : (s.bay p).overload = false)
    (ber : (s.optPort p).berBad = false) (rx : (s.optPort p).rxLow = false) (tx : (s.optPort p).txLow = false) :
    s.unfence v p =
      let clear := s.setOpt p { s.optPort p with fenced := false, cause := 0, rxLow := false, txLow := false }
      if (s.bay p).lit then clear.seekPort p else clear := by
  have gone : s.causePersists p = (s, false) := by
    simp [Dev.causePersists, present, interlock, refused, released, overload, ber, rx, tx]
  unfold Dev.unfence
  rw [if_neg (by simp [fenced]), gone]
  rfl

theorem Dev.unfence_absent (absent : (s.bay p).present = false) : s.unfence v p = s.hostErr v Reg.optPortCtl 0x02 2 := by
  have stays : s.causePersists p = (s, true) := by
    simp [Dev.causePersists, absent]
  unfold Dev.unfence
  rw [if_neg (by simp [fenced]), stays]

end

/-! ### The journal's copy of a write leaves what decides whether a port is alone -/

theorem Dev.folGap_markImg (s : Dev) : s.folGap.fol.markImg = s.fol.markImg := by
  unfold Dev.folGap
  split
  · rfl
  · exact (Fol.SameButWriter.folWrite s _ _ _ _).markImg

theorem Dev.folTap_markImg (s : Dev) (kind part : Nat) (body : List Byte) : (s.folTap kind part body).fol.markImg = s.fol.markImg := by
  unfold Dev.folTap
  split
  · rfl
  · split
    · rfl
    · split
      · exact (Fol.SameButWriter.folPut _ _ _ _ _).markImg.trans s.folGap_markImg
      · rfl

theorem State.tapped_markImg (s : State) (v : View) (off : Nat) (w : Word) : (s.tapped v off w).fol.markImg = s.dev.fol.markImg := by
  unfold State.tapped Dev.tapWrite
  dsimp only
  split
  · rfl
  · split
    · split
      · exact Dev.folTap_markImg _ _ _ _
      · rfl
    · unfold Dev.folEvent
      split
      · exact Dev.folTap_markImg _ _ _ _
      · rfl
    · rfl

theorem State.tapped_sameTraffic (s : State) (v : View) (off : Nat) (w : Word) : s.dev.SameTraffic (s.tapped v off w) := by
  have core := s.sameCore_tapped v off w
  have img := s.tapped_markImg v off w
  generalize s.tapped v off w = a at core img ⊢
  exact ⟨congrArg (·.run) core, congrArg (·.rte) core, congrArg (·.sch) core, congrArg (·.slots) core, congrArg (·.exchs) core,
    congrArg (·.conns) core, congrArg (·.connCache) core, congrArg (·.ops) core, img⟩

/-! ### Laser source modules (R362 to R367) -/

/-- The state a bay ends in when it takes the new state `b`: its light and the current that goes with it aside, `b` itself. -/
def Bay.settled (b : Bay) (off : Bool) : Bay := if off then { b with enLow := false, lit := false } else b.drive

/-- Whether a bay has light: where the lasers are not off, of a powered module that may shine (R362, R438). -/
def Bay.lights (b : Bay) (off : Bool) : Bool := b.interlock && b.present && b.checked && !b.released && !b.overload && !off

theorem Bay.settled_eq (b : Bay) (off : Bool) : ∃ e, b.settled off = { b with enLow := e, lit := b.lights off } := by
  unfold Bay.settled Bay.lights
  cases off
  · exact ⟨_, by simp only [Bay.drive, Bool.false_eq_true, if_false, Bool.not_false, Bool.and_true]; rfl⟩
  · exact ⟨false, by simp⟩

/-- The two states differ at most in bays, optical ports and free values drawn. -/
def Dev.BayOnly (s t : Dev) : Prop := t = { s with bays := t.bays, opt := t.opt, free := t.free }

section
variable {s : Dev} {i : Nat}

section
variable (wf : twf (fun _ => {}) s.bays = true) (opt : twf (fun _ => {}) s.opt = true)
include wf opt

theorem Dev.putBay_settles (b : Bay) :
    s.BayOnly (s.putBay i b) ∧ twf (fun _ => {}) (s.putBay i b).bays = true ∧ twf (fun _ => {}) (s.putBay i b).opt = true ∧
      ∃ c, (s.putBay i b).bay i = { b.settled s.lasersOff with current := c } := by
  unfold Dev.putBay
  rw [show (if s.lasersOff then { b with enLow := false, lit := false } else b.drive) = b.settled s.lasersOff from rfl]
  generalize b.settled s.lasersOff = n
  dsimp only
  split
  · exact ⟨rfl, Dev.setBay_wf wf i _, Dev.setOpt_wf opt i _, _, Dev.bay_setBay_same wf i _⟩
  · exact ⟨rfl, Dev.setBay_wf wf i _, Dev.setOpt_wf opt i _, _, Dev.bay_setBay_same wf i _⟩
  · exact ⟨rfl, Dev.setBay_wf wf i _, opt, n.current, Dev.bay_setBay_same wf i n⟩

/-- A bay takes its new state. Its light follows from it, and nothing but the port's wavelengths and a free value changes beside. -/
theorem Dev.putBay_takes (b : Bay) :
    s.BayOnly (s.putBay i b) ∧ twf (fun _ => {}) (s.putBay i b).bays = true ∧ twf (fun _ => {}) (s.putBay i b).opt = true ∧
      ∃ e c, (s.putBay i b).bay i = { b with enLow := e, lit := b.lights s.lasersOff, current := c } := by
  obtain ⟨only, bays, opts, c, took⟩ := Dev.putBay_settles (i := i) wf opt b
  obtain ⟨e, settled⟩ := b.settled_eq s.lasersOff
  exact ⟨only, bays, opts, e, c, by rw [took, settled]⟩

/-- A bay takes its new state and its port, which nothing crosses, is fenced. -/
theorem Dev.putBay_fencePort (apart : s.Apart i) (b : Bay) (cause : Byte) :
    let t := (s.putBay i b).fencePort i cause
    (∃ e c, t.bay i = { b with enLow := e, lit := b.lights s.lasersOff, current := c }) ∧ (t.optPort i).fenced = true ∧
      t.mem = s.mem ∧ t.lives = s.lives ∧ twf (fun _ => {}) t.opt = true := by
  obtain ⟨only, -, opts, e, c, took⟩ := Dev.putBay_takes (i := i) wf opt b
  generalize s.putBay i b = u at only opts took ⊢
  unfold Dev.BayOnly at only
  have crossed : s.SameTraffic u := by
    rw [only]
    exact ⟨rfl, rfl, rfl, rfl, rfl, rfl, rfl, rfl, rfl⟩
  intro t
  have fenced : t = u.fencedFor i cause 0 0 := Dev.fencePort_apart (crossed.apart apart) cause 0 0
  obtain ⟨leaves, written⟩ := u.fencedFor_only i cause 0 0
  rw [fenced]
  unfold Dev.FenceOnly at leaves
  refine ⟨⟨e, c, ?_⟩, ?_, ?_, ?_, ?_⟩
  · exact (congrArg (fun d : Dev => d.bay i) leaves).trans took
  · rw [Dev.fencedFor_optPort opts]
    exact OptPort.fencedAs_fenced _ _
  · exact (congrArg (·.mem) leaves).trans (congrArg (·.mem) only)
  · exact (congrArg (·.lives) leaves).trans (congrArg (·.lives) only)
  · rw [written]
    exact Dev.setOpt_wf opts _ _

end

/-- A check that is due begins, or nothing happens. -/
theorem Dev.checkStart_begins (wf : twf (fun _ => {}) s.bays = true) (f : Flash) :
    (s.checkStart f i).mem = s.mem ∧
      ∃ x y z, (s.checkStart f i).bay i = { s.bay i with checking := x, challenge := y, challenges := z } := by
  unfold Dev.checkStart
  dsimp only
  split
  · exact ⟨rfl, (s.bay i).checking, (s.bay i).challenge, (s.bay i).challenges, rfl⟩
  · exact ⟨rfl, true, _, _, Dev.bay_setBay_same wf i _⟩

end

section
variable {s : Dev} {f : Flash} {i : Nat}

/-- The bay of a module inserted, as its EEPROM describes it. -/
def Bay.inserted (b : Bay) (f : Flash) (e : List Byte) : Bay :=
  let serial := BitVec.ofNat 128 (leAt e 0 16)
  let kept := match f.life.find? fun r => r.1 == serial with
    | some r => r.2.toNat
    | none => 0
  { b with
    present := true, checked := false, refused := false, checking := false, overload := false
    serial := serial
    iNom := BitVec.ofNat 32 (leAt e 16 4)
    iMax := BitVec.ofNat 32 (leAt e 20 4)
    rated := BitVec.ofNat 64 (leAt e 24 8)
    eepromLife := BitVec.ofNat 64 (leAt e 32 8)
    life := max (leAt e 32 8) kept * 1000000
    insertions := satAdd b.insertions 1
    cert := some e }

theorem Dev.lsmInsert_empty (e : List Byte) (empty : (s.bay i).present = false) :
    s.lsmInsert f i e = (s.putBay i ((s.bay i).inserted f e)).checkStart f i := if_neg (by simp [empty])

theorem Dev.checkEnd_passed {answer : List Byte} (checking : (s.bay i).checking = true) (core : s.rst.coreUp = true)
    (good : moduleOk f (s.bay i) answer = true) :
    s.checkEnd f i answer = s.putBay i { s.bay i with checking := false, checked := true, released := false } := by
  unfold Dev.checkEnd
  dsimp only
  rw [if_neg (by simp [checking, core]), if_pos good]

theorem Dev.checkEnd_refused {answer : List Byte} (checking : (s.bay i).checking = true) (core : s.rst.coreUp = true)
    (bad : moduleOk f (s.bay i) answer = false) :
    s.checkEnd f i answer = (s.putBay i { s.bay i with checking := false, refused := true }).refusePort i := by
  unfold Dev.checkEnd
  dsimp only
  rw [if_neg (by simp [checking, core]), if_neg (by simp [bad])]

theorem Dev.lsmRemove_present (present : (s.bay i).present = true) :
    s.lsmRemove i =
      let b := s.bay i
      let u : Dev := { s with lives := (b.serial, BitVec.ofNat 64 b.lifeSecs) :: s.lives.filter fun x => x.1 != b.serial }
      (u.putBay i { b with
        present := false, checked := false, refused := false, checking := false, overload := false, cert := none }).fencePort i 0x02 :=
  if_neg (by simp [present])

theorem Dev.interlockOpen_closed (closed : (s.bay i).interlock = true) :
    s.interlockOpen i = (s.putBay i { s.bay i with interlock := false, checking := false }).fencePort i 0x03 := if_neg (by simp [closed])

theorem Dev.lsmOverload_present (present : (s.bay i).present = true) :
    s.lsmOverload i = (s.putBay i { s.bay i with overload := true, checking := false }).fencePort i 0x08 := if_neg (by simp [present])

/-- A lit bay with the life of one tick added. -/
def Bay.ticked (b : Bay) (current : Nat) : Bay :=
  { b with
    current := BitVec.ofNat 32 current
    life := b.life + 1000000 * current * current / (b.iNom.toNat * b.iNom.toNat) }

theorem Dev.lifeTick_lit (current : Nat) (lit : (s.bay i).lit = true) :
    s.lifeTick i current = (s.setBay i ((s.bay i).ticked current)).lifeErrs i (s.bay i).lifeWarn ((s.bay i).ticked current).lifeWarn :=
  if_neg (by simp [lit])

/-- The records of the levels reached are all that changes. -/
theorem Dev.lifeErrs_eq (s : Dev) (i frm upto : Nat) : s.lifeErrs i frm upto = { s with err := (s.lifeErrs i frm upto).err } := by
  unfold Dev.lifeErrs
  generalize [1, 2, 3] = l
  induction l generalizing s with
  | nil => rfl
  | cons k l ih =>
    rw [List.foldl_cons]
    split
    · rw [ih, Dev.postErr_eq]
    · exact ih s

theorem Dev.eepromWrite_powered (present : (s.bay i).present = true) (power : (s.bay i).overload = false) :
    s.eepromWrite i = s.setBay i { s.bay i with eepromLife := BitVec.ofNat 64 (s.bay i).lifeSecs } := if_neg (by simp [present, power])

theorem Dev.lifeWrite_core (core : s.rst.coreUp = true) :
    s.lifeWrite f = s.addJob (.life (s.lifeRecords f)) (ceilDiv (24 * (s.lifeRecords f).length) 4096) := if_neg (by simp [core])

end

/-- An element that the list has is read whatever the default. -/
theorem getD_of_lt {l : List Nat} {w d : Nat} (lt : w < l.length) : l.getD w d = l[w] := by
  rw [List.getD_eq_getElem?_getD, List.getElem?_eq_getElem lt, Option.getD_some]

/-- Settles O52: a fence by `Dev.fencedFor_only`, a bay's new state by `Dev.putBay_takes`. That a port seeks after an unfence, and the
rest of how a fence treats rings and bays, are log entries 85 to 88. -/
theorem opticsAndLasers : Obligations.OpticsAndLasers := by
  unfold Obligations.OpticsAndLasers
  refine ⟨?_, ?_⟩
  · intro port s apart p o
    have next {d e : Dev} (same : d = e) : (Host.Outcome.next ({ s with dev := d } : State) : Host.Outcome State Fault Refusal) =
        .next { s with dev := e } := by rw [same]
    have set (q : OptPort) : (s.dev.setOpt p q).Apart p := (Dev.SameTraffic.setOpt s.dev p q).apart apart
    refine ⟨?_, ?_, ?_, ?_⟩
    · intro wl x lost
      have leaves : s.dev.lockLost p wl = lost.fencedFor p 0x06 wl 0 := Dev.fencePort_apart (set _) 0x06 wl 0
      refine ⟨fun seek => ?_, fun seek late => ?_, fun locked => ?_, fun light => ?_⟩
      · exact next (if_pos seek)
      · exact next ((if_pos ⟨seek, late⟩).trans leaves)
      · exact next ((if_pos locked).trans leaves)
      · exact next ((if_neg light).trans (Dev.fencePort_apart (set _) 0x07 wl 0))
    · intro lit
      have on : ¬ (!(s.dev.bay port.val).lit) = true := by simp [show (s.dev.bay port.val).lit = true from lit]
      exact next ((if_neg on).trans (Dev.fencePort_apart (set _) 0x08 0 0))
    · intro bers corr uncorr eight small wf opts th
      have element (w : Nat) (known : w < 8) : bers.getD w 0 ∈ bers := by
        rw [getD_of_lt (by omega)]
        exact List.getElem_mem _
      have each (b : Nat) (mem : b ∈ bers) : ∃ w < 8, bers.getD w 0 = b := by
        obtain ⟨w, lt, is⟩ := List.getElem_of_mem mem
        exact ⟨w, by omega, by rw [getD_of_lt lt, is]⟩
      have exact_ (w : Nat) (known : w < 8) : (BitVec.ofNat 16 (bers.getD w 0)).toNat = bers.getD w 0 := by
        rw [BitVec.toNat_ofNat, Nat.mod_eq_of_lt (Nat.lt_succ_of_le (small _ (element w known)))]
      have kept (bad : Bool) : (s.dev.windowed p bers corr uncorr bad).optPort p = o.window bers corr uncorr bad :=
        Dev.optPort_setOpt_same opts p _
      refine ⟨{ s with dev := s.dev.berWindow p bers corr uncorr }, rfl, ?_⟩
      rcases Dev.berWindow_cases (s := s.dev) (p := p) (corr := corr) (uncorr := uncorr) apart eight small th rfl with
        ⟨w, known, low, ends⟩ | ⟨high, w, known, low, ends⟩ | ⟨high, ends⟩
      · have port_ : (s.dev.berWindow p bers corr uncorr).optPort p = (o.window bers corr uncorr true).fencedAs 0x09 := by
          have held : twf (fun _ => {}) (s.dev.windowed p bers corr uncorr true).opt = true := Dev.setOpt_wf opts _ _
          rw [ends, Dev.fencedFor_optPort held, kept]
        obtain ⟨fenced, fec, unfec⟩ := o.window_rest bers corr uncorr true
        obtain ⟨fec', unfec'⟩ := (o.window bers corr uncorr true).fencedAs_fec 0x09
        dsimp only
        rw [port_]
        refine ⟨fun w known => ?_, fec'.trans fec, unfec'.trans unfec, fun good => ?_, fun bad => ?_⟩
        · rw [OptPort.fencedAs_berExp (OptPort.window_wf _ _ _ _ wf) _ known, OptPort.window_berExp _ _ _ _ wf known, exact_ w known]
        · exact absurd (good _ (element w known)).1 (Nat.not_le.mpr low)
        · exact ⟨OptPort.fencedAs_fenced _ _, fun open_ => OptPort.fencedAs_first (fenced.trans open_) _⟩
      · have port_ : (s.dev.berWindow p bers corr uncorr).optPort p = o.window bers corr uncorr false := by
          rw [ends, Dev.optErr, Dev.postErr_eq, ← kept]
          rfl
        obtain ⟨fenced, fec, unfec⟩ := o.window_rest bers corr uncorr false
        dsimp only
        rw [port_]
        refine ⟨fun w known => ?_, fec, unfec, fun good => ?_, fun ⟨b, mem, bad⟩ => ?_⟩
        · rw [OptPort.window_berExp _ _ _ _ wf known, exact_ w known]
        · exact absurd (good _ (element w known)).2 (Nat.not_le.mpr low)
        · obtain ⟨w, known, rfl⟩ := each b mem
          exact absurd (high w known) (Nat.not_le.mpr bad)
      · have port_ : (s.dev.berWindow p bers corr uncorr).optPort p = o.window bers corr uncorr false := by
          rw [ends, kept]
        obtain ⟨fenced, fec, unfec⟩ := o.window_rest bers corr uncorr false
        dsimp only
        rw [port_]
        refine ⟨fun w known => ?_, fec, unfec, fun good => ⟨fenced, ?_⟩, fun ⟨b, mem, bad⟩ => ?_⟩
        · rw [OptPort.window_berExp _ _ _ _ wf known, exact_ w known]
        · rw [ends]
          rfl
        · obtain ⟨w, known, rfl⟩ := each b mem
          exact absurd (high w known) (Nat.not_le.mpr bad)
    · intro v view
      have crossed (w : Word) : (s.tapped v Reg.optPortCtl w).Apart p := (s.tapped_sameTraffic v Reg.optPortCtl w).apart apart
      refine ⟨?_, ?_⟩
      · intro a up
        exact (onWrite_gated view _ s up).trans (next (Dev.fencePort_apart (crossed 1) 0x01 0 0))
      · intro a b clear up fenced
        have ports : a.opt = s.dev.opt := congrArg (·.opt) (s.sameCore_tapped v Reg.optPortCtl 2)
        have same : a.optPort p = o := by rw [Dev.optPort, ports]; rfl
        have was : (a.optPort p).fenced = true := by rw [same]; exact fenced
        have runs : exec (.portUnfence v port) s = .next { s with dev := a.unfence v p } := onWrite_gated view _ s up
        refine ⟨fun present interlock refused released overload ber rx tx => ?_, fun absent => ?_⟩
        · rw [runs, Dev.unfence_clear was present interlock refused released overload (by rw [same]; exact ber)
            (by rw [same]; exact rx) (by rw [same]; exact tx), same]
        · rw [runs, Dev.unfence_absent was absent]
  · intro bay s apart bays opts b dark
    have whole : s.dev.Apart bay := apart
    refine ⟨?_, ?_, ?_, ?_, ?_, ?_, ?_, ?_, ?_, ?_⟩
    · intro e empty
      obtain ⟨only, wf, -, x, c, took⟩ := Dev.putBay_takes (i := bay.val) bays opts (b.inserted s.flash e)
      obtain ⟨mem, y, z, w, begun⟩ := Dev.checkStart_begins (i := bay.val) wf s.flash
      have runs : s.dev.lsmInsert s.flash bay e = (s.dev.putBay bay (b.inserted s.flash e)).checkStart s.flash bay :=
        Dev.lsmInsert_empty e empty
      rw [← runs, took] at begun
      rw [← runs] at mem
      refine ⟨_, rfl, ?_⟩
      dsimp only
      rw [begun]
      refine ⟨rfl, rfl, by simp [Bay.lights, Bay.inserted], rfl, rfl, rfl, ?_, mem.trans (congrArg (·.mem) only), rfl⟩
      exact Nat.mul_le_mul_right _ (Nat.le_max_left _ _)
    · intro answer checking core
      refine ⟨fun good => ?_, fun bad => ?_⟩
      · obtain ⟨only, -, -, x, c, took⟩ := Dev.putBay_takes (i := bay.val) bays opts
          { b with checking := false, checked := true, released := false }
        refine ⟨_, s.next_dev (Dev.checkEnd_passed checking core good), ?_⟩
        dsimp only
        rw [took]
        exact ⟨rfl, rfl, by simp [Bay.lights], congrArg (·.mem) only, rfl⟩
      · obtain ⟨⟨x, c, took⟩, -, mem, -, wf⟩ := Dev.putBay_fencePort (i := bay.val) bays opts whole
          { b with checking := false, refused := true } 0x04
        obtain ⟨-, fenced, -⟩ := Dev.putBay_fencePort (i := bay.val) bays opts whole { b with checking := false, refused := true } 0x04
        refine ⟨_, s.next_dev (Dev.checkEnd_refused checking core bad), ?_⟩
        unfold Dev.refusePort
        dsimp only
        rw [Dev.optPort_setOpt_same wf]
        refine ⟨congrArg Bay.refused took, congrArg Bay.checking took, fenced, mem, rfl⟩
    · intro present
      let u : Dev := { s.dev with lives := (b.serial, BitVec.ofNat 64 b.lifeSecs) :: s.dev.lives.filter fun x => x.1 != b.serial }
      have same : s.dev.SameTraffic u := ⟨rfl, rfl, rfl, rfl, rfl, rfl, rfl, rfl, rfl⟩
      obtain ⟨⟨x, c, took⟩, fenced, mem, lives, -⟩ := Dev.putBay_fencePort (s := u) (i := bay.val) bays opts (same.apart whole)
        { b with present := false, checked := false, refused := false, checking := false, overload := false, cert := none } 0x02
      refine ⟨_, s.next_dev (Dev.lsmRemove_present present),
        congrArg Bay.present took, congrArg List.head? lives, (congrArg Bay.lit took).trans ?_, fenced, mem, rfl⟩
      simp [Bay.lights]
    · intro closed
      obtain ⟨⟨x, c, took⟩, fenced, mem, -⟩ := Dev.putBay_fencePort (i := bay.val) bays opts whole
        { b with interlock := false, checking := false } 0x03
      refine ⟨_, s.next_dev (Dev.interlockOpen_closed closed),
        congrArg Bay.interlock took, (congrArg Bay.lit took).trans ?_, fenced, mem, rfl⟩
      simp [Bay.lights]
    · obtain ⟨only, wf, -, x, c, took⟩ := Dev.putBay_takes (i := bay.val) bays opts { b with interlock := true }
      obtain ⟨mem, y, z, w, begun⟩ := Dev.checkStart_begins (i := bay.val) wf s.flash
      rw [took] at begun
      refine ⟨_, rfl, congrArg Bay.interlock begun, (congrArg Bay.lit begun).trans ?_, mem.trans (congrArg (·.mem) only), rfl⟩
      simp [Bay.lights]
    · intro v view a
      have core := s.sameCore_tapped v Reg.lsmCtl 1
      obtain ⟨⟨x, c, took⟩, fenced, mem, -⟩ := Dev.putBay_fencePort (s := a) (i := bay.val)
        (by rw [show a.bays = s.dev.bays from congrArg (·.bays) core]; exact bays)
        (by rw [show a.opt = s.dev.opt from congrArg (·.opt) core]; exact opts)
        ((s.tapped_sameTraffic v Reg.lsmCtl 1).apart whole) { a.bay bay with released := true } 0x05
      refine ⟨_, onWrite_held view _ _ _ s, congrArg Bay.released took, (congrArg Bay.lit took).trans ?_, fenced, mem, rfl⟩
      simp [Bay.lights]
    · intro present
      obtain ⟨⟨x, c, took⟩, fenced, mem, -⟩ := Dev.putBay_fencePort (i := bay.val) bays opts whole
        { b with overload := true, checking := false } 0x08
      refine ⟨_, s.next_dev (Dev.lsmOverload_present present),
        congrArg Bay.overload took, (congrArg Bay.lit took).trans ?_, fenced, mem, rfl⟩
      simp [Bay.lights]
    · intro current lit
      refine ⟨_, s.next_dev (Dev.lifeTick_lit current.toNat lit), ?_⟩
      dsimp only
      rw [Dev.lifeErrs_eq]
      have set := Dev.bay_setBay_same bays bay.val (b.ticked current.toNat)
      refine ⟨(congrArg Bay.current set).trans ?_, congrArg Bay.life set, rfl⟩
      simp [Bay.ticked]
    · intro present power
      exact s.next_dev (Dev.eepromWrite_powered present power)
    · intro core l
      exact s.next_dev (Dev.lifeWrite_core core)

end Sys2Proof.Machine

namespace Sys2Proof.Machine

/-! ### Accesses to memory leave the Ethernet ports and the queue pairs alone -/

/-- The Ethernet ports, the queue pairs and the running configuration do not differ. -/
def Dev.SameQueues (s t : Dev) : Prop := t.eth = s.eth ∧ t.qps = s.qps ∧ t.run = s.run

namespace SameQueues

theorem refl (s : Dev) : s.SameQueues s := ⟨rfl, rfl, rfl⟩

theorem trans {s t u : Dev} (h : s.SameQueues t) (k : t.SameQueues u) : s.SameQueues u :=
  ⟨k.1.trans h.1, k.2.1.trans h.2.1, k.2.2.trans h.2.2⟩

theorem ofCore {s t : Dev} (h : s.SameCore t) : s.SameQueues t :=
  ⟨congrArg (·.eth) h, congrArg (·.qps) h, congrArg (·.run) h⟩

theorem fold {β : Type} (f : Dev → β → Dev) (step : ∀ (s : Dev) (x : β), s.SameQueues (f s x)) (l : List β) (s : Dev) :
    s.SameQueues (l.foldl f s) := by
  induction l generalizing s with
  | nil => exact refl s
  | cons x l ih => exact trans (step s x) (ih _)

theorem bump (s : Dev) (off : Nat) : s.SameQueues (s.bump off) := ⟨rfl, rfl, rfl⟩

theorem pinnedAsk (s : Dev) (fn : Nat) : s.SameQueues (s.pinnedAsk fn) := ofCore (SameCore.pinnedAsk s fn)

theorem keyTouch (s : Dev) (i : Nat) : s.SameQueues (s.keyTouch i) := ⟨rfl, rfl, rfl⟩

theorem keyLoad (s : Dev) (i : Nat) : s.SameQueues (s.keyLoad i) := by
  unfold Dev.keyLoad
  split
  · exact keyTouch s i
  · have read : s.SameQueues ((s.bump Reg.keyMisses).keyRead i) := trans (bump _ _) (ofCore (SameCore.keyRead _ i))
    dsimp only
    split
    · exact trans read (keyTouch _ i)
    · exact read
    · refine trans (trans ?_ (ofCore (SameCore.postErr _ _ _ _ _ _ _))) (keyTouch _ i)
      exact ⟨read.1, read.2.1, read.2.2⟩

theorem keyCheck (s : Dev) (k : BitVec 32) (part a n need : Nat) : s.SameQueues (s.keyCheck k part a n need).1 := by
  unfold Dev.keyCheck
  dsimp only
  split
  · exact keyLoad _ _
  · exact trans (keyLoad _ _) (bump _ _)

theorem xltTouch (s : Dev) (cls : Nat) (y : XltEnt) : s.SameQueues (s.xltTouch cls y) := by
  unfold Dev.xltTouch
  split
  · exact refl s
  · exact ⟨rfl, rfl, rfl⟩

theorem xltInsert (s : Dev) (cls : Nat) (x : XltEnt) : s.SameQueues (s.xltInsert cls x) := by
  unfold Dev.xltInsert
  split
  · exact ⟨rfl, rfl, rfl⟩
  · exact refl s

theorem cacheTouch (s : Dev) (key n : Nat) : s.SameQueues (s.cacheTouch key n) := by
  unfold Dev.cacheTouch
  extract_lets may
  split
  · exact refl s
  · exact ⟨rfl, rfl, rfl⟩

theorem walked (s : Dev) (fn : Nat) (l : List (Option Nat)) : s.SameQueues (s.walked fn l) := by
  refine trans (bump s Reg.xltWalks) (fold _ (fun s q => ?_) l _)
  split
  · exact trans (pinnedAsk _ _) (cacheTouch _ _ _)
  · exact pinnedAsk _ _

theorem demandMiss (s : Dev) (k : BitVec 32) (x : BitVec 256) (a : Nat) (write : Bool) (who : Nat) :
    s.SameQueues (s.demandMiss k x a write who).1 := by
  unfold Dev.demandMiss
  dsimp only
  split
  · exact ⟨rfl, rfl, rfl⟩
  · split
    · exact bump _ _
    · split
      · exact bump _ _
      · split <;> exact ⟨rfl, rfl, rfl⟩

theorem pinnedMiss (s : Dev) (e : Env) (x : BitVec 256) (ats : Bool) (ent : XltEnt) (a : Nat) (write : Bool) :
    s.SameQueues (s.pinnedMiss e x ats ent a write).1 := by
  unfold Dev.pinnedMiss
  extract_lets fn sz missed
  generalize (if keyXlt x == 0 then ([], some (a / 4096 * 4096, true)) else s.tableWalk e fn x a) = found
  obtain ⟨reads, walk⟩ := found
  dsimp only
  have asked : s.SameQueues (if keyXlt x == 0 then missed else missed.walked fn reads) := by
    split
    · exact bump _ _
    · exact trans (bump _ _) (walked _ _ _)
  generalize (if keyXlt x == 0 then missed else missed.walked fn reads) = u at asked ⊢
  refine trans asked ?_
  split
  · exact bump _ _
  · split
    · exact bump _ _
    · split
      · split
        · exact ⟨rfl, rfl, rfl⟩
        · split
          · exact ⟨rfl, rfl, rfl⟩
          · exact trans (bump _ _) (xltInsert _ _ _)
      · exact xltInsert _ _ _

theorem translate (s : Dev) (e : Env) (k : BitVec 32) (a : Nat) (write : Bool) (who : Nat) :
    s.SameQueues (s.translate e k a write who).1 := by
  unfold Dev.translate
  dsimp only
  split
  · exact xltTouch _ _ _
  · split
    · exact demandMiss _ _ _ _ _ _
    · split
      · exact refl s
      · split
        · exact bump _ _
        · exact pinnedMiss _ _ _ _ _ _ _

theorem pieces (s : Dev) (e : Env) (k : BitVec 32) (a n : Nat) (write : Bool) (who : Nat) :
    s.SameQueues (s.pieces e k a n write who).1 := by
  unfold Dev.pieces
  generalize pagesOf a n = l
  suffices kept : ∀ q : Dev × Except Xlated (List (Nat × Nat)), s.SameQueues q.1 → s.SameQueues (l.foldl (fun q p =>
      match q.2 with
      | .error _ => q
      | .ok l =>
        match q.1.translate e k p.1 write who with
        | (s, .addr f) => (s, .ok (l ++ [(f, p.2)]))
        | (s, r) => (s, .error r)) q).1 from kept _ (refl s)
  induction l with
  | nil => exact fun q h => h
  | cons p l ih =>
    intro q h
    refine ih _ ?_
    have next := translate q.1 e k p.1 write who
    dsimp only
    split
    · exact h
    · split
      · next found => rw [found] at next; exact trans h next
      · next _ found => rw [found] at next; exact trans h next

theorem xltUsed (s : Dev) (k : BitVec 32) (a n : Nat) (write : Bool) : s.SameQueues (s.xltUsed k a n write) := ⟨rfl, rfl, rfl⟩

theorem regionRead (s : Dev) (e : Env) (k : BitVec 32) (a n who opc : Nat) :
    s.SameQueues (s.regionRead e k a n who opc).1 := by
  unfold Dev.regionRead
  dsimp only
  split
  · exact refl s
  · split
    · have found := pieces s e k a n false who
      split
      · next eq => rw [eq] at found; exact found
      · next eq =>
        rw [eq] at found
        split
        · exact trans found ⟨rfl, rfl, rfl⟩
        · exact trans found (xltUsed _ _ _ _ _)
    · have read := ofCore (SameCore.readT s e 0 (.tray (keyTray (s.region k))) a n opc who k)
      split <;> exact read
    · have read := ofCore (SameCore.inkRead s false a n)
      split <;> exact read

theorem regionWrite (s : Dev) (e : Env) (k : BitVec 32) (a : Nat) (b : List Byte) (who : Nat) (evict : Bool) :
    s.SameQueues (s.regionWrite e k a b who evict).1 := by
  unfold Dev.regionWrite
  dsimp only
  split
  · exact refl s
  · split
    · have found := pieces s e k a b.length true who
      split
      · next eq => rw [eq] at found; exact found
      · next eq =>
        rw [eq] at found
        refine trans (trans found (xltUsed _ k a b.length true)) ?_
        generalize Dev.xltUsed _ k a b.length true = t
        suffices kept : ∀ (l : List (Nat × Nat)) (q : Dev × List Byte), t.SameQueues q.1 →
            t.SameQueues (l.foldl (fun (q : Dev × List Byte) p =>
              (if e.fails (hostKey p.1) p.2 then q.1 else q.1.setKeyBytes (hostKey p.1) (q.2.take p.2), q.2.drop p.2)) q).1 from
          kept _ _ (refl t)
        intro l
        induction l with
        | nil => exact fun q h => h
        | cons p l ih =>
          intro q h
          refine ih _ (trans h ?_)
          dsimp only
          split
          · exact refl _
          · exact ofCore (SameCore.setKeyBytes _ _ _)
    · have wrote := ofCore (SameCore.writeT s e 0 (.tray (keyTray (s.region k))) a b who k evict)
      split <;> exact wrote
    · have wrote := ofCore (SameCore.inkWrite s false a b)
      split <;> exact wrote

theorem setPtn (s : Dev) (n : Nat) (x : Ptn) : s.SameQueues (s.setPtn n x) := ⟨rfl, rfl, rfl⟩

/-- A WRITE packet that is placed (R375, R376). -/
theorem rocePlace (s : Dev) (env : Env) (part : Nat) (key : BitVec 32) (a : Nat) (b : List Byte) :
    s.SameQueues (s.rocePlace env part key a b).1 := by
  unfold Dev.rocePlace
  have checked := keyCheck s key part a b.length (rW ||| rRM)
  split
  · next eq => rw [eq] at checked; exact checked
  · next t eq =>
    rw [eq] at checked
    split
    · exact checked
    · have wrote := regionWrite t env key a b 0 false
      split
      · next eq => rw [eq] at wrote; exact trans (trans checked wrote) (setPtn _ _ _)
      · next eq => rw [eq] at wrote; exact trans checked wrote
      · next eq => rw [eq] at wrote; exact trans checked wrote

end SameQueues

end Sys2Proof.Machine

namespace Sys2Proof.Machine

/-! ### Received Ethernet frames (R373, R374) -/

section
variable {s : Dev} {i : Nat} {f : List Byte} (personality : s.isEth (14 + i) = true) (link : (s.ethPort i).link = true)
  (whole : 64 ≤ f.length)
include personality link whole

/-- A frame above 9,216 bytes is counted and dropped. -/
theorem Dev.ethRx_long (long : 9216 < f.length) : s.ethRx i f = s.bump (Reg.ethCounts i 3) := by
  unfold Dev.ethRx
  rw [if_neg (by simp [personality, link]; omega), if_pos long]

section
variable (fits : f.length ≤ 9216)
include fits

/-- So is one with a bad FCS. -/
theorem Dev.ethRx_badFcs (bad : ¬ crc32 (f.take (f.length - 4)) = leAt f (f.length - 4) 4) :
    s.ethRx i f = s.bump (Reg.ethCounts i 2) := by
  unfold Dev.ethRx
  rw [if_neg (by simp [personality, link]; omega), if_neg (by omega), if_pos (by simpa using bad)]

/-- Any other is counted and resolved by Table 19.2. -/
theorem Dev.ethRx_good (good : crc32 (f.take (f.length - 4)) = leAt f (f.length - 4) 4) :
    s.ethRx i f = (s.bump (Reg.ethCounts i 0)).ethResolve i f := by
  unfold Dev.ethRx
  rw [if_neg (by simp [personality, link]; omega), if_neg (by omega), if_neg (by simpa using good)]

end
end

theorem Dev.ethResolve_other {s : Dev} {i : Nat} {f : List Byte}
    (other : ¬ (slice f 0 6 = (s.ethCfg i).mac ∨ slice f 0 6 = ethBroadcast)) : s.ethResolve i f = s.bump (Reg.ethCounts i 4) := by
  unfold Dev.ethResolve
  exact if_pos (by simpa [not_or] using other)

/-- A frame is not both a Neighbor Solicitation and an ARP request: a port has one IP version. -/
theorem EthCfg.isArp_of_isNs {c : EthCfg} {f : List Byte} (ns : c.isNs f = true) : c.isArp f = false := by
  unfold EthCfg.isNs at ns
  unfold EthCfg.isArp
  split at ns
  · simp only [Bool.and_eq_true] at ns
    simp [ns]
  · exact absurd ns Bool.false_ne_true

section
variable {s : Dev} {i : Nat} {f : List Byte} (ours : slice f 0 6 = (s.ethCfg i).mac ∨ slice f 0 6 = ethBroadcast)
include ours

theorem Dev.ethResolve_arp (arp : (s.ethCfg i).isArp f = true) : s.ethResolve i f = s.ethQueue i ((s.ethCfg i).arpReply f) := by
  unfold Dev.ethResolve
  exact (if_neg (by rcases ours with h | h <;> simp [h])).trans (if_pos arp)

theorem Dev.ethResolve_ns (ns : (s.ethCfg i).isNs f = true) : s.ethResolve i f = s.ethQueue i ((s.ethCfg i).naReply f) := by
  unfold Dev.ethResolve
  exact (if_neg (by rcases ours with h | h <;> simp [h])).trans
    ((if_neg (by simp [EthCfg.isArp_of_isNs ns])).trans (if_pos ns))

/-- A RoCE v2 frame of a good ICRC for a queue pair of the port in RTS is admitted. -/
theorem Dev.ethResolve_roce {u : Nat} (arp : (s.ethCfg i).isArp f = false) (ns : (s.ethCfg i).isNs f = false)
    (udp : (s.ethCfg i).udp f = some u)
    (icrc : rocev2Icrc (s.ethCfg i).ipv6 f (s.ethCfg i).l3off u = leAt f (f.length - 8) 4)
    (op : ((s.ethCfg i).roce f u).op ∈ roceOps) (low : 0x1000 ≤ ((s.ethCfg i).roce f u).qpn)
    (high : ((s.ethCfg i).roce f u).qpn < 0x2000) (port : Qp.port (s.qp (((s.ethCfg i).roce f u).qpn - 0x1000)) = i)
    (rts : (s.qp (((s.ethCfg i).roce f u).qpn - 0x1000)).st = .rts) :
    s.ethResolve i f = s.ethAdmit i (Qp.part (s.qp (((s.ethCfg i).roce f u).qpn - 0x1000))) f := by
  unfold Dev.ethResolve
  refine (if_neg (by rcases ours with h | h <;> simp [h])).trans ((if_neg (by simp [arp])).trans ((if_neg (by simp [ns])).trans ?_))
  rw [udp]
  dsimp only
  rw [if_neg (by simp [icrc]), if_neg (by simpa using op), if_neg (by simp [port, rts]; omega)]

end

/-- A frame of a partition whose meter is off, and that fits, joins the ingress buffer (R155, R156). -/
theorem Dev.ethAdmit_open {s : Dev} {i n : Nat} {f : List Byte} (off : bit (s.st (Reg.polMeterCfg1 (2 * n + 1))) 57 = false)
    (fits : ((s.ethPort i).ingress.map fun y => y.1.length).sum + f.length ≤ ingressCap) :
    s.ethAdmit i n f = (s.bumpBy (Reg.polGreen (2 * n + 1)) f.length).setEth i
      { s.ethPort i with ingress := (s.ethPort i).ingress ++ [(f, false)] } := by
  have green : s.meter (2 * n + 1) f.length = (s, .green) := by
    unfold Dev.meter
    exact if_pos (by simp [off])
  unfold Dev.ethAdmit
  dsimp only
  rw [green]
  exact if_neg (Nat.not_lt.mpr fits)

/-- A port that holds a frame is read back as it was written, whatever the table held. -/
theorem Dev.ethPort_setEth_held (s : Dev) (i : Nat) (x : EthPort) {y : List Byte × Bool} (held : y ∈ x.ingress) :
    (s.setEth i x).ethPort i = x := by
  have listed : x ≠ {} := by
    rintro rfl
    exact absurd held List.not_mem_nil
  unfold Dev.setEth Dev.ethPort tset
  rw [if_neg listed]
  exact tget_tput_same _ _ _ _

theorem Dev.ethPort_setEth {s : Dev} (wf : twf (fun _ => {}) s.eth = true) (i : Nat) (x : EthPort) : (s.setEth i x).ethPort i = x :=
  tget_tset_same _ _ _ _ wf

/-- A queue pair that is not in RESET is read back as it was written, whatever the table held. -/
theorem Dev.qp_setQp (s : Dev) (k : Nat) {x : Qp} (rts : x.st = .rts) : (s.setQp k x).qp k = x := by
  have listed : x ≠ {} := by
    rintro rfl
    exact absurd rts (by decide)
  unfold Dev.setQp Dev.qp tset
  rw [if_neg listed]
  exact tget_tput_same _ _ _ _

theorem Dev.qp_congr {s t : Dev} (same : t.qps = s.qps) (k : Nat) : t.qp k = s.qp k := by rw [Dev.qp, same, Dev.qp]
theorem Dev.ethPort_congr {s t : Dev} (same : t.eth = s.eth) (i : Nat) : t.ethPort i = s.ethPort i := by
  rw [Dev.ethPort, same, Dev.ethPort]

/-! ### The queue of a port's answers -/

/-- A frame queued on a port and nothing else, but for the free values drawn and what is counted. -/
def Dev.Queues (s t : Dev) (i n : Nat) : Prop :=
  (t.ethPort i).frames.length = (s.ethPort i).frames.length + n ∧ t.qps = s.qps ∧ t.mem = s.mem

theorem Dev.roceAck_queues {s : Dev} (wf : twf (fun _ => {}) s.eth = true) (i k psn : Nat) : s.Queues (s.roceAck i k psn) i 1 := by
  unfold Dev.roceAck
  generalize made : s.roceFrame i k 0x11 psn false (aeth 0x1F (s.qp k).msn) [] = g
  have drawn : g.1.eth = s.eth ∧ g.1.qps = s.qps ∧ g.1.mem = s.mem := by
    rw [← made]
    exact ⟨rfl, rfl, rfl⟩
  obtain ⟨u, f⟩ := g
  obtain ⟨eth, qps, mem⟩ := drawn
  refine ⟨?_, qps, mem⟩
  have port : u.ethPort i = s.ethPort i := Dev.ethPort_congr eth i
  show (((u.ethQueue i f)).ethPort i).frames.length = _
  unfold Dev.ethQueue
  rw [Dev.ethPort_setEth (eth ▸ wf), port]
  exact List.length_append

/-! ### The responder (R375 to R378) -/

/-- The frame at the head of a port's ingress buffer, without CE, of a queue pair in RTS, is taken. -/
theorem Dev.roceHead_taken {s : Dev} {env : Env} {i k : Nat} {ops : List Nat} {f : List Byte} {l : List (List Byte × Bool)} {r : Roce}
    (head : (s.ethPort i).ingress = (f, false) :: l) (frame : (s.ethCfg i).roce f (((s.ethCfg i).udp f).getD 0) = r)
    (pair : r.qpn - 0x1000 = k) (op : ops.contains r.op = true) (rts : (s.qp k).st = .rts) (plain : r.ce = false) :
    s.roceHead env i ops =
      if r.op == 0x81 then ((s.setEth i { s.ethPort i with ingress := l }).enter env).cnpRx i k
      else ((s.setEth i { s.ethPort i with ingress := l }).enter env).roceRequest env i k r := by
  subst frame pair
  unfold Dev.roceHead
  dsimp only
  rw [head]
  exact (if_neg (by simpa using op)).trans ((if_neg (not_not_intro rts)).trans (if_neg (by simp [plain])))

/-- The request with the PSN expected (R377). -/
theorem Dev.roceRequest_next {s : Dev} {env : Env} {i k : Nat} {r : Roce} (next : BitVec.ofNat 24 r.psn = (s.qp k).epsn) :
    s.roceRequest env i k r = if r.op == 0x0C then s.roceRead env i k r false else s.roceWrite env i k r := by
  unfold Dev.roceRequest
  exact if_pos (by simp [next])

/-! A WRITE packet: the first of its message, the last, and one with an immediate (Table 19.3). -/

def Roce.first (r : Roce) : Bool := r.op == 0x06 || r.op == 0x0A || r.op == 0x0B
def Roce.last (r : Roce) : Bool := r.op == 0x08 || r.op == 0x09 || r.op == 0x0A || r.op == 0x0B
def Roce.imm (r : Roce) : Bool := r.op == 0x09 || r.op == 0x0B

/-- What follows its RETH. -/
def Roce.body (r : Roce) : List Byte := if r.first then r.rest.drop 16 else r.rest

/-- The bytes it writes. -/
def Roce.data (r : Roce) : List Byte :=
  let y := if r.imm then r.body.drop 4 else r.body
  y.take (y.length - r.pad)

/-- Where a queue pair places it. -/
def Qp.writeKey (q : Qp) (r : Roce) : BitVec 32 := if r.first then BitVec.ofNat 32 (beAt r.rest 8 4) else q.openKey
def Qp.writeAt (q : Qp) (r : Roce) : Nat := if r.first then beAt r.rest 0 8 else q.openAddr.toNat

/-- The queue pair once it is placed. -/
def Qp.wrote (q : Qp) (r : Roce) : Qp :=
  { q with
    epsn := q.epsn + 1, nakSent := false, openMsg := true, openKey := q.writeKey r
    openAddr := BitVec.ofNat 64 (q.writeAt r + r.data.length)
    lastImm := if r.imm then BitVec.ofNat 32 (beAt r.body 0 4) else q.lastImm }

/-- And once its message is complete, where it ends one. -/
def Qp.ended (q : Qp) (r : Roce) : Qp := if r.last then { q with msn := q.msn + 1, openMsg := false } else q

theorem Dev.roceSignal_frame (s : Dev) (k : Nat) :
    (s.roceSignal k).qps = (s.setQp k { s.qp k with msn := (s.qp k).msn + 1, openMsg := false }).qps ∧
      (s.roceSignal k).eth = s.eth ∧ (s.roceSignal k).mem = s.mem := by
  unfold Dev.roceSignal
  dsimp only
  split <;> exact ⟨rfl, rfl, rfl⟩

/-- A WRITE packet that is placed moves its queue pair on and is acknowledged where one is due. -/
theorem Dev.roceWrite_placed {a u : Dev} {env : Env} {i k : Nat} {r : Roce} (wf : twf (fun _ => {}) a.eth = true)
    (rts : (a.qp k).st = .rts) (open_ : r.first = true ∨ (a.qp k).openMsg = true)
    (placed : a.rocePlace env (a.qp k).part ((a.qp k).writeKey r) ((a.qp k).writeAt r) r.data = (u, none)) :
    let t := a.roceWrite env i k r
    t.qp k = ((a.qp k).wrote r).ended r ∧
      (t.ethPort i).frames.length = (a.ethPort i).frames.length + (if r.last || r.ackReq then 1 else 0) ∧ t.mem = u.mem := by
  intro t
  obtain ⟨eth, qps, -⟩ : a.SameQueues u := by
    have kept := SameQueues.rocePlace a env (a.qp k).part ((a.qp k).writeKey r) ((a.qp k).writeAt r) r.data
    rwa [placed] at kept
  have mine : u.qp k = a.qp k := Dev.qp_congr qps k
  let v := u.setQp k ((a.qp k).wrote r)
  have wrote : v.qp k = (a.qp k).wrote r := u.qp_setQp k rts
  let w := if r.last then v.roceSignal k else v
  have settled : w.qp k = ((a.qp k).wrote r).ended r ∧ w.eth = a.eth ∧ w.mem = u.mem := by
    by_cases last : r.last = true
    · obtain ⟨table, ports, memory⟩ := v.roceSignal_frame k
      have signal : w = v.roceSignal k := if_pos last
      rw [signal, Qp.ended, if_pos last]
      refine ⟨?_, ports.trans eth, memory⟩
      have here : (v.roceSignal k).qp k = (v.setQp k { v.qp k with msn := (v.qp k).msn + 1, openMsg := false }).qp k :=
        Dev.qp_congr table k
      rw [here, wrote]
      exact v.qp_setQp k rts
    · have quiet : w = v := if_neg last
      rw [quiet, Qp.ended, if_neg last]
      exact ⟨wrote, eth, rfl⟩
  have result : t = if r.last || r.ackReq then w.roceAck i k r.psn else w := by
    show a.roceWrite env i k r = _
    unfold Dev.roceWrite
    refine (if_neg ?_).trans ?_
    · rcases open_ with h | h
      · simp [show (r.op == 0x06 || r.op == 0x0A || r.op == 0x0B) = true from h]
      · simp [h]
    · show (match a.rocePlace env (a.qp k).part ((a.qp k).writeKey r) ((a.qp k).writeAt r) r.data with
        | (s, some st) => s.roceFail i k r.psn st
        | (s, none) => _) = _
      rw [placed]
      dsimp only
      rw [mine]
      rfl
  obtain ⟨pair, ports, memory⟩ := settled
  have frames : (w.ethPort i).frames = (a.ethPort i).frames := congrArg (·.frames) (Dev.ethPort_congr ports i)
  rw [result]
  split
  · obtain ⟨queued, table, mem⟩ := Dev.roceAck_queues (s := w) (ports ▸ wf) i k r.psn
    refine ⟨?_, by rw [queued, frames], mem.trans memory⟩
    rw [← pair]
    exact Dev.qp_congr table k
  · exact ⟨pair, by rw [frames]; rfl, memory⟩

/-- Frame `j` of `n` of a READ Response put in the queue of its queue pair (R375). -/
def Dev.readFrame (i k psn mtu n : Nat) (b : List Byte) (s : Dev) (j : Nat) : Dev :=
  let op := if n = 1 then 0x10 else if j = 0 then 0x0D else if j + 1 = n then 0x0F else 0x0E
  let ext := if op = 0x0E then [] else aeth 0x1F (s.qp k).msn
  let g := s.roceFrame i k op ((psn + j) % 2 ^ 24) false ext (slice b (mtu * j) mtu)
  g.1.setQp k { g.1.qp k with resp := (g.1.qp k).resp ++ [(g.1.rlg.time, g.2)] }

theorem Dev.readFrames_eq (s : Dev) (i k psn mtu : Nat) (b : List Byte) :
    s.readFrames i k psn mtu b =
      forUpto (max 1 (ceilDiv b.length mtu)) (Dev.readFrame i k psn mtu (max 1 (ceilDiv b.length mtu)) b) s := rfl

theorem Dev.readFrame_queues {s : Dev} {k : Nat} (rts : (s.qp k).st = .rts) (i psn mtu n : Nat) (b : List Byte) (j : Nat) :
    ∃ x, (s.readFrame i k psn mtu n b j).qp k = { s.qp k with resp := (s.qp k).resp ++ [x] } ∧
      (s.readFrame i k psn mtu n b j).mem = s.mem := by
  unfold Dev.readFrame
  extract_lets op ext g
  have drawn : g.1.qp k = s.qp k := rfl
  have memory : g.1.mem = s.mem := rfl
  clear_value g
  refine ⟨(g.1.rlg.time, g.2), ?_, memory⟩
  refine (Dev.qp_setQp _ k ?_).trans (congrArg (fun q : Qp => { q with resp := q.resp ++ [(g.1.rlg.time, g.2)] }) drawn)
  exact (congrArg (·.st) drawn).trans rts

/-- Each frame of a READ Response waits in the queue of its queue pair, which is otherwise as it was. -/
theorem Dev.readFrames_queue {k : Nat} (i psn mtu n : Nat) (b : List Byte) (l : List Nat) (s : Dev) (rts : (s.qp k).st = .rts) :
    ∃ more, more.length = l.length ∧
      (l.foldl (Dev.readFrame i k psn mtu n b) s).qp k = { s.qp k with resp := (s.qp k).resp ++ more } ∧
      (l.foldl (Dev.readFrame i k psn mtu n b) s).mem = s.mem := by
  induction l generalizing s with
  | nil => exact ⟨[], rfl, by rw [List.append_nil]; rfl, rfl⟩
  | cons j l ih =>
    obtain ⟨x, one, kept⟩ := s.readFrame_queues rts i psn mtu n b j
    obtain ⟨more, count, rest, memory⟩ := ih (s.readFrame i k psn mtu n b j) (one ▸ rts)
    refine ⟨x :: more, congrArg (· + 1) count, ?_, memory.trans kept⟩
    rw [List.foldl_cons, rest, one, List.append_assoc]
    rfl

/-- A READ request that is read moves its queue pair on and queues its response (R377). -/
theorem Dev.roceRead_done {a u v : Dev} {env : Env} {i k : Nat} {r : Roce} {b : List Byte} (rts : (a.qp k).st = .rts)
    (checked : a.keyCheck (BitVec.ofNat 32 (beAt r.rest 8 4)) (a.qp k).part (beAt r.rest 0 8) (beAt r.rest 12 4) (rR ||| rRM) = (u, none))
    (pinned : u.onDemandStop (BitVec.ofNat 32 (beAt r.rest 8 4)) (beAt r.rest 0 8) (beAt r.rest 12 4) = none)
    (read : u.regionRead env (BitVec.ofNat 32 (beAt r.rest 8 4)) (beAt r.rest 0 8) (beAt r.rest 12 4) = (v, .ok b))
    (whole : b.length = beAt r.rest 12 4) :
    let t := a.roceRead env i k r false
    let n := max 1 (ceilDiv (beAt r.rest 12 4) (a.ethCfg i).mtu)
    (∃ more, more.length = n ∧ t.qp k = { a.qp k with
      epsn := (a.qp k).epsn + BitVec.ofNat 24 n, msn := (a.qp k).msn + 1, nakSent := false, resp := (a.qp k).resp ++ more }) ∧
    t.mem = v.mem := by
  intro t n
  obtain ⟨-, first, -⟩ : a.SameQueues u := by
    have kept := SameQueues.keyCheck a (BitVec.ofNat 32 (beAt r.rest 8 4)) (a.qp k).part (beAt r.rest 0 8) (beAt r.rest 12 4) (rR ||| rRM)
    rwa [checked] at kept
  obtain ⟨-, second, -⟩ : u.SameQueues v := by
    have kept := SameQueues.regionRead u env (BitVec.ofNat 32 (beAt r.rest 8 4)) (beAt r.rest 0 8) (beAt r.rest 12 4) 0 0x01
    rwa [read] at kept
  have mine : v.qp k = a.qp k := Dev.qp_congr (second.trans first) k
  let w := v.setQp k { a.qp k with epsn := (a.qp k).epsn + BitVec.ofNat 24 n, msn := (a.qp k).msn + 1, nakSent := false }
  have moved : w.qp k = { a.qp k with epsn := (a.qp k).epsn + BitVec.ofNat 24 n, msn := (a.qp k).msn + 1, nakSent := false } :=
    v.qp_setQp k rts
  have result : t = w.readFrames i k r.psn (a.ethCfg i).mtu b := by
    show a.roceRead env i k r false = _
    unfold Dev.roceRead
    dsimp only
    rw [checked]
    dsimp only
    rw [pinned]
    dsimp only
    rw [read]
    dsimp only
    rw [mine]
    rfl
  obtain ⟨more, count, pair, memory⟩ := Dev.readFrames_queue i r.psn (a.ethCfg i).mtu (max 1 (ceilDiv b.length (a.ethCfg i).mtu)) b
    (List.range (max 1 (ceilDiv b.length (a.ethCfg i).mtu))) w
    (by rw [moved]; exact rts)
  rw [result, Dev.readFrames_eq]
  refine ⟨⟨more, ?_, ?_⟩, memory⟩
  · rw [count, List.length_range, whole]
  · exact pair.trans (by rw [moved])

/-- A CNP that comes outside CNP_INTERVAL halves the rate (R378). -/
theorem Dev.cnpRx_halves {s : Dev} {i k : Nat} (rts : (s.qp k).st = .rts)
    (first : ((s.qp k).cnpRxAt.any fun t => s.osc < t + nsTicks (s.ethCfg i).cnpInterval) = false) :
    let t := s.cnpRx i k
    t.qp k = { s.qp k with
      periodAt := s.osc, cnpRxAt := some s.osc, rate := BitVec.ofNat 32 (max (s.ethCfg i).rateMin ((s.qp k).rate.toNat / 2)) } ∧
    t.cnt = (s.bump (Reg.ethCounts i 9)).cnt ∧ t = { s with qps := t.qps, cnt := t.cnt } := by
  intro t
  have began : ((s.bump (Reg.ethCounts i 9)).setQp k { s.qp k with periodAt := s.osc }).qp k = { s.qp k with periodAt := s.osc } :=
    Dev.qp_setQp _ k rts
  have result : t = ((s.bump (Reg.ethCounts i 9)).setQp k { s.qp k with periodAt := s.osc }).setQp k { s.qp k with
      periodAt := s.osc, cnpRxAt := some s.osc, rate := BitVec.ofNat 32 (max (s.ethCfg i).rateMin ((s.qp k).rate.toNat / 2)) } := by
    show s.cnpRx i k = _
    unfold Dev.cnpRx
    refine (if_neg (by rw [Bool.not_eq_true]; exact first)).trans ?_
    rw [began]
    rfl
  rw [result]
  exact ⟨Dev.qp_setQp _ k rts, rfl, rfl⟩

end Sys2Proof.Machine

namespace Sys2Proof.Machine

/-! ### O53 -/

/-- What a port and a queue pair hold once the frame at the head has left the ingress buffer and the access has begun. -/
theorem Dev.taken_frame {s : Dev} (wf : twf (fun _ => {}) s.eth = true) (env : Env) (i k : Nat) (l : List (List Byte × Bool)) :
    let a := (s.setEth i { s.ethPort i with ingress := l }).enter env
    a.qp k = s.qp k ∧ (a.ethPort i).frames = (s.ethPort i).frames ∧ twf (fun _ => {}) a.eth = true ∧ a.ethCfg = s.ethCfg := by
  intro a
  obtain ⟨eth, qps, run⟩ := SameQueues.ofCore (SameCore.enter (s.setEth i { s.ethPort i with ingress := l }) env)
  refine ⟨Dev.qp_congr qps k, ?_, ?_, ?_⟩
  · rw [Dev.ethPort_congr eth i, Dev.ethPort_setEth wf]
  · rw [eth]
    exact twf_tset _ _ _ _ wf
  · funext j
    unfold Dev.ethCfg Dev.ethRec Dev.ethWord Dev.st
    rw [run]
    rfl

/-- What the placement of a WRITE packet leaves in its queue pair. -/
theorem Qp.ended_wrote (q : Qp) (r : Roce) :
    ((q.wrote r).ended r).epsn = q.epsn + 1 ∧ ((q.wrote r).ended r).msn = (if r.last then q.msn + 1 else q.msn) ∧
      ((q.wrote r).ended r).openMsg = (!r.last) ∧
      ((q.wrote r).ended r).openAddr = BitVec.ofNat 64 (q.writeAt r + r.data.length) ∧
      ((q.wrote r).ended r).lastImm = (if r.imm then BitVec.ofNat 32 (beAt r.body 0 4) else q.lastImm) ∧
      ((q.wrote r).ended r).st = q.st := by
  unfold Qp.ended
  cases r.last <;> exact ⟨rfl, rfl, rfl, rfl, rfl, rfl⟩

section
variable {s a u : Dev} {env : Env} {i k : Nat} {f : List Byte} {l : List (List Byte × Bool)} {r : Roce}
  (wf : twf (fun _ => {}) s.eth = true) (head : (s.ethPort i).ingress = (f, false) :: l)
  (frame : (s.ethCfg i).roce f (((s.ethCfg i).udp f).getD 0) = r) (pair : r.qpn - 0x1000 = k)
  (rts : (s.qp k).st = .rts) (plain : r.ce = false)
include wf head frame pair rts plain

section
variable (begun : (s.setEth i { s.ethPort i with ingress := l }).enter env = a) (next : BitVec.ofNat 24 r.psn = (s.qp k).epsn)
include begun next

/-- R375, R377: the WRITE packet at the head of the ingress buffer, with the PSN expected, is placed. -/
theorem Dev.roceHead_write {ops : List Nat} (op : ops.contains r.op = true) (request : r.op ≠ 0x0C ∧ r.op ≠ 0x81)
    (open_ : r.first = true ∨ (s.qp k).openMsg = true)
    (placed : a.rocePlace env (s.qp k).part ((s.qp k).writeKey r) ((s.qp k).writeAt r) r.data = (u, none)) :
    (s.roceHead env i ops).qp k = ((s.qp k).wrote r).ended r ∧
      ((s.roceHead env i ops).ethPort i).frames.length = (s.ethPort i).frames.length + (if r.last || r.ackReq then 1 else 0) ∧
      (s.roceHead env i ops).mem = u.mem := by
  obtain ⟨mine, frames, wf', -⟩ := s.taken_frame wf env i k l
  rw [Dev.roceHead_taken head frame pair op rts plain]
  simp only [begun] at mine frames wf' ⊢
  rw [if_neg (by simp [request]), Dev.roceRequest_next (by rw [mine, next]), if_neg (by simp [request]), ← frames, ← mine]
  exact Dev.roceWrite_placed wf' (by rw [mine, rts]) (by rw [mine]; exact open_) (by rw [mine]; exact placed)

/-- R375, R377: the READ request at the head, with the PSN expected, is read. -/
theorem Dev.roceHead_read {v : Dev} {b : List Byte} (op : r.op = 0x0C)
    (checked : a.keyCheck (BitVec.ofNat 32 (beAt r.rest 8 4)) (s.qp k).part (beAt r.rest 0 8) (beAt r.rest 12 4) (rR ||| rRM) = (u, none))
    (pinned : u.onDemandStop (BitVec.ofNat 32 (beAt r.rest 8 4)) (beAt r.rest 0 8) (beAt r.rest 12 4) = none)
    (read : u.regionRead env (BitVec.ofNat 32 (beAt r.rest 8 4)) (beAt r.rest 0 8) (beAt r.rest 12 4) = (v, .ok b))
    (whole : b.length = beAt r.rest 12 4) :
    (∃ more, more.length = max 1 (ceilDiv (beAt r.rest 12 4) (s.ethCfg i).mtu) ∧ (s.roceHead env i [0x0C]).qp k = { s.qp k with
      epsn := (s.qp k).epsn + BitVec.ofNat 24 (max 1 (ceilDiv (beAt r.rest 12 4) (s.ethCfg i).mtu))
      msn := (s.qp k).msn + 1, nakSent := false, resp := (s.qp k).resp ++ more }) ∧
    (s.roceHead env i [0x0C]).mem = v.mem := by
  obtain ⟨mine, -, -, cfg⟩ := s.taken_frame wf env i k l
  rw [Dev.roceHead_taken head frame pair (by simp [op]) rts plain]
  simp only [begun] at mine cfg ⊢
  rw [if_neg (by simp [op]), Dev.roceRequest_next (by rw [mine, next]), if_pos (by simp [op]), ← cfg, ← mine]
  exact Dev.roceRead_done (by rw [mine, rts]) (by rw [mine]; exact checked) pinned read whole

end

/-- R378: the CNP at the head, outside CNP_INTERVAL. -/
theorem Dev.roceHead_cnp (op : r.op = 0x81)
    (first : ((s.qp k).cnpRxAt.any fun t => s.osc < t + nsTicks (s.ethCfg i).cnpInterval) = false) :
    (s.roceHead {} i [0x81]).qp k = { s.qp k with
      periodAt := s.osc, cnpRxAt := some s.osc, rate := BitVec.ofNat 32 (max (s.ethCfg i).rateMin ((s.qp k).rate.toNat / 2)) } ∧
    ((s.roceHead {} i [0x81]).ethPort i).frames = (s.ethPort i).frames ∧
    (s.roceHead {} i [0x81]).cnt = (s.bump (Reg.ethCounts i 9)).cnt ∧
    s.roceHead {} i [0x81] = { s with
      eth := (s.roceHead {} i [0x81]).eth, qps := (s.roceHead {} i [0x81]).qps, cnt := (s.roceHead {} i [0x81]).cnt } := by
  have taken : s.roceHead {} i [0x81] = (s.setEth i { s.ethPort i with ingress := l }).cnpRx i k := by
    rw [Dev.roceHead_taken head frame pair (by simp [op]) rts plain, if_pos (by simp [op]), Dev.enter_none]
  obtain ⟨halved, counted, rest⟩ := Dev.cnpRx_halves (s := s.setEth i { s.ethPort i with ingress := l }) (i := i) (k := k) rts first
  rw [taken]
  refine ⟨halved, ?_, counted, ?_⟩
  · rw [rest]
    exact congrArg (·.frames) (Dev.ethPort_setEth wf i _)
  · rw [rest]
    rfl

end

/-- R378: a period without a CNP raises the rate. -/
theorem Dev.ratePeriod_raises {s : Dev} {i k : Nat} (rts : (s.qp k).st = .rts) (port : Qp.port (s.qp k) = i)
    (over_ : (s.qp k).periodAt + nsTicks (s.ethCfg i).ratePeriod ≤ s.osc) :
    s.ratePeriod i k = s.setQp k { s.qp k with
      periodAt := s.osc, rate := BitVec.ofNat 32 (min 100000 ((s.qp k).rate.toNat + (s.ethCfg i).rateAi)) } :=
  if_neg (by simp [rts, port, over_])

/-! ETH_QP_CTL (R386). -/

section
variable {s : Dev} (v : View) {w : Word}

theorem Dev.qpCtl_enable (command : bits w 7 0 = 1) (idle : (s.qp s.selQp).st = .reset) (part : s.ptnRec (s.qp s.selQp).part ≠ 0)
    (active : (s.ptn (s.qp s.selQp).part).st = .active) :
    s.qpCtl v w = s.setQp s.selQp { s.qp s.selQp with
      st := .rts, rate := 100000, periodAt := s.osc, sendAt := s.osc, cnpTxAt := none, cnpRxAt := none } := by
  unfold Dev.qpCtl
  rw [command]
  exact if_neg (by rw [idle, beq_false_of_ne part, active]; decide)

theorem Dev.qpCtl_enable_refused (command : bits w 7 0 = 1) (used : (s.qp s.selQp).st ≠ .reset) :
    s.qpCtl v w = s.hostErr v Reg.ethQpCtl 0x02 w := by
  unfold Dev.qpCtl
  rw [command]
  exact if_pos (by simp [used])

theorem Dev.qpCtl_reset (command : bits w 7 0 = 2) (used : (s.qp s.selQp).st ≠ .reset) :
    s.qpCtl v w = s.setQp s.selQp (s.qp s.selQp).toReset := by
  unfold Dev.qpCtl
  rw [command]
  exact if_neg used

theorem Dev.qpCtl_reset_refused (command : bits w 7 0 = 2) (idle : (s.qp s.selQp).st = .reset) :
    s.qpCtl v w = s.hostErr v Reg.ethQpCtl 0x02 w := by
  unfold Dev.qpCtl
  rw [command]
  exact if_pos idle

end

/-- R372: a port of the personality comes up once every wavelength is LOCKED. -/
theorem Dev.ethUp_locked {s : Dev} {i : Nat} (personality : s.isEth (14 + i) = true) (open_ : (s.optPort (14 + i)).fenced = false)
    (locked : ∀ w < 8, ((s.optPort (14 + i)).wl w).lock = .locked) (up : s.inReset (Reg.ethPortStatus 0) = false) :
    s.ethUp i = s.setEth i { s.ethPort i with link := true, pcsLock := true } := by
  have all : ((List.range 8).all fun w => decide (((s.optPort (14 + i)).wl w).lock = .locked)) = true :=
    List.all_eq_true.mpr fun w below => decide_eq_true (locked w (List.mem_range.mp below))
  exact if_neg (by simp only [personality, open_, all, up]; decide)

/-- Settles O53: by the equations of the receiver and of the responder above; accesses to memory leave ports and queue pairs alone
(`SameQueues`). That FRAMES_RX counts good frames only and what QP_RESET keeps are log entry 90. -/
theorem ethernetAndRdma : Obligations.EthernetAndRdma := by
  unfold Obligations.EthernetAndRdma
  refine ⟨?received, ?served, ?raised, ?control, ?linkUp⟩
  case received =>
    intro port f s personality link whole c a good ours
    have dev (d : Dev) (same : s.dev.ethRx port f = d) : exec (.ethFrameRx port f) s = .next { s with dev := d } := by
      rw [← same]
      rfl
    refine ⟨fun long => dev _ (Dev.ethRx_long personality link whole long),
      fun fits bad => dev _ (Dev.ethRx_badFcs personality link whole fits bad), fun fits fcs other => dev _ ?_, fun fits fcs mine arp => ?_,
      fun fits fcs mine ns => ?_, ?_⟩
    · rw [Dev.ethRx_good personality link whole fits fcs]
      exact Dev.ethResolve_other (s := a) other
    · refine s.next_dev ((if_pos arp).trans ?_)
      rw [Dev.ethRx_good personality link whole fits fcs]
      exact Dev.ethResolve_arp (s := a) mine arp
    · refine s.next_dev ((if_pos ns).trans ?_)
      rw [Dev.ethRx_good personality link whole fits fcs]
      exact Dev.ethResolve_ns (s := a) mine ns
    · intro u fits fcs mine arp ns udp r q icrc op low high at_ rts off room
      refine ⟨_, rfl, ?_⟩
      have admitted : s.dev.ethRx port f = (a.bumpBy (Reg.polGreen (2 * Qp.part q + 1)) f.length).setEth port
          { s.dev.ethPort port with ingress := (s.dev.ethPort port).ingress ++ [(f, false)] } := by
        rw [Dev.ethRx_good personality link whole fits fcs]
        exact (Dev.ethResolve_roce (s := a) mine arp ns udp icrc op low high at_ rts).trans (Dev.ethAdmit_open (s := a) off room)
      show ((s.dev.ethRx port f).ethPort port).ingress = _ ∧
        ({ s with dev := s.dev.ethRx port f } : State) =
          { s with dev := { s.dev with eth := (s.dev.ethRx port f).eth, cnt := (s.dev.ethRx port f).cnt } }
      rw [admitted]
      refine ⟨?_, rfl⟩
      rw [Dev.ethPort_setEth_held _ _ _ (y := (f, false)) (by simp)]
  case served =>
    intro port env s f l head wf c r k q a rts plain
    refine ⟨?write, ?read, ?cnp⟩
    case write =>
      intro first last imm x y b key at_ u next open_ placed op
      have isFirst : r.first = true ↔ first := by simp [Roce.first, first, or_assoc]
      have isLast : r.last = true ↔ last := by simp [Roce.last, last, or_assoc]
      have isImm : r.imm = true ↔ imm := by simp [Roce.imm, imm]
      have body : r.body = x := ite_iff isFirst _ _
      have data : r.data = b := by
        unfold Roce.data
        rw [body, show (if r.imm then x.drop 4 else x) = y from ite_iff isImm _ _]
      have toKey : q.writeKey r = key := ite_iff isFirst _ _
      have toAt : q.writeAt r = at_ := ite_iff isFirst _ _
      have request : r.op ≠ 0x0C ∧ r.op ≠ 0x81 := by
        constructor <;> (intro same; rw [same] at op; exact absurd op (by decide))
      have ends : (!r.last) = !decide last :=
        congrArg (!·) (Bool.eq_iff_iff.mpr (isLast.trans decide_eq_true_iff.symm))
      obtain ⟨epsn, msn, openMsg, openAddr, lastImm, st⟩ := q.ended_wrote r
      rw [ite_iff isLast _ _] at msn
      rw [ends] at openMsg
      rw [toAt, data] at openAddr
      rw [ite_iff isImm _ _, body] at lastImm
      have due : (if r.last || r.ackReq then 1 else 0) = if last ∨ r.ackReq = true then 1 else 0 :=
        ite_iff (by rw [Bool.or_eq_true, isLast]) _ _
      have settled {ops : List Nat} (listed : ops.contains r.op = true) :
          let t := s.dev.roceHead env port ops
          (t.qp k).epsn = q.epsn + 1 ∧ (t.qp k).msn = (if last then q.msn + 1 else q.msn) ∧ (t.qp k).openMsg = (!decide last) ∧
            (t.qp k).openAddr = BitVec.ofNat 64 (at_ + b.length) ∧
            (t.qp k).lastImm = (if imm then BitVec.ofNat 32 (beAt x 0 4) else q.lastImm) ∧ (t.qp k).st = .rts ∧
            (t.ethPort port).frames.length = (s.dev.ethPort port).frames.length + (if last ∨ r.ackReq = true then 1 else 0) ∧
            t.mem = u.mem := by
        obtain ⟨pair, frames, memory⟩ := Dev.roceHead_write (env := env) (u := u) wf head rfl rfl rts plain rfl next listed request
          (open_.imp_left isFirst.mpr) (by rw [toKey, toAt, data]; exact placed)
        intro t
        rw [due] at frames
        rw [show t.qp k = (q.wrote r).ended r from pair]
        exact ⟨epsn, msn, openMsg, openAddr, lastImm, st.trans rts, frames, memory⟩
      by_cases carries : imm
      · rw [if_pos carries]
        have listed : ([0x09, 0x0B] : List Nat).contains r.op = true := by simpa [imm] using carries
        obtain ⟨h1, h2, h3, h4, h5, h6, h7, h8⟩ := settled listed
        exact ⟨_, rfl, h1, h2, h3, h4, h5, h6, h7, h8, rfl⟩
      · rw [if_neg carries]
        have listed : ([0x06, 0x07, 0x08, 0x0A] : List Nat).contains r.op = true := by
          simp [imm] at carries op ⊢
          omega
        obtain ⟨h1, h2, h3, h4, h5, h6, h7, h8⟩ := settled listed
        exact ⟨_, rfl, h1, h2, h3, h4, h5, h6, h7, h8, rfl⟩
    case read =>
      intro at_ key len n u v b op next checked pinned read whole
      obtain ⟨⟨more, count, pair⟩, memory⟩ :=
        Dev.roceHead_read (env := env) wf head rfl rfl rts plain rfl next op checked pinned read whole
      refine ⟨_, rfl, ?_, ?_, ?_, ?_, memory, rfl⟩
      · exact congrArg (·.epsn) pair
      · exact congrArg (·.msn) pair
      · exact (congrArg (·.resp.length) pair).trans (List.length_append.trans (congrArg (q.resp.length + ·) count))
      · exact (congrArg (·.st) pair).trans rts
    case cnp =>
      intro op first
      obtain ⟨pair, frames, counted, rest⟩ := Dev.roceHead_cnp wf head rfl rfl rts plain op first
      exact ⟨_, rfl, congrArg (·.rate) pair, congrArg (·.cnpRxAt) pair, frames, counted,
        congrArg (fun d : Dev => ({ s with dev := d } : State)) rest⟩
  case raised =>
    intro port qp s q rts at_ due
    exact s.next_dev (Dev.ratePeriod_raises rts at_ due)
  case control =>
    intro v w s view a k q up
    have dev {c : Prop} [Decidable c] (chosen : c) {d : Dev} (same : a.qpCtl v w = d) :
        onWrite v Reg.ethQpCtl w (fun s => if c then pfOnly v (fun s => s.gated v Reg.ethQpCtl w fun s => s.qpCtl v w) s else s) s =
          .next { s with dev := d } := by
      rw [← same]
      exact onWrite_gated_chosen view _ s up chosen
    refine ⟨fun command idle part active => dev command (Dev.qpCtl_enable v command idle part active),
      fun command used => dev command (Dev.qpCtl_enable_refused v command used),
      fun command used => dev command (Dev.qpCtl_reset v command used),
      fun command idle => dev command (Dev.qpCtl_reset_refused v command idle)⟩
  case linkUp =>
    intro port s o personality open_ locked up
    exact s.next_dev (Dev.ethUp_locked personality open_ locked up)

end Sys2Proof.Machine

namespace Sys2Proof.Machine

/-! ### The management MAC (R380 to R382) -/

section
variable {s : Dev} {f : List Byte} (released : 4 ≤ s.rst.released) (ours : s.msegFor f = true) (fits : f.length ≤ 2048)
include released ours fits

/-- A frame for this device that is not cut: a bad FCS drops it, a PAUSE is obeyed, any other is kept. -/
theorem Dev.msegRx_eq :
    s.msegRx f = if !goodFcs f then s.bump (Reg.msegCounts 4) else if isPause f then s.pauseRx f else s.msegStore f false := by
  unfold Dev.msegRx
  rw [if_neg (by simp [ours]; omega), if_neg (by omega)]

theorem Dev.msegRx_kept (good : goodFcs f = true) (plain : isPause f = false) (room : s.msegStored + f.length ≤ 65536) :
    s.msegRx f = Dev.bump { s with mseg := { s.mseg with rx := s.mseg.rx ++ [(f, false)] } } (Reg.msegCounts 0) := by
  rw [Dev.msegRx_eq released ours fits, if_neg (by simp [good]), if_neg (by simp [plain]), Dev.msegStore]
  exact if_neg (by omega)

theorem Dev.msegRx_bad (bad : goodFcs f = false) : s.msegRx f = s.bump (Reg.msegCounts 4) := by
  rw [Dev.msegRx_eq released ours fits, if_pos (by simp [bad])]

theorem Dev.msegRx_pause (good : goodFcs f = true) (pause : isPause f = true) : s.msegRx f = s.pauseRx f := by
  rw [Dev.msegRx_eq released ours fits, if_neg (by simp [good]), if_pos pause]

end

/-- The frame at the head is sent where the MAC may start it (R380). -/
theorem Dev.msegSend_may {s : Dev} {f : List Byte} {l : List (List Byte)} (head : s.mseg.tx = f :: l) (may : s.msegMay = true) :
    s.msegSend = (Dev.bump { s with mseg := { s.mseg with
      tx := l, collisions := 0, attempts := s.mseg.attempts + 1
      sending := if l.isEmpty then 0 else s.mseg.sending - 1 } } (Reg.msegCounts 1)).emit (.mseg f) := by
  unfold Dev.msegSend
  rw [head]
  exact if_neg (by simp [may])

section
variable {s : Dev} {f : List Byte} {l : List (List Byte)} (head : s.mseg.tx = f :: l) (released : 4 ≤ s.rst.released)
  (running : s.mseg.pausedUntil = none)
include head released running

/-- Outside PLCA the MAC may start a frame where it does not back off. -/
theorem Dev.msegMay_csma (plain : s.plcaOn = false) (free : s.mseg.backoffUntil = none) : s.msegMay = true := by
  unfold Dev.msegMay
  simp [head, released, running, plain, free]

/-- With PLCA it may in its opportunity. -/
theorem Dev.msegMay_plca (plca : s.plcaOn = true) (turn : 0 < s.mseg.sending) : s.msegMay = true := by
  unfold Dev.msegMay
  simp [head, released, running, plca, turn]

/-- A back-off that is over lets the frame that waited start. -/
theorem Dev.backoffEnds_over {at_ : Nat} (plain : s.plcaOn = false) (waits : s.mseg.backoffUntil = some at_) (past : at_ ≤ s.osc) :
    s.backoffEnds = (Dev.bump { s with mseg := { s.mseg with
      backoffUntil := none, tx := l, collisions := 0, attempts := s.mseg.attempts + 1
      sending := if l.isEmpty then 0 else s.mseg.sending - 1 } } (Reg.msegCounts 1)).emit (.mseg f) := by
  unfold Dev.backoffEnds
  rw [if_pos (by simp [waits, past])]
  exact Dev.msegSend_may (s := { s with mseg := { s.mseg with backoffUntil := none } }) head
    (Dev.msegMay_csma (s := { s with mseg := { s.mseg with backoffUntil := none } }) head released running plain rfl)

/-- A transmit opportunity starts the first frame and lets BURST more go. -/
theorem Dev.plcaOpportunity_sends (plca : s.plcaOn = true) :
    s.plcaOpportunity.msegSend = (Dev.bump { s with mseg := { s.mseg with
      plcaActive := true, tx := l, collisions := 0, attempts := s.mseg.attempts + 1
      sending := if l.isEmpty then 0 else bits (s.reg Reg.msegCfg) 39 32 } } (Reg.msegCounts 1)).emit (.mseg f) := by
  let turn : Dev := { s with mseg := { s.mseg with plcaActive := true, sending := 1 + bits (s.reg Reg.msegCfg) 39 32 } }
  have opportunity : s.plcaOpportunity = turn := by
    unfold Dev.plcaOpportunity
    rw [if_neg (by simp [plca, released])]
    have some_ : (s.mseg.tx.isEmpty || s.mseg.pausedUntil.isSome) = false := by simp [head, running]
    rw [some_]
    rfl
  have spent : turn.mseg.sending - 1 = bits (s.reg Reg.msegCfg) 39 32 := Nat.add_sub_cancel_left 1 _
  rw [opportunity, Dev.msegSend_may (s := turn) head (Dev.msegMay_plca (s := turn) head released running plca
    (Nat.lt_of_lt_of_le Nat.zero_lt_one (Nat.le_add_right _ _))), spent]

end

/-- The back-off that a collision draws (R380). -/
def Dev.backoffSlots (s : Dev) : Nat :=
  (arx10 (s.ptnSeed 0) (BitVec.ofNat 64 (2 ^ 63 + 0x10000)) (s.mseg.attempts + 1)).toNat % 2 ^ 32 % 2 ^ min (s.mseg.collisions + 1) 10

/-- A collision of a frame that was being sent (R380). -/
theorem Dev.msegCollide_may {s : Dev} (may : s.msegMay = true) :
    s.msegCollide =
      if 16 ≤ s.mseg.collisions + 1 then Dev.bump { s.bump (Reg.msegCounts 5) with mseg := { s.mseg with
        tx := s.mseg.tx.drop 1, collisions := 0, attempts := s.mseg.attempts + 1, sending := 0 } } (Reg.msegCounts 6)
      else if s.plcaOn then { s.bump (Reg.msegCounts 5) with mseg := { s.mseg with
        collisions := s.mseg.collisions + 1, attempts := s.mseg.attempts + 1, sending := 0 } }
      else { s.bump (Reg.msegCounts 5) with mseg := { s.mseg with
        collisions := s.mseg.collisions + 1, attempts := s.mseg.attempts + 1
        backoffUntil := some (s.osc + 6400 * s.backoffSlots) } } := by
  unfold Dev.msegCollide
  exact if_neg (by simp [may])

/-! ### Rumos requests (R383, R384) -/

/-- A request that is the only frame received is carried out by its command. -/
theorem Dev.rumosTake_asked {s : Dev} {fl : Flash} {r : Rumos} (asked : s.Asked fl r) {type : Nat} (kind : r.type = type)
    (defined : 1 ≤ type ∧ type ≤ 8) (f : Dev → Rumos → Dev) : s.rumosTake fl type f = f (dropHead s) r := by
  subst kind
  obtain ⟨core, b, only, rfl, authentic⟩ := asked
  have drained : s.rumosDrain s.mseg.rx.length fl = s := by
    rw [only]
    unfold List.length List.length Dev.rumosDrain
    rw [only]
    dsimp only
    rw [authentic]
    exact if_pos defined
  unfold Dev.rumosTake
  rw [if_neg (by simp [core]), drained]
  dsimp only
  rw [only]
  exact if_pos (by simp)

/-! What a reply says is not in the receive buffer. -/

theorem dropHead_rumosReply (s : Dev) (f : Flash) (r : Rumos) (status : Nat) (body : List Byte) :
    (dropHead s).rumosReply f r status body = s.rumosReply f r status body := rfl

theorem dropHead_helloBody (s : Dev) (f : Flash) : (dropHead s).helloBody f = s.helloBody f := rfl

section
variable {s : Dev} {f : Flash} {r : Rumos}

theorem Dev.helloReq_empty (hello : r.type = 1) (empty : r.body = []) :
    s.helloReq f r = s.msegQueue (s.rumosReply f r 0 (s.helloBody f)) := by
  unfold Dev.helloReq Dev.answer
  rw [empty, hello]
  rfl

theorem Dev.regReadReq_range {u : Dev} {b : List Byte} (body : r.body.length = 8) (aligned : leAt r.body 0 4 % 8 = 0)
    (some_ : 1 ≤ leAt r.body 4 2) (few : leAt r.body 4 2 ≤ 200) (inside : leAt r.body 0 4 + 8 * leAt r.body 4 2 ≤ bar0Size)
    (read : Dev.regWords (leAt r.body 4 2) s f (leAt r.body 0 4) [] = (u, b)) : s.regReadReq f r = u.answer f r 0 b := by
  unfold Dev.regReadReq
  dsimp only
  rw [if_neg (by omega), if_neg (by omega), read]
  rfl

theorem Dev.regWriteReq_entries {u : Dev} {env : Env} {n : Nat} {ok : Bool} (whole : r.body.length % 16 = 0)
    (some_ : 0 < r.body.length) (few : r.body.length ≤ 1600)
    (applied : Dev.regEntries (entriesOf r.body) s f env 0 = (u, n, ok)) :
    s.regWriteReq f env r = u.answer f r (if ok then 0 else 1) (leBytes 2 n ++ zeros 6) := by
  unfold Dev.regWriteReq
  rw [if_neg (by omega), if_neg (by omega), applied]
  rfl

theorem Dev.stageReq_range {u : Dev} {env : Env} {ok : Bool} (body : r.body.length = 16 + leAt r.body 8 2)
    (region : leAt r.body 0 1 ≤ 1) (some_ : 1 ≤ leAt r.body 8 2) (few : leAt r.body 8 2 ≤ 1536)
    (inside : leAt r.body 4 4 + leAt r.body 8 2 ≤ if leAt r.body 0 1 = 0 then 128 * 2 ^ 20 else 16 * 2 ^ 20)
    (there : s.stagingThere = true)
    (staged : s.stageBytes env (leAt r.body 4 4 + (if leAt r.body 0 1 = 0 then 0 else fwRegion)) (r.body.drop 16) = (u, ok)) :
    s.stageReq f env r = u.answer f r (if ok then 0 else 4) [] := by
  unfold Dev.stageReq
  dsimp only
  rw [if_neg (by omega), if_neg (by omega), if_neg (by omega), if_neg (by simp [there]), staged]
  rfl

theorem Dev.telemReq_histogram (body : r.body.length = 16) (histogram : leAt r.body 0 1 = 0) : s.telemReq f r = s.telemHist f r := by
  unfold Dev.telemReq
  rw [if_neg (by omega), histogram]
  rfl

theorem Dev.journalReq_range {u : Dev} {g : Region} {b : List Byte} (body : r.body.length = 16) (some_ : 1 ≤ leAt r.body 8 2)
    (few : leAt r.body 8 2 ≤ 1536) (journal : s.folRegion = some g) (inside : leAt r.body 0 8 + leAt r.body 8 2 ≤ g.size)
    (read : s.inkRead false (g.base + leAt r.body 0 8) (leAt r.body 8 2) = (u, .ok, b)) : s.journalReq f r = u.answer f r 0 b := by
  unfold Dev.journalReq
  dsimp only
  rw [if_neg (by omega), if_neg (by omega), journal]
  dsimp only
  rw [if_neg (by omega), read]
  rfl

theorem Dev.triggerReq_empty (empty : r.body = []) : s.triggerReq f r = (s.folTrigger 0x5 0).answer f r 0 [] := by
  unfold Dev.triggerReq
  rw [empty]
  rfl

theorem Dev.keySetReq_key (body : r.body.length = 32) (free : s.mseg.keyPend = none) :
    s.keySetReq f r = Dev.addJob { s.track r [] with mseg := { (s.track r []).mseg with
      keyPend := some (BitVec.ofNat 256 (ofLe r.body)), keyReq := some r } } (.rackKey (BitVec.ofNat 256 (ofLe r.body))) 1 := by
  unfold Dev.keySetReq
  rw [if_neg (by omega), if_neg (by simp [free])]

end

/-! ### The rack key (R385) -/

section
variable (s : Dev) (w : Word)

theorem Dev.msegKeyWrite_kept {word : Nat} (kept : word ≠ 3) :
    s.msegKeyWrite .pf word w = { s with mseg := { s.mseg with keyWords := tset (fun _ => 0) s.mseg.keyWords word w } } :=
  if_pos kept

theorem Dev.msegKeyWrite_refused {v : View} (other : v ≠ .pf) (word : Nat) :
    s.msegKeyWrite v word w = s.hostErr v (Reg.msegKey word) 0x05 w := by
  cases v with
  | pf => exact absurd rfl other
  | port => rfl
  | vf n => rfl

end

/-! ### O54 -/

/-- Settles O54: by the equations of the MAC and of each request above. That word 3 of MSEG_KEY starts the key's write, that a
STAGE_DATA write that fails is answered with STATE and that a colliding attempt is counted are log entries 93, 94 and 92. -/
theorem managementSegment : Obligations.ManagementSegment := by
  unfold Obligations.ManagementSegment
  refine ⟨?received, ?resumed, ?sent, ?asked, ?key⟩
  case received =>
    intro f s released ours fits kept a
    refine ⟨fun good plain room => ?_, fun bad => ?_, fun good pause => ?_⟩
    · exact s.next_dev
        (Dev.msegRx_kept released ours fits good plain room)
    · exact s.next_dev (Dev.msegRx_bad released ours fits bad)
    · exact s.next_dev
        ((if_pos pause).trans (Dev.msegRx_pause released ours fits good pause))
  case resumed =>
    intro s at_ paused past
    exact s.next_dev (if_pos (by simp [paused, past]))
  case sent =>
    intro s at_ f l head released running
    refine ⟨fun plain waits past => ?_, fun plca => ?_, ?_⟩
    · exact s.next_dev
        (Dev.backoffEnds_over head released running plain waits past)
    · exact s.next_dev
        (Dev.plcaOpportunity_sends head released running plca)
    · intro may n
      refine ⟨_, s.next_dev (Dev.msegCollide_may may), ?_⟩
      by_cases excess : 16 ≤ n
      · rw [if_pos excess]
        exact ⟨rfl, rfl, fun _ => ⟨congrArg (List.drop 1) head, rfl⟩, fun few => absurd few (by omega),
          fun few => absurd few (by omega), rfl⟩
      · rw [if_neg excess]
        by_cases plca : s.dev.plcaOn = true
        · rw [if_pos plca]
          exact ⟨rfl, rfl, fun many => absurd many excess, fun _ => ⟨head, rfl, rfl⟩, fun _ plain => by simp [plca] at plain, rfl⟩
        · rw [if_neg plca]
          exact ⟨rfl, rfl, fun many => absurd many excess, fun _ => ⟨head, rfl, rfl⟩,
            fun _ _ => ⟨s.dev.backoffSlots, Nat.mod_lt _ (Nat.two_pow_pos _), rfl⟩, rfl⟩
  case asked =>
    intro s r env a e f asked
    have emptied : a.mseg.rx = [] := by
      obtain ⟨-, b, only, -⟩ := asked
      exact congrArg (List.drop 1) only
    have taken {type : Nat} (kind : r.type = type) (defined : 1 ≤ type ∧ type ≤ 8) {g : Dev → Rumos → Dev} {d : Dev} (same : g a r = d) :
        (.next { s with dev := s.dev.rumosTake f type g } : Host.Outcome State Fault Refusal) = .next { s with dev := d } := by
      rw [Dev.rumosTake_asked asked kind defined, ← same]
    have begun {type : Nat} (asked : (s.dev.enter env).Asked f r) (kind : r.type = type) (defined : 1 ≤ type ∧ type ≤ 8)
        {g : Dev → Rumos → Dev} {d : Dev} (same : g e r = d) :
        (.next { s with dev := (s.dev.enter env).rumosTake f type g } : Host.Outcome State Fault Refusal) = .next { s with dev := d } := by
      rw [Dev.rumosTake_asked asked kind defined, ← same]
    refine ⟨?hello, ?regRead, ?regWrite, ?stage, ?telem, ?journal, ?trigger, ?keySet⟩
    case hello =>
      intro kind empty m
      have head : a = { s.dev with mseg := { s.dev.mseg with rx := [] } } := by
        unfold a dropHead
        rw [show s.dev.mseg.rx.drop 1 = [] from emptied]
      refine taken kind (by decide) ((Dev.helloReq_empty kind empty).trans ?_)
      rw [dropHead_rumosReply, dropHead_helloBody, head]
      rfl
    case regRead =>
      intro u b off n kind body aligned some_ few inside read
      exact taken kind (by decide) (Dev.regReadReq_range body aligned some_ few inside read)
    case regWrite =>
      intro u n ok kind whole some_ few applied
      exact taken kind (by decide) (Dev.regWriteReq_entries whole some_ few applied)
    case stage =>
      intro u ok region off n asked kind body known some_ few inside there staged
      exact begun asked kind (by decide) (Dev.stageReq_range body known some_ few inside there staged)
    case telem =>
      intro kind body histogram q k h c b
      exact taken kind (by decide) (Dev.telemReq_histogram body histogram)
    case journal =>
      intro g u b off n asked kind body some_ few region inside read
      exact begun asked kind (by decide) (Dev.journalReq_range body some_ few region inside read)
    case trigger =>
      intro kind empty
      exact taken kind (by decide) (Dev.triggerReq_empty empty)
    case keySet =>
      intro kind body free
      exact ⟨_, taken kind (by decide) (Dev.keySetReq_key body free), emptied, rfl, rfl, rfl, rfl, rfl⟩
  case key =>
    intro word w s
    refine ⟨?_, fun v other => ?_⟩
    · intro a words
      refine ⟨fun kept => ?_, fun last => ?_⟩
      · exact s.next_dev
          (Dev.msegKeyWrite_kept a w fun same => kept (Fin.ext same))
      · intro key m b
        exact s.next_dev
          (if_neg (not_not_intro (congrArg Fin.val last)))
    · exact s.next_dev
        (Dev.msegKeyWrite_refused _ w other word)

end Sys2Proof.Machine
